-- ==== Sys2Proof/Machine/Flags.lean ====
section
/-! DEFINITION. The FSTAT events of R136 to R142 and R184, and how they enter FSTAT (R150, R151). -/

namespace Sys2Proof.Machine

/-- Events of one rounded element (R141): sticky flags and counts. -/
structure Ev where
  nv : Bool := false
  of : Bool := false
  uf : Bool := false
  nx : Bool := false
  satc : Nat := 0
  nzc : Nat := 0
  smxc : Nat := 0
  deriving DecidableEq, Repr

/-- No event. -/
def Ev.none : Ev := {}

/-- The events of two elements together (R151: each element event counts once). -/
def Ev.add (a b : Ev) : Ev :=
  ⟨a.nv || b.nv, a.of || b.of, a.uf || b.uf, a.nx || b.nx, a.satc + b.satc, a.nzc + b.nzc, a.smxc + b.smxc⟩

/-- The events of a list of elements. -/
def Ev.sum (l : List Ev) : Ev := l.foldl Ev.add Ev.none

/-- Only NV. -/
def Ev.invalid : Ev := { nv := true }

/-- Only NX, when `b`. -/
def Ev.inexact (b : Bool) : Ev := { nx := b }

/-- A count field of FSTAT after adding `n` events: it saturates at 255 (R150). -/
def satCount (field n : Nat) : Nat := min 255 (field + n)

/-- FSTAT after the events `e` (R150, R151). Bits [7:4] keep their value. -/
def fstatAdd (f : Word) (e : Ev) : Word :=
  let b (x : Bool) : Nat := if x then 1 else 0
  let lo := (BitVec.ofNat 32 (b e.nv * 8 + b e.of * 4 + b e.uf * 2 + b e.nx)) ||| (f &&& 0xFF)
  let cnt (at_ n : Nat) : Nat := satCount (f.toNat / 2 ^ at_ % 256) n * 2 ^ at_
  BitVec.ofNat 32 (lo.toNat + cnt 8 e.satc + cnt 16 e.nzc + cnt 24 e.smxc)

end Sys2Proof.Machine
end

