-- ==== Sys2Proof/Syntax.lean ====
section
/-! DEFINITION. The syntax of Xepaler: the word forms of R213 and R223 with their prefixes (R220, R225), and the one
inductive `Instr`, a constructor for each row of the opcode table. Word rows carry the raw fields of the word and of the
prefixes that qualify it; event rows carry the data the event brings. -/

namespace Sys2Proof

/-- Payload of an LXC prefix word (R220): third source, guard, per-instruction EXT bits. -/
structure Lxc where
  c : BitVec 8
  ge : BitVec 1
  gn : BitVec 1
  gp : BitVec 3
  ext : BitVec 12
  deriving DecidableEq, Repr

/-- Payload of an LXI prefix word (R220): 23 high immediate bits and the two bits that must be 0. -/
structure Lxi where
  hi : BitVec 23
  z : BitVec 2
  deriving DecidableEq, Repr

/-- Payload of a KX prefix word (R223, R225). -/
structure Kx where
  imm : BitVec 16
  ge : BitVec 1
  gn : BitVec 1
  gq : BitVec 3
  ext : BitVec 4
  deriving DecidableEq, Repr

/-- Lane form LR (R213); the F bit is fixed by the constructor. -/
structure LR where
  d : BitVec 7
  n : BitVec 1
  a : BitVec 8
  b : BitVec 8
  lxc : Option Lxc
  deriving DecidableEq, Repr

/-- Lane form LI (R213), with the two prefixes it accepts. -/
structure LI where
  d : BitVec 7
  n : BitVec 1
  a : BitVec 8
  imm : BitVec 9
  lxc : Option Lxc
  lxi : Option Lxi
  deriving DecidableEq, Repr

/-- The LI form of SHI, which accepts no LXI (R221). -/
structure LJ where
  d : BitVec 7
  n : BitVec 1
  a : BitVec 8
  imm : BitVec 9
  lxc : Option Lxc
  deriving DecidableEq, Repr

/-- Lane form LM (R213). -/
structure LM where
  d : BitVec 7
  n : BitVec 1
  a : BitVec 8
  sz : BitVec 3
  off : BitVec 6
  lxc : Option Lxc
  lxi : Option Lxi
  deriving DecidableEq, Repr

/-- Lane form LC of SPAWN (R54); the F bit is fixed by the constructor. -/
structure LC where
  cnt : BitVec 4
  opt : BitVec 3
  z : BitVec 1
  a : BitVec 8
  b : BitVec 8
  lxc : Option Lxc
  deriving DecidableEq, Repr

/-- Lane form LC of REBIN (R33), which accepts no prefix word. -/
structure LB where
  cnt : BitVec 4
  opt : BitVec 3
  z : BitVec 1
  a : BitVec 8
  b : BitVec 8
  deriving DecidableEq, Repr

/-- Uniform form UR (R223). -/
structure UR where
  d : BitVec 9
  a : BitVec 9
  b : BitVec 7
  kx : Option Kx
  deriving DecidableEq, Repr

/-- Uniform form UI (R223). -/
structure UI where
  d : BitVec 9
  imm : BitVec 16
  kx : Option Kx
  deriving DecidableEq, Repr

/-- Uniform form UB (R223), which accepts no prefix word (R225). -/
structure UB where
  cn : BitVec 1
  cq : BitVec 3
  off : BitVec 21
  deriving DecidableEq, Repr

/-- Uniform form UM (R223). -/
structure UM where
  d : BitVec 9
  a : BitVec 9
  sz : BitVec 3
  off : BitVec 4
  kx : Option Kx
  deriving DecidableEq, Repr

/-- Uniform form UC with FN as an operand field (R223, R228). -/
structure UC where
  a : BitVec 9
  b : BitVec 9
  fn : BitVec 7
  kx : Option Kx
  deriving DecidableEq, Repr

/-- Uniform form UC at a major whose FN selects the instruction (R228); FN is fixed by the constructor. -/
structure UF where
  a : BitVec 9
  b : BitVec 9
  kx : Option Kx
  deriving DecidableEq, Repr

/-- Uniform form UC of the slot commands (R70): `nb` is FN[5] and `ring` FN[3:0]. -/
structure US where
  a : BitVec 9
  b : BitVec 9
  nb : BitVec 1
  ring : BitVec 4
  kx : Option Kx
  deriving DecidableEq, Repr

/-- The unit whose counters a soft error is charged to (R421, R418): a core, entry u of ECCX, or a line of a station's instruction cache. -/
inductive ErrUnit where
  | core (c : Nat)
  | other (u : Nat)
  | icache (station ctx line : Nat)
  deriving DecidableEq, Repr

/-- A 64-bit word that an uncorrectable error marks as poison (R421): device memory, the window, scratchpad of a block,
a v register pair of a lane, a k register pair of a group, a word of a row of a tile, the signal box's SRAM, a station's bind table,
the yard's record of a thread, an engine's record of an operation. -/
inductive PoisonAt where
  | mem (word : Nat)
  | win (word : Nat)
  | spad (block word : Nat)
  | vreg (core gslot lane pair : Nat)
  | kreg (core gslot pair : Nat)
  | row (block tile row word : Nat)
  | sram (word : Nat)
  | bindTable (station word : Nat)
  | yardRec (grid tid word : Nat)
  | engineRec (op word : Nat)
  deriving DecidableEq, Repr

inductive Instr where
  /-- IADD (R235): Adds two 32-bit lane sources modulo 2^32. -/
  | iadd (w : LR)
  /-- ISUB (R235): Subtracts two 32-bit lane sources modulo 2^32. -/
  | isub (w : LR)
  /-- IADDS (R235): Signed or unsigned saturating lane add. -/
  | iadds (w : LR)
  /-- ISUBS (R235): Signed or unsigned saturating lane subtract. -/
  | isubs (w : LR)
  /-- IMUL (R235): Low 32 bits of a lane product. -/
  | imul (w : LR)
  /-- IMULH (R235): High word of a signed lane product. -/
  | imulh (w : LR)
  /-- IMULHN (R235): High word of an unsigned lane product. -/
  | imulhn (w : LR)
  /-- IMULW (R235): Full 64-bit signed or unsigned lane product into a pair. -/
  | imulw (w : LR)
  /-- IMAD (R235): Lane multiply-add modulo 2^32 with C from a mandatory LXC. -/
  | imad (w : LR)
  /-- IMIN (R236): Signed minimum of two lane sources. -/
  | imin (w : LR)
  /-- IMAX (R236): Signed maximum of two lane sources. -/
  | imax (w : LR)
  /-- NMIN (R236): Unsigned minimum of two lane sources. -/
  | nmin (w : LR)
  /-- NMAX (R236): Unsigned maximum of two lane sources. -/
  | nmax (w : LR)
  /-- AND (R236): Bitwise AND of two lane sources. -/
  | land (w : LR)
  /-- OR (R236): Bitwise OR of two lane sources. -/
  | lor (w : LR)
  /-- XOR (R236): Bitwise XOR of two lane sources. -/
  | lxor (w : LR)
  /-- ANDN (R236): a AND NOT b per lane. -/
  | landn (w : LR)
  /-- SHL (R237): Lane shift left by a register amount. -/
  | shl (w : LR)
  /-- SHR (R237): Lane logical shift right by a register amount. -/
  | shr (w : LR)
  /-- SAR (R237): Lane arithmetic shift right by a register amount. -/
  | sar (w : LR)
  /-- ROL (R237): Lane rotate left by a register amount. -/
  | rol (w : LR)
  /-- BFE (R239): Extracts a bit field, zero- or sign-extended. -/
  | bfe (w : LR)
  /-- BFI (R239): Inserts a bit field of a into c. -/
  | bfi (w : LR)
  /-- POPC (R239): Counts one bits of a lane source. -/
  | popc (w : LR)
  /-- CLZ (R239): Counts leading zero bits of a lane source. -/
  | clz (w : LR)
  /-- BREV (R239): Reverses the 32 bits of a lane source. -/
  | brev (w : LR)
  /-- IABS (R239): Absolute value modulo 2^32. -/
  | iabs (w : LR)
  /-- ICMP (R240): Signed compare writing a predicate. -/
  | icmp (w : LR)
  /-- NCMP (R240): Unsigned compare writing a predicate. -/
  | ncmp (w : LR)
  /-- SEL (R241): Selects a or b by a predicate. -/
  | sel (w : LR)
  /-- MOV (R242): Copies a lane source into a v register. -/
  | mov (w : LR)
  /-- IADD64 (R245): 64-bit pair addition. -/
  | iadd64 (w : LR)
  /-- ISUB64 (R245): 64-bit pair subtraction. -/
  | isub64 (w : LR)
  /-- LEA (R246): Adds a scaled 32-bit index to a 64-bit base. -/
  | lea (w : LR)
  /-- FADD (R255): FP32 add, rounded once. -/
  | fadd (w : LR)
  /-- FSUB (R255): FP32 subtract, rounded once. -/
  | fsub (w : LR)
  /-- FMUL (R255): FP32 multiply, rounded once. -/
  | fmul (w : LR)
  /-- FFMA (R255): FP32 fused multiply-add with one rounding. -/
  | ffma (w : LR)
  /-- FMIN (R256): FP32 minimum with NaN and signed-zero rules. -/
  | fmin (w : LR)
  /-- FMAX (R256): FP32 maximum with NaN and signed-zero rules. -/
  | fmax (w : LR)
  /-- FCMP (R257): FP32 compare to a predicate, NV only for signalling NaN. -/
  | fcmp (w : LR)
  /-- FCMPN (R257): FP32 compare to a predicate, NV for any NaN. -/
  | fcmpn (w : LR)
  /-- FRCP (R258): Correctly rounded FP32 reciprocal. -/
  | frcp (w : LR)
  /-- FSQRT (R258): Correctly rounded FP32 square root. -/
  | fsqrt (w : LR)
  /-- FRSQ (R258): Correctly rounded FP32 reciprocal square root. -/
  | frsq (w : LR)
  /-- FEXP2 (R258): Correctly rounded FP32 2^x. -/
  | fexp2 (w : LR)
  /-- FLOG2 (R258): Correctly rounded FP32 log2. -/
  | flog2 (w : LR)
  /-- FDIV (R255): Correctly rounded FP32 division. -/
  | fdiv (w : LR)
  /-- FFRC (R259): Fractional part of an FP32 value, rounded RTZ. -/
  | ffrc (w : LR)
  /-- FRND (R259): Rounds an FP32 value to an integral value. -/
  | frnd (w : LR)
  /-- HADD2 (R261): Packed FP16 or BF16 add. -/
  | hadd2 (w : LR)
  /-- HMUL2 (R261): Packed FP16 or BF16 multiply. -/
  | hmul2 (w : LR)
  /-- HFMA2 (R261): Packed FP16 or BF16 fused multiply-add. -/
  | hfma2 (w : LR)
  /-- HMAX2 (R261): Packed FP16 or BF16 maximum. -/
  | hmax2 (w : LR)
  /-- HMIN2 (R261): Packed FP16 or BF16 minimum. -/
  | hmin2 (w : LR)
  /-- CVT (R263): Converts element 0 between two named formats. -/
  | cvt (w : LR)
  /-- CVTP (R264): Converts two FP32 values into adjacent packed elements. -/
  | cvtp (w : LR)
  /-- CVTU (R265): Converts between FP32 and 32-bit integers. -/
  | cvtu (w : LR)
  /-- FSMX (R260): exp2 of the exact difference a − b. -/
  | fsmx (w : LR)
  /-- DOT4 (R266): Exact 4-bit integer dot product with 32-bit accumulator. -/
  | dot4 (w : LR)
  /-- DOT8 (R266): Exact 8-bit integer dot product with 32-bit accumulator. -/
  | dot8 (w : LR)
  /-- DOTF4 (R267): E2M1 dot product into FP32 with one rounding. -/
  | dotf4 (w : LR)
  /-- DOTF8 (R267): FP8 dot product into FP32 with one rounding. -/
  | dotf8 (w : LR)
  /-- SHFL (R272): Reads a from an indexed lane within a segment. -/
  | shfl (w : LR)
  /-- SHFLX (R272): Reads a from the XOR-partner lane. -/
  | shflx (w : LR)
  /-- SHFLU (R272): Reads a from a lower lane by offset. -/
  | shflu (w : LR)
  /-- SHFLD (R272): Reads a from a higher lane by offset. -/
  | shfld (w : LR)
  /-- GTHR (R273): Gathers a word from a table spread across lanes. -/
  | gthr (w : LR)
  /-- SCTR (R274): Scatters each lane's value into a table across lanes. -/
  | sctr (w : LR)
  /-- POLL (R275): Group vote on a predicate: mask, count, rank or flags. -/
  | poll (w : LR)
  /-- MATCH (R276): Mask of active lanes holding an equal value. -/
  | matchEq (w : LR)
  /-- REDX (R277): Group reduction over active lanes. -/
  | redx (w : LR)
  /-- SCANX (R277): Inclusive or exclusive scan over active lanes. -/
  | scanx (w : LR)
  /-- TOPK (R279): Selects the k best (value, index) candidates of the group. -/
  | topk (w : LR)
  /-- TOPKM (R279): Merges new candidates into a running top-k list. -/
  | topkm (w : LR)
  /-- PLOG (R247): Combines two predicates through a truth table. -/
  | plog (w : LR)
  /-- PTOV (R248): Packs the thread's predicates into a word. -/
  | ptov (w : LR)
  /-- SRD (R249): Reads a special register. -/
  | srd (w : LR)
  /-- IADDI (R244): Adds an immediate to a lane source. -/
  | iaddi (w : LI)
  /-- ANDI (R244): ANDs a lane source with an immediate. -/
  | andi (w : LI)
  /-- ORI (R244): ORs a lane source with an immediate. -/
  | ori (w : LI)
  /-- XORI (R244): XORs a lane source with an immediate. -/
  | xori (w : LI)
  /-- SHI (R238): Shift or rotate by an immediate amount. -/
  | shi (w : LJ)
  /-- ICMPI (R240): Signed compare against an immediate writing a predicate. -/
  | icmpi (w : LI)
  /-- MOVI (R242): Moves an immediate into a v register. -/
  | movi (w : LI)
  /-- LDG (R280): Global load per lane. -/
  | ldg (w : LM)
  /-- STG (R280): Global plain store per lane. -/
  | stg (w : LM)
  /-- LDS (R280): Scratchpad load per lane. -/
  | lds (w : LM)
  /-- STS (R280): Scratchpad plain store per lane. -/
  | sts (w : LM)
  /-- LDP (R280): Private-space load per lane. -/
  | ldp (w : LM)
  /-- STP (R280): Private-space store per lane. -/
  | stp (w : LM)
  /-- ATOMG (R285): Global atomic per lane in a named domain. -/
  | atomg (w : LR)
  /-- ATOMS (R285): Scratchpad atomic per lane in domain .b. -/
  | atoms (w : LR)
  /-- KVX (R178): Translates KV tuples per lane, trapping on failed walks. -/
  | kvx (w : LR)
  /-- KVX_NF (R178): Translates KV tuples per lane, reporting failed walks in a predicate. -/
  | kvxNf (w : LR)
  /-- REBIN_B (R35): Hands the group's threads to the yard to be rebuilt by key within the block. -/
  | rebinB (w : LB)
  /-- REBIN_S (R35): Hands the group's threads to the yard to be rebuilt by key across the station. -/
  | rebinS (w : LB)
  /-- SPAWN (R56): Creates a task child per active thread, or runs it inline when no frame is free. -/
  | spawn (w : LC)
  /-- AWAIT (R62): Parks until the frames' join counters reach zero, then takes the join edge. -/
  | await (w : LR)
  /-- EXIT (R59): Ends each active thread after its own children, decrementing its parent's counter. -/
  | exit (w : LR)
  /-- FREAD (R74): Reads a future word, parking until it is full. -/
  | fread (w : LR)
  /-- FFILL (R74): Fills a future word and wakes its waiters. -/
  | ffill (w : LR)
  /-- ACLD (R288): Reads an accumulator cell per lane, parking below the watermark. -/
  | acld (w : LR)
  /-- ACST (R288): Writes an accumulator cell per lane. -/
  | acst (w : LR)
  /-- KADD (R293): Uniform add. -/
  | kadd (w : UR)
  /-- KSUB (R293): Uniform subtract. -/
  | ksub (w : UR)
  /-- KMUL (R293): Uniform multiply, low word. -/
  | kmul (w : UR)
  /-- KMULH (R293): Uniform multiply, high word. -/
  | kmulh (w : UR)
  /-- KAND (R293): Uniform bitwise AND. -/
  | kand (w : UR)
  /-- KOR (R293): Uniform bitwise OR. -/
  | kor (w : UR)
  /-- KXOR (R293): Uniform bitwise XOR. -/
  | kxor (w : UR)
  /-- KSHL (R293): Uniform shift left. -/
  | kshl (w : UR)
  /-- KSHR (R293): Uniform logical shift right. -/
  | kshr (w : UR)
  /-- KSAR (R293): Uniform arithmetic shift right. -/
  | ksar (w : UR)
  /-- KMIN (R293): Uniform minimum. -/
  | kmin (w : UR)
  /-- KMAX (R293): Uniform maximum. -/
  | kmax (w : UR)
  /-- KCMP (R294): Uniform compare writing a q predicate. -/
  | kcmp (w : UR)
  /-- KSEL (R294): Uniform select by a q predicate. -/
  | ksel (w : UR)
  /-- KMOV (R293): Uniform register move. -/
  | kmov (w : UR)
  /-- KADD64 (R295): Uniform 64-bit pair add. -/
  | kadd64 (w : UR)
  /-- KLEA (R295): Uniform base plus scaled signed index. -/
  | klea (w : UR)
  /-- KADDI (R296): Uniform add of an immediate. -/
  | kaddi (w : UI)
  /-- KMOVI (R296): Uniform move of an immediate. -/
  | kmovi (w : UI)
  /-- KLUI (R296): Uniform load of an upper immediate. -/
  | klui (w : UI)
  /-- KANDI (R296): Uniform AND with an immediate. -/
  | kandi (w : UI)
  /-- KORI (R296): Uniform OR with an immediate. -/
  | kori (w : UI)
  /-- BRA (R298): Guarded PC-relative branch of the group. -/
  | bra (w : UB)
  /-- CALL (R298): Guarded PC-relative call writing k0:k1. -/
  | call (w : UB)
  /-- BRD (R298): Divergent branch on a lane predicate, deferring the taken path. -/
  | brd (w : UB)
  /-- SYN (R298): Pushes a divergence entry with a reconvergence PC. -/
  | syn (w : UB)
  /-- JOIN (R299): Runs a deferred path or reconverges at the top level. -/
  | join (w : UC)
  /-- RET (R300): Jumps to the return address in a k pair. -/
  | ret (w : UC)
  /-- JMPR (R300): Jumps to the address in a k pair. -/
  | jmpr (w : UC)
  /-- CALLR (R300): Calls the address in a k pair. -/
  | callr (w : UC)
  /-- KLD (R301): Uniform global load through the lowest active lane's view. -/
  | kld (w : UM)
  /-- KST (R301): Uniform global store by the lowest active lane's thread. -/
  | kst (w : UM)
  /-- KLDS (R301): Uniform scratchpad load. -/
  | klds (w : UM)
  /-- KSTS (R301): Uniform scratchpad store. -/
  | ksts (w : UM)
  /-- KATOM (R302): Uniform atomic by the lowest active lane's thread. -/
  | katom (w : UC)
  /-- CPY (R317): Issues a copy-engine operation from a command block into a queue. -/
  | cpy (w : UC)
  /-- CPYM (R328): Issues a copy with a follow-on MMA. -/
  | cpym (w : UC)
  /-- QFEN (R329): Places a queue-join marker in a copy queue. -/
  | qfen (w : UC)
  /-- MRES (R330): Fills a reservation slot, waiting for MMAs that name it. -/
  | mres (w : UC)
  /-- MREL (R157): Releases a reservation slot after its MMAs complete. -/
  | mrel (w : UC)
  /-- MMA (R162): Checks and queues a matrix multiply-accumulate. -/
  | mma (w : UC)
  /-- MFEN (R331): Returns the open batch number and opens the next. -/
  | mfen (w : UC)
  /-- MWAIT (R166): Parks until a closed MMA batch completes. -/
  | mwait (w : UC)
  /-- TWM (R331): Reads a tile's watermark. -/
  | twm (w : UF)
  /-- TSTAT (R168): Reads a tile's counters at its point in the matrix queue. -/
  | tstat (w : UF)
  /-- TCLR (R168): Clears a tile's counters at its point in the matrix queue. -/
  | tclr (w : UF)
  /-- KVLD (R332): Issues a KV tile load, optionally with a follow-on MMA. -/
  | kvld (w : UC)
  /-- KVST (R333): Issues a KV append of one token. -/
  | kvst (w : UC)
  /-- KVINV (R334): Invalidates the context's KV TLB entries on every core. -/
  | kvinv (w : UC)
  /-- MRG (R336): Issues a sparse row merge on the station's merge unit. -/
  | mrg (w : UC)
  /-- RFEN (R337): Removes the context's TSRs from every station's record cache. -/
  | rfen (w : UC)
  /-- BARA (R66): Records barrier arrivals for the active threads. -/
  | bara (w : UC)
  /-- BARW (R66): Parks until the active threads' arrival phases complete. -/
  | barw (w : UC)
  /-- BARS (R66): Barrier arrive and wait as one switch point. -/
  | bars (w : UC)
  /-- SLOTA_FREE (R71): Acquires a free producer index of a slot ring. -/
  | slotaFree (w : US)
  /-- SLOTA_FULL (R71): Acquires the next published consumer index of a slot ring. -/
  | slotaFull (w : US)
  /-- SLOTR_FULL (R71): Publishes a filled index in order. -/
  | slotrFull (w : US)
  /-- SLOTR_FREE (R71): Returns a consumed index in order. -/
  | slotrFree (w : US)
  /-- SLOTR_INIT (R71): Sets an idle ring's size and resets its counters. -/
  | slotrInit (w : US)
  /-- WAITA (R78): Timed wait on a scratchpad word condition. -/
  | waita (w : UC)
  /-- GLNCH (R338): Launches a grid from an RCB through the hub. -/
  | glnch (w : UF)
  /-- GWAIT (R339): Waits for a grid's completion or a phase count. -/
  | gwait (w : UF)
  /-- PHEND (R340): Arrives at the grid's open phase and parks until it ends. -/
  | phend (w : UF)
  /-- NOP (R304): SYS function with no effect. -/
  | nop (w : UF)
  /-- YIELD (R304): Ends the run so the pipe may choose another group. -/
  | yield (w : UF)
  /-- PREF (R304): Starts an instruction-cache line fill. -/
  | pref (w : UF)
  /-- TAIL (R30): Ends the group early and frees its slot, draining outstanding work under a tracker. -/
  | tail (w : UF)
  /-- EXITG (R290): Exits every remaining thread of the group. -/
  | exitg (w : UF)
  /-- CLK (R304): Samples the 64-bit device time counter into a k pair. -/
  | clk (w : UF)
  /-- TRAP (R305): Raises TRAP_INSN with a code. -/
  | trap (w : UF)
  /-- BRKP (R305): Raises BREAKPOINT when invasive debug is enabled. -/
  | brkp (w : UF)
  /-- CSRR (R307): Reads a CSR into a k register. -/
  | csrr (w : UF)
  /-- CSRW (R308): Writes a CSR with the effect of the CSR map. -/
  | csrw (w : UF)
  /-- HSIG (R306): Posts an event to the hub's interrupt coalescer. -/
  | hsig (w : UF)
  /-- HFLUSH (R309): Flushes or invalidates aperture bytes for host visibility. -/
  | hflush (w : UF)
  /-- KBAL (R303): Ballot of a lane predicate over the current path. -/
  | kbal (w : UF)
  /-- KFIRST (R303): Lowest lane of the current path. -/
  | kfirst (w : UF)
  /-- KACT (R303): Mask of the current path. -/
  | kact (w : UF)
  /-- ILLEGAL_OPCODE (R226): A group issues an unassigned encoding or an ill-formed prefix sequence and traps at decode. -/
  | illegalOpcode (malformed : Bool) (off : Nat)
  /-- MEMORY_ACCESS_RETURN (R208): A memory switch point's access completes and its group becomes ready again. -/
  | memoryAccessReturn (core : Nat) (gslot : Nat)
  /-- ICACHE_LINE_FILL (R32): An instruction-cache line arrives and waiting groups become ready. -/
  | icacheLineFill (station : Nat) (ctx : Nat) (line : Nat)
  /-- BLOCK_PLACEMENT (R380): Station dispatch places a waiting block of a live bind record once room exists. -/
  | blockPlacement (station : Nat) (slot : Nat)
  /-- BLOCK_RETIREMENT (R29): A block retires when its groups and all its operations have finished, freeing its resources. -/
  | blockRetirement (block : Nat)
  /-- GRID_COMPLETION (R374): A grid completes: views committed, counters and STATE written, completion word exchanged. -/
  | gridCompletion (handle : Nat)
  /-- ARM_SLOT_WRITE (R372): The host writes an RCB VA into a context's arm ring and the hub consumes the slot. -/
  | armSlotWrite (ctx : Nat) (slot : Nat) (value : BitVec 64)
  /-- RETIREMENT_TRACKER_DRAIN (R30): A tailed group's outstanding stores and copies drain and its tracker entry frees. -/
  | retirementTrackerDrain (core : Nat) (entry : Nat)
  /-- ALL_PARKED_DETECT (R392): A station's all-parked detector fires and the signal box evicts or declares deadlock. -/
  | allParkedDetect (station : Nat)
  /-- REBUILT_GROUP_ADMISSION (R49): A rebuilt group waiting in the yard is placed on an eligible core once room frees. -/
  | rebuiltGroupAdmission (index : Nat)
  /-- TASK_BIN_TIMEOUT (R57): A task bin whose oldest child has waited 64 clk is emitted. -/
  | taskBinTimeout (index : Nat)
  /-- TASK_GROUP_PLACEMENT (R57): A ready task group is placed when room becomes available, by class then age. -/
  | taskGroupPlacement (index : Nat)
  /-- CHIMNEY_SWEEP (R80): A 2,100 clk chimney sweep reads the sent and received totals. -/
  | chimneySweep
  /-- FUTURE_POLL (R75): A future waiter without a wait-table entry re-reads its words every 1,400 clk. -/
  | futurePoll (core : Nat) (gslot : Nat)
  /-- WAITA_DEADLINE (R78): A parked WAITA reaches its deadline and writes q := 0. -/
  | waitaDeadline (core : Nat) (gslot : Nat)
  /-- OPERATION_BUFFER_ADMIT (R313): A command parked on a full station operation buffer is accepted when an entry frees. -/
  | operationBufferAdmit (core : Nat) (gslot : Nat)
  /-- OPERATION_START (R341): A queued operation reaches its queue head with predecessors done and takes an engine context. -/
  | operationStart (op : Nat)
  /-- OPERATION_COMPLETION (R322): An operation's last byte lands; its completion descriptor is performed and queue successors released. -/
  | operationCompletion (op : Nat)
  /-- OPERATION_FAULT (R323): An operation meets a translation or KV fault, stops at its line and holds its queue. -/
  | operationFault (op : Nat)
  /-- OPERATION_ABORT (R324): An operation meets a fatal condition and is aborted with its queue followers. -/
  | operationAbort (op : Nat) (cause : Nat)
  /-- MMA_START (R165): The matrix array takes the next MMA from a queue head. -/
  | mmaStart (core : Nat)
  /-- MMA_WRITEBACK (R167): An MMA's write-back finishes, moving the watermark and completing the MMA. -/
  | mmaWriteback (core : Nat)
  /-- CORNER_TURN_TIMEOUT (R182): A corner-turn frame whose oldest column has waited 256 clk is written out. -/
  | cornerTurnTimeout (core : Nat) (index : Nat)
  /-- PTSYNC_WRITE (R362): A PTSYNC write starts or joins a page-table synchronisation. -/
  | ptsyncWrite (value : BitVec 64)
  /-- PTSYNC_COMPLETION (R362): A synchronisation completes and DONE advances. -/
  | ptsyncCompletion
  /-- PPHEAD_WRITE (R359): Farsyn produces private pool ring entries, releasing waits on the pool. -/
  | ppheadWrite (ctx : Nat) (value : BitVec 64)
  /-- COAL_WRITE (R368): A write to a coalescer register, restarting its window on enable. -/
  | coalWrite (fn : Nat) (vector : Nat) (value : BitVec 64)
  /-- COALESCER_TICK (R368): Each us the coalescer fires an MSI-X when count or window is reached. -/
  | coalescerTick
  /-- PEERRES_WRITE (R366): Releases an inbound peer transfer held by a fault. -/
  | peerresWrite (port : Nat)
  /-- PEER_INBOUND_WRITE (R367): An inbound peer write is translated, held on a fault, or refused. -/
  | peerInboundWrite (port : Nat) (va : Nat) (bytes : List (BitVec 8))
  /-- GANG_MESSAGE (R382): A firmware gang agreement message arrives over the peer ports. -/
  | gangMessage (gang : Nat) (start : Nat) (records : List (Nat × Nat))
  /-- PRI_RESPONSE (R354): A PRI page response arrives and the waiting access replays or faults. -/
  | priResponse (request : Nat) (ok : Bool)
  /-- REPLAY (R389): Control-ring command releasing a held item to replay. -/
  | replay (ctx : Nat) (slot : Nat) (word : BitVec 64)
  /-- RESUME (R389): Control-ring command resuming a group held by TRAP_INSN or BREAKPOINT. -/
  | resume (ctx : Nat) (slot : Nat) (word : BitVec 64)
  /-- TEARDOWN (R389): Control-ring command stopping a fault domain. -/
  | teardown (ctx : Nat) (slot : Nat) (word : BitVec 64)
  /-- TRAP_QUEUE_RETRY (R388): The consumer word advances and held replayable faults are recorded. -/
  | trapQueueRetry (fn : Nat) (consumed : BitVec 32)
  /-- FATALV_CLEAR (R377): A write of 1 clears FATALV. -/
  | fatalvClear (value : BitVec 64)
  /-- SLICE_EXPIRY (R380): A bind record's slice runs out and its blocks are pre-empted. -/
  | sliceExpiry (station : Nat) (slot : Nat)
  /-- PRIORITY_WAIT_EXPIRY (R381): A higher-priority region waiting 100 us pre-empts lower-priority records. -/
  | priorityWaitExpiry (station : Nat) (slot : Nat)
  /-- GANG_LATE (R382): A gang member not placed within GANGTOL causes a gang-wide pre-emption. -/
  | gangLate (gang : Nat)
  /-- WATCHDOG (R393): A station not quiesced within 140,000 clk of a pre-emption request raises WATCHDOG. -/
  | watchdog (station : Nat)
  /-- POWER_ON_RESET (R400): The boot ROM reads fuses, loads and verifies the firmware image. -/
  | powerOnReset
  /-- FIRMWARE_READY (R400): The firmware sets STAGE 4 after initialising HBM and the hub. -/
  | firmwareReady
  /-- ATTESTATION_REPORT_READY (R405): The signed report is ready and DONE is set. -/
  | attestationReportReady
  /-- DEBUG_TOKEN_VERDICT (R410): Token verification finishes, accepted or refused. -/
  | debugTokenVerdict
  /-- POWER_TRANSITION_COMPLETE (R414): A power or clock state change completes and fires MSI-X entry 39. -/
  | powerTransitionComplete (index : Nat)
  /-- STATION_IDLE_P2 (R414): A station idle for 1,000 clk clock-gates itself into P2. -/
  | stationIdleP2 (station : Nat)
  /-- SOFT_ERROR_CORRECTED (R421): A SECDED-corrected error is counted in CE. -/
  | softErrorCorrected (unit : ErrUnit)
  /-- SOFT_ERROR_UNCORRECTABLE (R421): An uncorrectable error marks the word poison and counts UE. -/
  | softErrorUncorrectable (unit : ErrUnit) (place : PoisonAt)
  /-- LATCH_PARITY_ERROR (R421): A latch parity error restarts the group's run. -/
  | latchParityError (core : Nat) (gslot : Nat)
  /-- POWER_OVER_CAP (R424): Package power exceeds PCAP and the power cap becomes active. -/
  | powerOverCap (milliwatt : Nat)
  /-- DUTY_STEP_TICK (R424): Each ms the issue duty is lowered or raised by one. -/
  | dutyStepTick (milliwatt : Nat)
  /-- TEMP_OVER_CAP (R424): A die temperature exceeds TCAP and the temperature cap becomes active. -/
  | tempOverCap (sensor : Nat) (temp : Nat)
  /-- THERMAL_STOP (R424): A temperature above 110 °C stops issue on every station. -/
  | thermalStop (sensor : Nat) (temp : Nat)
  /-- RECOVERY_VERDICT (R402): The ROM finishes verifying a recovery image and either continues the boot or stays in STAGE 2 with a new ERR and fires MSI-X entry 35. -/
  | recoveryVerdict
  /-- THERMAL_STOP_END (R424): Every temperature falls below 105 °C, TSTOP clears and stations resume issue. -/
  | thermalStopEnd
  /-- TEMP_CAP_END (R424): Every die temperature stays below TCAP minus 5 °C for 10 ms and TCAPA clears. -/
  | tempCapEnd
  /-- POWER_CAP_END (R424): Package power stays below 0.95 × PCAP for 10 ms and PCAPA clears. -/
  | powerCapEnd
  /-- HOST_WINDOW_WRITE (R99): A host write through BAR2 to the coherent window. -/
  | hostWindowWrite (fn : Nat) (off : Nat) (bytes : List (BitVec 8))
  /-- HOST_WINDOW_READ (R99): A host read through BAR2 of the coherent window. -/
  | hostWindowRead (fn : Nat) (off : Nat) (len : Nat)
  /-- HOST_APERTURE_WRITE (R365): A posted host write through BAR4 to HBM. -/
  | hostApertureWrite (off : Nat) (bytes : List (BitVec 8))
  /-- HOST_APERTURE_READ (R365): A host read through BAR4 of HBM. -/
  | hostApertureRead (off : Nat) (len : Nat)
  /-- RECGO_WRITE (R402): Verifies a recovery image written through BAR2. -/
  | recgoWrite (length : BitVec 64)
  /-- MEXT_WRITE (R403): Extends a measurement with MEXTD. -/
  | mextWrite (value : BitVec 64)
  /-- ATTCTL_WRITE (R405): Captures the nonce and starts an attestation report. -/
  | attctlWrite
  /-- DBGCTL_WRITE (R410): Starts verification of the debug token. -/
  | dbgctlWrite
  /-- DBGLVL_WRITE (R409): Sets context debug levels, clamped to DMAX. -/
  | dbglvlWrite (half : Nat) (value : BitVec 64)
  /-- HALT_WRITE (R411): Halts groups on selected stations. -/
  | haltWrite (value : BitVec 64)
  /-- RELEASE_WRITE (R411): Resumes halted stations. -/
  | releaseWrite (value : BitVec 64)
  /-- DEBUG_WINDOW_WRITE (R413): Writes registers or scratchpad of a halted station. -/
  | debugWindowWrite (off : Nat) (bytes : List (BitVec 8))
  /-- CLKSEL_WRITE (R414): Requests a P0/P1 clock change. -/
  | clkselWrite (value : BitVec 64)
  /-- STNPWR_WRITE (R414): Requests a station power state. -/
  | stnpwrWrite (station : Nat) (value : BitVec 64)
  /-- DIEPWR_WRITE (R414): Requests a compute die into or out of P4. -/
  | diepwrWrite (die : Nat) (value : BitVec 64)
  /-- D3HOT_ENTRY (R415): Entry to D3hot pre-empts everything and powers stations and dies down. -/
  | d3hotEntry
  /-- D0_RETURN (R414): Return to D0; stations and dies wake as work arrives. -/
  | d0Return
  /-- POWER_REMOVAL (R414): D3cold: power is removed from the device. -/
  | powerRemoval
  /-- DENYPROD_READ (R407): Returns after earlier table writes land and re-arms the denial interrupt. -/
  | denyprodRead
  /-- NUMAGG_CLR_WRITE (R419): Clears a fault domain's numeric counters. -/
  | numaggClrWrite (domain : Nat)
  /-- ECC_HOLD_WRITE (R423): Requests quarantine of a core. -/
  | eccHoldWrite (core : Nat) (value : BitVec 64)
  /-- PCAP_WRITE (R418): Sets the power cap, clamped to its range. -/
  | pcapWrite (value : BitVec 64)
  /-- TCAP_WRITE (R418): Sets the temperature cap, clamped to its range. -/
  | tcapWrite (value : BitVec 64)
  /-- I3C_PRIVATE_READ (R425): Returns 8 bytes of the telemetry block over I3C. -/
  | i3cPrivateRead (index : Nat)
  /-- I3C_PRIVATE_WRITE (R425): Writes PCAP, TCAP or a HOLD word over I3C. -/
  | i3cPrivateWrite (index : Nat) (value : BitVec 64)
  /-- REGISTER_WRITE (R355): A host write to a register that has no row of its own. -/
  | registerWrite (fn : Nat) (off : Nat) (wide : Bool) (value : BitVec 64)
  /-- PEER_LINK_TRAINING (R366): A peer port's link trains and sets PEEROUT.PEER to the linked device's serial hash. -/
  | peerLinkTraining (port : Nat) (hash : BitVec 16)
  /-- DYNAMIC_ADDRESS_ASSIGNMENT (R425): The board's management controller assigns the I3C target its dynamic address. -/
  | dynamicAddressAssignment (address : BitVec 7)
  deriving DecidableEq, Repr

end Sys2Proof
end

