-- ==== Sys2Proof/Machine/State.lean ====
section
/-! DEFINITION. The state of the device as plain data: what the spec gives the machine, chapter by chapter, and the state
after reset. Numbers the device only counts or indexes are natural numbers; what software sees as a word is a bit vector. -/

namespace Sys2Proof.Machine

/-! Views and edges (05). -/

/-- The place of a byte that views cover (R103): device memory by physical address, system memory reached through ATS,
a block's scratchpad, byte `n` of a cell of a block's accumulator tile. -/
inductive Loc where
  | mem (pa : Nat)
  | sys (va : Nat)
  | spad (block off : Nat)
  | acc (block tile row col n : Nat)
  deriving DecidableEq, Repr

/-- A quantum (R104): the party, its quantum number, and for each other party the number of its quanta that happened
before this one began (R108). -/
structure Quantum where
  pid : Nat
  k : Nat
  seen : List (Nat × Nat)
  deriving DecidableEq, Repr

/-- A value of a view: the byte and the quantum that wrote it. -/
structure VCell where
  loc : Loc
  byte : Byte
  by_ : Quantum
  deriving DecidableEq, Repr

/-- A rank among senders (R110): class 0 the lowest of all, 1 operations, 2 threads; the issuing group of an operation; the key,
lexicographically, a prefix below its extensions; the issue number. -/
structure Rank where
  cls : Nat
  grp : Nat
  key : List Nat
  seq : Nat
  deriving DecidableEq, Repr

/-- A party (R103): its identity and quantum number, its view where it differs from the launch snapshot of its grid, its
pending writes of the quantum, the words it performed atomics on in the quantum, and what it has seen. -/
structure Party where
  pid : Nat
  k : Nat
  view : List VCell
  pend : List (Loc × Byte)
  atoms : List Loc
  seen : List (Nat × Nat)
  deriving DecidableEq, Repr

/-- A sender of an edge as it stood at its send (R109). -/
structure Sender where
  q : Quantum
  rank : Rank
  writes : List (Loc × Byte)
  view : List VCell
  atoms : List Loc
  deriving DecidableEq, Repr

/-- An edge that has been created and waits for its receivers: the senders, the atomic candidates, and the places whose direct writes
no receiver has chosen yet (R109), every place before the first receipt. -/
structure Edge where
  senders : List Sender
  atoms : List (Loc × Byte)
  rest : Option (List Loc)
  deriving DecidableEq, Repr

/-- Who holds a word in atomic state (R119). -/
inductive Holder where
  | block (b : Nat)
  | station (n : Nat)
  | die (d : Nat)
  | home
  | hub
  deriving DecidableEq, Repr

/-- A 4-byte word in atomic state: its value, its holder, and the grids that performed an atomic on it (R117, R119). -/
structure AtomWord where
  loc : Loc
  val : Word
  holder : Holder
  grids : List Nat
  deriving DecidableEq, Repr

/-! Threads and groups (01, 02, 03, 14). -/

/-- A child run inline (R60): what its parent holds meanwhile, and the private offset of its saved registers. -/
structure InlineCall where
  party : Party
  rank : List Nat
  spawnOrder : Nat
  save : Nat
  deriving DecidableEq, Repr

/-- An arrival of a thread at a barrier whose edge it has not received (R66): level, what the barrier belongs to, number, phase. -/
structure Arrival where
  level : Nat
  owner : Nat
  num : Nat
  phase : Nat
  deriving DecidableEq, Repr

/-- A thread (R9): identities, registers v, predicates p0..p6, latches y0..y7, and what the yard, tasks, barriers and
private memory keep for it. `saves` lists the hardware saves that its save area holds, an offset and a length each, the one pushed last
first (R96). -/
structure Thread where
  tid : Word
  task : Bool
  blk : Nat
  btid : Nat
  key : Word
  rank : List Nat
  v : List Word
  p : BitVec 7
  lat : List Word
  clkHi : Option Word
  exited : Bool
  party : Party
  parent : Option Nat
  hasFrame : Bool
  spawnOrder : Nat
  inl : List InlineCall
  epB : Nat
  epS : Nat
  arrivals : List Arrival
  phaseArr : Nat
  low : Nat
  high : Nat
  saves : List (Nat × Nat)
  deriving DecidableEq, Repr

/-- An entry of the divergence stack (R297); `inl` marks the entry of an inline call (R60) by its thread mask and the private
offset of the saved uniform registers, `spill` the private offset at which a spilled entry lies (R25). -/
structure DivEntry where
  rpc : Dword
  f : BitVec 32
  q : List (Dword × BitVec 32)
  inl : Option (BitVec 32 × Nat)
  spill : Nat
  deriving DecidableEq, Repr

/-- The base level below every entry (R297). -/
structure DivBase where
  q : List (Dword × BitVec 32)
  wb : BitVec 32
  wpc : Dword
  deriving DecidableEq, Repr

/-- A reservation slot's record (R157, R330). -/
structure Resv where
  off : Nat
  len : Nat
  fmt : Nat
  roleB : Bool
  bl : Nat
  e4m3Scale : Bool
  scaleOff : Nat
  deriving DecidableEq, Repr

/-- Why a group is parked. -/
inductive Park where
  /-- R62: AWAIT, EXIT, EXITG or TAIL waits for frames. -/
  | await
  /-- R30: TAIL waits for a retirement tracker entry. -/
  | tracker
  /-- R66: BARW or BARS at a barrier of a level and number. -/
  | barrier (level num : Nat)
  /-- R71: a slot command on a ring of a block. -/
  | slot (block ring : Nat)
  /-- R74: FREAD, the lanes whose words are not full; `poll` when the wait table had no entry. -/
  | future (left : BitVec 32) (poll : Bool)
  /-- R78: WAITA, with its deadline. -/
  | waita (deadline : Option Nat)
  /-- R339. -/
  | gwait
  /-- R339: the grid waited for has ended; the edge that the caller receives with q := 1, or none with q := 0. -/
  | gwaitOver (e : Option Edge)
  /-- R340: PHEND after its arrival at a phase. -/
  | phend (phase : Nat)
  /-- R166. -/
  | mwait
  /-- R157: MRES or MREL. -/
  | resv
  /-- R167, R288: ACLD or ACST. -/
  | tile (bad : BitVec 32)
  /-- R168: TSTAT, behind the group's earlier MMAs. -/
  | queuePoint
  /-- R313: the station's operation buffer is full. -/
  | opBuffer
  /-- R37, R48: an open yard episode. -/
  | yard
  /-- R354: a PRI page request is outstanding for the access at a VA. -/
  | pri (request va : Nat)
  /-- R389: held by a fault or by TRAP_INSN or BREAKPOINT. -/
  | held
  deriving DecidableEq, Repr

/-- A held item's history (R389, R390): token, flags, the cause, address and GEN of each of its last records, the replay lane mask, and the replays made. `resumable` is TRAP_INSN or BREAKPOINT; `again` marks a granted replay; `grow` lists
the private marks to raise at the replay (R97): TID, save area or not, offset. -/
structure Held where
  token : Nat
  resumable : Bool
  faults : List (Nat × Nat × Nat)
  mask : BitVec 32
  replays : Nat
  again : Bool
  grow : List (Nat × Bool × Nat)
  deriving DecidableEq, Repr

/-- A group (R9, R297): place, uniform registers, control state, CSRs, reservation slots, matrix queue numbers, and why it
is parked. `lanes` has 32 positions. `words` are those that cross the turntable to its pipe (R51, R56), `born` the time at which the
oldest child of a task group entered its bin (R57), `resume` the parked instruction to which a restored group returns (R22): its
PC, why it was parked, and since when. The events of the instructions of the run that stand before `counted` have been counted: a run
that is repeated does not count them again (R8, R151). `insn` is the instruction that the group has issued last, which a parked group
completes without a second fetch (R14, R32); `apart` says that it stopped inside its run and waits to be chosen again (R17, R48). -/
structure Group where
  uid : Nat
  core : Nat
  pipe : Nat
  gslot : Nat
  grid : Nat
  blk : Nat
  task : Bool
  lanes : List (Option Thread)
  pc : Dword
  runPc : Dword
  path : BitVec 32
  stack : List DivEntry
  spilled : Nat
  base : DivBase
  k : List Word
  q : BitVec 7
  cvc : BitVec 5
  srseed : Word
  dphase : BitVec 5
  slots : List (Option Resv)
  openBatch : Nat
  cls : Nat
  park : Option Park
  parkedAt : Nat
  readyAt : Nat
  heldItem : Option Held
  early : Option Nat
  stopAsked : Bool
  words : Nat
  born : Nat
  resume : Option (Dword × Park × Nat)
  counted : Dword
  insn : Option Instr
  apart : Bool
  deriving DecidableEq, Repr

/-- A frame of the station's frame table (R56): the holder's party, the count, and the children that have ended. -/
structure Frame where
  holder : Nat
  grid : Nat
  station : Nat
  count : Nat
  done : List Sender
  deriving DecidableEq, Repr

/-- A barrier (R66): its grid and level, what it belongs to (a group, a block, a station, or the grid), its number, the open
phase, the senders that arrived in the open phase, and the edges of completed phases. -/
structure Barrier where
  grid : Nat
  level : Nat
  owner : Nat
  num : Nat
  phase : Nat
  arrived : List Sender
  edges : List (Nat × Edge)
  deriving DecidableEq, Repr

/-- A slot ring (R69) with the publications of each side (index, edge) and its held copy publications (operation, index). -/
structure Ring where
  n : Word
  ap : Word
  full : Word
  ac : Word
  free : Word
  pubFull : List (Word × Edge)
  pubFree : List (Word × Edge)
  deriving DecidableEq, Repr

/-- A tile's cells, counters, watermark, tag and the MMA issued last on it (R93, R152, R163, R167): tag 0 none, 1 FP36,
2 INT36. `cells` lists cells as (row, column, value); a cell not listed is 0. -/
structure Tile where
  cells : List (Nat × Nat × BitVec 36)
  ovf : Nat
  nan : Nat
  aln : Nat
  water : Nat
  tag : Nat
  lastMma : Nat
  deriving DecidableEq, Repr

/-- A block placed on a station (R12, R86): identity, home core, spanned cores, live counts and its resources. -/
structure Block where
  uid : Nat
  grid : Nat
  index : Nat
  station : Nat
  home : Nat
  cores : List Nat
  groups : Nat
  sb : Nat
  tiles : List Tile
  rings : List Ring
  fstat : Word
  bind : Option (Nat × Nat)
  saved : Bool
  spOff : Nat
  tileOff : Nat
  deriving DecidableEq, Repr

/-! Engines and the matrix array (07, 08, 15). -/

/-- Operations of the copy engines, the merge unit and the KV walker (R312, R318). -/
inductive OpKind where
  | cpy (kind : Nat) (mc : Bool)
  | kvld
  | kvst (close : Bool)
  | mrg (sub kz : Bool)
  | qfen (mask : Nat)
  deriving DecidableEq, Repr

/-- Where an operation stands: in its queue, on an engine, staged in the corner-turn buffer (R182), held by a fault (R323),
waiting for a PRI response (R354), or waiting to publish (R72). -/
inductive OpStage where
  | queued
  | running
  | landed
  | heldFault
  | pri
  | publishing
  deriving DecidableEq, Repr

/-- An operation issued (R230, R313): what it captured, its queue, its predecessors by queue order and QFEN, its engine, its
progress cursor, its party, the party through which the KV walker reads (R173), its events, whether it has recorded an
out-of-range access (R89), its held fault, whether it has begun and so received its queue-order edges, and the frame group that the
walk of a KVST found at issue (R182). -/
structure Op where
  id : Nat
  kind : OpKind
  ctx : Nat
  grid : Nat
  blk : Nat
  core : Nat
  group : Nat
  gslot : Nat
  tid : Word
  pc : Dword
  queue : Nat
  cmd : List Word
  record : List Byte
  slot : Option Resv
  cvc : BitVec 5
  srseed : Word
  dphase : BitVec 5
  rankKey : List Nat
  after : List Nat
  stage : OpStage
  engine : Nat
  cursor : Nat
  targets : List Nat
  party : Party
  walker : Party
  ev : Ev
  oob : Bool
  heldItem : Option Held
  due : Nat
  began : Bool
  frame : Option Nat
  deriving DecidableEq, Repr

/-- A completed operation whose edges may still be observed (R114): its queue and predecessors, its sender, and the completion
word that still holds its value. `marker` is a QFEN, which sends nothing (R116). -/
structure OpDone where
  id : Nat
  grid : Nat
  blk : Nat
  queue : Nat
  after : List Nat
  marker : Bool
  sender : Sender
  word : Option Loc
  value : Word
  aborted : Bool
  deriving DecidableEq, Repr

/-- An MMA in a group's matrix queue (R159, R165, R169): the group, its command, captured slots, batch, the copy it follows, its
operand party, the resume cursor (K-blocks done, R93, R170), the cells it writes back and the rows written. `clears` marks a
TCLR in the queue (R168) by its tile. -/
structure Mma where
  id : Nat
  group : Nat
  grid : Nat
  blk : Nat
  core : Nat
  gslot : Nat
  tid : Word
  pc : Dword
  batch : Nat
  cmd : List Word
  a : Option Resv
  b : Option Resv
  follows : Option Nat
  party : Party
  rankKey : List Nat
  running : Bool
  kdone : Nat
  rows : Nat
  acc : List (Nat × Nat × BitVec 36)
  due : Nat
  clears : Option Nat
  deriving DecidableEq, Repr

/-- A completed MMA whose edges may still be taken (R107): its group, batch, block, tile, rows and sender. -/
structure MmaDone where
  id : Nat
  group : Nat
  grid : Nat
  batch : Nat
  blk : Nat
  tile : Nat
  rows : Nat
  sender : Sender
  deriving DecidableEq, Repr

/-- A frame open in a core's corner-turn buffer (R182): its address, the staged columns (token, elements, operation),
and the time of the oldest. -/
structure Corner where
  core : Nat
  frame : Nat
  grid : Nat
  dim : Nat
  es : Nat
  cols : List (Nat × List Byte × Nat)
  since : Nat
  deriving DecidableEq, Repr

/-! The yard (02, 03). -/

/-- A record of the yard: a thread with its key and payload, the group it came from, and when it lands (R51). -/
structure YardRec where
  thread : Thread
  key : Nat
  source : Nat
  land : Nat
  deriving DecidableEq, Repr

/-- A stored uniform image (R43): source group, k, q, CVC, SRSEED, DPHASE. -/
structure UniImage where
  source : Nat
  k : List Word
  q : BitVec 7
  cvc : BitVec 5
  srseed : Word
  dphase : BitVec 5
  deriving DecidableEq, Repr

/-- An open REBIN episode (R36, R37): scope (station or block), what it belongs to, its number, the PC, the modifiers, the
participants' blocks, the records in entry order, the stored images, the senders so far, and when the last record lands (R51). -/
structure Episode where
  id : Nat
  grid : Nat
  stationScope : Bool
  owner : Nat
  station : Nat
  number : Nat
  pc : Dword
  merge : Bool
  det : Bool
  cnt : Nat
  blocks : List Nat
  recs : List YardRec
  images : List UniImage
  senders : List Sender
  landed : Nat
  deriving DecidableEq, Repr

/-- A task child in the yard (R56, R57): its thread, the CSRs it starts with, when it entered its bin, the words of its record. -/
structure Child where
  thread : Thread
  cvc : BitVec 5
  srseed : Word
  dphase : BitVec 5
  at_ : Nat
  words : Nat
  deriving DecidableEq, Repr

/-- A task bin (R57). -/
structure TaskBin where
  station : Nat
  grid : Nat
  entry : Dword
  cls : Nat
  kids : List Child
  deriving DecidableEq, Repr

/-- A station's state for a grid: its .s episode number and open flag, tasks created and task-block FSTAT (R10, R37, R151). -/
structure GridStation where
  station : Nat
  epS : Nat
  openS : Bool
  tasks : Nat
  fstat : Word
  deriving DecidableEq, Repr

/-- A unit's two chimney counters for a grid (R79): stations are 0 to 31, copy-engine sets 32 to 63, merge units 64 to 95. -/
structure Node where
  unit : Nat
  sent : Dword
  received : Dword
  deriving DecidableEq, Repr

/-! Launching (18) and the signal box (19). -/

/-- A live or ended grid with a handle (R338, R369, R370). A unit that `nodes` does not list has counted nothing; `swept` says that
the last two sweeps returned equal, balanced totals (R80). -/
structure Grid where
  handle : Nat
  ctx : Nat
  rcb : Nat
  rcbVa : Nat
  parent : Nat
  state : Nat
  prio : Nat
  fd : Nat
  smask : Word
  gslots : Nat
  segs : Nat
  word : Word
  entry : Dword
  param : Dword
  dims : Nat × Nat × Nat
  groups : Nat
  sbytes : Nat
  ntiles : Nat
  flags : Word
  kvRoot : Option (List Byte)
  compVa : Dword
  compVal : Dword
  cvc : BitVec 5
  srseed : Word
  dphase : BitVec 5
  snapMem : List Host.Cell
  snapSys : List Host.Cell
  initView : List VCell
  initSeen : List (Nat × Nat)
  placed : Nat
  doneBlocks : List Nat
  phases : Nat
  arrivedPhase : List (Nat × Sender)
  phaseEdges : List (Nat × Edge)
  nodes : List Node
  lastSweep : Option (Dword × Dword)
  swept : Bool
  opsOut : Bool
  ended : List Sender
  endEdge : Option Edge
  stations : List GridStation
  privRoot : Option Nat
  privFree : List Nat
  privPages : List Nat
  vlogPages : List Nat
  vlogMiB : Nat
  deriving DecidableEq, Repr

/-- A context (R356, R359, R372, R389): the entry the hub last read, ring counters, its status registers, and the pages that
were valid in its tables at its last synchronisation (system memory or not, base, bytes; R360), and which slots of its control ring the
host has filled (R389). -/
structure Ctx where
  valid : Bool
  groot : Nat
  ppool : Nat
  prel : Nat
  rsz : Nat
  fn : Nat
  fd : Nat
  wva : Nat
  woff : Nat
  wsz : Nat
  armoff : Nat
  root : Nat
  pcap : Nat
  armNext : Nat
  cmdNext : Nat
  ppHead : Word
  ppTail : Word
  prTail : Word
  spstat : Word
  spblk : Word
  cpstat : Word
  pages : List (Bool × Nat × Nat)
  cmdFull : BitVec 64
  deriving DecidableEq, Repr

/-- A function's trap queue (R377, R383). -/
structure TrapQueue where
  base : Dword
  headVa : Dword
  prod : Word
  consumed : Word
  deriving DecidableEq, Repr

/-- Records that wait for room in a trap queue (R388). -/
structure Unrecorded where
  fn : Nat
  grid : Nat
  token : Nat
  records : List (List Byte)
  deriving DecidableEq, Repr

/-- A write of the hub that waits for the response to a PRI page request (R354): the context, VA and bytes, the page, and whether it is
the exchange of a completion word (R374). -/
structure HubWait where
  ctx : Nat
  va : Nat
  bytes : List Byte
  page : Nat
  exchange : Bool
  deriving DecidableEq, Repr

/-- A coalescer and its event count (R368). -/
structure Coal where
  fn : Nat
  vector : Nat
  en : Bool
  cnt : Nat
  win : Nat
  evtot : Word
  pending : Nat
  t0 : Nat
  deriving DecidableEq, Repr

/-- A peer port (R366). -/
structure Peer where
  out : Word
  inn : Word
  res : Word
  deriving DecidableEq, Repr

/-- An inbound peer transfer held by a fault (R367): port, VA, bytes, releases so far, the GEN and token of its last record, and the PRI
request it waits for instead (R354). -/
structure Inbound where
  port : Nat
  va : Nat
  bytes : List Byte
  releases : Nat
  gen : Nat
  token : Nat
  request : Option Nat
  deriving DecidableEq, Repr

/-- The boot, security and debug block (R399 to R413). -/
structure Sec where
  lock : Bool
  roll : Dword
  stage : Nat
  err : Nat
  sec : Nat
  dmax : Nat
  recovery : Bool
  mextd : List Byte
  mextPend : List (Nat × List Byte)
  version : Nat
  meas : List (List Byte)
  attNonce : List Byte
  attBusy : Bool
  attDone : Bool
  attRpt : List Byte
  dbgTok : List Byte
  dbgCap : List Byte
  dbgBusy : Bool
  dbgRes : Nat
  dbgNonce : List Byte
  nonceDrawn : Bool
  dbgLvl : BitVec 128
  halt : Word
  dbgSel : Nat
  trBase : Dword
  trProd : Word
  trEnded : BitVec 32
  recLen : Option Nat
  denyLog : List (List Byte)
  denyProd : Word
  denyArmed : Bool
  deriving DecidableEq, Repr

/-- Power state (R414 to R416). -/
structure Power where
  p1 : Bool
  clkBusy : Bool
  tgt : List Nat
  cur : List Nat
  busy : List Bool
  refused : List Bool
  dieOff : List Bool
  dieBusy : List Bool
  dieRefused : List Bool
  d3hot : Bool
  removed : Bool
  deriving DecidableEq, Repr

/-- Fleet telemetry (R418 to R425); `energyRest` is the energy in µJ that ENERGY, in mJ, does not show yet. -/
structure Fleet where
  temp : List Nat
  pwr : Nat
  energy : Dword
  energyRest : Nat
  duty : Nat
  tstop : Bool
  tcapA : Bool
  pcapA : Bool
  pcapAt : Nat
  pcap : Nat
  tcap : Nat
  capPwr : Word
  capTemp : Word
  slip : List Word
  parked : List Word
  numagg : List (List Dword)
  ce : List Word
  ue : List Word
  quar : List Bool
  hold : List Bool
  ceTimes : List (Nat × Nat)
  eccxCe : List Word
  eccxUe : List Word
  i3c : Option (BitVec 7)
  drain : List Nat
  pwrHot : Nat
  tempHot : Nat
  deriving DecidableEq, Repr

/-- What the host and the board do that is no event of the opcode table: a read of a register of BAR0 (R355), of a function's vendor and
device IDs (R353), a new size of BAR4 (R353), a page that the host's translation agent no longer translates (R354), a host write to
system memory, a change of the boot flash, and whether it can be read (R401). -/
inductive HostAct where
  | readRegister (fn off : Nat) (wide : Bool)
  | readIds (fn : Nat)
  | resizeAperture (exp : Nat)
  | dropTranslation (page : Nat)
  | writeMemory (addr : Nat) (bytes : List Byte)
  | writeFlash (off : Nat) (bytes : List Byte)
  | flashState (fails : Bool)
  deriving DecidableEq, Repr

/-- An agent's turn: an event of the opcode table, a pipe's next issue, a parked group's next test of what it waits for, the end of
a core array's K-block step, or what the host does besides. -/
inductive Turn where
  | event (i : Instr)
  | pipe (core pipe : Nat)
  | retry (uid : Nat)
  | array (core : Nat)
  | host (a : HostAct)
  deriving DecidableEq, Repr

/-- The machine. `me` is the group on the issuing pipe, `groups` the others. `agenda`, `draws`, `nextId`,
`hostRead`, `hole` and `noAts` are the model's own fields (assumptions 1, 5 and 13), not the spec's: the turns to come, the free
values drawn, the next identity, what the last host read returned, and a physical address touched that does not exist.
`noAts` lists the 64 KiB pages of system memory that the host does not translate (R354): the host's state, not the device's. -/
structure State where
  now : Nat
  agenda : List Turn
  draws : Nat
  nextId : Nat
  me : Group
  groups : List Group
  waiting : List Group
  images : List Group
  hbm : List Host.Cell
  sysMem : List Host.Cell
  window : List Host.Cell
  poison : List PoisonAt
  hostBytes : List Host.Cell
  fixes : List (Loc × Byte)
  flushed : List Host.Cell
  hostRead : List Byte
  atoms : List AtomWord
  blocks : List Block
  grids : List Grid
  frames : List Frame
  barriers : List Barrier
  hubWords : List (Loc × Word × List Nat)
  futures : List (Loc × Nat × Edge)
  waits : List (Nat × Nat × Nat)
  ops : List Op
  doneOps : List OpDone
  mmas : List Mma
  doneMmas : List MmaDone
  arrays : List (Nat × Nat)
  corner : List Corner
  episodes : List Episode
  bins : List TaskBin
  tsrCache : List (Nat × Nat × Nat × List Byte)
  kvTlb : List (Nat × Nat × Nat × Nat × Nat × Nat)
  coreWord : List (Nat × Word)
  trackers : List (Nat × Nat)
  gens : List (Nat × Nat × Word)
  pipeBusy : List (Nat × Nat × Nat)
  ports : List (Nat × Bool × Nat)
  icache : List (Nat × Nat × Nat)
  fills : List (Nat × Nat × Nat × Nat)
  tlb : List (Nat × Nat × Nat × Nat × Nat)
  atsCache : List (Nat × Nat)
  ctxs : List Ctx
  ctxBase : Dword
  apBase : Dword
  bar4Exp : Nat
  ptBusy : Bool
  ptDone : BitVec 16
  ptAll : Bool
  ptCtxs : List Nat
  coal : List Coal
  peers : List Peer
  inbound : List Inbound
  priNext : Nat
  priWaits : List (Nat × Nat)
  noAts : List Nat
  hubWaits : List HubWait
  queues : List TrapQueue
  unrecorded : List Unrecorded
  fatal : List Byte
  fatalV : Bool
  gangTol : Nat
  slice : Nat
  binds : List (Nat × Nat × List Byte)
  bindTimes : List (Nat × Nat × Nat)
  asked : List (Nat × Nat × Nat)
  pagesTaken : List (Nat × Nat × Nat)
  evlog : List (Nat × List Byte)
  evProd : Word
  msix : List (Nat × Nat)
  regLow : List (Nat × Word)
  sbSram : List Host.Cell
  flash : List Host.Cell
  flashFails : Bool
  access : List (Nat × Dword)
  hole : Option Nat
  sec : Sec
  power : Power
  fleet : Fleet
  deriving DecidableEq, Repr

/-- Why the machine stops. -/
inductive Fault where
  /-- Raised by `step` when an access reaches a physical address beyond the 512 GiB of device memory (R1), where the spec
  has no memory. Safe: no claim is made about what follows. -/
  | noMemory (pa : Nat)
  deriving DecidableEq, Repr

/-- Why an instruction has no meaning. -/
inductive Refusal where
  /-- Raised by an arm of `exec` whose instruction has not been modelled. Safe: nothing is claimed about it. -/
  | notModelled (mnemonic : String)
  deriving DecidableEq, Repr

/-- A party that has seen and written nothing. -/
def Party.empty (pid : Nat) : Party := ⟨pid, 0, [], [], [], []⟩

/-- A group with no threads: the one on the issuing pipe while no group is resident. -/
def Group.empty : Group where
  uid := 0
  core := 0
  pipe := 0
  gslot := 0
  grid := 0
  blk := 0
  task := false
  lanes := List.replicate 32 none
  pc := 0
  runPc := 0
  path := 0
  stack := []
  spilled := 0
  base := ⟨[], 0, 0⟩
  k := []
  q := 0
  cvc := 8
  srseed := 0
  dphase := 0
  slots := List.replicate 8 none
  openBatch := 0
  cls := 0
  park := none
  parkedAt := 0
  readyAt := 0
  heldItem := none
  early := none
  stopAsked := false
  words := 0
  born := 0
  resume := none
  counted := 0
  insn := none
  apart := false

/-- A tile at block placement (R93). -/
def Tile.fresh : Tile := ⟨[], 0, 0, 0, 64, 0, 0⟩

/-- A ring at block start (R69). -/
def Ring.fresh : Ring := ⟨0, 0, 0, 0, 0, [], []⟩

/-- A context before the hub has read its entry. -/
def Ctx.empty : Ctx := ⟨false, 0, 0, 0, 0, 0, 0, 0, 0, 0, 0, 0, 0, 0, 0, 0, 0, 0, 0, 0, 0, [], 0⟩

/-- The boot and security block at reset (R399, R403, R404): stage ROM, development while the LOCK fuse is 0. -/
def Sec.reset : Sec where
  lock := false
  roll := 0
  stage := 0
  err := 0
  sec := 2
  dmax := 2
  recovery := false
  mextd := List.replicate 64 0
  mextPend := []
  version := 0
  meas := List.replicate 8 (List.replicate 64 0)
  attNonce := List.replicate 64 0
  attBusy := false
  attDone := false
  attRpt := List.replicate 904 0
  dbgTok := List.replicate 220 0
  dbgCap := []
  dbgBusy := false
  dbgRes := 0
  dbgNonce := List.replicate 64 0
  nonceDrawn := false
  dbgLvl := 0
  halt := 0
  dbgSel := 0
  trBase := 0
  trProd := 0
  trEnded := 0
  recLen := none
  denyLog := []
  denyProd := 0
  denyArmed := true

/-- The power block at reset: P0, every station running, every die on (R414). -/
def Power.reset : Power where
  p1 := false
  clkBusy := false
  tgt := List.replicate 32 0
  cur := List.replicate 32 0
  busy := List.replicate 32 false
  refused := List.replicate 32 false
  dieOff := List.replicate 4 false
  dieBusy := List.replicate 4 false
  dieRefused := List.replicate 4 false
  d3hot := false
  removed := false

/-- The telemetry block at reset (R418). -/
def Fleet.reset : Fleet where
  temp := List.replicate 13 0
  pwr := 0
  energy := 0
  energyRest := 0
  duty := 16
  tstop := false
  tcapA := false
  pcapA := false
  pcapAt := 0
  pcap := 2400
  tcap := 1520
  capPwr := 0
  capTemp := 0
  slip := List.replicate 32 0
  parked := List.replicate 32 0
  numagg := List.replicate 64 (List.replicate 7 0)
  ce := List.replicate 128 0
  ue := List.replicate 128 0
  quar := List.replicate 128 false
  hold := List.replicate 128 false
  ceTimes := []
  eccxCe := List.replicate 13 0
  eccxUe := List.replicate 13 0
  i3c := none
  drain := []
  pwrHot := 0
  tempHot := 0

/-- The machine right after reset. Generators, coalescers and bind records that are not listed stand at their reset
values (R144, R368, R379), which the operations that read them supply. -/
def State.reset : State where
  now := 0
  agenda := []
  draws := 0
  nextId := 1
  me := Group.empty
  groups := []
  waiting := []
  images := []
  hbm := []
  sysMem := []
  window := []
  poison := []
  hostBytes := []
  fixes := []
  flushed := []
  hostRead := []
  atoms := []
  blocks := []
  grids := []
  frames := []
  barriers := []
  hubWords := []
  futures := []
  waits := []
  ops := []
  doneOps := []
  mmas := []
  doneMmas := []
  arrays := []
  corner := []
  episodes := []
  bins := []
  tsrCache := []
  kvTlb := []
  coreWord := []
  trackers := []
  gens := []
  pipeBusy := []
  ports := []
  icache := []
  fills := []
  tlb := []
  atsCache := []
  ctxs := List.replicate 64 Ctx.empty
  ctxBase := 0
  apBase := 0
  bar4Exp := 28
  ptBusy := false
  ptDone := 0
  ptAll := false
  ptCtxs := []
  coal := []
  peers := List.replicate 12 ⟨0, 0, 0⟩
  inbound := []
  priNext := 0
  priWaits := []
  noAts := []
  hubWaits := []
  queues := List.replicate 8 ⟨0, 0, 0, 0⟩
  unrecorded := []
  fatal := List.replicate 64 0
  fatalV := false
  gangTol := 50
  slice := 2000
  binds := []
  bindTimes := []
  asked := []
  pagesTaken := []
  evlog := []
  evProd := 0
  msix := []
  regLow := []
  sbSram := []
  flash := []
  flashFails := false
  access := []
  hole := none
  sec := Sec.reset
  power := Power.reset
  fleet := Fleet.reset

end Sys2Proof.Machine
end

