-- ==== Sys2Proof/Machine/Mem.lean ====
section
/-! DEFINITION. Bytes of memory as sorted lists of cells, and wider accesses in little-endian order (R82, R210). A byte not
listed reads 0 (assumption 4). -/

namespace Sys2Proof.Machine

/-- A memory: addresses rising, no cell equal to what an unlisted address reads as. -/
abbrev Memory := List Host.Cell

/-- What a byte of memory that nothing has written reads as. DESIGN CHOICE (assumption 4): 0. -/
def Memory.unlisted : Byte := 0

/-- The byte at an address. -/
def Memory.get : Memory → Nat → Byte
  | [], _ => Memory.unlisted
  | (a, b) :: r, x => if x < a then Memory.unlisted else if a = x then b else Memory.get r x

/-- Puts a byte at the head of a list, or nothing when an unlisted address reads as it. -/
def Memory.consByte (x : Nat) (v : Byte) (r : Memory) : Memory := if v = Memory.unlisted then r else (x, v) :: r

/-- Writes a byte, keeping the canonical form. -/
def Memory.put : Memory → Nat → Byte → Memory
  | [], x, v => Memory.consByte x v []
  | (a, b) :: r, x, v =>
    if x < a then Memory.consByte x v ((a, b) :: r)
    else if a = x then Memory.consByte x v r
    else (a, b) :: Memory.put r x v

/-- Whether every address of the list is above `lo`, rising, with no unlisted value. -/
def Memory.wfFrom (lo : Nat) : Memory → Bool
  | [] => true
  | (a, b) :: r => decide (lo ≤ a) && decide (b ≠ Memory.unlisted) && Memory.wfFrom (a + 1) r

/-- The canonical form. -/
def Memory.wf (m : Memory) : Bool := Memory.wfFrom 0 m

/-- `n` bytes from an address up. -/
def Memory.bytes (m : Memory) (a : Nat) : Nat → List Byte
  | 0 => []
  | n + 1 => m.get a :: Memory.bytes m (a + 1) n

/-- Writes a list of bytes from an address up. -/
def Memory.putBytes (m : Memory) (a : Nat) : List Byte → Memory
  | [] => m
  | b :: r => Memory.putBytes (m.put a b) (a + 1) r

/-- The natural number of a little-endian byte list. -/
def leNat : List Byte → Nat
  | [] => 0
  | b :: r => b.toNat + 256 * leNat r

/-- `n` little-endian bytes of a natural number. -/
def natLe (x : Nat) : Nat → List Byte
  | 0 => []
  | n + 1 => BitVec.ofNat 8 x :: natLe (x / 256) n

/-- `n` bytes at an address as a number. -/
def Memory.num (m : Memory) (a n : Nat) : Nat := leNat (m.bytes a n)

/-- Bits `lo .. lo + n - 1` of a number. -/
def field (x lo n : Nat) : Nat := x / 2 ^ lo % 2 ^ n

/-- `n` bytes of a record at an offset as a number. -/
def recNum (r : List Byte) (off n : Nat) : Nat := leNat ((r.drop off).take n)

/-- Element of a list, with a default. -/
def nth {α : Type} (l : List α) (i : Nat) (d : α) : α :=
  match l, i with
  | [], _ => d
  | x :: _, 0 => x
  | _ :: r, i + 1 => nth r i d

/-- Replaces element `i` of a list, if there is one. -/
def setNth {α : Type} (l : List α) (i : Nat) (x : α) : List α :=
  match l, i with
  | [], _ => []
  | _ :: r, 0 => x :: r
  | y :: r, i + 1 => y :: setNth r i x

end Sys2Proof.Machine
end

