-- ==== Sys2Proof/Machine/Crypto.lean ====
section
/-! DEFINITION. SHA-512 and the verification of ECDSA signatures on P-521, which the boot ROM and the security engine use (R401,
R403, R410); the spec names the algorithms by FIPS 186-5 (assumption 21). Numbers are big-endian, 66 bytes. -/

namespace Sys2Proof.Machine

/-! SHA-512. -/

/-- The 80 round constants. -/
def shaK : List Dword :=
  [0x428a2f98d728ae22, 0x7137449123ef65cd, 0xb5c0fbcfec4d3b2f, 0xe9b5dba58189dbbc,
   0x3956c25bf348b538, 0x59f111f1b605d019, 0x923f82a4af194f9b, 0xab1c5ed5da6d8118] ++
  [0xd807aa98a3030242, 0x12835b0145706fbe, 0x243185be4ee4b28c, 0x550c7dc3d5ffb4e2,
   0x72be5d74f27b896f, 0x80deb1fe3b1696b1, 0x9bdc06a725c71235, 0xc19bf174cf692694] ++
  [0xe49b69c19ef14ad2, 0xefbe4786384f25e3, 0x0fc19dc68b8cd5b5, 0x240ca1cc77ac9c65,
   0x2de92c6f592b0275, 0x4a7484aa6ea6e483, 0x5cb0a9dcbd41fbd4, 0x76f988da831153b5] ++
  [0x983e5152ee66dfab, 0xa831c66d2db43210, 0xb00327c898fb213f, 0xbf597fc7beef0ee4,
   0xc6e00bf33da88fc2, 0xd5a79147930aa725, 0x06ca6351e003826f, 0x142929670a0e6e70] ++
  [0x27b70a8546d22ffc, 0x2e1b21385c26c926, 0x4d2c6dfc5ac42aed, 0x53380d139d95b3df,
   0x650a73548baf63de, 0x766a0abb3c77b2a8, 0x81c2c92e47edaee6, 0x92722c851482353b] ++
  [0xa2bfe8a14cf10364, 0xa81a664bbc423001, 0xc24b8b70d0f89791, 0xc76c51a30654be30,
   0xd192e819d6ef5218, 0xd69906245565a910, 0xf40e35855771202a, 0x106aa07032bbd1b8] ++
  [0x19a4c116b8d2d0c8, 0x1e376c085141ab53, 0x2748774cdf8eeb99, 0x34b0bcb5e19b48a8,
   0x391c0cb3c5c95a63, 0x4ed8aa4ae3418acb, 0x5b9cca4f7763e373, 0x682e6ff3d6b2b8a3] ++
  [0x748f82ee5defb2fc, 0x78a5636f43172f60, 0x84c87814a1f0ab72, 0x8cc702081a6439ec,
   0x90befffa23631e28, 0xa4506cebde82bde9, 0xbef9a3f7b2c67915, 0xc67178f2e372532b] ++
  [0xca273eceea26619c, 0xd186b8c721c0c207, 0xeada7dd6cde0eb1e, 0xf57d4f7fee6ed178,
   0x06f067aa72176fba, 0x0a637dc5a2c898a6, 0x113f9804bef90dae, 0x1b710b35131c471b] ++
  [0x28db77f523047d84, 0x32caab7b40c72493, 0x3c9ebe0a15c9bebc, 0x431d67c49c100d4c,
   0x4cc5d4becb3e42b6, 0x597f299cfc657e2a, 0x5fcb6fab3ad6faec, 0x6c44198c4a475817]

/-- The initial hash value. -/
def shaInit : List Dword :=
  [0x6a09e667f3bcc908, 0xbb67ae8584caa73b, 0x3c6ef372fe94f82b, 0xa54ff53a5f1d36f1,
   0x510e527fade682d1, 0x9b05688c2b3e6c1f, 0x1f83d9abfb41bd6b, 0x5be0cd19137e2179]

/-- The number of a big-endian byte list. -/
def beNat (bs : List Byte) : Nat := bs.foldl (fun a b => a * 256 + b.toNat) 0

/-- `n` big-endian bytes of a number. -/
def natBe (x n : Nat) : List Byte := (natLe x n).reverse

/-- The padded message. -/
def shaPad (m : List Byte) : List Byte :=
  m ++ [0x80] ++ List.replicate ((239 - m.length % 128) % 128) 0 ++ natBe (8 * m.length) 16

def shaS0 (x : Dword) : Dword := x.rotateRight 28 ^^^ x.rotateRight 34 ^^^ x.rotateRight 39
def shaS1 (x : Dword) : Dword := x.rotateRight 14 ^^^ x.rotateRight 18 ^^^ x.rotateRight 41
def shaT0 (x : Dword) : Dword := x.rotateRight 1 ^^^ x.rotateRight 8 ^^^ x >>> 7
def shaT1 (x : Dword) : Dword := x.rotateRight 19 ^^^ x.rotateRight 61 ^^^ x >>> 6

/-- The next word of the schedule from the last 16, oldest first. -/
def shaNext (w : List Dword) : Dword := shaT1 (nth w 14 0) + nth w 9 0 + shaT0 (nth w 1 0) + nth w 0 0

/-- One round: the eight working words and the window of the schedule. -/
def shaRound (a : List Dword × List Dword) (k : Dword) : List Dword × List Dword :=
  let v (i : Nat) : Dword := nth a.1 i 0
  let t1 := v 7 + shaS1 (v 4) + ((v 4 &&& v 5) ^^^ (~~~(v 4) &&& v 6)) + k + nth a.2 0 0
  let t2 := shaS0 (v 0) + ((v 0 &&& v 1) ^^^ (v 0 &&& v 2) ^^^ (v 1 &&& v 2))
  ([t1 + t2, v 0, v 1, v 2, v 3 + t1, v 4, v 5, v 6], a.2.drop 1 ++ [shaNext a.2])

/-- One 128-byte block. -/
def shaBlock (h : List Dword) (m : List Byte) : List Dword :=
  let w := (List.range 16).map fun i => BitVec.ofNat 64 (beNat ((m.drop (8 * i)).take 8))
  List.zipWith (fun x y => x + y) h (shaK.foldl shaRound (h, w)).1

/-- The blocks of a padded message. -/
def shaBlocks (h : List Dword) (m : List Byte) : Nat → List Dword
  | 0 => h
  | n + 1 => shaBlocks (shaBlock h (m.take 128)) (m.drop 128) n

/-- SHA-512: 64 bytes. -/
def sha512 (m : List Byte) : List Byte :=
  let p := shaPad m
  ((shaBlocks shaInit p (p.length / 128)).map fun x => natBe x.toNat 8).flatten

/-! P-521. -/

/-- The field prime, the order of the base point, the coefficient b, and the base point. -/
def ecP : Nat := 2 ^ 521 - 1
def ecN : Nat :=
  0x01FFFFFFFFFFFFFFFFFFFFFFFFFFFFFFFFFFFFFFFFFFFFFFFFFFFFFFFFFFFFFFFFFA51868783BF2F966B7FCC0148F709A5D03BB5C9B8899C47AEBB6FB71E91386409
def ecB : Nat :=
  0x0051953EB9618E1C9A1F929A21A0B68540EEA2DA725B99B315F3B8B489918EF109E156193951EC7E937B1652C0BD3BB1BF073573DF883D2C34F1EF451FD46B503F00
def ecGx : Nat :=
  0x00C6858E06B70404E9CD9E3ECB662395B4429C648139053FB521F828AF606B4D3DBAA14B5E77EFE75928FE1DC127A2FFA8DE3348B3C1856A429BF97E7E31C2E5BD66
def ecGy : Nat :=
  0x011839296A789A3BC0045C8A5FB42C7D1BD998F54449579B446817AFBD17273E662C97EE72995EF42640C550B9013FAD0761353C7086A272C24088BE94769FD16650

/-- Bits of a scalar, the highest first. -/
def scalarBits (k : Nat) : List Bool := (List.range 522).map fun i => k.testBit (521 - i)

/-- Powers modulo m. -/
def powMod (b e m : Nat) : Nat := (scalarBits e).foldl (fun a t => if t then a * a % m * b % m else a * a % m) 1

/-- The inverse modulo a prime. -/
def invMod (x m : Nat) : Nat := powMod (x % m) (m - 2) m

/-- A difference modulo m of numbers below m. -/
def subMod (x y m : Nat) : Nat := (x + m - y % m) % m

/-- A point of the curve; `none` is the point at infinity. -/
abbrev EcPoint := Option (Nat × Nat)

/-- The third point of the line of slope l through p and a point with abscissa x2, reflected. -/
def ecLine (l : Nat) (p : Nat × Nat) (x2 : Nat) : EcPoint :=
  let x := subMod (subMod (l * l % ecP) p.1 ecP) x2 ecP
  some (x, subMod (l * subMod p.1 x ecP % ecP) p.2 ecP)

/-- Addition of points. -/
def ecAdd (a b : EcPoint) : EcPoint :=
  match a, b with
  | none, q => q
  | p, none => p
  | some p, some q =>
    if p.1 = q.1 then
      if (p.2 + q.2) % ecP = 0 then none
      else ecLine (subMod (3 * p.1 * p.1 % ecP) 3 ecP * invMod (2 * p.2) ecP % ecP) p q.1
    else ecLine (subMod q.2 p.2 ecP * invMod (subMod q.1 p.1 ecP) ecP % ecP) p q.1

/-- Scalar multiples. -/
def ecMul (k : Nat) (p : EcPoint) : EcPoint :=
  (scalarBits k).foldl (fun a t => if t then ecAdd (ecAdd a a) p else ecAdd a a) none

/-- A point lies on the curve. -/
def ecOn (x y : Nat) : Bool :=
  decide (x < ecP ∧ y < ecP) && decide (y * y % ecP = (subMod (x * x % ecP * x % ecP) (3 * x) ecP + ecB) % ecP)

/-- ECDSA on P-521 with SHA-512: `key` is X then Y, `sig` is r then s, 66 bytes each. -/
def ecdsaOk (key sig msg : List Byte) : Bool :=
  let x := beNat (key.take 66)
  let y := beNat ((key.drop 66).take 66)
  let r := beNat (sig.take 66)
  let t := beNat ((sig.drop 66).take 66)
  if ecOn x y = false ∨ r = 0 ∨ t = 0 ∨ ecN ≤ r ∨ ecN ≤ t then false
  else
    let w := invMod t ecN
    let e := beNat (sha512 msg)
    match ecAdd (ecMul (e * w % ecN) (some (ecGx, ecGy))) (ecMul (r * w % ecN) (some (x, y))) with
    | some p => decide (p.1 % ecN = r)
    | none => false

end Sys2Proof.Machine
end

