-- ==== Sys2Proof/WellFormed.lean ====
section
/-! DEFINITION. Well-formed instructions: check 3 of R211, the register fields, reserved bits, size codes, conditions and
prefix payloads of every instruction word (R213 to R220, R223 to R225, and the field tables R233, R251, R268, R291, R312). -/

namespace Sys2Proof
namespace Fields

/-- R214: a lane source field. -/
def src (v kn : Nat) (x : BitVec 8) : Bool :=
  if x.toNat < 0x78 then decide (x.toNat < v) else decide (x.toNat < 0x80) || decide (x.toNat - 0x80 < kn)

/-- R216: a pair as an address: an even v or k register, no latch. -/
def pairAddr (v kn : Nat) (x : BitVec 8) : Bool :=
  decide (x.toNat % 2 = 0) &&
    (if x.toNat < 0x78 then decide (x.toNat + 1 < v) else decide (0x80 ≤ x.toNat) && decide (x.toNat - 0x80 + 1 < kn))

/-- R216: a pair as a 64-bit source; the odd latch codes name latch pairs. -/
def pairSrc (v kn : Nat) (x : BitVec 8) : Bool :=
  (decide (0x78 ≤ x.toNat) && decide (x.toNat < 0x80) && decide (x.toNat % 2 = 1)) || pairAddr v kn x

/-- R215: a lane destination. -/
def dst (v : Nat) (d : BitVec 7) : Bool := decide (d = 0x7F) || (decide (d.toNat < 0x78) && decide (d.toNat < v))

/-- R215, R216: a lane destination of `m` aligned registers. -/
def dstGroup (m v : Nat) (d : BitVec 7) : Bool :=
  decide (d = 0x7F) || (decide (d.toNat < 0x78) && decide (d.toNat % m = 0) && decide (d.toNat + m ≤ v))

/-- R216: a pair destination. -/
def dstPair (v : Nat) (d : BitVec 7) : Bool := dstGroup 2 v d

/-- R217: the predicate destination: PD below 7 and bit 18 clear. -/
def predDst (d : BitVec 7) : Bool := decide (d.toNat / 16 < 7) && decide (d.toNat % 2 = 0)

/-- R217: CND below 6, for the integer compares. -/
def intCnd (d : BitVec 7) : Bool := decide (d.toNat / 2 % 8 < 6)

/-- R268: the base of a table of NT + 1 registers. -/
def tableBase (v d nt : Nat) : Bool := decide (d < 0x78) && decide (d + nt < v)

/-- R218: registers of an access size. -/
def regsOf (sz : BitVec 3) : Nat := if sz = 3 then 2 else if sz = 4 then 4 else 1

/-- R218, R283: the data register of a lane load or store. -/
def lmData (v : Nat) (store : Bool) (sz : BitVec 3) (d : BitVec 7) (n : BitVec 1) : Bool :=
  decide (sz ≠ 7) && (!store || (decide (sz.toNat < 5) && decide (n = 0) && decide (d ≠ 0x7F))) &&
    dstGroup (regsOf sz) v d

/-- The EXT bits of an LXC, 0 without one. -/
def ext (l : Option Lxc) : BitVec 12 :=
  match l with
  | some x => x.ext
  | none => 0

/-- R220: EXT bits outside `m` must be 0. -/
def extMask (m : BitVec 12) (e : BitVec 12) : Bool := decide (e &&& ~~~m = 0)

/-- R252: with a rounding field in EXT[3:0], EXT[3] = 0 requires EXT[2:0] = 0. -/
def extRound (m : BitVec 12) (e : BitVec 12) : Bool :=
  extMask m e && (e.getLsbD 3 || decide (e.toNat % 8 = 0))

/-- R277: the reduction operation is below 11. -/
def extRop (m : BitVec 12) (e : BitVec 12) : Bool := extMask m e && decide (e.toNat % 16 < 11)

/-- R272: SEG below 6. -/
def extSeg (e : BitVec 12) : Bool := decide (e.toNat < 6)

/-- R279: K in 1..32. -/
def extTopk (e : BitVec 12) : Bool := decide (1 ≤ e.toNat) && decide (e.toNat ≤ 32)

/-- R286: the predicate of KVX.nf is p0..p6. -/
def extKvxNf (e : BitVec 12) : Bool := decide (e.toNat < 7)

/-- R262: the format codes a CVT may name. -/
def cvtCode (c : Nat) : Bool :=
  [0x00, 0x01, 0x02, 0x03, 0x08, 0x09, 0x0A, 0x0B, 0x0C, 0x0D, 0x10, 0x11, 0x12, 0x13, 0x14, 0x18, 0x19, 0x1A, 0x20,
    0x21].contains c

/-- R263: the EXT field of CVT: source code and rounding. -/
def extCvt (e : BitVec 12) : Bool := extRound 0xFFF e && cvtCode (e.toNat / 16)

/-- R264: the destinations of CVTP with eight, four and two elements a word. -/
def extCvtp (e : BitVec 12) : Bool :=
  let c := e.toNat / 16 % 64
  let pos := e.toNat / 1024
  extRound 0xFFF e &&
    ([0x10, 0x0A, 0x0B].contains c ||
      ([0x11, 0x12, 0x13, 0x14, 0x0C, 0x0D, 0x20, 0x21].contains c && decide (pos < 2)) ||
      ([0x18, 0x19].contains c && decide (pos = 0)))

/-- R284: DOM below 5, AOP below 11, no 64-bit fadd. -/
def extAtom (e : BitVec 12) : Bool :=
  extMask 0x0FF e && decide (e.toNat / 16 % 8 < 5) && decide (e.toNat % 16 < 11) &&
    !(e.getLsbD 7 && decide (e.toNat % 16 = 1))

/-- R284: the comparand: a source (a pair when W) for cas, else 0x00. -/
def atomCmp (v kn : Nat) (c : BitVec 8) (e : BitVec 12) : Bool :=
  if e.toNat % 16 = 10 then (if e.getLsbD 7 then pairSrc v kn c else src v kn c) else decide (c = 0)

/-- R287: KIND of ACLD with its rounding field. -/
def extAcld (e : BitVec 12) : Bool := extRound 0x03F e && decide (e.toNat / 16 ≠ 3)

/-- R287: KIND of ACST. -/
def extAcst (e : BitVec 12) : Bool := extMask 0x030 e && decide (e.toNat / 16 ≠ 3)

/-- R220: the guard of an LXC: GE = 0 requires GN = GP = 0. -/
def guardLane (l : Lxc) : Bool := decide (l.ge = 1) || (decide (l.gn = 0) && decide (l.gp = 0))

/-- R220: the payload of an LXC under the instruction's rules for C and EXT. -/
def lxcOk (mand : Bool) (l : Option Lxc) (c : BitVec 8 → BitVec 12 → Bool) (e : BitVec 12 → Bool) : Bool :=
  match l with
  | some x => guardLane x && c x.c x.ext && e x.ext
  | none => !mand

/-- A check whose failure is reported at the first word. -/
def plainErr (ok : Bool) : Option Nat := if ok then none else some 0

/-- The check of a lane word without an LXI. -/
def laneErr (mand : Bool) (l : Option Lxc) (c : BitVec 8 → BitVec 12 → Bool) (e : BitVec 12 → Bool) (ok : Bool) :
    Option Nat := plainErr (lxcOk mand l c e && ok)

/-- The check of an LI or LM word: the LXC, then the low bits of the LXI (reported at the LXI), then the word. -/
def laneImmErr (l : Option Lxc) (x : Option Lxi) (ok : Bool) : Option Nat :=
  if !lxcOk false l (fun c _ => decide (c = 0)) (extMask 0) then some 0
  else match x with
    | some y => if y.z ≠ 0 then some (if l.isSome then 1 else 0) else plainErr ok
    | none => plainErr ok

/-- R224: a 9-bit uniform register field; 511 names none. -/
def kreg (kn : Nat) (x : BitVec 9) : Bool := decide (x = 511) || (decide (x.toNat < 384) && decide (x.toNat < kn))

/-- R224: a group of `m` aligned uniform registers, or none. -/
def kgroup0 (m kn : Nat) (x : BitVec 9) : Bool :=
  decide (x = 511) || (decide (x.toNat < 384) && decide (x.toNat % m = 0) && decide (x.toNat + m ≤ kn))

/-- R224: a pair, or 511 where the entry allows it. -/
def kpair0 (kn : Nat) (x : BitVec 9) : Bool := kgroup0 2 kn x

/-- R224: a pair that must name registers. -/
def kpair (kn : Nat) (x : BitVec 9) : Bool := decide (x ≠ 511) && kgroup0 2 kn x

/-- R223: the 7-bit B field of UR. -/
def kb (kn : Nat) (x : BitVec 7) : Bool := decide (x.toNat < kn)

/-- R295: an even pair in the 7-bit B field. -/
def kbPair (kn : Nat) (x : BitVec 7) : Bool := decide (x.toNat % 2 = 0) && decide (x.toNat + 1 < kn)

/-- R219: the neutral value of a 9-bit field. -/
def none9 (x : BitVec 9) : Bool := decide (x = 511)

/-- R229: a command block of `n` registers. -/
def blk (kn n : Nat) (x : BitVec 9) : Bool :=
  decide (x.toNat < 384) && decide (x.toNat % 4 = 0) && decide (x.toNat + n ≤ kn)

/-- R223, R294: D of KCMP. -/
def kcmpDst (d : BitVec 9) : Bool :=
  decide (d.toNat / 64 < 7) && decide (d.toNat / 8 % 8 < 6) && decide (d.toNat % 4 = 0)

/-- R218, R301: the data register of a uniform load or store. -/
def umData (kn : Nat) (store : Bool) (sz : BitVec 3) (d : BitVec 9) : Bool :=
  decide (sz ≠ 7) && (!store || decide (sz.toNat < 5)) && kgroup0 (regsOf sz) kn d

/-- R225: the guard of a KX: GE = 0 requires GN = GQ = 0. -/
def guardUni (k : Kx) : Bool := decide (k.ge = 1) || (decide (k.gn = 0) && decide (k.gq = 0))

/-- A KX with a guard only. -/
def kxNone (k : Kx) : Bool := decide (k.imm = 0) && decide (k.ext = 0)

/-- A KX with a guard and the EXT4 bits of `m`. -/
def kxExt (m : BitVec 4) (k : Kx) : Bool := decide (k.imm = 0) && decide (k.ext &&& ~~~m = 0)

/-- R225: the KX of a UI word: W, or S with a source register where `s` admits it. -/
def kxImm (kn : Nat) (s : Bool) (k : Kx) : Bool :=
  decide (k.ext.toNat < 3) &&
    (if k.ext = 1 then true
     else if k.ext = 2 then s && decide (k.imm.toNat < 512) && kreg kn (k.imm.setWidth 9)
     else decide (k.imm = 0))

/-- R225: the KX of a UM word: W widens the offset. -/
def kxOff (k : Kx) : Bool := decide (k.ext.toNat < 2) && (decide (k.ext = 1) || decide (k.imm = 0))

/-- R304: the KX of PREF carries a line offset when A = 511. -/
def kxPref (a : BitVec 9) (k : Kx) : Bool := decide (k.ext = 0) && (decide (a = 511) || decide (k.imm = 0))

/-- The check of a uniform word with an optional KX. -/
def uniErr (k : Option Kx) (kok : Kx → Bool) (ok : Bool) : Option Nat :=
  plainErr ((match k with | some x => guardUni x && kok x | none => true) && ok)

/-- R225: the KX of KSEL: GE = 0, IMMHI16 = 0, EXT4 = 0. -/
def kselKx (k : Option Kx) : Bool :=
  match k with
  | some x => decide (x.ge = 0) && kxNone x
  | none => true

/-- R228, R317: FN of CPY and CPYM: bits [6:4] clear, multicast not with kinds 1, 3, 6 and 7. -/
def cpyFn (fn : BitVec 7) : Bool :=
  decide (fn.toNat < 16) && !(fn.getLsbD 3 && [1, 3, 6, 7].contains (fn.toNat % 8))

/-- R328: the kinds of CPYM. -/
def cpymKind (fn : BitVec 7) : Bool := [0, 2, 4, 5].contains (fn.toNat % 8)

/-- R302: the fields of KATOM, whose KX is mandatory. -/
def katomOk (kn : Nat) (w : UC) : Bool :=
  match w.kx with
  | none => false
  | some x =>
    let wide := x.imm.getLsbD 12
    let m := if wide then 2 else 1
    guardUni x && decide (x.imm.toNat / 8192 < 5) && decide (x.imm.toNat / 128 % 16 = 0) && decide (x.ext.toNat < 11) &&
      !(wide && decide (x.ext = 1)) &&
      (if x.ext = 10 then decide (x.imm.toNat % 128 % m = 0) && decide (x.imm.toNat % 128 + m ≤ kn)
       else decide (x.imm.toNat % 128 = 0)) &&
      kgroup0 m kn w.a && (if x.imm.getLsbD 11 then kreg kn w.b else kpair kn w.b) &&
      decide (w.fn.toNat % m = 0) && decide (w.fn.toNat + m ≤ kn)

end Fields

open Fields

/-- Check 3 of R211: `none` when every field of `i` is valid for a group with `v` lane registers and `kn` uniform
registers, else the word offset at which ILLEGAL_FORM is reported (R212): that of the LXI when only its low bits are
wrong, else that of the first word. SPAWN with CNT = 0 takes any B, which is the model's choice (assumption 106). -/
def fieldError (v kn : Nat) (i : Instr) : Option Nat :=
  match i with
  | .iadd w => laneErr false w.lxc (fun c _ => decide (c = 0)) (extMask 0x000) (dst v w.d && src v kn w.a && src v kn w.b)
  | .isub w => laneErr false w.lxc (fun c _ => decide (c = 0)) (extMask 0x000) (dst v w.d && src v kn w.a && src v kn w.b)
  | .iadds w => laneErr false w.lxc (fun c _ => decide (c = 0)) (extMask 0x001) (dst v w.d && src v kn w.a && src v kn w.b)
  | .isubs w => laneErr false w.lxc (fun c _ => decide (c = 0)) (extMask 0x001) (dst v w.d && src v kn w.a && src v kn w.b)
  | .imul w => laneErr false w.lxc (fun c _ => decide (c = 0)) (extMask 0x000) (dst v w.d && src v kn w.a && src v kn w.b)
  | .imulh w => laneErr false w.lxc (fun c _ => decide (c = 0)) (extMask 0x000) (dst v w.d && src v kn w.a && src v kn w.b)
  | .imulhn w => laneErr false w.lxc (fun c _ => decide (c = 0)) (extMask 0x000) (dst v w.d && src v kn w.a && src v kn w.b)
  | .imulw w => laneErr false w.lxc (fun c _ => decide (c = 0)) (extMask 0x001) ((if w.n = 1 then dst v w.d else dstPair v w.d) && src v kn w.a && src v kn w.b)
  | .imad w => laneErr true w.lxc (fun c _ => src v kn c) (extMask 0x000) (dst v w.d && src v kn w.a && src v kn w.b)
  | .imin w => laneErr false w.lxc (fun c _ => decide (c = 0)) (extMask 0x000) (dst v w.d && src v kn w.a && src v kn w.b)
  | .imax w => laneErr false w.lxc (fun c _ => decide (c = 0)) (extMask 0x000) (dst v w.d && src v kn w.a && src v kn w.b)
  | .nmin w => laneErr false w.lxc (fun c _ => decide (c = 0)) (extMask 0x000) (dst v w.d && src v kn w.a && src v kn w.b)
  | .nmax w => laneErr false w.lxc (fun c _ => decide (c = 0)) (extMask 0x000) (dst v w.d && src v kn w.a && src v kn w.b)
  | .land w => laneErr false w.lxc (fun c _ => decide (c = 0)) (extMask 0x000) (dst v w.d && src v kn w.a && src v kn w.b)
  | .lor w => laneErr false w.lxc (fun c _ => decide (c = 0)) (extMask 0x000) (dst v w.d && src v kn w.a && src v kn w.b)
  | .lxor w => laneErr false w.lxc (fun c _ => decide (c = 0)) (extMask 0x000) (dst v w.d && src v kn w.a && src v kn w.b)
  | .landn w => laneErr false w.lxc (fun c _ => decide (c = 0)) (extMask 0x000) (dst v w.d && src v kn w.a && src v kn w.b)
  | .shl w => laneErr false w.lxc (fun c _ => decide (c = 0)) (extMask 0x000) (dst v w.d && src v kn w.a && src v kn w.b)
  | .shr w => laneErr false w.lxc (fun c _ => decide (c = 0)) (extMask 0x000) (dst v w.d && src v kn w.a && src v kn w.b)
  | .sar w => laneErr false w.lxc (fun c _ => decide (c = 0)) (extMask 0x000) (dst v w.d && src v kn w.a && src v kn w.b)
  | .rol w => laneErr false w.lxc (fun c _ => decide (c = 0)) (extMask 0x000) (dst v w.d && src v kn w.a && src v kn w.b)
  | .bfe w => laneErr false w.lxc (fun c _ => decide (c = 0)) (extMask 0x001) (dst v w.d && src v kn w.a && src v kn w.b)
  | .bfi w => laneErr true w.lxc (fun c _ => src v kn c) (extMask 0x000) (dst v w.d && src v kn w.a && src v kn w.b)
  | .popc w => laneErr false w.lxc (fun c _ => decide (c = 0)) (extMask 0x000) (dst v w.d && src v kn w.a && decide (w.b = 0))
  | .clz w => laneErr false w.lxc (fun c _ => decide (c = 0)) (extMask 0x000) (dst v w.d && src v kn w.a && decide (w.b = 0))
  | .brev w => laneErr false w.lxc (fun c _ => decide (c = 0)) (extMask 0x000) (dst v w.d && src v kn w.a && decide (w.b = 0))
  | .iabs w => laneErr false w.lxc (fun c _ => decide (c = 0)) (extMask 0x000) (dst v w.d && src v kn w.a && decide (w.b = 0))
  | .icmp w => laneErr false w.lxc (fun c _ => decide (c = 0)) (extMask 0x000) (predDst w.d && intCnd w.d && src v kn w.a && src v kn w.b && decide (w.n = 0))
  | .ncmp w => laneErr false w.lxc (fun c _ => decide (c = 0)) (extMask 0x000) (predDst w.d && intCnd w.d && src v kn w.a && src v kn w.b && decide (w.n = 0))
  | .sel w => laneErr false w.lxc (fun c _ => decide (c = 0)) (extMask 0x00F) (dst v w.d && src v kn w.a && src v kn w.b)
  | .mov w => laneErr false w.lxc (fun c _ => decide (c = 0)) (extMask 0x000) (dst v w.d && src v kn w.a && decide (w.b = 0))
  | .iadd64 w => laneErr false w.lxc (fun c _ => decide (c = 0)) (extMask 0x000) (dstPair v w.d && pairSrc v kn w.a && pairSrc v kn w.b)
  | .isub64 w => laneErr false w.lxc (fun c _ => decide (c = 0)) (extMask 0x000) (dstPair v w.d && pairSrc v kn w.a && pairSrc v kn w.b)
  | .lea w => laneErr false w.lxc (fun c _ => decide (c = 0)) (extMask 0x00F) (dstPair v w.d && pairSrc v kn w.a && src v kn w.b)
  | .fadd w => laneErr false w.lxc (fun c _ => decide (c = 0)) (extRound 0x00F) (dst v w.d && src v kn w.a && src v kn w.b)
  | .fsub w => laneErr false w.lxc (fun c _ => decide (c = 0)) (extRound 0x00F) (dst v w.d && src v kn w.a && src v kn w.b)
  | .fmul w => laneErr false w.lxc (fun c _ => decide (c = 0)) (extRound 0x00F) (dst v w.d && src v kn w.a && src v kn w.b)
  | .ffma w => laneErr true w.lxc (fun c _ => src v kn c) (extRound 0x00F) (dst v w.d && src v kn w.a && src v kn w.b)
  | .fmin w => laneErr false w.lxc (fun c _ => decide (c = 0)) (extMask 0x000) (dst v w.d && src v kn w.a && src v kn w.b)
  | .fmax w => laneErr false w.lxc (fun c _ => decide (c = 0)) (extMask 0x000) (dst v w.d && src v kn w.a && src v kn w.b)
  | .fcmp w => laneErr false w.lxc (fun c _ => decide (c = 0)) (extMask 0x000) (predDst w.d && src v kn w.a && src v kn w.b && decide (w.n = 0))
  | .fcmpn w => laneErr false w.lxc (fun c _ => decide (c = 0)) (extMask 0x000) (predDst w.d && src v kn w.a && src v kn w.b && decide (w.n = 0))
  | .frcp w => laneErr false w.lxc (fun c _ => decide (c = 0)) (extRound 0x00F) (dst v w.d && src v kn w.a && decide (w.b = 0))
  | .fsqrt w => laneErr false w.lxc (fun c _ => decide (c = 0)) (extRound 0x00F) (dst v w.d && src v kn w.a && decide (w.b = 0))
  | .frsq w => laneErr false w.lxc (fun c _ => decide (c = 0)) (extRound 0x00F) (dst v w.d && src v kn w.a && decide (w.b = 0))
  | .fexp2 w => laneErr false w.lxc (fun c _ => decide (c = 0)) (extRound 0x00F) (dst v w.d && src v kn w.a && decide (w.b = 0))
  | .flog2 w => laneErr false w.lxc (fun c _ => decide (c = 0)) (extRound 0x00F) (dst v w.d && src v kn w.a && decide (w.b = 0))
  | .fdiv w => laneErr false w.lxc (fun c _ => decide (c = 0)) (extRound 0x00F) (dst v w.d && src v kn w.a && src v kn w.b)
  | .ffrc w => laneErr false w.lxc (fun c _ => decide (c = 0)) (extMask 0x000) (dst v w.d && src v kn w.a && decide (w.b = 0))
  | .frnd w => laneErr false w.lxc (fun c _ => decide (c = 0)) (extRound 0x00F) (dst v w.d && src v kn w.a && decide (w.b = 0))
  | .hadd2 w => laneErr false w.lxc (fun c _ => decide (c = 0)) (extRound 0x01F) (dst v w.d && src v kn w.a && src v kn w.b)
  | .hmul2 w => laneErr false w.lxc (fun c _ => decide (c = 0)) (extRound 0x01F) (dst v w.d && src v kn w.a && src v kn w.b)
  | .hfma2 w => laneErr true w.lxc (fun c _ => src v kn c) (extRound 0x01F) (dst v w.d && src v kn w.a && src v kn w.b)
  | .hmax2 w => laneErr false w.lxc (fun c _ => decide (c = 0)) (extMask 0x010) (dst v w.d && src v kn w.a && src v kn w.b)
  | .hmin2 w => laneErr false w.lxc (fun c _ => decide (c = 0)) (extMask 0x010) (dst v w.d && src v kn w.a && src v kn w.b)
  | .cvt w => laneErr true w.lxc (fun c _ => decide (c = 0)) extCvt (dst v w.d && src v kn w.a && cvtCode w.b.toNat)
  | .cvtp w => laneErr true w.lxc (fun c _ => src v kn c) extCvtp (dst v w.d && src v kn w.a && src v kn w.b)
  | .cvtu w => laneErr false w.lxc (fun c _ => decide (c = 0)) (extRound 0x03F) (dst v w.d && src v kn w.a && decide (w.b = 0))
  | .fsmx w => laneErr false w.lxc (fun c _ => decide (c = 0)) (extRound 0x00F) (dst v w.d && src v kn w.a && src v kn w.b)
  | .dot4 w => laneErr true w.lxc (fun c _ => src v kn c) (extMask 0x007) (dst v w.d && src v kn w.a && src v kn w.b)
  | .dot8 w => laneErr true w.lxc (fun c _ => src v kn c) (extMask 0x007) (dst v w.d && src v kn w.a && src v kn w.b)
  | .dotf4 w => laneErr true w.lxc (fun c _ => src v kn c) (extRound 0x00F) (dst v w.d && src v kn w.a && src v kn w.b)
  | .dotf8 w => laneErr true w.lxc (fun c _ => src v kn c) (extRound 0x03F) (dst v w.d && src v kn w.a && src v kn w.b)
  | .shfl w => laneErr false w.lxc (fun c _ => decide (c = 0)) extSeg (dst v w.d && src v kn w.a && src v kn w.b)
  | .shflx w => laneErr false w.lxc (fun c _ => decide (c = 0)) extSeg (dst v w.d && src v kn w.a && src v kn w.b)
  | .shflu w => laneErr false w.lxc (fun c _ => decide (c = 0)) extSeg (dst v w.d && src v kn w.a && src v kn w.b)
  | .shfld w => laneErr false w.lxc (fun c _ => decide (c = 0)) extSeg (dst v w.d && src v kn w.a && src v kn w.b)
  | .gthr w => laneErr false w.lxc (fun c _ => decide (c = 0)) (extMask 0x007) (dst v w.d && tableBase v w.a.toNat ((ext w.lxc).toNat % 8) && src v kn w.b)
  | .sctr w => laneErr false w.lxc (fun c _ => decide (c = 0)) (extMask 0x007) (tableBase v w.d.toNat ((ext w.lxc).toNat % 8) && src v kn w.a && src v kn w.b && decide (w.n = 0))
  | .poll w => laneErr false w.lxc (fun c _ => decide (c = 0)) (extMask 0x007) (dst v w.d && decide (w.a.toNat < 8) && decide (w.b = 0))
  | .matchEq w => laneErr false w.lxc (fun c _ => decide (c = 0)) (extMask 0x000) (dst v w.d && src v kn w.a && decide (w.b = 0))
  | .redx w => laneErr false w.lxc (fun c _ => decide (c = 0)) (extRop 0x00F) (dst v w.d && src v kn w.a && decide (w.b = 0))
  | .scanx w => laneErr false w.lxc (fun c _ => decide (c = 0)) (extRop 0x01F) (dst v w.d && src v kn w.a && decide (w.b = 0))
  | .topk w => laneErr true w.lxc (fun c _ => decide (c = 0)) extTopk (dstPair v w.d && src v kn w.a && src v kn w.b && decide (w.n = 0))
  | .topkm w => laneErr true w.lxc (fun c _ => decide (c = 0)) extTopk (dstPair v w.d && src v kn w.a && src v kn w.b && decide (w.n = 0))
  | .plog w => laneErr false w.lxc (fun c _ => decide (c = 0)) (extMask 0x000) (decide (w.d.toNat / 16 < 7) && decide (w.a.toNat < 8) && decide (w.b.toNat < 8) && decide (w.n = 0))
  | .ptov w => laneErr false w.lxc (fun c _ => decide (c = 0)) (extMask 0x000) (dst v w.d && decide (w.a = 0) && decide (w.b = 0))
  | .srd w => laneErr false w.lxc (fun c _ => decide (c = 0)) (extMask 0x000) (dst v w.d && decide (w.a.toNat < 13) && decide (w.b = 0))
  | .iaddi w => laneImmErr w.lxc w.lxi (dst v w.d && src v kn w.a)
  | .andi w => laneImmErr w.lxc w.lxi (dst v w.d && src v kn w.a)
  | .ori w => laneImmErr w.lxc w.lxi (dst v w.d && src v kn w.a)
  | .xori w => laneImmErr w.lxc w.lxi (dst v w.d && src v kn w.a)
  | .shi w => laneErr false w.lxc (fun c _ => decide (c = 0)) (extMask 0) (dst v w.d && src v kn w.a && decide (w.imm.toNat / 32 % 4 = 0))
  | .icmpi w => laneImmErr w.lxc w.lxi (predDst w.d && intCnd w.d && decide (w.n = 0) && src v kn w.a)
  | .movi w => laneImmErr w.lxc w.lxi (dst v w.d && decide (w.a = 0))
  | .ldg w => laneImmErr w.lxc w.lxi (lmData v false w.sz w.d w.n && pairAddr v kn w.a)
  | .stg w => laneImmErr w.lxc w.lxi (lmData v true w.sz w.d w.n && pairAddr v kn w.a)
  | .lds w => laneImmErr w.lxc w.lxi (lmData v false w.sz w.d w.n && src v kn w.a)
  | .sts w => laneImmErr w.lxc w.lxi (lmData v true w.sz w.d w.n && src v kn w.a)
  | .ldp w => laneImmErr w.lxc w.lxi (lmData v false w.sz w.d w.n && pairAddr v kn w.a)
  | .stp w => laneImmErr w.lxc w.lxi (lmData v true w.sz w.d w.n && pairAddr v kn w.a)
  | .atomg w => laneErr true w.lxc (atomCmp v kn) extAtom ((if (ext w.lxc).getLsbD 7 then dstPair v w.d else dst v w.d) && pairAddr v kn w.a && (if (ext w.lxc).getLsbD 7 then pairSrc v kn w.b else src v kn w.b) && decide (w.n = 0))
  | .atoms w => laneErr true w.lxc (atomCmp v kn) extAtom ((if (ext w.lxc).getLsbD 7 then dstPair v w.d else dst v w.d) && src v kn w.a && (if (ext w.lxc).getLsbD 7 then pairSrc v kn w.b else src v kn w.b) && decide (w.n = 0))
  | .kvx w => laneErr true w.lxc (fun c _ => src v kn c) (extMask 0x000) (dstPair v w.d && src v kn w.a && src v kn w.b && decide (w.n = 0))
  | .kvxNf w => laneErr true w.lxc (fun c _ => src v kn c) extKvxNf (dstPair v w.d && src v kn w.a && src v kn w.b && decide (w.n = 0))
  | .rebinB w => plainErr (decide (w.z = 0) && src v kn w.a && (decide (w.cnt = 0) || decide (w.b.toNat < 0x78)))
  | .rebinS w => plainErr (decide (w.z = 0) && src v kn w.a && (decide (w.cnt = 0) || decide (w.b.toNat < 0x78)))
  | .spawn w => laneErr false w.lxc (fun c _ => decide (c = 0)) (extMask 0) (decide (w.z = 0) && pairAddr v kn w.a && (decide (w.cnt = 0) || decide (w.b.toNat < 0x78)))
  | .await w => laneErr false w.lxc (fun c _ => decide (c = 0)) (extMask 0x000) (decide (w.d = 0x7F) && decide (w.a = 0) && decide (w.b = 0) && decide (w.n = 0))
  | .exit w => laneErr false w.lxc (fun c _ => decide (c = 0)) (extMask 0x000) (decide (w.d = 0x7F) && decide (w.a = 0) && decide (w.b = 0) && decide (w.n = 0))
  | .fread w => laneErr false w.lxc (fun c _ => decide (c = 0)) (extMask 0x000) (dstPair v w.d && pairAddr v kn w.a && decide (w.b = 0))
  | .ffill w => laneErr false w.lxc (fun c _ => decide (c = 0)) (extMask 0x000) (decide (w.d = 0x7F) && pairAddr v kn w.a && pairAddr v kn w.b && decide (w.n = 0))
  | .acld w => laneErr false w.lxc (fun c _ => decide (c = 0)) extAcld ((if (ext w.lxc).toNat / 16 % 4 = 2 then dstPair v w.d else dst v w.d) && src v kn w.a && decide (w.b = 0))
  | .acst w => laneErr false w.lxc (fun c _ => decide (c = 0)) extAcst (decide (w.d = 0x7F) && src v kn w.a && (if (ext w.lxc).toNat / 16 % 4 = 2 then pairAddr v kn w.b else src v kn w.b) && decide (w.n = 0))
  | .kadd w => uniErr w.kx kxNone (kreg kn w.d && kreg kn w.a && kb kn w.b)
  | .ksub w => uniErr w.kx kxNone (kreg kn w.d && kreg kn w.a && kb kn w.b)
  | .kmul w => uniErr w.kx kxNone (kreg kn w.d && kreg kn w.a && kb kn w.b)
  | .kmulh w => uniErr w.kx (kxExt 1) (kreg kn w.d && kreg kn w.a && kb kn w.b)
  | .kand w => uniErr w.kx kxNone (kreg kn w.d && kreg kn w.a && kb kn w.b)
  | .kor w => uniErr w.kx kxNone (kreg kn w.d && kreg kn w.a && kb kn w.b)
  | .kxor w => uniErr w.kx kxNone (kreg kn w.d && kreg kn w.a && kb kn w.b)
  | .kshl w => uniErr w.kx kxNone (kreg kn w.d && kreg kn w.a && kb kn w.b)
  | .kshr w => uniErr w.kx kxNone (kreg kn w.d && kreg kn w.a && kb kn w.b)
  | .ksar w => uniErr w.kx kxNone (kreg kn w.d && kreg kn w.a && kb kn w.b)
  | .kmin w => uniErr w.kx (kxExt 1) (kreg kn w.d && kreg kn w.a && kb kn w.b)
  | .kmax w => uniErr w.kx (kxExt 1) (kreg kn w.d && kreg kn w.a && kb kn w.b)
  | .kcmp w => uniErr w.kx kxNone (kcmpDst w.d && kreg kn w.a && kb kn w.b)
  | .ksel w => plainErr (kreg kn w.d && kreg kn w.a && kb kn w.b && kselKx w.kx)
  | .kmov w => uniErr w.kx kxNone (kreg kn w.d && kreg kn w.a && decide (w.b = 0))
  | .kadd64 w => uniErr w.kx kxNone (kpair0 kn w.d && kpair0 kn w.a && kbPair kn w.b)
  | .klea w => uniErr w.kx (kxExt 15) (kpair0 kn w.d && kpair0 kn w.a && kb kn w.b)
  | .kaddi w => uniErr w.kx (kxImm kn true) (kreg kn w.d)
  | .kmovi w => uniErr w.kx (kxImm kn false) (kreg kn w.d)
  | .klui w => uniErr w.kx (kxImm kn false) (kreg kn w.d)
  | .kandi w => uniErr w.kx (kxImm kn true) (kreg kn w.d)
  | .kori w => uniErr w.kx (kxImm kn true) (kreg kn w.d)
  | .bra _ => none
  | .call _ => none
  | .brd _ => none
  | .syn _ => none
  | .join w => uniErr w.kx kxNone (none9 w.a && none9 w.b && decide (w.fn = 0))
  | .ret w => uniErr w.kx kxNone (kpair kn w.a && none9 w.b && decide (w.fn = 0))
  | .jmpr w => uniErr w.kx kxNone (kpair kn w.a && none9 w.b && decide (w.fn = 0))
  | .callr w => uniErr w.kx kxNone (kpair kn w.a && none9 w.b && decide (w.fn = 0))
  | .kld w => uniErr w.kx kxOff (umData kn false w.sz w.d && kpair kn w.a)
  | .kst w => uniErr w.kx kxOff (umData kn true w.sz w.d && kpair kn w.a)
  | .klds w => uniErr w.kx kxOff (umData kn false w.sz w.d && kreg kn w.a)
  | .ksts w => uniErr w.kx kxOff (umData kn true w.sz w.d && kreg kn w.a)
  | .katom w => plainErr (katomOk kn w)
  | .cpy w => uniErr w.kx kxNone (cpyFn w.fn && blk kn 8 w.a && decide (w.b.toNat < 16))
  | .cpym w => uniErr w.kx kxNone (cpyFn w.fn && cpymKind w.fn && blk kn 12 w.a && decide (w.b.toNat < 16))
  | .qfen w => uniErr w.kx kxNone (kreg kn w.a && decide (w.b.toNat < 16) && decide (w.fn = 0))
  | .mres w => uniErr w.kx kxNone (kpair kn w.a && kpair kn w.b && decide (w.fn.toNat < 8))
  | .mrel w => uniErr w.kx kxNone (none9 w.a && none9 w.b && decide (w.fn.toNat < 8))
  | .mma w => uniErr w.kx kxNone (blk kn 4 w.a && none9 w.b && decide (w.fn = 0))
  | .mfen w => uniErr w.kx kxNone (kreg kn w.a && none9 w.b && decide (w.fn = 0))
  | .mwait w => uniErr w.kx kxNone (kreg kn w.a && none9 w.b && decide (w.fn = 0))
  | .twm w => uniErr w.kx kxNone (kreg kn w.a && decide (w.b.toNat < 64))
  | .tstat w => uniErr w.kx kxNone (kpair kn w.a && decide (w.b.toNat < 64))
  | .tclr w => uniErr w.kx kxNone (none9 w.a && decide (w.b.toNat < 64))
  | .kvld w => uniErr w.kx kxNone (blk kn (if w.fn.getLsbD 0 then 12 else 8) w.a && decide (w.b.toNat < 16) && decide (w.fn.toNat < 2))
  | .kvst w => uniErr w.kx kxNone (kpair kn w.a && kreg kn w.b && decide (w.fn.toNat < 32))
  | .kvinv w => uniErr w.kx kxNone (none9 w.a && none9 w.b && decide (w.fn = 0))
  | .mrg w => uniErr w.kx kxNone (blk kn 4 w.a && decide (w.b.toNat < 16) && decide (w.fn.toNat < 4))
  | .rfen w => uniErr w.kx kxNone (none9 w.a && none9 w.b && decide (w.fn = 0))
  | .bara w => uniErr w.kx kxNone (none9 w.a && none9 w.b && decide (w.fn.toNat / 16 % 2 = 0))
  | .barw w => uniErr w.kx kxNone (none9 w.a && none9 w.b && decide (w.fn.toNat / 16 % 2 = 0))
  | .bars w => uniErr w.kx kxNone (none9 w.a && none9 w.b && decide (w.fn.toNat / 16 % 2 = 0))
  | .slotaFree w => uniErr w.kx kxNone (kreg kn w.a && (if w.nb = 1 then decide (w.b.toNat < 7) else none9 w.b))
  | .slotaFull w => uniErr w.kx kxNone (kreg kn w.a && (if w.nb = 1 then decide (w.b.toNat < 7) else none9 w.b))
  | .slotrFull w => uniErr w.kx kxNone (kreg kn w.a && (if w.nb = 1 then decide (w.b.toNat < 7) else none9 w.b))
  | .slotrFree w => uniErr w.kx kxNone (kreg kn w.a && (if w.nb = 1 then decide (w.b.toNat < 7) else none9 w.b))
  | .slotrInit w => uniErr w.kx kxNone (kreg kn w.a && none9 w.b && decide (w.nb = 0))
  | .waita w => uniErr w.kx kxNone (kreg kn w.a && kpair kn w.b && decide (w.fn.toNat < 32) && decide (w.fn.toNat / 4 < 7) && decide (w.fn.toNat % 4 < 3))
  | .glnch w => uniErr w.kx kxNone (kpair kn w.a && kreg kn w.b)
  | .gwait w => uniErr w.kx (kxExt 1) (kpair kn w.a && (decide (w.b.toNat < 7) || none9 w.b))
  | .phend w => uniErr w.kx kxNone (none9 w.a && none9 w.b)
  | .nop w => uniErr w.kx kxNone (none9 w.a && none9 w.b)
  | .yield w => uniErr w.kx kxNone (none9 w.a && none9 w.b)
  | .pref w => uniErr w.kx (kxPref w.a) (kpair0 kn w.a && none9 w.b)
  | .tail w => uniErr w.kx kxNone (none9 w.a && none9 w.b)
  | .exitg w => uniErr w.kx kxNone (none9 w.a && none9 w.b)
  | .clk w => uniErr w.kx kxNone (kpair kn w.a && none9 w.b)
  | .trap w => uniErr w.kx kxNone (none9 w.a)
  | .brkp w => uniErr w.kx kxNone (none9 w.a)
  | .csrr w => uniErr w.kx kxNone (kreg kn w.a && decide (w.b.toNat < 9))
  | .csrw w => uniErr w.kx kxNone (kreg kn w.a && decide (w.b.toNat < 9))
  | .hsig w => uniErr w.kx kxNone (kreg kn w.a && none9 w.b)
  | .hflush w => uniErr w.kx (kxExt 1) (kpair kn w.a && kreg kn w.b)
  | .kbal w => uniErr w.kx (kxExt 1) (kreg kn w.a && decide (w.b.toNat < 8))
  | .kfirst w => uniErr w.kx kxNone (kreg kn w.a && none9 w.b)
  | .kact w => uniErr w.kx kxNone (kreg kn w.a && none9 w.b)
  | .memoryAccessReturn _ _ => none
  | .icacheLineFill _ _ _ => none
  | .blockPlacement _ _ => none
  | .blockRetirement _ => none
  | .gridCompletion _ => none
  | .armSlotWrite _ _ _ => none
  | .retirementTrackerDrain _ _ => none
  | .allParkedDetect _ => none
  | .rebuiltGroupAdmission _ => none
  | .taskBinTimeout _ => none
  | .taskGroupPlacement _ => none
  | .chimneySweep => none
  | .futurePoll _ _ => none
  | .waitaDeadline _ _ => none
  | .operationBufferAdmit _ _ => none
  | .operationStart _ => none
  | .operationCompletion _ => none
  | .operationFault _ => none
  | .operationAbort _ _ => none
  | .mmaStart _ => none
  | .mmaWriteback _ => none
  | .cornerTurnTimeout _ _ => none
  | .ptsyncWrite _ => none
  | .ptsyncCompletion => none
  | .ppheadWrite _ _ => none
  | .coalWrite _ _ _ => none
  | .coalescerTick => none
  | .peerresWrite _ => none
  | .peerInboundWrite _ _ _ => none
  | .gangMessage _ _ _ => none
  | .priResponse _ _ => none
  | .hostWindowWrite _ _ _ => none
  | .hostWindowRead _ _ _ => none
  | .hostApertureWrite _ _ => none
  | .hostApertureRead _ _ => none
  | .replay _ _ _ => none
  | .resume _ _ _ => none
  | .teardown _ _ _ => none
  | .trapQueueRetry _ _ => none
  | .fatalvClear _ => none
  | .sliceExpiry _ _ => none
  | .priorityWaitExpiry _ _ => none
  | .gangLate _ => none
  | .watchdog _ => none
  | .powerOnReset => none
  | .firmwareReady => none
  | .recgoWrite _ => none
  | .mextWrite _ => none
  | .attctlWrite => none
  | .attestationReportReady => none
  | .dbgctlWrite => none
  | .debugTokenVerdict => none
  | .dbglvlWrite _ _ => none
  | .haltWrite _ => none
  | .releaseWrite _ => none
  | .debugWindowWrite _ _ => none
  | .clkselWrite _ => none
  | .stnpwrWrite _ _ => none
  | .diepwrWrite _ _ => none
  | .powerTransitionComplete _ => none
  | .stationIdleP2 _ => none
  | .d3hotEntry => none
  | .d0Return => none
  | .powerRemoval => none
  | .denyprodRead => none
  | .numaggClrWrite _ => none
  | .eccHoldWrite _ _ => none
  | .softErrorCorrected _ => none
  | .softErrorUncorrectable _ _ => none
  | .latchParityError _ _ => none
  | .pcapWrite _ => none
  | .tcapWrite _ => none
  | .powerOverCap _ => none
  | .dutyStepTick _ => none
  | .tempOverCap _ _ => none
  | .thermalStop _ _ => none
  | .i3cPrivateRead _ => none
  | .i3cPrivateWrite _ _ => none
  | .registerWrite _ _ _ _ => none
  | .recoveryVerdict => none
  | .thermalStopEnd => none
  | .tempCapEnd => none
  | .powerCapEnd => none
  | .peerLinkTraining _ _ => none
  | .dynamicAddressAssignment _ => none
  | .illegalOpcode _ _ => none

/-- `i` is well formed for a group with `v` lane and `kn` uniform registers (R211 check 3). -/
def wellFormed (v kn : Nat) (i : Instr) : Bool := (fieldError v kn i).isNone

end Sys2Proof
end

