-- ==== Sys2Proof/Decode.lean ====
section
/-! DEFINITION. The decoder, checks 1 and 2 of R211 (prefix sequence and opcode), over the encodings of R210 to R228, and the
encoder written from the same tables. Check 3 is `fieldError` of WellFormed. -/

namespace Sys2Proof

/-- What the decoder answers on a run of words: an instruction with its length in words, a request for the next word,
ILLEGAL_FORM at word `off` (R221), or ILLEGAL_OPCODE (R226 to R228). -/
inductive Decoded where
  | ok (i : Instr) (words : Nat)
  | needMore
  | badForm (off : Nat)
  | badOpcode
  deriving DecidableEq, Repr

/-- The 6-bit major opcode, bits [30:25] (R210). -/
def majorOf (w : Word) : BitVec 6 := w.extractLsb' 25 6

/-- Bit 31: the uniform set (R210). -/
def isUni (w : Word) : Bool := w.getLsbD 31

/-- Field extraction of form LR (R213). -/
def unLR (w : Word) (c : Option Lxc) : LR :=
  ⟨w.extractLsb' 18 7, w.extractLsb' 17 1, w.extractLsb' 9 8, w.extractLsb' 1 8, c⟩

/-- Field extraction of form LI. -/
def unLI (w : Word) (c : Option Lxc) (x : Option Lxi) : LI :=
  ⟨w.extractLsb' 18 7, w.extractLsb' 17 1, w.extractLsb' 9 8, w.extractLsb' 0 9, c, x⟩

/-- Field extraction of SHI. -/
def unLJ (w : Word) (c : Option Lxc) : LJ :=
  ⟨w.extractLsb' 18 7, w.extractLsb' 17 1, w.extractLsb' 9 8, w.extractLsb' 0 9, c⟩

/-- Field extraction of form LM. -/
def unLM (w : Word) (c : Option Lxc) (x : Option Lxi) : LM :=
  ⟨w.extractLsb' 18 7, w.extractLsb' 17 1, w.extractLsb' 9 8, w.extractLsb' 6 3, w.extractLsb' 0 6, c, x⟩

/-- Field extraction of form LC. -/
def unLC (w : Word) (c : Option Lxc) : LC :=
  ⟨w.extractLsb' 21 4, w.extractLsb' 18 3, w.extractLsb' 17 1, w.extractLsb' 9 8, w.extractLsb' 1 8, c⟩

/-- Field extraction of REBIN. -/
def unLB (w : Word) : LB :=
  ⟨w.extractLsb' 21 4, w.extractLsb' 18 3, w.extractLsb' 17 1, w.extractLsb' 9 8, w.extractLsb' 1 8⟩

/-- Field extraction of form UR (R223). -/
def unUR (w : Word) (k : Option Kx) : UR := ⟨w.extractLsb' 16 9, w.extractLsb' 7 9, w.extractLsb' 0 7, k⟩

/-- Field extraction of form UI. -/
def unUI (w : Word) (k : Option Kx) : UI := ⟨w.extractLsb' 16 9, w.extractLsb' 0 16, k⟩

/-- Field extraction of form UB. -/
def unUB (w : Word) : UB := ⟨w.extractLsb' 24 1, w.extractLsb' 21 3, w.extractLsb' 0 21⟩

/-- Field extraction of form UM. -/
def unUM (w : Word) (k : Option Kx) : UM :=
  ⟨w.extractLsb' 16 9, w.extractLsb' 7 9, w.extractLsb' 4 3, w.extractLsb' 0 4, k⟩

/-- Field extraction of form UC. -/
def unUC (w : Word) (k : Option Kx) : UC := ⟨w.extractLsb' 16 9, w.extractLsb' 7 9, w.extractLsb' 0 7, k⟩

/-- Field extraction of form UC where FN selects the instruction. -/
def unUF (w : Word) (k : Option Kx) : UF := ⟨w.extractLsb' 16 9, w.extractLsb' 7 9, k⟩

/-- Field extraction of a slot command (R70). -/
def unUS (w : Word) (k : Option Kx) : US :=
  ⟨w.extractLsb' 16 9, w.extractLsb' 7 9, w.extractLsb' 5 1, w.extractLsb' 0 4, k⟩

/-- The payload of an LXC word (R220). -/
def unLxc (w : Word) : Lxc :=
  ⟨w.extractLsb' 17 8, w.extractLsb' 16 1, w.extractLsb' 15 1, w.extractLsb' 12 3, w.extractLsb' 0 12⟩

/-- The payload of an LXI word (R220). -/
def unLxi (w : Word) : Lxi := ⟨w.extractLsb' 2 23, w.extractLsb' 0 2⟩

/-- The payload of a KX word (R223). -/
def unKx (w : Word) : Kx :=
  ⟨w.extractLsb' 9 16, w.extractLsb' 8 1, w.extractLsb' 7 1, w.extractLsb' 4 3, w.extractLsb' 0 4⟩

/-- How a lane encoding builds its instruction, by form. -/
inductive LaneBuild where
  | lr (f : LR → Instr)
  | li (f : LI → Instr)
  | lj (f : LJ → Instr)
  | lm (f : LM → Instr)
  | lc (f : LC → Instr)
  | lb (f : LB → Instr)

/-- How a uniform major builds its instruction, by form. -/
inductive UniBuild where
  | ur (f : UR → Instr)
  | ui (f : UI → Instr)
  | ub (f : UB → Instr)
  | um (f : UM → Instr)
  | uc (f : UC → Instr)

/-- How an encoding selected by FN builds its instruction; `us0` and `us1` are the blocking and .nb slot commands. -/
inductive FnBuild where
  | uf (f : UF → Instr)
  | us0 (f : US → Instr)
  | us1 (f : US → Instr)

/-- Part 0 of `laneRows`. -/
def laneRows0 : List (Nat × LaneBuild) := [
  (0x0, .lr .iadd),
  (0x1, .lr .isub),
  (0x2, .lr .iadds),
  (0x3, .lr .isubs),
  (0x4, .lr .imul),
  (0x5, .lr .imulh),
  (0x6, .lr .imulhn),
  (0x7, .lr .imulw),
  (0x8, .lr .imad),
  (0xa, .lr .imin),
  (0xb, .lr .imax),
  (0xc, .lr .nmin),
  (0xd, .lr .nmax),
  (0xe, .lr .land),
  (0xf, .lr .lor),
  (0x10, .lr .lxor),
  (0x11, .lr .landn),
  (0x12, .lr .shl),
  (0x13, .lr .shr),
  (0x14, .lr .sar),
  (0x15, .lr .rol),
  (0x16, .lr .bfe),
  (0x17, .lr .bfi),
  (0x18, .lr .popc),
  (0x19, .lr .clz),
  (0x1a, .lr .brev),
  (0x1b, .lr .iabs),
  (0x1c, .lr .icmp),
  (0x1d, .lr .ncmp),
  (0x1e, .lr .sel),
  (0x1f, .lr .mov),
  (0x20, .lr .iadd64)]

/-- Part 1 of `laneRows`. -/
def laneRows1 : List (Nat × LaneBuild) := [
  (0x21, .lr .isub64),
  (0x22, .lr .lea),
  (0x24, .lr .fadd),
  (0x25, .lr .fsub),
  (0x26, .lr .fmul),
  (0x27, .lr .ffma),
  (0x28, .lr .fmin),
  (0x29, .lr .fmax),
  (0x2a, .lr .fcmp),
  (0x2b, .lr .fcmpn),
  (0x2c, .lr .frcp),
  (0x2d, .lr .fsqrt),
  (0x2e, .lr .frsq),
  (0x2f, .lr .fexp2),
  (0x30, .lr .flog2),
  (0x31, .lr .fdiv),
  (0x32, .lr .ffrc),
  (0x33, .lr .frnd),
  (0x34, .lr .hadd2),
  (0x35, .lr .hmul2),
  (0x36, .lr .hfma2),
  (0x37, .lr .hmax2),
  (0x38, .lr .hmin2),
  (0x3a, .lr .cvt),
  (0x3b, .lr .cvtp),
  (0x3c, .lr .cvtu),
  (0x3d, .lr .fsmx),
  (0x3e, .lr .dot4),
  (0x3f, .lr .dot8),
  (0x40, .lr .dotf4),
  (0x41, .lr .dotf8),
  (0x42, .lr .shfl)]

/-- Part 2 of `laneRows`. -/
def laneRows2 : List (Nat × LaneBuild) := [
  (0x43, .lr .shflx),
  (0x44, .lr .shflu),
  (0x45, .lr .shfld),
  (0x46, .lr .gthr),
  (0x47, .lr .sctr),
  (0x48, .lr .poll),
  (0x49, .lr .matchEq),
  (0x4a, .lr .redx),
  (0x4b, .lr .scanx),
  (0x4c, .lr .topk),
  (0x4d, .lr .topkm),
  (0x4e, .lr .plog),
  (0x4f, .lr .ptov),
  (0x50, .lr .srd),
  (0x52, .li .iaddi),
  (0x54, .li .andi),
  (0x56, .li .ori),
  (0x58, .li .xori),
  (0x5a, .lj .shi),
  (0x5c, .li .icmpi),
  (0x5e, .li .movi),
  (0x60, .lm .ldg),
  (0x62, .lm .stg),
  (0x64, .lm .lds),
  (0x66, .lm .sts),
  (0x68, .lm .ldp),
  (0x6a, .lm .stp),
  (0x6c, .lr .atomg),
  (0x6e, .lr .atoms),
  (0x70, .lr .kvx),
  (0x71, .lr .kvxNf),
  (0x72, .lb .rebinB)]

/-- Part 3 of `laneRows`. -/
def laneRows3 : List (Nat × LaneBuild) := [
  (0x73, .lb .rebinS),
  (0x74, .lc .spawn),
  (0x76, .lr .await),
  (0x77, .lr .exit),
  (0x78, .lr .fread),
  (0x79, .lr .ffill),
  (0x7a, .lr .acld),
  (0x7b, .lr .acst)]

/-- The lane opcode map of R226, keyed by 2·OP + F (F = 0 for the majors without an F bit). -/
def laneRows : List (Nat × LaneBuild) := laneRows0 ++ laneRows1 ++ laneRows2 ++ laneRows3

/-- Part 0 of `uniRows`. -/
def uniRows0 : List (Nat × UniBuild) := [
  (0x0, .ur .kadd),
  (0x1, .ur .ksub),
  (0x2, .ur .kmul),
  (0x3, .ur .kmulh),
  (0x4, .ur .kand),
  (0x5, .ur .kor),
  (0x6, .ur .kxor),
  (0x7, .ur .kshl),
  (0x8, .ur .kshr),
  (0x9, .ur .ksar),
  (0xa, .ur .kmin),
  (0xb, .ur .kmax),
  (0xc, .ur .kcmp),
  (0xd, .ur .ksel),
  (0xe, .ur .kmov),
  (0xf, .ur .kadd64),
  (0x10, .ur .klea),
  (0x11, .ui .kaddi),
  (0x12, .ui .kmovi),
  (0x13, .ui .klui),
  (0x14, .ui .kandi),
  (0x15, .ui .kori),
  (0x18, .ub .bra),
  (0x19, .ub .call),
  (0x1a, .ub .brd),
  (0x1b, .ub .syn),
  (0x1c, .uc .join),
  (0x1d, .uc .ret),
  (0x1e, .uc .jmpr),
  (0x1f, .uc .callr),
  (0x20, .um .kld),
  (0x21, .um .kst)]

/-- Part 1 of `uniRows`. -/
def uniRows1 : List (Nat × UniBuild) := [
  (0x22, .um .klds),
  (0x23, .um .ksts),
  (0x24, .uc .katom),
  (0x28, .uc .cpy),
  (0x29, .uc .cpym),
  (0x2a, .uc .qfen),
  (0x2b, .uc .mres),
  (0x2c, .uc .mrel),
  (0x2d, .uc .mma),
  (0x2e, .uc .mfen),
  (0x2f, .uc .mwait),
  (0x31, .uc .kvld),
  (0x32, .uc .kvst),
  (0x33, .uc .kvinv),
  (0x34, .uc .mrg),
  (0x35, .uc .rfen),
  (0x36, .uc .bara),
  (0x37, .uc .barw),
  (0x38, .uc .bars),
  (0x3b, .uc .waita)]

/-- The uniform majors of R227 at which FN does not select the instruction. -/
def uniRows : List (Nat × UniBuild) := uniRows0 ++ uniRows1

/-- Part 0 of `fnRows`. -/
def fnRows0 : List (Nat × FnBuild) := [
  (0x1800, .uf .twm),
  (0x1801, .uf .tstat),
  (0x1802, .uf .tclr),
  (0x1c80, .us0 .slotaFree),
  (0x1ca0, .us1 .slotaFree),
  (0x1c90, .us0 .slotaFull),
  (0x1cb0, .us1 .slotaFull),
  (0x1d10, .us0 .slotrFull),
  (0x1d30, .us1 .slotrFull),
  (0x1d00, .us0 .slotrFree),
  (0x1d20, .us1 .slotrFree),
  (0x1d40, .us0 .slotrInit),
  (0x1e00, .uf .glnch),
  (0x1e01, .uf .gwait),
  (0x1e02, .uf .phend),
  (0x1e80, .uf .nop),
  (0x1e81, .uf .yield),
  (0x1e82, .uf .pref),
  (0x1e83, .uf .tail),
  (0x1e84, .uf .exitg),
  (0x1e85, .uf .clk),
  (0x1e86, .uf .trap),
  (0x1e87, .uf .brkp),
  (0x1e88, .uf .csrr),
  (0x1e89, .uf .csrw),
  (0x1e8a, .uf .hsig),
  (0x1e8b, .uf .hflush),
  (0x1f00, .uf .kbal),
  (0x1f01, .uf .kfirst),
  (0x1f02, .uf .kact)]

/-- The uniform encodings selected by FN (R228, R70), keyed by 128·OP + FN, with the ring bits of a slot command cleared. -/
def fnRows : List (Nat × FnBuild) := fnRows0

/-- Row of a key in a table. -/
def lookupRow {α : Type} (key : Nat) : List (Nat × α) → Option α
  | [] => none
  | (k, x) :: r => if k = key then some x else lookupRow key r

/-- R226: the majors of forms LI and LM have no F bit. -/
def hasF (op : Nat) : Bool := decide (op < 0x29) || decide (0x36 ≤ op)

/-- R221: an LXI may precede a word of form LI or LM, other than SHI. -/
def takesLxi (op : Nat) : Bool := decide (0x29 ≤ op) && decide (op < 0x36) && decide (op ≠ 0x2D)

/-- R221: an LXC may precede every lane word except REBIN. -/
def takesLxc (op : Nat) : Bool := decide (op ≠ 0x39)

/-- R225: a KX may precede every uniform word except BRA, CALL, BRD and SYN (and KX itself). -/
def takesKx (op : Nat) : Bool := !(decide (0x18 ≤ op) && decide (op ≤ 0x1B)) && decide (op ≠ 0x3F)

/-- Checks 1 and 2 of R211 for a lane word after its prefixes. The LXC is checked before the LXI (R221). An encoding
the map leaves unassigned is refused as an opcode, prefixes or not. -/
def decodeLane (c : Option Lxc) (x : Option Lxi) (n : Nat) (w : Word) : Decoded :=
  let op := (majorOf w).toNat
  if c.isSome && !takesLxc op then .badForm 0
  else if x.isSome && !takesLxi op then .badForm (if c.isSome then 1 else 0)
  else
    match lookupRow (2 * op + (if hasF op && w.getLsbD 0 then 1 else 0)) laneRows with
    | some (.lr f) => .ok (f (unLR w c)) n
    | some (.li f) => .ok (f (unLI w c x)) n
    | some (.lj f) => .ok (f (unLJ w c)) n
    | some (.lm f) => .ok (f (unLM w c x)) n
    | some (.lc f) => .ok (f (unLC w c)) n
    | some (.lb f) => .ok (f (unLB w)) n
    | none => .badOpcode

/-- The key of an encoding selected by FN: the ring bits of a slot command do not select (R70). -/
def fnKey (op fn : Nat) : Nat := 128 * op + (if op = 0x39 ∨ op = 0x3A then fn / 16 * 16 else fn)

/-- Checks 1 and 2 of R211 for a uniform word after its prefix. -/
def decodeUni (k : Option Kx) (n : Nat) (w : Word) : Decoded :=
  let op := (majorOf w).toNat
  if k.isSome && !takesKx op then .badForm 0
  else
    match lookupRow op uniRows with
    | some (.ur f) => .ok (f (unUR w k)) n
    | some (.ui f) => .ok (f (unUI w k)) n
    | some (.ub f) => .ok (f (unUB w)) n
    | some (.um f) => .ok (f (unUM w k)) n
    | some (.uc f) => .ok (f (unUC w k)) n
    | none =>
      match lookupRow (fnKey op (w.extractLsb' 0 7).toNat) fnRows with
      | some (.uf f) => .ok (f (unUF w k)) n
      | some (.us0 f) => .ok (f (unUS w k)) n
      | some (.us1 f) => .ok (f (unUS w k)) n
      | none => .badOpcode

/-- The kind of a word in the prefix sequences of R221. -/
inductive WordKind where
  | lane
  | lxi
  | lxc
  | uni
  | kx
  deriving DecidableEq, Repr

/-- Sorts a word (R210, R220, R223). -/
def wordKind (w : Word) : WordKind :=
  if isUni w then (if majorOf w = 0x3F then .kx else .uni)
  else if majorOf w = 0x3F then .lxc
  else if majorOf w = 0x3E then .lxi else .lane

/-- The words after an LXC and an LXI (R221): the LXC is checked against a word first, a prefix is refused at the LXI. -/
def decodeBoth (c : Lxc) (x : Lxi) : List Word → Decoded
  | [] => .needMore
  | w :: _ =>
    match wordKind w with
    | .lane => decodeLane (some c) (some x) 3 w
    | .uni => .badForm 0
    | .lxc => .badForm 1
    | .lxi => .badForm 1
    | .kx => .badForm 1

/-- The words after an LXC (R221). -/
def decodeLxc (c : Lxc) : List Word → Decoded
  | [] => .needMore
  | w :: r =>
    match wordKind w with
    | .lane => decodeLane (some c) none 2 w
    | .lxi => decodeBoth c (unLxi w) r
    | .lxc => .badForm 0
    | .kx => .badForm 0
    | .uni => .badForm 0

/-- The words after an LXI that no LXC precedes (R221). -/
def decodeLxi (x : Lxi) : List Word → Decoded
  | [] => .needMore
  | w :: _ =>
    match wordKind w with
    | .lane => decodeLane none (some x) 2 w
    | .lxi => .badForm 0
    | .lxc => .badForm 0
    | .kx => .badForm 0
    | .uni => .badForm 0

/-- The words after a KX (R225). -/
def decodeKx (k : Kx) : List Word → Decoded
  | [] => .needMore
  | w :: _ =>
    match wordKind w with
    | .uni => decodeUni (some k) 2 w
    | .lane => .badForm 0
    | .lxi => .badForm 0
    | .lxc => .badForm 0
    | .kx => .badForm 0

/-- Checks 1 and 2 of R211 on the words at the PC, in address order (R222). -/
def decodeWords : List Word → Decoded
  | [] => .needMore
  | w :: r =>
    match wordKind w with
    | .lane => decodeLane none none 1 w
    | .uni => decodeUni none 1 w
    | .lxc => decodeLxc (unLxc w) r
    | .lxi => decodeLxi (unLxi w) r
    | .kx => decodeKx (unKx w) r

/-- Little-endian bytes of a word (R210). -/
def wordBytes (w : Word) : List Byte :=
  [w.extractLsb' 0 8, w.extractLsb' 8 8, w.extractLsb' 16 8, w.extractLsb' 24 8]

/-- The words of a byte string, dropping a last incomplete word. -/
def bytesWords : List Byte → List Word
  | a :: b :: c :: d :: r => (d ++ c ++ b ++ a) :: bytesWords r
  | _ => []

/-- The decoder on bytes. -/
def decode (bs : List Byte) : Decoded := decodeWords (bytesWords bs)

/-- The instruction the decoder reads from one word `w` numbered as the opcode table numbers it, the word laid out in its
byte order and the words after it zero. -/
def decodeTableWord (nbits w : Nat) : Option Instr :=
  if nbits = 0 then none
  else match decode (wordBytes (BitVec.ofNat 32 w) ++ wordBytes (BitVec.ofNat 32 (w / 2 ^ 32)) ++ wordBytes (BitVec.ofNat 32 (w / 2 ^ 64))) with
    | .ok i _ => some i
    | _ => none

/-- Word of form LR (R213). -/
def packLR (op : BitVec 6) (f : BitVec 1) (w : LR) : Word := (0 : BitVec 1) ++ op ++ w.d ++ w.n ++ w.a ++ w.b ++ f

/-- Word of form LI. -/
def packLI (op : BitVec 6) (w : LI) : Word := (0 : BitVec 1) ++ op ++ w.d ++ w.n ++ w.a ++ w.imm

/-- Word of SHI. -/
def packLJ (op : BitVec 6) (w : LJ) : Word := (0 : BitVec 1) ++ op ++ w.d ++ w.n ++ w.a ++ w.imm

/-- Word of form LM. -/
def packLM (op : BitVec 6) (w : LM) : Word := (0 : BitVec 1) ++ op ++ w.d ++ w.n ++ w.a ++ w.sz ++ w.off

/-- Word of form LC. -/
def packLC (op : BitVec 6) (f : BitVec 1) (w : LC) : Word :=
  (0 : BitVec 1) ++ op ++ w.cnt ++ w.opt ++ w.z ++ w.a ++ w.b ++ f

/-- Word of REBIN. -/
def packLB (op : BitVec 6) (f : BitVec 1) (w : LB) : Word :=
  (0 : BitVec 1) ++ op ++ w.cnt ++ w.opt ++ w.z ++ w.a ++ w.b ++ f

/-- Word of form UR (R223). -/
def packUR (op : BitVec 6) (w : UR) : Word := (1 : BitVec 1) ++ op ++ w.d ++ w.a ++ w.b

/-- Word of form UI. -/
def packUI (op : BitVec 6) (w : UI) : Word := (1 : BitVec 1) ++ op ++ w.d ++ w.imm

/-- Word of form UB. -/
def packUB (op : BitVec 6) (w : UB) : Word := (1 : BitVec 1) ++ op ++ w.cn ++ w.cq ++ w.off

/-- Word of form UM. -/
def packUM (op : BitVec 6) (w : UM) : Word := (1 : BitVec 1) ++ op ++ w.d ++ w.a ++ w.sz ++ w.off

/-- Word of form UC. -/
def packUC (op : BitVec 6) (w : UC) : Word := (1 : BitVec 1) ++ op ++ w.a ++ w.b ++ w.fn

/-- Word of form UC with a fixed FN. -/
def packUF (op : BitVec 6) (fn : BitVec 7) (w : UF) : Word := (1 : BitVec 1) ++ op ++ w.a ++ w.b ++ fn

/-- Word of a slot command: FN is `hi`, the .nb bit, `lo` and the ring (R70). -/
def packUS (op : BitVec 6) (hi lo : BitVec 1) (w : US) : Word :=
  (1 : BitVec 1) ++ op ++ w.a ++ w.b ++ hi ++ w.nb ++ lo ++ w.ring

/-- The LXC word of a prefix, if there is one (R220). -/
def lxcWords : Option Lxc → List Word
  | some c => [(0 : BitVec 1) ++ (0x3F : BitVec 6) ++ c.c ++ c.ge ++ c.gn ++ c.gp ++ c.ext]
  | none => []

/-- The LXI word of a prefix, if there is one (R220). -/
def lxiWords : Option Lxi → List Word
  | some x => [(0 : BitVec 1) ++ (0x3E : BitVec 6) ++ x.hi ++ x.z]
  | none => []

/-- The KX word of a prefix, if there is one (R223). -/
def kxWords : Option Kx → List Word
  | some k => [(1 : BitVec 1) ++ (0x3F : BitVec 6) ++ k.imm ++ k.ge ++ k.gn ++ k.gq ++ k.ext]
  | none => []

/-- The instruction words of `i`, prefixes first, from the encodings of R213, R220, R223 (events have none). -/
def encode (i : Instr) : List Word :=
  match i with
  | .iadd w => lxcWords w.lxc ++ [packLR 0x0 0 w]
  | .isub w => lxcWords w.lxc ++ [packLR 0x0 1 w]
  | .iadds w => lxcWords w.lxc ++ [packLR 0x1 0 w]
  | .isubs w => lxcWords w.lxc ++ [packLR 0x1 1 w]
  | .imul w => lxcWords w.lxc ++ [packLR 0x2 0 w]
  | .imulh w => lxcWords w.lxc ++ [packLR 0x2 1 w]
  | .imulhn w => lxcWords w.lxc ++ [packLR 0x3 0 w]
  | .imulw w => lxcWords w.lxc ++ [packLR 0x3 1 w]
  | .imad w => lxcWords w.lxc ++ [packLR 0x4 0 w]
  | .imin w => lxcWords w.lxc ++ [packLR 0x5 0 w]
  | .imax w => lxcWords w.lxc ++ [packLR 0x5 1 w]
  | .nmin w => lxcWords w.lxc ++ [packLR 0x6 0 w]
  | .nmax w => lxcWords w.lxc ++ [packLR 0x6 1 w]
  | .land w => lxcWords w.lxc ++ [packLR 0x7 0 w]
  | .lor w => lxcWords w.lxc ++ [packLR 0x7 1 w]
  | .lxor w => lxcWords w.lxc ++ [packLR 0x8 0 w]
  | .landn w => lxcWords w.lxc ++ [packLR 0x8 1 w]
  | .shl w => lxcWords w.lxc ++ [packLR 0x9 0 w]
  | .shr w => lxcWords w.lxc ++ [packLR 0x9 1 w]
  | .sar w => lxcWords w.lxc ++ [packLR 0xa 0 w]
  | .rol w => lxcWords w.lxc ++ [packLR 0xa 1 w]
  | .bfe w => lxcWords w.lxc ++ [packLR 0xb 0 w]
  | .bfi w => lxcWords w.lxc ++ [packLR 0xb 1 w]
  | .popc w => lxcWords w.lxc ++ [packLR 0xc 0 w]
  | .clz w => lxcWords w.lxc ++ [packLR 0xc 1 w]
  | .brev w => lxcWords w.lxc ++ [packLR 0xd 0 w]
  | .iabs w => lxcWords w.lxc ++ [packLR 0xd 1 w]
  | .icmp w => lxcWords w.lxc ++ [packLR 0xe 0 w]
  | .ncmp w => lxcWords w.lxc ++ [packLR 0xe 1 w]
  | .sel w => lxcWords w.lxc ++ [packLR 0xf 0 w]
  | .mov w => lxcWords w.lxc ++ [packLR 0xf 1 w]
  | .iadd64 w => lxcWords w.lxc ++ [packLR 0x10 0 w]
  | .isub64 w => lxcWords w.lxc ++ [packLR 0x10 1 w]
  | .lea w => lxcWords w.lxc ++ [packLR 0x11 0 w]
  | .fadd w => lxcWords w.lxc ++ [packLR 0x12 0 w]
  | .fsub w => lxcWords w.lxc ++ [packLR 0x12 1 w]
  | .fmul w => lxcWords w.lxc ++ [packLR 0x13 0 w]
  | .ffma w => lxcWords w.lxc ++ [packLR 0x13 1 w]
  | .fmin w => lxcWords w.lxc ++ [packLR 0x14 0 w]
  | .fmax w => lxcWords w.lxc ++ [packLR 0x14 1 w]
  | .fcmp w => lxcWords w.lxc ++ [packLR 0x15 0 w]
  | .fcmpn w => lxcWords w.lxc ++ [packLR 0x15 1 w]
  | .frcp w => lxcWords w.lxc ++ [packLR 0x16 0 w]
  | .fsqrt w => lxcWords w.lxc ++ [packLR 0x16 1 w]
  | .frsq w => lxcWords w.lxc ++ [packLR 0x17 0 w]
  | .fexp2 w => lxcWords w.lxc ++ [packLR 0x17 1 w]
  | .flog2 w => lxcWords w.lxc ++ [packLR 0x18 0 w]
  | .fdiv w => lxcWords w.lxc ++ [packLR 0x18 1 w]
  | .ffrc w => lxcWords w.lxc ++ [packLR 0x19 0 w]
  | .frnd w => lxcWords w.lxc ++ [packLR 0x19 1 w]
  | .hadd2 w => lxcWords w.lxc ++ [packLR 0x1a 0 w]
  | .hmul2 w => lxcWords w.lxc ++ [packLR 0x1a 1 w]
  | .hfma2 w => lxcWords w.lxc ++ [packLR 0x1b 0 w]
  | .hmax2 w => lxcWords w.lxc ++ [packLR 0x1b 1 w]
  | .hmin2 w => lxcWords w.lxc ++ [packLR 0x1c 0 w]
  | .cvt w => lxcWords w.lxc ++ [packLR 0x1d 0 w]
  | .cvtp w => lxcWords w.lxc ++ [packLR 0x1d 1 w]
  | .cvtu w => lxcWords w.lxc ++ [packLR 0x1e 0 w]
  | .fsmx w => lxcWords w.lxc ++ [packLR 0x1e 1 w]
  | .dot4 w => lxcWords w.lxc ++ [packLR 0x1f 0 w]
  | .dot8 w => lxcWords w.lxc ++ [packLR 0x1f 1 w]
  | .dotf4 w => lxcWords w.lxc ++ [packLR 0x20 0 w]
  | .dotf8 w => lxcWords w.lxc ++ [packLR 0x20 1 w]
  | .shfl w => lxcWords w.lxc ++ [packLR 0x21 0 w]
  | .shflx w => lxcWords w.lxc ++ [packLR 0x21 1 w]
  | .shflu w => lxcWords w.lxc ++ [packLR 0x22 0 w]
  | .shfld w => lxcWords w.lxc ++ [packLR 0x22 1 w]
  | .gthr w => lxcWords w.lxc ++ [packLR 0x23 0 w]
  | .sctr w => lxcWords w.lxc ++ [packLR 0x23 1 w]
  | .poll w => lxcWords w.lxc ++ [packLR 0x24 0 w]
  | .matchEq w => lxcWords w.lxc ++ [packLR 0x24 1 w]
  | .redx w => lxcWords w.lxc ++ [packLR 0x25 0 w]
  | .scanx w => lxcWords w.lxc ++ [packLR 0x25 1 w]
  | .topk w => lxcWords w.lxc ++ [packLR 0x26 0 w]
  | .topkm w => lxcWords w.lxc ++ [packLR 0x26 1 w]
  | .plog w => lxcWords w.lxc ++ [packLR 0x27 0 w]
  | .ptov w => lxcWords w.lxc ++ [packLR 0x27 1 w]
  | .srd w => lxcWords w.lxc ++ [packLR 0x28 0 w]
  | .iaddi w => lxcWords w.lxc ++ lxiWords w.lxi ++ [packLI 0x29 w]
  | .andi w => lxcWords w.lxc ++ lxiWords w.lxi ++ [packLI 0x2a w]
  | .ori w => lxcWords w.lxc ++ lxiWords w.lxi ++ [packLI 0x2b w]
  | .xori w => lxcWords w.lxc ++ lxiWords w.lxi ++ [packLI 0x2c w]
  | .shi w => lxcWords w.lxc ++ [packLJ 0x2d w]
  | .icmpi w => lxcWords w.lxc ++ lxiWords w.lxi ++ [packLI 0x2e w]
  | .movi w => lxcWords w.lxc ++ lxiWords w.lxi ++ [packLI 0x2f w]
  | .ldg w => lxcWords w.lxc ++ lxiWords w.lxi ++ [packLM 0x30 w]
  | .stg w => lxcWords w.lxc ++ lxiWords w.lxi ++ [packLM 0x31 w]
  | .lds w => lxcWords w.lxc ++ lxiWords w.lxi ++ [packLM 0x32 w]
  | .sts w => lxcWords w.lxc ++ lxiWords w.lxi ++ [packLM 0x33 w]
  | .ldp w => lxcWords w.lxc ++ lxiWords w.lxi ++ [packLM 0x34 w]
  | .stp w => lxcWords w.lxc ++ lxiWords w.lxi ++ [packLM 0x35 w]
  | .atomg w => lxcWords w.lxc ++ [packLR 0x36 0 w]
  | .atoms w => lxcWords w.lxc ++ [packLR 0x37 0 w]
  | .kvx w => lxcWords w.lxc ++ [packLR 0x38 0 w]
  | .kvxNf w => lxcWords w.lxc ++ [packLR 0x38 1 w]
  | .rebinB w => [packLB 0x39 0 w]
  | .rebinS w => [packLB 0x39 1 w]
  | .spawn w => lxcWords w.lxc ++ [packLC 0x3a 0 w]
  | .await w => lxcWords w.lxc ++ [packLR 0x3b 0 w]
  | .exit w => lxcWords w.lxc ++ [packLR 0x3b 1 w]
  | .fread w => lxcWords w.lxc ++ [packLR 0x3c 0 w]
  | .ffill w => lxcWords w.lxc ++ [packLR 0x3c 1 w]
  | .acld w => lxcWords w.lxc ++ [packLR 0x3d 0 w]
  | .acst w => lxcWords w.lxc ++ [packLR 0x3d 1 w]
  | .kadd w => kxWords w.kx ++ [packUR 0x0 w]
  | .ksub w => kxWords w.kx ++ [packUR 0x1 w]
  | .kmul w => kxWords w.kx ++ [packUR 0x2 w]
  | .kmulh w => kxWords w.kx ++ [packUR 0x3 w]
  | .kand w => kxWords w.kx ++ [packUR 0x4 w]
  | .kor w => kxWords w.kx ++ [packUR 0x5 w]
  | .kxor w => kxWords w.kx ++ [packUR 0x6 w]
  | .kshl w => kxWords w.kx ++ [packUR 0x7 w]
  | .kshr w => kxWords w.kx ++ [packUR 0x8 w]
  | .ksar w => kxWords w.kx ++ [packUR 0x9 w]
  | .kmin w => kxWords w.kx ++ [packUR 0xa w]
  | .kmax w => kxWords w.kx ++ [packUR 0xb w]
  | .kcmp w => kxWords w.kx ++ [packUR 0xc w]
  | .ksel w => kxWords w.kx ++ [packUR 0xd w]
  | .kmov w => kxWords w.kx ++ [packUR 0xe w]
  | .kadd64 w => kxWords w.kx ++ [packUR 0xf w]
  | .klea w => kxWords w.kx ++ [packUR 0x10 w]
  | .kaddi w => kxWords w.kx ++ [packUI 0x11 w]
  | .kmovi w => kxWords w.kx ++ [packUI 0x12 w]
  | .klui w => kxWords w.kx ++ [packUI 0x13 w]
  | .kandi w => kxWords w.kx ++ [packUI 0x14 w]
  | .kori w => kxWords w.kx ++ [packUI 0x15 w]
  | .bra w => [packUB 0x18 w]
  | .call w => [packUB 0x19 w]
  | .brd w => [packUB 0x1a w]
  | .syn w => [packUB 0x1b w]
  | .join w => kxWords w.kx ++ [packUC 0x1c w]
  | .ret w => kxWords w.kx ++ [packUC 0x1d w]
  | .jmpr w => kxWords w.kx ++ [packUC 0x1e w]
  | .callr w => kxWords w.kx ++ [packUC 0x1f w]
  | .kld w => kxWords w.kx ++ [packUM 0x20 w]
  | .kst w => kxWords w.kx ++ [packUM 0x21 w]
  | .klds w => kxWords w.kx ++ [packUM 0x22 w]
  | .ksts w => kxWords w.kx ++ [packUM 0x23 w]
  | .katom w => kxWords w.kx ++ [packUC 0x24 w]
  | .cpy w => kxWords w.kx ++ [packUC 0x28 w]
  | .cpym w => kxWords w.kx ++ [packUC 0x29 w]
  | .qfen w => kxWords w.kx ++ [packUC 0x2a w]
  | .mres w => kxWords w.kx ++ [packUC 0x2b w]
  | .mrel w => kxWords w.kx ++ [packUC 0x2c w]
  | .mma w => kxWords w.kx ++ [packUC 0x2d w]
  | .mfen w => kxWords w.kx ++ [packUC 0x2e w]
  | .mwait w => kxWords w.kx ++ [packUC 0x2f w]
  | .twm w => kxWords w.kx ++ [packUF 0x30 0 w]
  | .tstat w => kxWords w.kx ++ [packUF 0x30 1 w]
  | .tclr w => kxWords w.kx ++ [packUF 0x30 2 w]
  | .kvld w => kxWords w.kx ++ [packUC 0x31 w]
  | .kvst w => kxWords w.kx ++ [packUC 0x32 w]
  | .kvinv w => kxWords w.kx ++ [packUC 0x33 w]
  | .mrg w => kxWords w.kx ++ [packUC 0x34 w]
  | .rfen w => kxWords w.kx ++ [packUC 0x35 w]
  | .bara w => kxWords w.kx ++ [packUC 0x36 w]
  | .barw w => kxWords w.kx ++ [packUC 0x37 w]
  | .bars w => kxWords w.kx ++ [packUC 0x38 w]
  | .slotaFree w => kxWords w.kx ++ [packUS 0x39 0 0 w]
  | .slotaFull w => kxWords w.kx ++ [packUS 0x39 0 1 w]
  | .slotrFull w => kxWords w.kx ++ [packUS 0x3a 0 1 w]
  | .slotrFree w => kxWords w.kx ++ [packUS 0x3a 0 0 w]
  | .slotrInit w => kxWords w.kx ++ [packUS 0x3a 1 0 w]
  | .waita w => kxWords w.kx ++ [packUC 0x3b w]
  | .glnch w => kxWords w.kx ++ [packUF 0x3c 0 w]
  | .gwait w => kxWords w.kx ++ [packUF 0x3c 1 w]
  | .phend w => kxWords w.kx ++ [packUF 0x3c 2 w]
  | .nop w => kxWords w.kx ++ [packUF 0x3d 0 w]
  | .yield w => kxWords w.kx ++ [packUF 0x3d 1 w]
  | .pref w => kxWords w.kx ++ [packUF 0x3d 2 w]
  | .tail w => kxWords w.kx ++ [packUF 0x3d 3 w]
  | .exitg w => kxWords w.kx ++ [packUF 0x3d 4 w]
  | .clk w => kxWords w.kx ++ [packUF 0x3d 5 w]
  | .trap w => kxWords w.kx ++ [packUF 0x3d 6 w]
  | .brkp w => kxWords w.kx ++ [packUF 0x3d 7 w]
  | .csrr w => kxWords w.kx ++ [packUF 0x3d 8 w]
  | .csrw w => kxWords w.kx ++ [packUF 0x3d 9 w]
  | .hsig w => kxWords w.kx ++ [packUF 0x3d 10 w]
  | .hflush w => kxWords w.kx ++ [packUF 0x3d 11 w]
  | .kbal w => kxWords w.kx ++ [packUF 0x3e 0 w]
  | .kfirst w => kxWords w.kx ++ [packUF 0x3e 1 w]
  | .kact w => kxWords w.kx ++ [packUF 0x3e 2 w]
  | .memoryAccessReturn _ _ => []
  | .icacheLineFill _ _ _ => []
  | .blockPlacement _ _ => []
  | .blockRetirement _ => []
  | .gridCompletion _ => []
  | .armSlotWrite _ _ _ => []
  | .retirementTrackerDrain _ _ => []
  | .allParkedDetect _ => []
  | .rebuiltGroupAdmission _ => []
  | .taskBinTimeout _ => []
  | .taskGroupPlacement _ => []
  | .chimneySweep => []
  | .futurePoll _ _ => []
  | .waitaDeadline _ _ => []
  | .operationBufferAdmit _ _ => []
  | .operationStart _ => []
  | .operationCompletion _ => []
  | .operationFault _ => []
  | .operationAbort _ _ => []
  | .mmaStart _ => []
  | .mmaWriteback _ => []
  | .cornerTurnTimeout _ _ => []
  | .ptsyncWrite _ => []
  | .ptsyncCompletion => []
  | .ppheadWrite _ _ => []
  | .coalWrite _ _ _ => []
  | .coalescerTick => []
  | .peerresWrite _ => []
  | .peerInboundWrite _ _ _ => []
  | .gangMessage _ _ _ => []
  | .priResponse _ _ => []
  | .hostWindowWrite _ _ _ => []
  | .hostWindowRead _ _ _ => []
  | .hostApertureWrite _ _ => []
  | .hostApertureRead _ _ => []
  | .replay _ _ _ => []
  | .resume _ _ _ => []
  | .teardown _ _ _ => []
  | .trapQueueRetry _ _ => []
  | .fatalvClear _ => []
  | .sliceExpiry _ _ => []
  | .priorityWaitExpiry _ _ => []
  | .gangLate _ => []
  | .watchdog _ => []
  | .powerOnReset => []
  | .firmwareReady => []
  | .recgoWrite _ => []
  | .mextWrite _ => []
  | .attctlWrite => []
  | .attestationReportReady => []
  | .dbgctlWrite => []
  | .debugTokenVerdict => []
  | .dbglvlWrite _ _ => []
  | .haltWrite _ => []
  | .releaseWrite _ => []
  | .debugWindowWrite _ _ => []
  | .clkselWrite _ => []
  | .stnpwrWrite _ _ => []
  | .diepwrWrite _ _ => []
  | .powerTransitionComplete _ => []
  | .stationIdleP2 _ => []
  | .d3hotEntry => []
  | .d0Return => []
  | .powerRemoval => []
  | .denyprodRead => []
  | .numaggClrWrite _ => []
  | .eccHoldWrite _ _ => []
  | .softErrorCorrected _ => []
  | .softErrorUncorrectable _ _ => []
  | .latchParityError _ _ => []
  | .pcapWrite _ => []
  | .tcapWrite _ => []
  | .powerOverCap _ => []
  | .dutyStepTick _ => []
  | .tempOverCap _ _ => []
  | .thermalStop _ _ => []
  | .i3cPrivateRead _ => []
  | .i3cPrivateWrite _ _ => []
  | .registerWrite _ _ _ _ => []
  | .recoveryVerdict => []
  | .thermalStopEnd => []
  | .tempCapEnd => []
  | .powerCapEnd => []
  | .peerLinkTraining _ _ => []
  | .dynamicAddressAssignment _ => []
  | .illegalOpcode _ _ => []

end Sys2Proof
end

