-- ==== Sys2Proof/Machine/Num.lean ====
section
/-! DEFINITION. Number formats, exact values, rounding and conversion (R125 to R149). Values are exact dyadics; a result is
rounded once. -/

namespace Sys2Proof.Machine

/-- Floating-point formats of R127: exponent and significand widths, bias, what the top exponent means, and the bits
below the format's fields in its register image (13 for E8M10). -/
structure FloatFmt where
  ebits : Nat
  mbits : Nat
  bias : Nat
  top : Nat
  low : Nat
  deriving DecidableEq, Repr

/-- The top exponent holds infinity and NaN. -/
def topIeee : Nat := 0
/-- Only the all-ones code is NaN (E4M3). -/
def topE4m3 : Nat := 1
/-- Every code is a number. -/
def topNone : Nat := 2

def fp36 : FloatFmt := ⟨8, 27, 127, 0, 0⟩
def fp32 : FloatFmt := ⟨8, 23, 127, 0, 0⟩
def e8m10 : FloatFmt := ⟨8, 10, 127, 0, 13⟩
def bf16 : FloatFmt := ⟨8, 7, 127, 0, 0⟩
def fp16 : FloatFmt := ⟨5, 10, 15, 0, 0⟩
def e5m2 : FloatFmt := ⟨5, 2, 15, 0, 0⟩
def e4m3 : FloatFmt := ⟨4, 3, 7, 1, 0⟩
def e3m2 : FloatFmt := ⟨3, 2, 3, 2, 0⟩
def e2m3 : FloatFmt := ⟨2, 3, 1, 2, 0⟩
def e2m1 : FloatFmt := ⟨2, 1, 1, 2, 0⟩

/-- An exact value: (−1)^neg · mag · 2^exp, an infinity, or a NaN (signalling or not). `exp` is the position of the
source's least significant bit, which R145 counts from. -/
inductive Val where
  | num (neg : Bool) (mag : Nat) (exp : Int)
  | inf (neg : Bool)
  | nan (sig : Bool)
  deriving DecidableEq, Repr

/-- Exponent of the unit in the last place of the subnormals. -/
def FloatFmt.qmin (f : FloatFmt) : Int := 1 - (f.bias : Int) - (f.mbits : Int)

/-- Largest magnitude code of the format without its `low` bits (R128). -/
def FloatFmt.maxCode (f : FloatFmt) : Nat :=
  if f.top = topIeee then (2 ^ f.ebits - 1) * 2 ^ f.mbits - 1
  else if f.top = topE4m3 then 2 ^ (f.ebits + f.mbits) - 2
  else 2 ^ (f.ebits + f.mbits) - 1

/-- Magnitude code of infinity. -/
def FloatFmt.infCode (f : FloatFmt) : Nat := (2 ^ f.ebits - 1) * 2 ^ f.mbits

/-- The canonical NaN (R128), sign 0, in the register image. -/
def FloatFmt.nanBits (f : FloatFmt) : Nat :=
  (if f.top = topE4m3 then 2 ^ (f.ebits + f.mbits) - 1 else f.infCode + 2 ^ (f.mbits - 1)) * 2 ^ f.low

/-- The register image of a sign and a magnitude code. -/
def FloatFmt.image (f : FloatFmt) (neg : Bool) (code : Nat) : Nat :=
  ((if neg then 2 ^ (f.ebits + f.mbits) else 0) + code) * 2 ^ f.low

/-- The value of a register image (R127). Bits below the fields are ignored, bits above them too. -/
def FloatFmt.decode (f : FloatFmt) (bits : Nat) : Val :=
  let x := bits / 2 ^ f.low
  let neg := decide (x / 2 ^ (f.ebits + f.mbits) % 2 = 1)
  let e := x / 2 ^ f.mbits % 2 ^ f.ebits
  let m := x % 2 ^ f.mbits
  if f.top = topIeee ∧ e = 2 ^ f.ebits - 1 then
    if m = 0 then .inf neg else .nan (decide (2 < f.mbits) && decide (m < 2 ^ (f.mbits - 1)))
  else if f.top = topE4m3 ∧ e = 2 ^ f.ebits - 1 ∧ m = 2 ^ f.mbits - 1 then .nan false
  else if e = 0 then .num neg m f.qmin
  else .num neg (2 ^ f.mbits + m) (f.qmin + ((e : Int) - 1))

/-- How an inexact magnitude is rounded (R132): a mode of the sign, the stochastic word u of R145, or the dither entry
D[i] of R147. -/
inductive Rnd where
  | rne
  | rtz
  | rup
  | rdn
  | rna
  | sr (rot : Nat)
  | dth (d : Nat)
  deriving DecidableEq, Repr

/-- Mode code without SR and DTH (R132, R133): those and code 111 act as RNE. -/
def rndOfMode (m : Nat) : Rnd :=
  if m = 1 then .rtz else if m = 2 then .rup else if m = 3 then .rdn else if m = 4 then .rna else .rne

/-- Whether a magnitude with quotient `s`, remainder `g` over `2^n` rounds up (R132, R145, R147). -/
def roundsUp (r : Rnd) (neg : Bool) (s g n : Nat) : Bool :=
  match r with
  | .rne => decide (2 ^ n < 2 * g) || (decide (2 * g = 2 ^ n) && decide (s % 2 = 1))
  | .rtz => false
  | .rup => !neg && decide (g ≠ 0)
  | .rdn => neg && decide (g ≠ 0)
  | .rna => decide (2 ^ n ≤ 2 * g)
  | .sr rot =>
    let k := min n 32
    decide (2 ^ k ≤ g / 2 ^ (n - k) + rot % 2 ^ k)
  | .dth d =>
    let k := min n 32
    let u := if 5 ≤ k then d * 2 ^ (k - 5) else d / 2 ^ (5 - k)
    decide (2 ^ k ≤ g / 2 ^ (n - k) + u)

/-- Rounds mag · 2^exp to a multiple of 2^q: the multiple and whether it is inexact. -/
def roundAt (r : Rnd) (neg : Bool) (mag : Nat) (exp q : Int) : Nat × Bool :=
  if q ≤ exp then (mag * 2 ^ (exp - q).toNat, false)
  else
    let n := (q - exp).toNat
    let s := mag / 2 ^ n
    let g := mag % 2 ^ n
    if g = 0 then (s, false) else (if roundsUp r neg s g n then s + 1 else s, true)

/-- Whether an overflow delivers ±M for the mode (left column of R138). -/
def towardZero (r : Rnd) (neg : Bool) : Bool :=
  match r with
  | .rtz => true
  | .rdn => !neg
  | .rup => neg
  | _ => false

/-- R138: the result of an overflow, register image and events. -/
def overflowTo (f : FloatFmt) (r : Rnd) (sat : Bool) (neg : Bool) : Nat × Ev :=
  let e : Ev := { of := true, nx := true }
  if towardZero r neg || f.top = topNone || (sat && f.ebits + f.mbits < 8) then
    (f.image neg f.maxCode, { of := true, nx := true, satc := 1 })
  else if f.top = topE4m3 then (f.nanBits, e)
  else (f.image neg f.infCode, e)

/-- A finite magnitude delivered in a float format (R137, R138, R141). -/
def roundNum (f : FloatFmt) (r : Rnd) (sat neg : Bool) (mag : Nat) (exp : Int) : Nat × Ev :=
  if mag = 0 then (f.image neg 0, Ev.none)
  else
    let q := max (exp + (Nat.log2 mag : Int) - (f.mbits : Int)) f.qmin
    let p := roundAt r neg mag exp q
    let code := (q - f.qmin).toNat * 2 ^ f.mbits + p.1
    if f.maxCode < code then overflowTo f r sat neg
    else (f.image neg code, { nx := p.2, uf := p.2 && decide (code < 2 ^ f.mbits) })

/-- A value delivered in a float format (R137 to R139). -/
def roundTo (f : FloatFmt) (r : Rnd) (sat : Bool) (v : Val) : Nat × Ev :=
  match v with
  | .num neg mag exp => roundNum f r sat neg mag exp
  | .inf neg =>
    if f.top = topIeee then (f.image neg f.infCode, Ev.none)
    else if f.top = topE4m3 ∧ sat = false then (f.nanBits, Ev.inexact true)
    else (f.image neg f.maxCode, { satc := 1, nx := true })
  | .nan sig => if f.top = topNone then (0, { nv := true, nzc := 1 }) else (f.nanBits, { nv := sig })

/-- A dyadic as a signed integer at exponent `e` (exact when `e` is at or below its exponent). -/
def scaleTo (neg : Bool) (mag : Nat) (exp e : Int) : Int :=
  let x : Int := (mag * 2 ^ (exp - e).toNat : Nat)
  if neg then -x else x

/-- A signed integer at exponent `e` as a value; `zneg` is the sign of a zero. -/
def ofScaled (x : Int) (e : Int) (zneg : Bool) : Val :=
  if x = 0 then .num zneg 0 e else .num (decide (x < 0)) x.natAbs e

/-- R136: sign of an exact zero sum of operands of signs `a` and `b` when both are zero, or when they cancel. -/
def zeroSign (r : Rnd) (bothZero a b : Bool) : Bool :=
  if bothZero && (a == b) then a else decide (r = .rdn)

/-- The exact sum of two values: the result, and whether it is invalid (R136). -/
def addVal (r : Rnd) (a b : Val) : Val × Bool :=
  match a, b with
  | .nan x, .nan y => (.nan false, x || y)
  | .nan x, _ => (.nan false, x)
  | _, .nan y => (.nan false, y)
  | .inf x, .inf y => if x = y then (.inf x, false) else (.nan false, true)
  | .inf x, _ => (.inf x, false)
  | _, .inf y => (.inf y, false)
  | .num x m e, .num y n g =>
    let q := min e g
    (ofScaled (scaleTo x m e q + scaleTo y n g q) q (zeroSign r (decide (m = 0) && decide (n = 0)) x y), false)

/-- The exact product of two values, and whether it is invalid (R136). -/
def mulVal (a b : Val) : Val × Bool :=
  match a, b with
  | .nan x, .nan y => (.nan false, x || y)
  | .nan x, _ => (.nan false, x)
  | _, .nan y => (.nan false, y)
  | .inf x, .inf y => (.inf (x != y), false)
  | .inf x, .num y n _ => if n = 0 then (.nan false, true) else (.inf (x != y), false)
  | .num x m _, .inf y => if m = 0 then (.nan false, true) else (.inf (x != y), false)
  | .num x m e, .num y n g => (.num (x != y) (m * n) (e + g), false)

/-- −v. -/
def negVal (v : Val) : Val :=
  match v with
  | .num s m e => .num (!s) m e
  | .inf s => .inf (!s)
  | .nan q => .nan q

/-- A value rounded to a lane arithmetic result; `bad` is an invalid operation (R136). -/
def finish (f : FloatFmt) (r : Rnd) (p : Val × Bool) : Nat × Ev :=
  match p.1 with
  | .nan _ => (f.nanBits, { nv := p.2 })
  | v => roundTo f r false v

/-- a + b rounded once (R255). -/
def fpAdd (f : FloatFmt) (r : Rnd) (a b : Nat) : Nat × Ev := finish f r (addVal r (f.decode a) (f.decode b))

/-- a − b rounded once (R255). -/
def fpSub (f : FloatFmt) (r : Rnd) (a b : Nat) : Nat × Ev := finish f r (addVal r (f.decode a) (negVal (f.decode b)))

/-- a · b rounded once (R255). -/
def fpMul (f : FloatFmt) (r : Rnd) (a b : Nat) : Nat × Ev := finish f r (mulVal (f.decode a) (f.decode b))

/-- a · b + c rounded once; an invalid product keeps its NV whatever c is (R255). -/
def fpFma (f : FloatFmt) (r : Rnd) (a b c : Nat) : Nat × Ev :=
  let p := mulVal (f.decode a) (f.decode b)
  let s := addVal r p.1 (f.decode c)
  finish f r (s.1, p.2 || s.2)

/-- The quotient of two magnitudes with `k` extra bits, and a sticky bit as the lowest (R255: exact quotient). -/
def divMag (m n k : Nat) : Nat := 2 * (m * 2 ^ k / n) + (if m * 2 ^ k % n = 0 then 0 else 1)

/-- The exact quotient of two values (up to the sticky bit), and whether it is invalid (R136, R255). -/
def divVal (a b : Val) : Val × Bool :=
  match a, b with
  | .nan x, .nan y => (.nan false, x || y)
  | .nan x, _ => (.nan false, x)
  | _, .nan y => (.nan false, y)
  | .inf _, .inf _ => (.nan false, true)
  | .inf x, .num y _ _ => (.inf (x != y), false)
  | .num x _ _, .inf y => (.num (x != y) 0 0, false)
  | .num x m e, .num y n g =>
    if n = 0 then (if m = 0 then (.nan false, true) else (.inf (x != y), false))
    else (.num (x != y) (divMag m n 64) (e - g - 65), false)

/-- a / b rounded once (R255). -/
def fpDiv (f : FloatFmt) (r : Rnd) (a b : Nat) : Nat × Ev := finish f r (divVal (f.decode a) (f.decode b))

/-- 1 / a rounded once (R258). -/
def fpRcp (f : FloatFmt) (r : Rnd) (a : Nat) : Nat × Ev := finish f r (divVal (.num false 1 0) (f.decode a))

/-- Integer square root of `n` by bits, `k` the number of result bits still to settle. -/
def isqrtGo (n : Nat) : Nat → Nat → Nat
  | 0, r => r
  | k + 1, r => if (r + 2 ^ k) * (r + 2 ^ k) ≤ n then isqrtGo n k (r + 2 ^ k) else isqrtGo n k r

/-- floor(√n). -/
def isqrt (n : Nat) : Nat := isqrtGo n (Nat.log2 n / 2 + 1) 0

/-- √n with a sticky bit as the lowest. -/
def isqrtSticky (n : Nat) : Nat := let r := isqrt n; 2 * r + (if r * r = n then 0 else 1)

/-- √v, correctly rounded up to its sticky bit (R258). -/
def sqrtVal (v : Val) : Val × Bool :=
  match v with
  | .nan s => (.nan false, s)
  | .inf s => if s then (.nan false, true) else (.inf false, false)
  | .num s m e =>
    if m = 0 then (.num s 0 0, false)
    else if s then (.nan false, true)
    else
      let odd := decide (e % 2 ≠ 0)
      let m' := if odd then 2 * m else m
      let e' := if odd then e - 1 else e
      (.num false (isqrtSticky (m' * 2 ^ 64)) (e' / 2 - 33), false)

/-- 1/√v, correctly rounded up to its sticky bit (R258). -/
def rsqVal (v : Val) : Val × Bool :=
  match v with
  | .nan s => (.nan false, s)
  | .inf s => if s then (.nan false, true) else (.num false 0 0, false)
  | .num s m e =>
    if m = 0 then (.inf s, false)
    else if s then (.nan false, true)
    else
      let odd := decide (e % 2 ≠ 0)
      let m' := if odd then 2 * m else m
      let e' := if odd then e - 1 else e
      let n := 2 ^ 160 / m'
      let t := isqrt n
      let sticky := if 2 ^ 160 % m' = 0 ∧ t * t = n then 0 else 1
      (.num false (2 * t + sticky) (-(e' / 2) - 81), false)

/-- Working precision of the exponential and the logarithm, in bits below 1. DEDUCED: R136 asks for correct rounding; no
FP32 operand of these functions comes closer to a rounding boundary than this precision tells apart. -/
def fixBits : Nat := 576

/-- floor(ln 2 · 2^576) by its series Σ 1 / (k · 2^k), `k` counting down. -/
def ln2Go : Nat → Nat
  | 0 => 0
  | k + 1 => 2 ^ 640 / ((k + 1) * 2 ^ (k + 1)) + ln2Go k

/-- ln 2 in units of 2^−576. -/
def ln2Fix : Nat := ln2Go 640 / 2 ^ 64

/-- Taylor sum of the exponential of `x` (units of 2^−576): term `t` is xᵏ/k!. -/
def expGo (x : Nat) : Nat → Nat → Nat → Nat
  | 0, _, _ => 0
  | fuel + 1, k, t => t + expGo x fuel (k + 1) (t * x / 2 ^ 576 / (k + 1))

/-- 2^f in units of 2^−576, for 0 ≤ f < 2^576 in units of 2^−576. -/
def exp2Frac (f : Nat) : Nat := expGo (f * ln2Fix / 2 ^ 576) 110 0 (2 ^ 576)

/-- 2^x for the exact dyadic x = i · 2^e. Exact when x is an integer; otherwise irrational, so its sticky bit is set. -/
def exp2Val (i : Int) (e : Int) : Val :=
  if i = 0 then .num false 1 0
  else if 12 < e + (Nat.log2 i.natAbs : Int) then (if 0 < i then .num false 1 2000 else .num false 3 (-2000))
  else if 0 ≤ e then .num false 1 (i * 2 ^ e.toNat)
  else
    let d := 2 ^ (-e).toNat
    let n := i / (d : Int)
    let f := (i % (d : Int)).toNat
    if f = 0 then .num false 1 n
    else .num false (2 * exp2Frac (if 576 ≤ (-e).toNat then f / 2 ^ ((-e).toNat - 576) else f * 2 ^ (576 - (-e).toNat)) + 1) (n - 577)

/-- Series of atanh z in units of 2^−576: Σ z^(2k+1)/(2k+1), with `z2` = z². -/
def atanhGo (z2 : Nat) : Nat → Nat → Nat → Nat
  | 0, _, _ => 0
  | fuel + 1, k, t => t / k + atanhGo z2 fuel (k + 2) (t * z2 / 2 ^ 576)

/-- log2 of a positive dyadic m · 2^e. Exact for a power of two; otherwise irrational, so its sticky bit is set. -/
def log2Val (m : Nat) (e : Int) : Val :=
  let b := Nat.log2 m
  let n : Int := e + b
  if m = 2 ^ b then ofScaled n 0 false
  else
    let z := (m - 2 ^ b) * 2 ^ 576 / (m + 2 ^ b)
    let l : Nat := 2 * atanhGo (z * z / 2 ^ 576) 200 1 z * 2 ^ 576 / ln2Fix
    let x : Int := 2 * (n * (2 ^ 576 : Nat) + (l : Int)) + 1
    .num (decide (x < 0)) x.natAbs (-577)

/-- FEXP2 (R258). -/
def fpExp2 (f : FloatFmt) (r : Rnd) (a : Nat) : Nat × Ev :=
  match f.decode a with
  | .nan s => (f.nanBits, { nv := s })
  | .inf s => (if s then f.image false 0 else f.image false f.infCode, Ev.none)
  | .num s m e => roundTo f r false (exp2Val (scaleTo s m e e) e)

/-- FLOG2 (R258). -/
def fpLog2 (f : FloatFmt) (r : Rnd) (a : Nat) : Nat × Ev :=
  match f.decode a with
  | .nan s => (f.nanBits, { nv := s })
  | .inf s => if s then (f.nanBits, Ev.invalid) else (f.image false f.infCode, Ev.none)
  | .num s m e =>
    if m = 0 then (f.image true f.infCode, Ev.none)
    else if s then (f.nanBits, Ev.invalid)
    else roundTo f r false (log2Val m e)

/-- FSMX: exp2 of the exact difference (R184, R260). -/
def fpSmx (f : FloatFmt) (r : Rnd) (a b : Nat) : Nat × Ev :=
  match f.decode a, f.decode b with
  | .nan _, _ => (f.nanBits, { nv := true, smxc := 1 })
  | _, .nan _ => (f.nanBits, { nv := true, smxc := 1 })
  | .inf x, .inf y =>
    if x = y then (f.image false (f.bias * 2 ^ f.mbits), Ev.none)
    else if x then (f.image false 0, Ev.none) else (f.image false f.infCode, Ev.none)
  | .inf x, .num _ _ _ => (if x then f.image false 0 else f.image false f.infCode, Ev.none)
  | .num _ _ _, .inf y => (if y then f.image false f.infCode else f.image false 0, Ev.none)
  | .num x m e, .num y n g =>
    let q := min e g
    roundTo f r false (exp2Val (scaleTo x m e q - scaleTo y n g q) q)

/-- FFRC: the fraction above the floor, under RTZ (R259). -/
def fpFrc (f : FloatFmt) (a : Nat) : Nat × Ev :=
  match f.decode a with
  | .nan s => (f.nanBits, { nv := s })
  | .inf _ => (f.nanBits, Ev.invalid)
  | .num s m e =>
    if 0 ≤ e then (f.image false 0, Ev.none)
    else roundNum f .rtz false false (scaleTo s m e e % ((2 ^ (-e).toNat : Nat) : Int)).toNat e

/-- FRND: the integral value under the mode, with the sign of a (R259); a value below 1 that rounds to zero sets NX alone, which is the
model's choice (assumption 107). -/
def fpRnd (f : FloatFmt) (r : Rnd) (a : Nat) : Nat × Ev :=
  match f.decode a with
  | .nan s => (f.nanBits, { nv := s })
  | .inf s => (f.image s f.infCode, Ev.none)
  | .num s m e =>
    if m = 0 then (f.image s 0, Ev.none)
    else
      let p := roundAt r s m e 0
      ((roundNum f .rne false s p.1 0).1, Ev.inexact p.2)

/-- Order key of a number's bits: −∞ < … < −0 < +0 < … < +∞ (R256). -/
def fpKey (f : FloatFmt) (bits : Nat) : Int :=
  let h := 2 ^ (f.ebits + f.mbits)
  if bits / h % 2 = 1 then -((bits % h : Nat) : Int) - 1 else (bits % h : Nat)

def isNan (v : Val) : Bool :=
  match v with
  | .nan _ => true
  | _ => false

def isSig (v : Val) : Bool :=
  match v with
  | .nan s => s
  | _ => false

/-- FMIN (`big` false) or FMAX of two operands (R256). -/
def fpMinMax (f : FloatFmt) (big : Bool) (a b : Nat) : Nat × Ev :=
  let x := f.decode a
  let y := f.decode b
  let e : Ev := { nv := isSig x || isSig y }
  if isNan x && isNan y then (f.nanBits, e)
  else if isNan x then (b, e)
  else if isNan y then (a, e)
  else if big then (if fpKey f a < fpKey f b then b else a, e)
  else (if fpKey f b < fpKey f a then b else a, e)

/-- Order of two numbers as reals: −0 = +0 (R257). -/
def fpCmp (f : FloatFmt) (a b : Nat) : Ordering :=
  let z (x : Nat) : Int := if x % 2 ^ (f.ebits + f.mbits) = 0 then 0 else fpKey f x + (if 0 ≤ fpKey f x then 0 else 1)
  compare (z a) (z b)

/-- The condition codes of R217 on an ordering. -/
def cndHolds (cnd : Nat) (o : Ordering) : Bool :=
  match cnd with
  | 0 => o == .eq
  | 1 => o != .eq
  | 2 => o == .lt
  | 3 => o != .gt
  | 4 => o == .gt
  | 5 => o != .lt
  | _ => false

/-- FCMP and FCMPN (`quiet` true counts any NaN) under a condition of R217 (R257). -/
def fpCompare (f : FloatFmt) (quiet : Bool) (cnd a b : Nat) : Bool × Ev :=
  let x := f.decode a
  let y := f.decode b
  let un := isNan x || isNan y
  let e : Ev := { nv := isSig x || isSig y || (quiet && un) }
  (if un then decide (cnd = 1) || decide (cnd = 7) else decide (cnd = 6) || cndHolds cnd (fpCmp f a b), e)

/-! Conversions (R137 to R143). -/

/-- Classes of the format codes of R125. -/
inductive FmtClass where
  | float (f : FloatFmt)
  | int (width : Nat) (signed : Bool)
  | bin
  | tern
  | e8m0
  | e4m3s
  | raw (width : Nat)
  deriving DecidableEq, Repr

/-- The format a code names (R125); `none` outside the table. -/
def fmtOf (code : Nat) : Option FmtClass :=
  match code with
  | 0x00 => some (.raw 8)
  | 0x01 => some (.raw 16)
  | 0x02 => some (.raw 32)
  | 0x03 => some (.float fp32)
  | 0x04 => some (.float fp36)
  | 0x05 => some (.int 36 true)
  | 0x08 => some .bin
  | 0x09 => some .tern
  | 0x0A => some (.int 4 true)
  | 0x0B => some (.int 4 false)
  | 0x0C => some (.int 8 true)
  | 0x0D => some (.int 8 false)
  | 0x10 => some (.float e2m1)
  | 0x11 => some (.float e2m3)
  | 0x12 => some (.float e3m2)
  | 0x13 => some (.float e4m3)
  | 0x14 => some (.float e5m2)
  | 0x18 => some (.float bf16)
  | 0x19 => some (.float fp16)
  | 0x1A => some (.float e8m10)
  | 0x20 => some .e8m0
  | 0x21 => some .e4m3s
  | _ => none

/-- Width in bits by code (R125). -/
def fmtWidth (code : Nat) : Nat :=
  match code with
  | 0x00 => 8
  | 0x01 => 16
  | 0x02 => 32
  | 0x03 => 32
  | 0x04 => 36
  | 0x05 => 36
  | 0x08 => 1
  | 0x09 => 2
  | 0x0A => 4
  | 0x0B => 4
  | 0x0C => 8
  | 0x0D => 8
  | 0x10 => 4
  | 0x11 => 6
  | 0x12 => 6
  | 0x13 => 8
  | 0x14 => 8
  | 0x18 => 16
  | 0x19 => 16
  | 0x1A => 19
  | 0x20 => 8
  | 0x21 => 8
  | _ => 0

/-- Storage width: a byte for the 6-bit formats, a word for E8M10 (R131, R143). -/
def storageWidth (code : Nat) : Nat :=
  if code = 0x11 ∨ code = 0x12 then 8 else if code = 0x1A then 32 else fmtWidth code

/-- Storage bits with the bits consumers ignore cleared (R143). -/
def storageBits (code bits : Nat) : Nat :=
  if code = 0x11 ∨ code = 0x12 then bits % 64
  else if code = 0x1A then bits % 2 ^ 32 / 8192 * 8192
  else bits % 2 ^ storageWidth code

/-- x modulo 2^w as a natural number. -/
def wrapInt (w : Nat) (x : Int) : Nat := (x % ((2 ^ w : Nat) : Int)).toNat

/-- Signed value of the low w bits. -/
def signedOf (w bits : Nat) : Int :=
  let x := bits % 2 ^ w
  if 2 ^ (w - 1) ≤ x then (x : Int) - (2 ^ w : Nat) else x

/-- The value an element denotes (R127, R129, R130). -/
def fmtDecode (c : FmtClass) (bits : Nat) : Val :=
  match c with
  | .float f => f.decode bits
  | .int w s => ofScaled (if s then signedOf w bits else ((bits % 2 ^ w : Nat) : Int)) 0 false
  | .bin => .num (decide (bits % 2 = 1)) 1 0
  | .tern => if bits % 4 = 1 then .num false 1 0 else if bits % 4 = 3 then .num true 1 0 else .num false 0 0
  | .e8m0 => if bits % 256 = 255 then .nan false else .num false 1 (((bits % 256 : Nat) : Int) - 127)
  | .e4m3s => e4m3.decode (bits % 128)
  | .raw w => .num false (bits % 2 ^ w) 0

/-- Smallest and largest value of an integer format (R129). -/
def intRange (w : Nat) (signed : Bool) : Int × Int :=
  if signed then (-((2 ^ (w - 1) : Nat) : Int), ((2 ^ (w - 1) : Nat) : Int) - 1) else (0, ((2 ^ w : Nat) : Int) - 1)

/-- A value rounded to an integer in lo..hi (R139, R140, and the TERN2 clamp of R141). -/
def toIntRange (r : Rnd) (lo hi : Int) (v : Val) : Int × Ev :=
  match v with
  | .nan _ => (0, { nv := true, nzc := 1 })
  | .inf s => (if s then lo else hi, { nv := true, satc := 1 })
  | .num s m e =>
    let p := roundAt r s m e 0
    let x : Int := if s then -(p.1 : Int) else p.1
    if x < lo then (lo, { nv := true, satc := 1 })
    else if hi < x then (hi, { nv := true, satc := 1 })
    else (x, Ev.inexact p.2)

/-- A value converted to an E8M0 scale (R139, R141). The sign is ignored, and a negative input whose magnitude is exact sets no NX: R141 names
both the ignored sign and NX for a value that differs (DESIGN CHOICE, assumption 100). -/
def toE8m0 (r : Rnd) (v : Val) : Nat × Ev :=
  match v with
  | .nan _ => (0xFF, Ev.none)
  | .inf _ => (0xFF, Ev.inexact true)
  | .num _ m e =>
    if m = 0 then (0, { uf := true, nx := true })
    else
      let b := Nat.log2 m
      let f : Int := e + b
      let exact := decide (m = 2 ^ b)
      let up := if exact then false
        else match r with
          | .rtz => false
          | .rdn => false
          | .rup => true
          | _ => decide (3 * 2 ^ b ≤ 2 * m)
      let x := if up then f + 1 else f
      if x < -127 then (0, { uf := true, nx := true })
      else if 127 < x then (0xFE, { of := true, nx := true, satc := 1 })
      else ((x + 127).toNat, Ev.inexact (!exact))

/-- A value delivered in a format (R137 to R141); raw destinations are R143's. Of the E4M3 scale: a negative input whose magnitude is exact
sets no NX, as for E8M0, and an infinite one gives 0x7E with NX and without SATC, which R139 does not count there (DESIGN CHOICE,
assumption 100). -/
def deliver (c : FmtClass) (r : Rnd) (sat : Bool) (v : Val) : Nat × Ev :=
  match c with
  | .float f => roundTo f r sat v
  | .int w s =>
    let b := intRange w s
    let p := toIntRange r b.1 b.2 v
    (wrapInt w p.1, p.2)
  | .bin =>
    match v with
    | .nan _ => (0, { nv := true, nzc := 1 })
    | .inf s => (if s then 1 else 0, Ev.inexact true)
    | .num s m e =>
      let one := if 0 ≤ e then decide (m * 2 ^ e.toNat = 1) else decide (m = 2 ^ (-e).toNat)
      (if s && decide (m ≠ 0) then 1 else 0, Ev.inexact (!one))
  | .tern => let p := toIntRange r (-1) 1 v; (wrapInt 2 p.1, p.2)
  | .e8m0 => toE8m0 r v
  | .e4m3s =>
    match v with
    | .nan _ => (0x7F, Ev.none)
    | .inf _ => (0x7E, Ev.inexact true)
    | .num _ m e => roundNum e4m3 r true false m e
  | .raw w =>
    match v with
    | .num _ m e => (m * 2 ^ e.toNat % 2 ^ w, Ev.none)
    | _ => (0, Ev.none)

/-- Integer sources of R142. BIN1 and TERN2, of which R142 does not speak, are taken for integer sources of 1 and 2 bits (DESIGN CHOICE,
assumption 99). -/
def isIntSource (c : FmtClass) : Bool :=
  match c with
  | .int _ _ => true
  | .bin => true
  | .tern => true
  | _ => false

/-- The raw class. -/
def isRaw (c : FmtClass) : Bool :=
  match c with
  | .raw _ => true
  | _ => false

/-- Bits of an integer-like source. -/
def intBits (c : FmtClass) : Nat :=
  match c with
  | .int w _ => w
  | .bin => 1
  | .tern => 2
  | _ => 0

/-- An integer-like source of `n` bits to an integer destination: extended to a wider one, the bits of a negative number to an unsigned one
too; else exact, or saturated with SATC + 1 and no flag (R142). R142 names wider and narrower destinations: one of the same width takes the
narrower's rule (DESIGN CHOICE, assumption 99). -/
def intToInt (n w : Nat) (s : Bool) (v : Val) : Nat × Ev :=
  match v with
  | .num neg m e =>
    let x := scaleTo neg m e 0
    let b := intRange w s
    if n < w then (wrapInt w x, Ev.none)
    else if x < b.1 then (wrapInt w b.1, { satc := 1 })
    else if b.2 < x then (wrapInt w b.2, { satc := 1 })
    else (wrapInt w x, Ev.none)
  | _ => (0, Ev.none)

/-- Element `bits` of format `src` converted to format `dst` (R137 to R143); the result is the element's storage bits. A raw copy keeps
the unused code 10 of TERN2, which is the model's choice (assumption 104). -/
def convert (dst src : Nat) (r : Rnd) (sat : Bool) (bits : Nat) : Nat × Ev :=
  match fmtOf dst, fmtOf src with
  | some d, some s =>
    if isRaw d || isRaw s then (storageBits dst (storageBits src bits), Ev.none)
    else
      match d with
      | .int w g => if isIntSource s then intToInt (intBits s) w g (fmtDecode s bits) else deliver d r sat (fmtDecode s bits)
      | _ => deliver d r sat (fmtDecode s bits)
  | _, _ => (0, Ev.none)

/-- One xorshift advance (R144). -/
def xorshift (s : Word) : Word :=
  let a := s ^^^ (s <<< 13)
  let b := a ^^^ (a >>> 17)
  b ^^^ (b <<< 5)

/-- A generator load (R144): SEED xor the place, and the replacement of zero. -/
def seedLoad (seed : Word) (core pipe : Nat) : Word :=
  let x := seed ^^^ BitVec.ofNat 32 (core * 65536 + pipe)
  if x = 0 then 0x1D872B41 else x

/-- Rotation of a 32-bit word to the left. -/
def rotl32 (s : Word) (n : Nat) : Word := s.rotateLeft (n % 32)

/-- Bit reversal of a 5-bit number: the dither table D of R147. -/
def dither5 (i : Nat) : Nat :=
  i % 2 * 16 + i / 2 % 2 * 8 + i / 4 % 2 * 4 + i / 8 % 2 * 2 + i / 16 % 2

/-- The exact sum of a list of numbers at exponent `q`, which is at or below every exponent. -/
def sumAt (q : Int) (l : List Val) : Int :=
  l.foldl (fun acc v => match v with | .num s m e => acc + scaleTo s m e q | _ => acc) 0

/-- Least exponent of a list of values. -/
def minExp (l : List Val) : Int :=
  l.foldl (fun acc v => match v with | .num _ _ e => min acc e | _ => acc) 0

/-- Whether every number of the list is a zero, and of sign `s`. -/
def allZero (s : Bool) (l : List Val) : Bool :=
  l.all fun v => match v with
    | .num x m _ => decide (m = 0) && (x == s)
    | _ => false

/-- The exact sum of a list of values with one rounding (R267, R277): a NaN, or infinities of both signs, give the
canonical NaN; `sig` is a signalling operand or an invalid product. -/
def fpSum (f : FloatFmt) (r : Rnd) (sig : Bool) (l : List Val) : Nat × Ev :=
  let pinf := l.any fun v => v == .inf false
  let ninf := l.any fun v => v == .inf true
  if l.any isNan then (f.nanBits, { nv := sig || (pinf && ninf) })
  else if pinf && ninf then (f.nanBits, Ev.invalid)
  else if pinf then (f.image false f.infCode, Ev.none)
  else if ninf then (f.image true f.infCode, Ev.none)
  else
    let q := minExp l
    roundTo f r false (ofScaled (sumAt q l) q (if allZero true l then true else if allZero false l then false else decide (r = .rdn)))

end Sys2Proof.Machine
end

