-- ==== Sys2Proof/Machine/Alu.lean ====
section
/-! DEFINITION. The arithmetic of the lane and uniform instructions as functions of source bits: integers (R235 to R247,
R293 to R296) and floating point, packed halves, conversions and dot products (R255 to R267). -/

namespace Sys2Proof.Machine

/-- clamp of an exact integer into 32 bits, signed or unsigned (R235). -/
def clamp32 (u : Bool) (x : Int) : Word :=
  let b := intRange 32 (!u)
  BitVec.ofInt 32 (if x < b.1 then b.1 else if b.2 < x then b.2 else x)

/-- The value of a word, unsigned or signed. -/
def valOf (u : Bool) (a : Word) : Int := if u then (a.toNat : Int) else a.toInt

/-- IADDS (R235). -/
def addSat (u : Bool) (a b : Word) : Word := clamp32 u (valOf u a + valOf u b)

/-- ISUBS (R235). -/
def subSat (u : Bool) (a b : Word) : Word := clamp32 u (valOf u a - valOf u b)

/-- High word of a product (IMULH, IMULHN, KMULH). -/
def mulHigh (u : Bool) (a b : Word) : Word := BitVec.ofInt 32 (valOf u a * valOf u b / 4294967296)

/-- IMULW: the full product (R235). -/
def mulWide (u : Bool) (a b : Word) : Dword := BitVec.ofInt 64 (valOf u a * valOf u b)

/-- Minimum (`big` false) or maximum by signed or unsigned value (R236, R293). -/
def pick (u big : Bool) (a b : Word) : Word :=
  if big then (if valOf u a < valOf u b then b else a) else (if valOf u b < valOf u a then b else a)

/-- SHL by b[5:0] (R237). -/
def shl32 (a b : Word) : Word := let s := b.toNat % 64; if s < 32 then a <<< s else 0

/-- SHR by b[5:0] (R237). -/
def shr32 (a b : Word) : Word := let s := b.toNat % 64; if s < 32 then a >>> s else 0

/-- SAR by b[5:0] (R237). -/
def sar32 (a b : Word) : Word :=
  let s := b.toNat % 64
  if s < 32 then a.sshiftRight s else if a.getLsbD 31 then BitVec.allOnes 32 else 0

/-- ROL by b[4:0] (R237). -/
def rol32 (a b : Word) : Word := a.rotateLeft (b.toNat % 32)

/-- SHI: the kind in IMM9[8:7], the amount in IMM9[4:0] (R238). -/
def shi32 (imm : BitVec 9) (a : Word) : Word :=
  let n := BitVec.ofNat 32 (imm.toNat % 32)
  match imm.toNat / 128 with
  | 0 => shl32 a n
  | 1 => shr32 a n
  | 2 => sar32 a n
  | _ => rol32 a n

/-- Field position and length of a BFE or BFI control word (R239). -/
def fieldOf (b : Word) : Nat × Nat :=
  let pos := b.toNat % 32
  (pos, min (b.toNat / 256 % 64) (32 - pos))

/-- BFE (R239). -/
def bfe32 (s : Bool) (a b : Word) : Word :=
  let p := fieldOf b
  let f := a.toNat / 2 ^ p.1 % 2 ^ p.2
  if s && decide (0 < p.2) && decide (2 ^ (p.2 - 1) ≤ f) then BitVec.ofInt 32 ((f : Int) - (2 ^ p.2 : Nat))
  else BitVec.ofNat 32 f

/-- BFI (R239). -/
def bfi32 (a b c : Word) : Word :=
  let p := fieldOf b
  let m := BitVec.ofNat 32 ((2 ^ p.2 - 1) * 2 ^ p.1)
  (c &&& ~~~m) ||| ((a <<< p.1) &&& m)

/-- Number of one bits in the low `n` bits. -/
def onesBelow (x : Nat) : Nat → Nat
  | 0 => 0
  | n + 1 => (if x.testBit n then 1 else 0) + onesBelow x n

/-- POPC (R239). -/
def popc32 (a : Word) : Word := BitVec.ofNat 32 (onesBelow a.toNat 32)

/-- CLZ (R239). -/
def clz32 (a : Word) : Word := BitVec.ofNat 32 (if a = 0 then 32 else 31 - Nat.log2 a.toNat)

/-- Bits of `x` below `n`, reversed. -/
def revBits (x : Nat) : Nat → Nat
  | 0 => 0
  | n + 1 => (if x.testBit n then 2 ^ (31 - n) else 0) + revBits x n

/-- BREV (R239). -/
def brev32 (a : Word) : Word := BitVec.ofNat 32 (revBits a.toNat 32)

/-- IABS modulo 2^32 (R239). -/
def iabs32 (a : Word) : Word := if a.getLsbD 31 then 0 - a else a

/-- Integer compare under a condition of R217 (R240, R294). -/
def icmp32 (u : Bool) (cnd : Nat) (a b : Word) : Bool := cndHolds cnd (compare (valOf u a) (valOf u b))

/-- The immediate of an LI word (R243). -/
def liImm (imm : BitVec 9) (x : Option Nat) : Word :=
  match x with
  | some hi => BitVec.ofNat 32 (hi * 512 + imm.toNat)
  | none => imm.signExtend 32

/-- LEA and KLEA: base plus scaled index (R246, R295). -/
def lea64 (u : Bool) (sh : Nat) (p : Dword) (b : Word) : Dword :=
  p + BitVec.ofInt 64 (valOf u b * (2 ^ sh : Nat))

/-- Entry of the truth table of PLOG (R247). -/
def plogBit (tt : Nat) (a b : Bool) : Bool := tt.testBit (2 * (if a then 1 else 0) + (if b then 1 else 0))

/-- A Nat result and its events as a register. -/
def asWord (p : Nat × Ev) : Word × Ev := (BitVec.ofNat 32 p.1, p.2)

/-- Element `e` of 16 bits. -/
def half (x : Word) (e : Nat) : Nat := x.toNat / 2 ^ (16 * e) % 65536

/-- A packed-half operation applied to both elements (R261). -/
def packed2 (op : Nat → Nat → Nat → Nat × Ev) (a b c : Word) : Word × Ev :=
  let p := op (half a 0) (half b 0) (half c 0)
  let q := op (half a 1) (half b 1) (half c 1)
  (BitVec.ofNat 32 (p.1 % 65536 + q.1 % 65536 * 65536), p.2.add q.2)

/-- Format of the packed halves: BF16 or FP16 (R261). -/
def halfFmt (bf : Bool) : FloatFmt := if bf then bf16 else fp16

/-- CVTP: two converted elements replace elements 2·POS and 2·POS + 1 of c (R264). -/
def cvtp32 (dst pos : Nat) (sat : Bool) (r0 r1 : Rnd) (a b c : Word) : Word × Ev :=
  let w := storageWidth dst
  let x := convert dst 3 r0 sat a.toNat
  let y := convert dst 3 r1 sat b.toNat
  let sh := 2 * pos * w
  let m := BitVec.ofNat 32 ((2 ^ (2 * w) - 1) * 2 ^ sh)
  ((c &&& ~~~m) ||| BitVec.ofNat 32 ((x.1 % 2 ^ w + y.1 % 2 ^ w * 2 ^ w) * 2 ^ sh), x.2.add y.2)

/-- CVTU by KIND (R265). -/
def cvtu32 (kind : Nat) (r : Rnd) (a : Word) : Word × Ev :=
  match kind with
  | 0 => let p := deliver (.int 32 true) r false (fp32.decode a.toNat); asWord p
  | 1 => let p := deliver (.int 32 false) r false (fp32.decode a.toNat); asWord p
  | 2 => asWord (roundTo fp32 r false (ofScaled a.toInt 0 false))
  | _ => asWord (roundTo fp32 r false (ofScaled a.toNat 0 false))

/-- Element `i` of width `w` as an integer, unsigned when `u` (R266). -/
def elemInt (w : Nat) (u : Bool) (x : Word) (i : Nat) : Int :=
  let e := x.toNat / 2 ^ (w * i) % 2 ^ w
  if u then (e : Int) else signedOf w e

/-- Σ a_i · b_i over the first `n` elements (R266). -/
def dotSum (w : Nat) (au bu : Bool) (a b : Word) : Nat → Int
  | 0 => 0
  | n + 1 => elemInt w au a n * elemInt w bu b n + dotSum w au bu a b n

/-- DOT4 (`w` = 4) and DOT8 (`w` = 8) (R266). -/
def dotInt (w : Nat) (au bu sat : Bool) (a b c : Word) : Word :=
  let x := c.toInt + dotSum w au bu a b (32 / w)
  if sat then clamp32 false x else BitVec.ofInt 32 x

/-- DOTF4 and DOTF8: exact products and c, one rounding (R267). -/
def dotFloat (w : Nat) (fa fb : FloatFmt) (r : Rnd) (a b c : Word) : Word × Ev :=
  let el (x : Word) (i : Nat) : Nat := x.toNat / 2 ^ (w * i) % 2 ^ w
  let ps := (List.range (32 / w)).map fun i => mulVal (fa.decode (el a i)) (fb.decode (el b i))
  let cv := fp32.decode c.toNat
  asWord (fpSum fp32 r (isSig cv || ps.any (fun p => p.2)) (cv :: ps.map (fun p => p.1)))

end Sys2Proof.Machine
end

