-- ==== Sys2Proof/Config.lean ====
section
/-! DEFINITION. What the spec leaves open and one chip fixes: free values and the device's own secrets, with no body, so that
nothing can be proved about their value. -/

namespace Sys2Proof.Config

/-- Free value number `n` (assumption 5): 64 bits that the spec does not give, drawn through the counter `State.draws`. -/
opaque freeValue : Nat → Dword

/-- The value of a result that the spec does not state (assumption 5), as a function of what the instruction reads: R8 makes it the same
at every placement and interleaving. -/
opaque unstated : List Nat → Dword

/-- The device serial number (R355, assumption 8). -/
opaque serial : Dword

/-- Byte `n` of the SHA-512 of the firmware key, a fuse (R400, assumption 8). -/
opaque firmwareKeyHash : Nat → Byte

/-- Byte `n` of the debug authority's public key, X then Y, whose SHA-512 is a fuse (R400, R410, assumption 8). -/
opaque debugKey : Nat → Byte

/-- Byte `n` of the device's identity public key, X then Y, derived from the unique secret (R400, R405, assumption 8). -/
opaque identityKey : Nat → Byte

/-- Byte `n` of the device certificate (R399, assumption 8). -/
opaque certificate : Nat → Byte

/-- Byte `n` of the signature of an attestation report by the identity key, which the device keeps to itself (R405,
assumption 8): a function of the report's signed bytes and of the free value of the signature's nonce. -/
opaque signature : List Byte → Dword → Nat → Byte

end Sys2Proof.Config
end

