-- ==== Sys2Proof/Machine/Translate.lean ====
section
/-! DEFINITION. From virtual addresses to places: context entries, page tables, the coherent window and the access tables
(R83, R100, R101, R356 to R358, R364, R406 to R408). -/

namespace Sys2Proof.Machine

/-- Bytes of device memory (R1): 512 GiB. -/
def hbmBytes : Nat := 549755813888

/-- Bytes of the coherent window (R99). -/
def windowBytes : Nat := 8388608

/-- Kinds of access (R407): read, write, fetch, atomic. -/
inductive Access where
  | read
  | write
  | fetch
  | atomic
  deriving DecidableEq, Repr

/-- The kind code of DENYLOG (R408). -/
def Access.code (k : Access) : Nat :=
  match k with
  | .read => 0
  | .write => 1
  | .fetch => 2
  | .atomic => 3

/-- Whether permission bits {X, W, R} (R bit 0, W bit 1, X bit 2) allow an access (R358, R407). -/
def Access.allowed (k : Access) (perm : Nat) : Bool :=
  match k with
  | .read => perm.testBit 0
  | .write => perm.testBit 1
  | .fetch => perm.testBit 2
  | .atomic => perm.testBit 0 && perm.testBit 1

/-- Where an address leads: device memory (with the AP bit of its page), system memory, or the window. -/
inductive Place where
  | mem (pa : Nat) (ap : Bool)
  | sys (va : Nat)
  | win (off : Nat)
  deriving DecidableEq, Repr

/-- The outcome of a translation (R358): a place, a denial (with the target that logs it, if an access table denies), a
replayable fault, a fault with F, an address that does not exist, a poisoned table entry (R421),
or a page of system memory that ATS does not translate (R354). -/
inductive Xlat where
  | ok (p : Place)
  | denied (log : Option (Nat × Nat))
  | fault
  | fatal
  | hole (pa : Nat)
  | poison
  | pri (page : Nat)
  deriving DecidableEq, Repr

/-- Quadword `i` of access-table memory (R406), at its reset value where nothing was written (R407). -/
def accessWord (s : State) (i : Nat) : Dword :=
  match s.access.find? (fun x => x.1 == i) with
  | some x => x.2
  | none =>
    let m := i / 32 % 256
    if (m = 128 ∨ m = 148) ∧ i / 2 % 16 = 0 ∧ i < 23 * 8192 then
      (if i % 2 = 0 then 0x000000000000000F else 0x00FFFFFFFFFFF000)
    else 0

/-- Aperture `a` of a master passes the access of a 4 KiB page (R407). -/
def apertureOk (s : State) (target master a page : Nat) (k : Access) : Bool :=
  let i := target * 8192 + master * 32 + a * 2
  let lo := (accessWord s i).toNat
  let hi := (accessWord s (i + 1)).toNat
  lo.testBit 3 && k.allowed (lo % 8) && decide (field lo 12 44 ≤ page) && decide (page ≤ field hi 12 44)

/-- The access table of a target lets a master access an address (R407). Masters 150 and up are denied everything. -/
def accessOk (s : State) (target master addr : Nat) (k : Access) : Bool :=
  decide (master < 150) && (List.range 16).any fun a => apertureOk s target master a (addr / 4096) k

/-- MSI-X entry `e` of function `f` fires. -/
def State.fire (s : State) (f e : Nat) : State := { s with msix := s.msix ++ [(f, e)] }

/-- The device's dies in P4 wake: a page spreads over all eight stacks (R414). -/
def State.wakeDies (s : State) : State :=
  if s.power.dieOff.contains true then
    { s with
      power := { s.power with dieOff := List.replicate 4 false }
      msix := s.msix ++ List.replicate (s.power.dieOff.filter fun b => b).length (0, 39) }
  else s

/-- Logs a denial (R408). -/
def State.logDenial (s : State) (target master addr : Nat) (k : Access) : State :=
  let w := master * 2 ^ 56 + addr / 4096 % 2 ^ 44 * 4096 + target * 128 + k.code * 32
  let e := natLe s.now 8 ++ natLe w 8
  let s1 := { s with
    sec := { s.sec with
      denyLog := (s.sec.denyLog ++ [e]).drop (s.sec.denyLog.length + 1 - 256)
      denyProd := s.sec.denyProd + 1
      denyArmed := false } }
  if s.sec.denyArmed then s1.fire 0 37 else s1

/-- `n` bytes of device memory as a number, as a walker or the hub reads them. -/
def State.readMem (s : State) (pa n : Nat) : Nat := Memory.num s.hbm pa n

/-- A 64-bit word of device memory is marked poison (R421). -/
def State.badWord (s : State) (pa : Nat) : Bool := s.poison.contains (.mem (pa / 8))

/-- What a leaf entry gives for an access (R357, R358): `bits` is the width of the page offset, `ats` the pages of system memory whose
ATS translations the context holds. -/
def leafXlat (s : State) (ats : List Nat) (e bits va : Nat) (k : Access) : Xlat :=
  if k.allowed (field e 2 3) = false then .denied none
  else
    let pa := field e 13 43 * 8192 + va % 2 ^ bits
    if e.testBit 8 then (if s.noAts.contains (pa / 65536) && !ats.contains (pa / 65536) then .pri (pa / 65536) else .ok (.sys pa))
    else if hbmBytes ≤ pa then .hole pa else .ok (.mem pa (e.testBit 7))

/-- The walk from a table at level `4 - fuel + 1` (R357, R358): a leaf's place or an outcome. -/
def walkFrom (s : State) (ats : List Nat) (va : Nat) (k : Access) : Nat → Nat → Xlat
  | 0, _ => .fatal
  | fuel + 1, table =>
    let e := s.readMem (table + 8 * field va (16 + 10 * fuel) 10) 8
    if s.badWord (table + 8 * field va (16 + 10 * fuel) 10) then .poison
    else if e.testBit 0 = false then .fault
    else
      let leaf := e.testBit 1
      let addr := field e 13 43 * 8192
      if field e 56 8 ≠ 0 ∨ field e 9 4 ≠ 0 ∨ field e 5 2 ≠ 0 then .fatal
      else if leaf then
        let bits := if fuel = 0 then 16 else 26
        if 1 < fuel ∨ addr % 2 ^ bits ≠ 0 then .fatal else leafXlat s ats e bits va k
      else if fuel = 0 then .fatal
      else walkFrom s ats va k fuel addr

/-- The leaf entry a walk ends at, and the width of its page offset. -/
def walkLeaf (s : State) (va : Nat) : Nat → Nat → Option (Nat × Nat)
  | 0, _ => none
  | fuel + 1, table =>
    let e := s.readMem (table + 8 * field va (16 + 10 * fuel) 10) 8
    if e.testBit 0 = false then none
    else if e.testBit 1 then some (e, if fuel = 0 then 16 else 26)
    else walkLeaf s va fuel (field e 13 43 * 8192)

/-- The context a number names. -/
def State.ctx (s : State) (c : Nat) : Ctx := nth s.ctxs c Ctx.empty

/-- The window offset of a VA of a context, if it falls in the context's slice (R364). -/
def windowOff (c : Ctx) (va : Nat) : Option Nat :=
  if c.wva ≤ va ∧ va < c.wva + c.wsz * 65536 then some (c.woff * 65536 + (va - c.wva)) else none

/-- The pages of system memory whose ATS translations a context holds (R354). -/
def State.atsOf (s : State) (c : Nat) : List Nat := (s.atsCache.filter fun x => x.1 == c).map fun x => x.2

/-- The window's place of a VA, or the place of a walk's outcome, as the access tables of the target let a master have it (R281
steps 3 and 4, R364, R407). -/
def placeOf (s : State) (c master va : Nat) (k : Access) (walk : Xlat) : Xlat :=
  match windowOff (s.ctx c) va with
  | some off => if accessOk s 9 master off k then .ok (.win off) else .denied (some (9, off))
  | none =>
    match walk with
    | .ok (.mem pa ap) =>
      if accessOk s (pa / 4096 % 8) master pa k then .ok (.mem pa ap) else .denied (some (pa / 4096 % 8, pa))
    | r => r

/-- Translates a VA of a context for an access by a master by a walk of the tables as they stand. -/
def translate (s : State) (c master va : Nat) (k : Access) : Xlat :=
  placeOf s c master va k (walkFrom s (s.atsOf c) va k 4 (s.ctx c).groot)

/-! The TLBs (R100): unit c below 128 is the TLB of core c, unit 128 + n that of station n's tile translation engine. -/

/-- Entries of a unit's TLB. -/
def tlbSize (unit : Nat) : Nat := if unit < 128 then 512 else 256

/-- The station of a TLB unit. -/
def unitStation (unit : Nat) : Nat := if unit < 128 then unit / 4 else unit - 128

/-- The entry of a unit's TLB that covers a VA: its leaf entry and the width of its page offset. -/
def State.tlbEntry (s : State) (unit c va : Nat) : Option (Nat × Nat) :=
  (s.tlb.find? fun x => x.1 == unit && x.2.1 == c && x.2.2.1 == va / 2 ^ x.2.2.2.1).map fun x => (x.2.2.2.2, x.2.2.2.1)

/-- Translates through a unit's TLB: an entry it holds stands for the walk (R100). -/
def translateBy (s : State) (unit c master va : Nat) (k : Access) : Xlat :=
  match s.tlbEntry unit c va with
  | some x => placeOf s c master va k (leafXlat s (s.atsOf c) x.1 x.2 va k)
  | none => translate s c master va k

/-- The first `n` entries of a list that satisfy a test, and every one that does not. -/
def keepFirst {α : Type} (p : α → Bool) : Nat → List α → List α
  | _, [] => []
  | n, x :: r =>
    if p x = false then x :: keepFirst p n r
    else match n with
      | 0 => keepFirst p 0 r
      | m + 1 => x :: keepFirst p m r

/-- Entries of the ATS cache (R354). -/
def atsSize : Nat := 1024

/-- A unit's TLB and the ATS cache take the translation of a VA whose walk succeeded; the entry that came first makes room
(R100, R354, R358, assumption 12). -/
def State.fillTlb (s : State) (unit c va : Nat) : State :=
  if (windowOff (s.ctx c) va).isSome || (s.tlbEntry unit c va).isSome then s
  else
    match walkLeaf s va 4 (s.ctx c).groot with
    | none => s
    | some (e, bits) =>
      let page := (field e 13 43 * 8192 + va % 2 ^ bits) / 65536
      { s with
        tlb := keepFirst (fun x => x.1 == unit) (tlbSize unit) ((unit, c, va / 2 ^ bits, bits, e) :: s.tlb)
        atsCache := if e.testBit 8 && !(s.atsOf c).contains page then (((c, page) :: s.atsCache).take atsSize) else s.atsCache }

/-- The tag under which a TLB holds translations of a grid's private space (R100, R359): above every context's number. -/
def privTag (h : Nat) : Nat := 64 + h

/-- A TLB entry is of a context: of its VAs, or of the private space of one of its grids. -/
def State.tlbOf (s : State) (c tag : Nat) : Bool := tag == c || s.grids.any fun g => decide (tag = privTag g.handle) && g.ctx == c

/-- PTSYNC drops every entry of a context from the TLBs and the ATS cache (R362). -/
def State.dropTlb (s : State) (c : Nat) : State :=
  { s with tlb := s.tlb.filter fun x => !s.tlbOf c x.2.1, atsCache := s.atsCache.filter fun x => x.1 != c }

end Sys2Proof.Machine
end

