-- ==== Sys2Proof/Machine/Views.lean ====
section
/-! DEFINITION. Quanta, happens-before and the commit of an edge (R104 to R111, R427), over parties and senders. -/

namespace Sys2Proof.Machine

/-- A count of an association list, 0 where absent. -/
def countOf (l : List (Nat × Nat)) (p : Nat) : Nat :=
  match l with
  | [] => 0
  | (a, n) :: r => if a = p then n else countOf r p

/-- Sets a count to at least `n`. -/
def raiseCount (p n : Nat) : List (Nat × Nat) → List (Nat × Nat)
  | [] => [(p, n)]
  | (a, m) :: r => if a = p then (a, max m n) :: r else (a, m) :: raiseCount p n r

/-- Counts of two lists, the larger of each. -/
def joinSeen (a b : List (Nat × Nat)) : List (Nat × Nat) := b.foldl (fun acc x => raiseCount x.1 x.2 acc) a

/-- The write of quantum `a` happens before that of quantum `b` (R108). Party 0 stands for another grid's launch value, which
happens before every write. -/
def Quantum.before (a b : Quantum) : Bool :=
  if a.pid = 0 then decide (b.pid ≠ 0) else if a.pid = b.pid then decide (a.k < b.k) else decide (a.k < countOf b.seen a.pid)

/-- The view cell of a byte. -/
def findCell (l : Loc) : List VCell → Option VCell
  | [] => none
  | c :: r => if c.loc = l then some c else findCell l r

/-- The pending byte at a place, the latest write first. -/
def findByte (l : Loc) : List (Loc × Byte) → Option Byte
  | [] => none
  | (m, b) :: r => if m = l then some b else findByte l r

/-- Replaces or adds the cell of a place. -/
def putCell (c : VCell) : List VCell → List VCell
  | [] => [c]
  | d :: r => if d.loc = c.loc then c :: r else d :: putCell c r

/-- Replaces or adds a pending byte. -/
def putByte (l : Loc) (b : Byte) : List (Loc × Byte) → List (Loc × Byte)
  | [] => [(l, b)]
  | (m, x) :: r => if m = l then (l, b) :: r else (m, x) :: putByte l b r

/-- The current quantum of a party. -/
def Party.quantum (p : Party) : Quantum := ⟨p.pid, p.k, p.seen⟩

/-- What a plain read of a byte returns to the party, if it or an edge has given it a value other than the launch
snapshot's (R105). -/
def Party.read? (p : Party) (l : Loc) : Option Byte :=
  match findByte l p.pend with
  | some b => some b
  | none => (findCell l p.view).map (fun c => c.byte)

/-- A plain write, pending in the party's quantum (R104). -/
def Party.write (p : Party) (l : Loc) (b : Byte) : Party := { p with pend := putByte l b p.pend }

/-- Folds pending writes into the party's own view and ends the quantum as a sender (R109 step 4). -/
def Party.fold (p : Party) : Party :=
  { p with
    view := p.pend.foldl (fun v w => putCell ⟨w.1, w.2, p.quantum⟩ v) p.view
    pend := []
    atoms := []
    k := p.k + 1 }

/-- The sender a party is at this moment. -/
def Party.sender (p : Party) (r : Rank) : Sender := ⟨p.quantum, r, p.pend, p.view, p.atoms⟩

/-- A sender whose quantum has ended at an edge and that has written nothing since (R109 step 4). -/
def Sender.fold (x : Sender) : Sender :=
  { x with
    view := x.writes.foldl (fun v w => putCell ⟨w.1, w.2, x.q⟩ v) x.view
    writes := []
    atoms := []
    q := { x.q with k := x.q.k + 1 } }

/-- The senders of a list whose parties have sent again fold (R109 step 4). -/
def foldThose (pids : List Nat) (l : List Sender) : List Sender := l.map fun x => if pids.contains x.q.pid then x.fold else x

/-- Lexicographic order of keys; a proper prefix ranks below its extensions (R110). -/
def keyLt : List Nat → List Nat → Bool
  | [], [] => false
  | [], _ :: _ => true
  | _ :: _, [] => false
  | a :: r, b :: s => if a = b then keyLt r s else decide (a < b)

/-- a ranks below b (R110): two operations of one group compare by their issue alone. -/
def Rank.lt (a b : Rank) : Bool :=
  if a.cls = b.cls then
    (if a.key = b.key ∨ a.cls = 1 ∧ a.grp = b.grp then decide (a.seq < b.seq) else keyLt a.key b.key)
  else decide (a.cls < b.cls)

/-- A thread rank (R110), or a LANE or BTID rank. -/
def Rank.thread (key : List Nat) : Rank := ⟨2, 0, key, 0⟩

/-- An operation rank: the issuing group, its lowest-lane active thread's rank, the issue number (R110). -/
def Rank.op (grp : Nat) (key : List Nat) (seq : Nat) : Rank := ⟨1, grp, key, seq⟩

/-- The lowest operation rank of all (R119, R321). -/
def Rank.lowest : Rank := ⟨0, 0, [], 0⟩

/-- A candidate of R109: its rank, and its value with the quantum that wrote it (`none` for the launch value). -/
abbrev Cand := Rank × Option VCell

/-- The candidate of the highest rank. -/
def bestCand : List Cand → Option Cand
  | [] => none
  | c :: r =>
    match bestCand r with
    | some d => some (if d.1.lt c.1 then c else d)
    | none => some c

/-- A candidate's write happens before that of another one; the launch value happens before every write (R109 step 2). -/
def supersededBy (c : Option VCell) (o : Option VCell) : Bool :=
  match c, o with
  | none, some _ => true
  | some a, some b => a.by_.before b.by_
  | _, none => false

/-- A superseded carried or held candidate is dropped (R109 step 2). -/
def keepCand (all : List (Option VCell)) (c : Option VCell) : Bool := !all.any (supersededBy c)

/-- The direct candidates of a byte (R109 step 1). -/
def directs (l : Loc) (ss : List Sender) : List Cand :=
  ss.filterMap fun s => (findByte l s.writes).map fun b => (s.rank, some ⟨l, b, s.q⟩)

/-- The carried candidates of a byte (R109 step 1). -/
def carrieds (l : Loc) (ss : List Sender) : List Cand :=
  ss.filterMap fun s => match findByte l s.writes with
    | some _ => none
    | none => some (s.rank, findCell l s.view)

/-- The 4-byte word a place lies in, where atomic state is kept. -/
def wordLoc (l : Loc) : Loc :=
  match l with
  | .mem a => .mem (a / 4 * 4)
  | .sys a => .sys (a / 4 * 4)
  | .spad b o => .spad b (o / 4 * 4)
  | .acc b t r c _ => .acc b t r c 0

/-- The quantum that stands for an atomic value where candidates supersede each other (R109): that of the highest-rank sender that
performed an atomic on the word, which is the model's choice (assumption 89). -/
def atomQuantum (e : Edge) (l : Loc) (dflt : Quantum) : Quantum :=
  match bestCand ((e.senders.filter fun s => s.atoms.contains (wordLoc l)).map fun s =>
      (s.rank, some (⟨l, 0, s.q⟩ : VCell))) with
  | some (_, some c) => c.by_
  | _ => dflt

/-- Step 3 of R109 for one byte: own, direct, atomic, carried, held. `none` leaves the launch value. -/
def chooseByte (e : Edge) (own held : Option VCell) (dflt : Quantum) (l : Loc) : Option VCell :=
  let ds := directs l e.senders
  let cs := carrieds l e.senders
  let at_ : Option VCell := (findByte l e.atoms).map fun b => ⟨l, b, atomQuantum e l dflt⟩
  let all := own :: held :: at_ :: (ds.map (fun c => c.2) ++ cs.map (fun c => c.2))
  match own with
  | some c => some c
  | none =>
    match bestCand ds with
    | some (_, c) => c
    | none =>
      match at_ with
      | some c => some c
      | none =>
        match bestCand (cs.filter fun c => keepCand all c.2) with
        | some (_, c) => c
        | none => held

/-- Places of a list not yet listed. -/
def addLocs (ls acc : List Loc) : List Loc := ls.foldl (fun a l => if a.contains l then a else l :: a) acc

/-- Every place at which the receiver's view can change at the edge. -/
def edgeLocs (e : Edge) (p : Party) : List Loc :=
  let base := addLocs (e.atoms.map (fun x => x.1)) (addLocs (p.pend.map (fun x => x.1)) (p.view.map (fun c => c.loc)))
  e.senders.foldl (fun a s => addLocs (s.writes.map (fun x => x.1)) (addLocs (s.view.map (fun c => c.loc)) a)) base

/-- What the receiver has seen after the edge (R108). -/
def edgeSeen (e : Edge) (seen : List (Nat × Nat)) : List (Nat × Nat) :=
  e.senders.foldl (fun a s => raiseCount s.q.pid (s.q.k + 1) (joinSeen a s.q.seen)) seen

/-- A party is a sender of an edge. -/
def Edge.sentBy (e : Edge) (p : Party) : Bool := e.senders.any fun s => s.q.pid == p.pid

/-- The own candidate of a receiver that is no sender: what it wrote in its ending quantum (R109 step 1). -/
def Edge.own (e : Edge) (p : Party) (l : Loc) : Option VCell :=
  if e.sentBy p then none else (findByte l p.pend).map fun b => ⟨l, b, p.quantum⟩

/-- A party receives an edge (R109). A receiver that is itself a sender keeps the writes it made after its send pending
(R107); any other receiver's pending writes are its own candidates and the quantum ends. -/
def Party.receive (p : Party) (e : Edge) : Party :=
  { p with
    view := (edgeLocs e p).filterMap fun l => chooseByte e (e.own p l) (findCell l p.view) p.quantum l
    pend := if e.sentBy p then p.pend else []
    atoms := []
    k := p.k + 1
    seen := edgeSeen e p.seen }

/-- A new party whose first view is what the edge delivers (R106). -/
def Party.fresh (pid : Nat) (e : Edge) : Party := Party.receive ⟨pid, 0, [], [], [], []⟩ e

/-- The merged view of senders, as view cells (R427). -/
def mergedView (e : Edge) : List VCell := (Party.fresh 0 e).view

/-- The direct candidate that wins a byte at an edge, if one does: atomic state takes it at that moment (R109). -/
def directWinner (e : Edge) (l : Loc) : Option Byte :=
  match bestCand (directs l e.senders) with
  | some (_, some c) => some c.byte
  | _ => none

end Sys2Proof.Machine
end

