-- ==== Sys2Proof/Machine/Access.lean ====
section
/-! DEFINITION. Finding and replacing the parts of the state: grids, blocks, contexts, lanes of a group, and the bytes a
party reads through its view (R103 to R106). -/

namespace Sys2Proof.Machine

/-- A grid with no handle: what a handle that names nothing finds. -/
def Grid.empty : Grid where
  handle := 0
  ctx := 0
  rcb := 0
  rcbVa := 0
  parent := 0
  state := 0
  prio := 0
  fd := 0
  smask := 0
  gslots := 0
  segs := 0
  word := 0
  entry := 0
  param := 0
  dims := (0, 0, 0)
  groups := 0
  sbytes := 0
  ntiles := 0
  flags := 0
  kvRoot := none
  compVa := 0
  compVal := 0
  cvc := 8
  srseed := 0
  dphase := 0
  snapMem := []
  snapSys := []
  initView := []
  initSeen := []
  placed := 0
  doneBlocks := []
  phases := 0
  arrivedPhase := []
  phaseEdges := []
  nodes := []
  lastSweep := none
  swept := false
  opsOut := false
  ended := []
  endEdge := none
  stations := []
  privRoot := none
  privFree := []
  privPages := []
  vlogPages := []
  vlogMiB := 1

/-- A block that is not placed: a task group's, with no scratchpad and no tiles (R11). -/
def Block.empty : Block := ⟨0, 0, 0, 0, 0, [], 0, 0, [], [], 0, none, false, 0, 0⟩

def State.grid (s : State) (h : Nat) : Grid := (s.grids.find? fun g => g.handle == h).getD Grid.empty

def State.block (s : State) (u : Nat) : Block := (s.blocks.find? fun b => b.uid == u).getD Block.empty

/-- Changes the grid of a handle. -/
def State.onGrid (s : State) (h : Nat) (f : Grid → Grid) : State :=
  { s with grids := s.grids.map fun g => if g.handle = h then f g else g }

/-- Changes the block of an identity. -/
def State.onBlock (s : State) (u : Nat) (f : Block → Block) : State :=
  { s with blocks := s.blocks.map fun b => if b.uid = u then f b else b }

/-- Changes a context. -/
def State.onCtx (s : State) (c : Nat) (f : Ctx → Ctx) : State :=
  { s with ctxs := setNth s.ctxs c (f (s.ctx c)) }

/-- The device totals of a grid's chimney counters (R80). -/
def Grid.sent (g : Grid) : Dword := g.nodes.foldl (fun a n => a + n.sent) 0
def Grid.received (g : Grid) : Dword := g.nodes.foldl (fun a n => a + n.received) 0

/-- The counters of a unit rise by two amounts. -/
def countNode (unit : Nat) (sent received : Dword) : List Node → List Node
  | [] => [⟨unit, sent, received⟩]
  | x :: r => if x.unit = unit then ⟨unit, x.sent + sent, x.received + received⟩ :: r else x :: countNode unit sent received r

/-- A unit's counters rise (R79). -/
def Grid.counts (g : Grid) (unit : Nat) (sent received : Dword) : Grid :=
  { g with nodes := countNode unit sent received g.nodes }

/-- Station of a core (R249). -/
def stationOf (core : Nat) : Nat := core / 4

/-- Compute die of a core (R249). -/
def dieOf (core : Nat) : Nat := core / 32

/-- Lane registers of the grid (R84). -/
def Grid.v (g : Grid) : Nat := 8 * field g.word.toNat 18 4

/-- Uniform registers of the grid (R84). -/
def Grid.kn (g : Grid) : Nat := 16 * field g.word.toNat 22 5

/-- The thread in a lane. -/
def Group.lane (g : Group) (i : Nat) : Option Thread := nth g.lanes i none

/-- The lane holds a live thread. -/
def Group.live (g : Group) (i : Nat) : Bool :=
  match g.lane i with
  | some t => !t.exited
  | none => false

/-- Live threads of the group. -/
def Group.liveMask (g : Group) : BitVec 32 :=
  BitVec.ofNat 32 ((List.range 32).foldl (fun a i => if g.live i then a + 2 ^ i else a) 0)

/-- The current path C: live threads in the path (R292). -/
def Group.cur (g : Group) : BitVec 32 := g.path &&& g.liveMask

/-- Lanes of a mask, ascending. -/
def lanesOf (m : BitVec 32) : List Nat := (List.range 32).filter fun i => m.getLsbD i

/-- Number of lanes of a mask. -/
def countLanes (m : BitVec 32) : Nat := (lanesOf m).length

/-- Lowest lane of a mask, 0 for none. -/
def lowLane (m : BitVec 32) : Nat := (lanesOf m).headD 0

/-- The mask of the lanes that satisfy a test. -/
def maskOf (f : Nat → Bool) : BitVec 32 :=
  BitVec.ofNat 32 ((List.range 32).foldl (fun a i => if f i then a + 2 ^ i else a) 0)

/-- Maps a list with the index of each element, counted from `i`. -/
def mapFrom {α β : Type} (f : Nat → α → β) (i : Nat) : List α → List β
  | [] => []
  | x :: r => f i x :: mapFrom f (i + 1) r

/-- Changes the threads of the lanes of a mask. -/
def Group.onLanes (g : Group) (m : BitVec 32) (f : Nat → Thread → Thread) : Group :=
  { g with lanes := mapFrom (fun i o => if m.getLsbD i then o.map (f i) else o) 0 g.lanes }

/-- Changes the threads of every lane. -/
def Group.onAll (g : Group) (f : Nat → Thread → Thread) : Group :=
  { g with lanes := mapFrom (fun i o => o.map (f i)) 0 g.lanes }

/-- The thread of a lane, or a thread that nothing names. -/
def Thread.empty : Thread where
  tid := 0
  task := false
  blk := 0
  btid := 0
  key := 0
  rank := []
  v := []
  p := 0
  lat := List.replicate 8 0
  clkHi := none
  exited := true
  party := Party.empty 0
  parent := none
  hasFrame := false
  spawnOrder := 0
  inl := []
  epB := 0
  epS := 0
  arrivals := []
  phaseArr := 0
  low := 65536
  high := 0
  saves := []

def Group.thread (g : Group) (i : Nat) : Thread := (g.lane i).getD Thread.empty

/-- The anchor: the lowest TID of the live threads (R43); its block is the group's block for uniform commands (R44). The spec does not
say whether a member that has exited stays the anchor: the model passes to the lowest that lives (assumption 108). -/
def Group.anchor (g : Group) : Thread :=
  (lanesOf g.liveMask).foldl (fun a i => let t := g.thread i; if a.exited || decide (t.tid.toNat < a.tid.toNat) then t else a)
    Thread.empty

/-- The launch value of a byte for the parties of a grid (R106): the snapshot, and 0 in scratchpad and tiles. -/
def Grid.launchByte (g : Grid) (l : Loc) : Byte :=
  match l with
  | .mem a => Memory.get g.snapMem a
  | .sys a => Memory.get g.snapSys a
  | .spad _ _ => 0
  | .acc _ _ _ _ _ => 0

/-- A plain read of a byte by a party of a grid (R105). -/
def readByte (g : Grid) (p : Party) (l : Loc) : Byte := (p.read? l).getD (g.launchByte l)

/-- The places of `n` bytes from a place up. -/
def Loc.span (l : Loc) (n : Nat) : List Loc :=
  (List.range n).map fun i =>
    match l with
    | .mem a => .mem (a + i)
    | .sys a => .sys (a + i)
    | .spad b o => .spad b (o + i)
    | .acc b t r c m => .acc b t r c (m + i)

/-- A plain read of `n` bytes. -/
def readBytes (g : Grid) (p : Party) (l : Loc) (n : Nat) : List Byte := (l.span n).map (readByte g p)

/-- A plain write of bytes (R104, R111). -/
def Party.writeBytes (p : Party) (l : Loc) (bs : List Byte) : Party :=
  (List.zip (l.span bs.length) bs).foldl (fun q x => q.write x.1 x.2) p

/-- A fresh identity. -/
def State.fresh (s : State) : Nat × State := (s.nextId, { s with nextId := s.nextId + 1 })

/-- The effective fault domain of the issuing group's grid (R371). -/
def State.fdOf (s : State) (h : Nat) : Nat := (s.grid h).fd

/-- The access-table master of a grid's threads (R406). -/
def State.master (s : State) (h : Nat) : Nat := (s.grid h).ctx

/-- The context of the issuing group. -/
def State.myCtx (s : State) : Nat := (s.grid s.me.grid).ctx

/-- Every group of the machine that is resident. -/
def State.resident (s : State) : List Group := if s.me.uid = 0 then s.groups else s.me :: s.groups

/-- Changes every resident, waiting and saved group. -/
def State.onGroups (s : State) (f : Group → Group) : State :=
  { s with me := f s.me, groups := s.groups.map f, waiting := s.waiting.map f, images := s.images.map f }

/-- Adds events to a block's FSTAT, or to the task block's of the station, and to the numeric counters of the fault
domain (R151, R419). -/
def State.addEv (s : State) (h blk station : Nat) (e : Ev) : State :=
  if e = Ev.none then s
  else
    let s1 := if blk = 0 then
        s.onGrid h fun g => { g with stations := g.stations.map fun x =>
          if x.station = station then { x with fstat := fstatAdd x.fstat e } else x }
      else s.onBlock blk fun b => { b with fstat := fstatAdd b.fstat e }
    let d := s.fdOf h
    let row := nth s1.fleet.numagg d []
    let add (i n : Nat) (r : List Dword) : List Dword :=
      setNth r i (BitVec.ofNat 64 (min (2 ^ 64 - 1) ((nth r i 0).toNat + n)))
    let bit (b : Bool) (n : Nat) : Nat := if b then n else 0
    let fl := BitVec.ofNat 64 (bit e.nv 8 + bit e.of 4 + bit e.uf 2 + bit e.nx 1)
    let r1 := add 3 e.satc (add 4 e.nzc (add 5 e.smxc row))
    { s1 with fleet := { s1.fleet with numagg := setNth s1.fleet.numagg d (setNth r1 6 (nth r1 6 0 ||| fl)) } }

end Sys2Proof.Machine
end

