-- ==== Sys2Proof/Machine/Ops.lean ====
section
/-! DEFINITION. Taking a trap as one shared operation: the record, the queue, the fatal register, the hold, and the teardown
of a fault domain (R282, R383 to R391, R396, R397); and the return from it, REPLAY and RESUME (R389). -/

namespace Sys2Proof.Machine

/-- Trap causes (R386). -/
def cIllegalOpcode : Nat := 0x01
def cIllegalForm : Nat := 0x02
def cMisaligned : Nat := 0x03
def cPageFault : Nat := 0x04
def cKvFault : Nat := 0x05
def cPrivateGrow : Nat := 0x06
def cAccessDenied : Nat := 0x07
def cDomainConflict : Nat := 0x08
def cDoubleFill : Nat := 0x09
def cBarrierMisuse : Nat := 0x0A
def cYardMisuse : Nat := 0x0B
def cSlotMisuse : Nat := 0x0C
def cMatrixForm : Nat := 0x0D
def cTsrInvalid : Nat := 0x0E
def cCopyFault : Nat := 0x0F
def cReplayLimit : Nat := 0x10
def cPoison : Nat := 0x11
def cWatchdog : Nat := 0x12
def cTrapInsn : Nat := 0x13
def cBreakpoint : Nat := 0x14
def cDeadlock : Nat := 0x15
def cVlogGrow : Nat := 0x16

/-- The R flag of a cause (R385). -/
def replayable (cause : Nat) : Bool := [cPageFault, cKvFault, cPrivateGrow, cCopyFault, cVlogGrow].contains cause

/-- The causes that RESUME answers (R385). -/
def resumable (cause : Nat) : Bool := [cTrapInsn, cBreakpoint].contains cause

/-- A trap record's fields (R384) but for PH. -/
structure TrapRec where
  fd : Nat := 0
  async : Bool := false
  fatal : Bool := false
  replay : Bool := false
  cause : Nat := 0
  ctx : Nat := 0
  token : Nat := 0
  handle : Nat := 0
  tid : Nat := 0
  pc : Nat := 0
  va : Nat := 0
  mask : Nat := 0
  core : Nat := 0
  stn : Nat := 0
  gslot : Nat := 0
  kv : Nat := 0
  gen : Nat := 0
  nrec : Nat := 1
  irec : Nat := 0
  rcnt : Nat := 0
  unitValid : Bool := false
  unit : Nat := 0
  kind : Nat := 0
  queue : Nat := 0
  time : Nat := 0
  deriving DecidableEq, Repr

/-- 1 for true. -/
def bit (b : Bool) : Nat := if b then 1 else 0

/-- The 64 bytes of a record (R384) on the pass `ph` of the ring. -/
def TrapRec.bytes (r : TrapRec) (ph : Bool) : List Byte :=
  natLe (r.fd % 64 * 65536 + bit r.async * 1024 + bit r.fatal * 512 + bit r.replay * 256 + r.cause % 256) 4 ++
  natLe (bit ph * 2 ^ 31 + r.ctx % 64) 4 ++
  natLe (r.token % 2 ^ 20 * 4096 + r.handle % 4096) 4 ++
  natLe r.tid 4 ++ natLe r.pc 8 ++ natLe r.va 8 ++ natLe r.mask 4 ++
  natLe (r.core % 128 * 2 ^ 25 + r.stn % 32 * 2 ^ 20 + r.gslot % 1024) 4 ++
  natLe r.kv 8 ++
  natLe (r.gen % 65536 * 65536 + r.nrec % 64 * 1024 + r.irec % 64 * 16 + r.rcnt % 16) 4 ++
  natLe (if r.unitValid then 2 ^ 31 + r.unit % 256 * 65536 + r.kind % 16 * 4096 + r.queue % 16 else 0) 4 ++
  natLe r.time 8

/-- Cells of a list but those of `n` bytes from an address up. -/
def dropCells (a n : Nat) (l : List Host.Cell) : List Host.Cell := l.filter fun x => !decide (a ≤ x.1 ∧ x.1 < a + n)

/-- A store to `n` bytes from a place on ends what the host last wrote there for replays to see (R173). -/
def State.dropFixes (s : State) (l : Loc) (n : Nat) : State :=
  if s.fixes.isEmpty then s else { s with fixes := s.fixes.filter fun x => !(l.span n).contains x.1 }

/-- A write of `n` bytes that begins in byte `b` of a word of device memory or of the window clears the marks of the words that it covers
(R421). The place is the word's, by its number; system memory has no marks. -/
def State.clearWords (s : State) (l : Loc) (b n : Nat) : State :=
  if s.poison.isEmpty ∨ n < 8 then s
  else
    let all (w x : Nat) : Bool := decide (8 * w + b ≤ 8 * x ∧ 8 * x + 8 ≤ 8 * w + b + n)
    { s with poison := s.poison.filter fun p =>
        match p, l with
        | .mem x, .mem w => !all w x
        | .win x, .sys w => !(decide (2 ^ 60 ≤ w) && all (w - 2 ^ 60) x)
        | _, _ => true }

/-- Writes bytes of the window as the hub does. -/
def State.putWin (s : State) (off : Nat) (bs : List Byte) : State :=
  { s.clearWords (.sys (2 ^ 60 + off / 8)) (off % 8) bs.length with window := Memory.putBytes s.window off bs }

/-- Writes bytes of device memory (`sys` false) or system memory as the hub does; what a flush gave host reads there is
replaced, and the marks of words that are written whole clear. -/
def State.putPhys (s : State) (sys : Bool) (a : Nat) (bs : List Byte) : State :=
  let t := (s.dropFixes (if sys then .sys a else .mem a) bs.length).clearWords (if sys then .sys 0 else .mem (a / 8)) (a % 8) bs.length
  if sys then { t with sysMem := Memory.putBytes s.sysMem a bs }
  else { t with hbm := Memory.putBytes s.hbm a bs, flushed := dropCells a bs.length s.flushed }

/-- Reads bytes of device or system memory as the hub does. -/
def State.physNum (s : State) (sys : Bool) (a n : Nat) : Nat :=
  if sys then Memory.num s.sysMem a n else Memory.num s.hbm a n

/-- The hub's access-table master: the signal box (R406). -/
def hubMaster : Nat := 148

/-- The debug unit's access-table master (R406). -/
def debugMaster : Nat := 149

/-- A write of a master to device or system memory by physical address: each page of device memory passes its stack's access
table, or the write is dropped there and logged (R407, R408). -/
def State.putAs (s : State) (master : Nat) (sys : Bool) (a : Nat) (bs : List Byte) : State :=
  if sys || accessOk s (a / 4096 % 8) master a .write then s.putPhys sys a bs else s.logDenial (a / 4096 % 8) master a .write

/-- A read of the hub by physical address: 0 where its access table denies it, which is logged (R407, R408). -/
def State.readHub (s : State) (sys : Bool) (a n : Nat) : Nat × State :=
  if sys || accessOk s (a / 4096 % 8) hubMaster a .read then (s.physNum sys a n, s)
  else (0, s.logDenial (a / 4096 % 8) hubMaster a .read)

/-- The bytes of a trace entry (R409): the device time, the code, the station, the GSLOT and the argument. No rule gives the codes
and arguments, which are free, or the widths (assumptions 5, 83). -/
def traceEntry (now free stn gslot : Nat) : List Byte :=
  natLe now 8 ++ natLe free 1 ++ natLe stn 1 ++ natLe gslot 2 ++ natLe (free / 2 ^ 32) 4

/-- A station's trace entry for a context at debug level 1 or above (R409), written by the debug unit; none in D3hot, and none of a
station since it entered P3 until a block places there (R416). -/
def State.trace (s : State) (c stn gslot : Nat) : State :=
  if s.sec.trBase.getLsbD 0 && decide (1 ≤ field s.sec.dbgLvl.toNat (2 * c) 2) && !s.power.d3hot && !s.sec.trEnded.getLsbD stn then
    let at_ := field s.sec.trBase.toNat 16 40 * 65536 + 16 * (s.sec.trProd.toNat % 4096)
    let t := s.putAs debugMaster false at_ (traceEntry s.now (Config.freeValue s.draws).toNat stn gslot)
    { t with draws := s.draws + 1, sec := { t.sec with trProd := s.sec.trProd + 1 } }
  else s

/-- Writes an event (R397) and fires PF0 entry 34 (R378). -/
def State.logEvent (s : State) (code ctx fd stn arg : Nat) : State :=
  let e := natLe s.now 8 ++ natLe (code * 2 ^ 24 + ctx % 64 * 2 ^ 18 + fd % 64 * 2 ^ 12 + stn % 32 * 128) 4 ++ natLe arg 4
  let n := s.evProd.toNat % 1024
  { s with evlog := (n, e) :: s.evlog.filter (fun x => x.1 != n), evProd := s.evProd + 1 }.fire 0 34

/-- A function's trap queue. -/
def State.queue (s : State) (f : Nat) : TrapQueue := nth s.queues f ⟨0, 0, 0, 0⟩

/-- Free entries of a queue by the hub's own count; none while the queue is not enabled (R377, R383). -/
def queueFree (q : TrapQueue) : Nat := if q.base.getLsbD 0 then 4096 - (q.prod - q.consumed).toNat else 0

/-- The hub reads the consumer word when its count shows no room for `n` records beside the reserve of 8, which for one is fewer than
9 free entries (R383, R387, R388). -/
def State.refreshQueue (s : State) (f n : Nat) : State :=
  let q := s.queue f
  if queueFree q < 8 + n ∧ q.base.getLsbD 0 then
    let c := s.readHub (q.headVa.getLsbD 63) (field q.headVa.toNat 2 54 * 4) 4
    { c.2 with queues := setNth s.queues f { q with consumed := BitVec.ofNat 32 c.1 } }
  else s

/-- Writes one record at the head of the ring (R383) and fires entry 32 when the queue was empty (R378). -/
def State.writeRecord (s : State) (f : Nat) (r : TrapRec) : State :=
  let q := s.queue f
  let ph := decide (q.prod.toNat / 4096 % 2 = 0)
  let s1 := s.putAs hubMaster (q.base.getLsbD 63) (field q.base.toNat 18 38 * 2 ^ 18 + 64 * (q.prod.toNat % 4096)) (r.bytes ph)
  let s2 := { s1 with queues := setNth s1.queues f { q with prod := q.prod + 1 } }
  if q.prod = q.consumed then s2.fire f 32 else s2

/-- A fatal record: the queue with its reserve, then FATAL, then a FATAL_LOST event (R388). -/
def State.postFatal (s : State) (f : Nat) (r : TrapRec) : State :=
  let s1 := s.refreshQueue f 1
  if queueFree (s1.queue f) = 0 then
    if s1.fatalV then s1.logEvent 4 r.ctx r.fd r.stn r.cause
    else { s1 with fatal := r.bytes true, fatalV := true }.fire 0 33
  else s1.writeRecord f r

/-- The trap-record fields that name a group, and the replays already made of its item (R384). -/
def Group.trapRec (g : Group) (s : State) (cause : Nat) : TrapRec :=
  { fd := s.fdOf g.grid, cause := cause, ctx := (s.grid g.grid).ctx, handle := g.grid, core := g.core,
    stn := stationOf g.core, gslot := g.gslot, time := s.now, pc := g.pc.toNat,
    tid := (g.thread (lowLane g.cur)).tid.toNat, kv := 0
    rcnt := match g.heldItem with | some h => h.replays | none => 0 }

/-- Records that do not fit wait, in order, behind those that already wait (R388). -/
def State.postHeld (s : State) (f h : Nat) (rs : List TrapRec) : State :=
  let s1 := s.refreshQueue f rs.length
  if s1.unrecorded.any (fun u => u.fn == f) || decide (queueFree (s1.queue f) < 8 + rs.length) then
    { s1 with unrecorded := s1.unrecorded ++ [⟨f, h, (rs.headD {}).token, rs.map (fun r => r.bytes false)⟩] }
  else rs.foldl (fun t r => t.writeRecord f r) s1

/-! Waking parked groups. -/

/-- a parked before b. -/
def parkedBefore (a b : Group) : Bool := keyLt [a.parkedAt, a.core, a.gslot % 1024] [b.parkedAt, b.core, b.gslot % 1024]

/-- Inserts a group by the time it parked. -/
def insertParked (g : Group) : List Group → List Group
  | [] => [g]
  | x :: r => if parkedBefore g x then g :: x :: r else x :: insertParked g r

/-- Groups in the order in which they parked. -/
def sortParked (gs : List Group) : List Group := gs.foldl (fun l g => insertParked g l) []

/-- The groups that satisfy a test, evicted and saved ones among them (R75, R81), evaluate their commands again at once, in the order
in which they parked (R71). -/
def State.wake (s : State) (f : Group → Bool) : State :=
  { s with agenda := (sortParked ((s.resident ++ s.images).filter f)).map (fun g => Turn.retry g.uid) ++ s.agenda }

/-- A word of scratchpad may have changed: the groups in a WAITA test it at once (R78). -/
def State.wakeWaita (s : State) : State := s.wake fun g => match g.park with | some (.waita _) => true | _ => false

/-! Groups that wait for a grid (R339). -/

/-- A uniform register: 511 reads 0 (R224). -/
def kVal (g : Group) (x : Nat) : Word := if x = 511 then 0 else nth g.k x 0

/-- EXT4 of a KX, 0 without one. -/
def kxExt4 (k : Option Kx) : Nat :=
  match k with
  | some x => x.ext.toNat
  | none => 0

/-- x ≥ y of wrapping counters (R69). -/
def wrapGe (x y : Word) : Bool := decide ((x - y).toNat < 2 ^ 31)

/-- The handle that a group waits for and, of GWAIT.ph, the phase (R339). -/
def Group.gwaits (g : Group) : Option (Nat × Option Word) :=
  match g.park, g.insn with
  | some .gwait, some (.gwait w) =>
    some ((kVal g w.a.toNat).toNat, if (kxExt4 w.kx).testBit 0 then some (kVal g (w.a.toNat + 1)) else none)
  | _, _ => none

/-- A grid ends: the groups of its context that wait for it learn how (R339), by `f` of the group and the phase, and test at once. -/
def State.endWaits (s : State) (h : Nat) (f : Group → Option Word → Option (Option Edge)) : State :=
  let ends (g : Group) : Option (Option Edge) := g.gwaits.bind fun x =>
    if x.1 = h ∧ (s.grid g.grid).ctx = (s.grid h).ctx then f g x.2 else none
  (s.onGroups fun g => match ends g with
    | some e => { g with park := some (.gwaitOver e) }
    | none => g).wake fun g => match g.park with | some (.gwaitOver _) => true | _ => false

/-- How a wait ends for a grid that is torn down or rejected: with q := 0, but for a phase that has completed. -/
def Grid.badEnd (x : Grid) (ph : Option Word) : Option (Option Edge) :=
  match ph with
  | some n => if wrapGe (BitVec.ofNat 32 x.phases) n then none else some none
  | none => some none

/-! Teardown of a fault domain (R396). -/

/-- The live grids of a fault domain. -/
def State.gridsOf (s : State) (d : Nat) : List Nat :=
  (s.grids.filter fun g => decide (g.fd = d) && (decide (g.state = 2) || decide (g.state = 3))).map fun g => g.handle

/-- The hub asks the host for a page of system memory that ATS does not translate, once (R354). -/
def State.askPage (s : State) (page : Nat) : State :=
  if s.priWaits.any fun x => x.2 == page then s
  else { s with priNext := s.priNext + 1, priWaits := s.priWaits ++ [(s.priNext, page)] }

/-- A write of the hub waits for a page. -/
def State.hubWait (s : State) (w : HubWait) : State := { s.askPage w.page with hubWaits := s.hubWaits ++ [w] }

/-- A write of the hub to a VA of a context, outside views; dropped where it does not translate or is denied (R407), and made after the
response where it waits for a page (R354). -/
def State.hubWrite (s : State) (c va : Nat) (bs : List Byte) : State :=
  match translate s c hubMaster va .write with
  | .ok (.win off) => s.putWin off bs
  | .ok (.mem pa _) => s.putPhys false pa bs
  | .ok (.sys a) => s.putPhys true a bs
  | .denied (some x) => s.logDenial x.1 hubMaster x.2 .write
  | .pri page => s.hubWait ⟨c, va, bs, page, false⟩
  | _ => s

/-- Bytes of the STATE word of a grid's RCB (R370). -/
def stateWord (g : Grid) (st reason : Nat) : List Byte :=
  natLe ((if st = 2 ∨ st = 3 ∨ st = 4 then g.handle else 0) * 65536 + reason * 256 + st) 4

/-- Writes a grid's STATE word in its RCB and remembers the state. -/
def State.setGridState (s : State) (h st reason : Nat) : State :=
  let g := s.grid h
  let s1 := s.hubWrite g.ctx (g.rcbVa + 0x18) (stateWord g st reason)
  s1.onGrid h fun x => { x with state := st }

/-- The 4-byte atomic words of a place. -/
def findAtom (l : Loc) : List AtomWord → Option AtomWord
  | [] => none
  | a :: r => if a.loc = l then some a else findAtom l r

/-- Replaces or adds an atomic word. -/
def putAtom (a : AtomWord) : List AtomWord → List AtomWord
  | [] => [a]
  | b :: r => if b.loc = a.loc then a :: r else b :: putAtom a r

/-- Bytes of a 32-bit word, little-endian. -/
def word32Bytes (w : Word) : List Byte := natLe w.toNat 4

/-- Writes a word to the memory a place names. -/
def State.settle (s : State) (l : Loc) (bs : List Byte) : State :=
  match l with
  | .mem a => s.putPhys false a bs
  | .sys a => s.putPhys true a bs
  | _ => s

/-- The hub's exchange of an 8-byte word of a context (R374): on the word's atomic state where a live grid holds it; where none does,
in memory, and the live grids' atomics find it there. Its 8 bytes clear the mark of the word (R421). -/
def State.exchangeWord (s : State) (c va v : Nat) : State :=
  let one (t : State) (l : Loc) (x : Nat) : State :=
    match findAtom l t.atoms with
    | some a => { t with atoms := putAtom { a with val := BitVec.ofNat 32 x } t.atoms }
    | none =>
      let live := (t.grids.filter fun y => decide (y.ctx = c ∧ (y.state = 2 ∨ y.state = 3))).map fun y => y.handle
      { t.settle l (natLe x 4) with hubWords := (l, BitVec.ofNat 32 x, live) :: t.hubWords.filter fun y => y.1 != l }
  match translate s c hubMaster va .atomic with
  | .ok (.win off) => s.putWin off (natLe v 8)
  | .ok (.mem pa _) => (one (one s (.mem pa) (v % 2 ^ 32)) (.mem (pa + 4)) (v / 2 ^ 32)).clearWords (.mem (pa / 8)) (pa % 8) 8
  | .ok (.sys a) => one (one s (.sys a) (v % 2 ^ 32)) (.sys (a + 4)) (v / 2 ^ 32)
  | .denied (some x) => s.logDenial x.1 hubMaster x.2 .atomic
  | .pri page => s.hubWait ⟨c, va, natLe v 8, page, true⟩
  | _ => s

/-- The completion word of a grid that ended (R374): the value, or its complement of bit 63. -/
def State.completionWord (s : State) (h : Nat) (good : Bool) : State :=
  let g := s.grid h
  if g.compVa = 0 then s
  else s.exchangeWord g.ctx g.compVa.toNat (if good then g.compVal.toNat else (g.compVal ^^^ 0x8000000000000000).toNat)

/-- Free slots of a context's release ring from its tail, as the hub reads them: those that read 0, which Farsyn leaves when it takes
an entry. -/
def releaseRoom (c : Ctx) : Nat → Nat → State → Nat × State
  | _, 0, s => (0, s)
  | i, n + 1, s =>
    let r := s.readHub false (c.prel + 8 * (i % max c.rsz 1)) 8
    if r.1 = 0 then
      let x := releaseRoom c (i + 1) n r.2
      (x.1 + 1, x.2)
    else (0, r.2)

/-- Appends the pages of an ended grid's private tree and version log to the release ring (R359, R391): as many as there is
room for; the rest stay with the grid. -/
def State.releasePages (s : State) (h : Nat) : State :=
  let g := s.grid h
  let c := s.ctx g.ctx
  let pages := g.privPages ++ g.vlogPages
  let room := releaseRoom c c.prTail.toNat (min c.rsz pages.length) s
  let n := room.1
  let s1 := (List.zip (List.range n) pages).foldl (fun t x =>
      t.putAs hubMaster false (c.prel + 8 * ((c.prTail.toNat + x.1) % max c.rsz 1)) (natLe x.2 8)) room.2
  let s2 := s1.onCtx g.ctx fun c => { c with prTail := c.prTail + BitVec.ofNat 32 n }
  s2.onGrid h fun x => { x with privPages := pages.drop n, vlogPages := [], privRoot := none, privFree := [] }

/-- A core whose blocks have all retired and which holds no group releases its partition word (R85). -/
def State.releaseCores (s : State) : State :=
  { s with coreWord := s.coreWord.filter fun x =>
      s.blocks.any (fun b => decide (b.home = x.1) && !b.saved) || s.resident.any (fun g => decide (g.core = x.1)) }

/-- An atomic word as the grids of `dead` leave it (R396 step 3): the performers among the grids of `live`. -/
def AtomWord.without (a : AtomWord) (live dead : List Nat) : AtomWord :=
  { a with grids := a.grids.filter fun h => live.contains h && !dead.contains h }

/-- Step 3 of R396 for one word: memory takes the value when no live grid remains that performed an atomic. -/
def State.dropAtom (s : State) (live dead deadBlocks : List Nat) (a : AtomWord) : State :=
  match a.loc with
  | .spad b _ => if deadBlocks.contains b then s else { s with atoms := s.atoms ++ [a] }
  | _ =>
    if a.grids.any (fun h => dead.contains h) && (a.without live dead).grids.isEmpty then s.settle a.loc (word32Bytes a.val)
    else { s with atoms := s.atoms ++ [a.without live dead] }

/-- A fill is found in its word while the hub holds the word, or while the word stays in atomic state (R74, R119). -/
def State.dropFills (s : State) : State :=
  { s with futures := s.futures.filter fun f =>
      match f.1 with
      | .sys a => decide (2 ^ 60 ≤ a) || (findAtom f.1 s.atoms).isSome
      | l => (findAtom l s.atoms).isSome }

/-- Bind records of torn grids take STAT 4, those of retired ranges too (R379, R380, R396). -/
def tornBind (dead : List Nat) (x : Nat × Nat × List Byte) : Nat × Nat × List Byte :=
  if dead.contains (recNum x.2.2 0 4 % 4096) && decide (recNum x.2.2 0 4 / 2 ^ 31 = 1) then
    (x.1, x.2.1, x.2.2.take 0x15 ++ [4] ++ x.2.2.drop 0x16)
  else x

/-- The live threads of a group. -/
def Group.liveThreads (g : Group) : List Thread :=
  g.lanes.filterMap fun o =>
    match o with
    | some t => if t.exited then none else some t
    | none => none

/-- The groups a station or a saved image holds. -/
def State.allGroups (s : State) : List Group := s.resident ++ s.waiting ++ s.images

/-- The live threads of a grid that are in groups, in the yard, or waiting to be gathered. -/
def State.liveThreads (s : State) (h : Nat) : List Thread :=
  ((s.allGroups.filter fun g => decide (g.grid = h)).map Group.liveThreads).flatten ++
  ((s.episodes.filter fun e => decide (e.grid = h)).map fun e => e.recs.map fun r => r.thread).flatten ++
  ((s.bins.filter fun b => decide (b.grid = h)).map fun b => b.kids.map fun c => c.thread).flatten

/-- Bytes an aborted operation delivered stand in memory, in no view (R114). -/
def State.leaveBytes (s : State) (p : Party) : State := p.pend.foldl (fun t x => t.settle x.1 [x.2]) s

/-- Whose views a grid's teardown finds: its live threads, the parents of inline children, those that have ended or arrived,
without their pending writes, and its completed operations (R396). -/
def State.tornSenders (s : State) (h : Nat) : List Sender :=
  let still (x : Sender) : Sender := { x with writes := [], atoms := [] }
  let thread (t : Thread) : List Sender := (t.party :: t.inl.map fun c => c.party).map fun p => still (p.sender (Rank.thread t.rank))
  let g := s.grid h
  ((s.liveThreads h).map thread).flatten ++ g.ended.map still ++ (g.arrivedPhase.map fun x => still x.2) ++
  ((s.barriers.filter fun b => decide (b.grid = h)).map fun b => b.arrived.map still).flatten ++
  ((s.episodes.filter fun e => decide (e.grid = h)).map fun e => e.senders.map still).flatten ++
  ((s.frames.filter fun f => decide (f.grid = h)).map fun f => f.done.map still).flatten ++
  (s.doneOps.filter fun o => decide (o.grid = h) && !o.aborted).map fun o => o.sender

/-- Memory takes what was committed at a torn grid's earlier edges, as the merged view of its parties holds it, and the bytes that
its operations delivered (R114, R396 step 3, assumption 26). -/
def State.tornViews (s : State) (h : Nat) : State :=
  let g := s.grid h
  let s1 := (mergedView ⟨s.tornSenders h, [], none⟩).foldl (fun (t : State) c =>
    if c.by_.pid = 0 ∨ findCell c.loc g.initView = some c then t else t.settle c.loc [c.byte]) s
  (s.ops.filter fun o => decide (o.grid = h)).foldl (fun (t : State) o => t.leaveBytes o.party) s1

/-- The parent of a grid whose parent has ended: no grid (R339). -/
def orphan : Nat := 4096

/-- The parent of a grid whose parent was torn down: its handle stays valid (R339). -/
def tornParent : Nat := 4097

/-- Grids end: nothing keeps their handles, which other grids may take. Where they have completed (`good`), the handles of their
completed children are valid no longer (R119, R339, R359). -/
def State.endHandles (s : State) (hs : List Nat) (good : Bool) : State :=
  { s with
    atoms := s.atoms.map fun a => { a with grids := a.grids.filter fun h => !hs.contains h }
    hubWords := (s.hubWords.map fun x => (x.1, x.2.1, x.2.2.filter fun h => !hs.contains h)).filter fun x => !x.2.2.isEmpty
    tlb := s.tlb.filter fun x => !hs.any fun h => x.2.1 == privTag h
    grids := (s.grids.filter fun g => !(good && decide (hs.contains g.parent ∧ g.state = 4 ∧ g.privPages.isEmpty = true))).map fun g =>
      if hs.contains g.parent then { g with parent := if good then orphan else tornParent } else g }

/-- The pre-emption of a bind record of one of these grids has been asked for (R395). -/
def State.asksFor (s : State) (hs : List Nat) (x : Nat × Nat × Nat) : Bool :=
  s.binds.any fun b => decide (b.1 = x.1 ∧ b.2.1 = x.2.1) && hs.contains (recNum b.2.2 0 4 % 4096)

/-- Stops fault domain `d` (R396): its groups, episodes, frames, operations and MMAs are discarded, its words in atomic
state settle, its bind records and grids show it, and its pages return. -/
def State.teardown (s : State) (d : Nat) : State :=
  let dead := s.gridsOf d
  let deadBlocks := (s.blocks.filter fun b => dead.contains b.grid).map fun b => b.uid
  let live := (s.grids.filter fun g => decide (g.state = 2 ∨ g.state = 3)).map fun g => g.handle
  let keep (g : Group) : Bool := !dead.contains g.grid
  let s0 := dead.foldl (fun (t : State) h => t.tornViews h) s
  let s1 := { s0 with
    me := if keep s.me then s.me else Group.empty
    groups := s.groups.filter keep
    waiting := s.waiting.filter keep
    images := s.images.filter keep
    frames := s.frames.filter fun f => !dead.contains f.grid
    waits := s.waits.filter fun w => ((s.resident ++ s.waiting ++ s.images).filter keep).any fun g => g.uid == w.1 % 2 ^ 32
    barriers := s.barriers.filter fun b => !dead.contains b.grid
    episodes := s.episodes.filter fun e => !dead.contains e.grid
    bins := s.bins.filter fun b => !dead.contains b.grid
    ops := s.ops.filter fun o => !dead.contains o.grid
    doneOps := s.doneOps.filter fun o => !dead.contains o.grid
    mmas := s.mmas.filter fun m => !dead.contains m.grid
    doneMmas := s.doneMmas.filter fun m => !dead.contains m.grid
    corner := s.corner.filter fun c => !dead.contains c.grid
    unrecorded := s.unrecorded.filter fun u => !dead.contains u.grid
    blocks := s.blocks.filter fun b => !dead.contains b.grid
    binds := s.binds.map (tornBind dead)
    asked := s.asked.filter fun x => !s.asksFor dead x
    pagesTaken := s.pagesTaken.filter fun x => !s.asksFor dead x
    atoms := [] }
  let s2 := ((s.atoms.foldl (fun t a => t.dropAtom live dead deadBlocks a) s1).dropFills).endHandles dead false
  let s3 := dead.foldl (fun t h => (((t.releasePages h).setGridState h 6 0).completionWord h false).endWaits h fun _ => (t.grid h).badEnd) s2
  s3.releaseCores

/-- Takes a trap that is not held: a fatal record, then the teardown of its fault domain (R385, R396). -/
def State.takeFatal (s : State) (r : TrapRec) : State :=
  let f := (s.ctx r.ctx).fn
  ((s.trace r.ctx r.stn r.gslot).postFatal f { r with fatal := true, replay := false, token := 0 }).teardown r.fd

/-- The tokens of the held items: groups, operations and inbound transfers (R389). -/
def State.heldTokens (s : State) : List Nat :=
  s.allGroups.filterMap (fun g => g.heldItem.map fun h => h.token) ++ s.ops.filterMap (fun o => o.heldItem.map fun h => h.token) ++
    s.inbound.map fun x => x.token

/-- A token that no held item has: the least (R389, assumption 76). -/
def State.freshToken (s : State) : Nat :=
  (((List.range (s.heldTokens.length + 1)).map fun i => i + 1).find? fun n => !s.heldTokens.contains n).getD 1

/-- GEN of a fault of an item (R390): one above the previous record's when cause and VA repeat. -/
def genOf (h : Option Held) (cause va : Nat) : Nat :=
  match h.bind fun x => x.faults.find? fun y => y.1 == cause && y.2.1 == va with
  | some y => y.2.2 + 1
  | none => 0

/-- Takes a replayable trap of a group: one record per page or block (R387), the group held under a token with its replay
mask (R282, R389). After 15 replays it is REPLAY_LIMIT (R390). `parts` lists the causes and VAs (or KV entry addresses) with the KV
tuple and the lanes of each; `grow` lists the private marks to raise at the replay (R97). -/
def State.takeReplayable (s : State) (parts : List (Nat × Nat × Nat × BitVec 32)) (grow : List (Nat × Bool × Nat)) : State :=
  let g := s.me
  let base := g.trapRec s (parts.headD (0, 0, 0, 0)).1
  let all := parts.foldl (fun a x => a ||| x.2.2.2) 0
  let tid (m : BitVec 32) : Nat := (g.thread (lowLane m)).tid.toNat
  if base.rcnt = 15 then
    s.takeFatal { base with cause := cReplayLimit, va := (parts.headD (0, 0, 0, 0)).2.1, mask := all.toNat, tid := tid all }
  else
    let tk := match g.heldItem with | some h => h.token | none => s.freshToken
    let mk (i : Nat) (x : Nat × Nat × Nat × BitVec 32) : TrapRec :=
      { base with cause := x.1, replay := true, token := tk, va := x.2.1, kv := x.2.2.1, mask := x.2.2.2.toNat, tid := tid x.2.2.2,
                  nrec := parts.length, irec := i, gen := genOf g.heldItem x.1 x.2.1 }
    let recs := mapFrom mk 0 parts
    let held : Held := ⟨tk, false, recs.map (fun r => (r.cause, r.va, r.gen)), all, base.rcnt, false, grow⟩
    let s1 := { s with me := { g with park := some .held, parkedAt := s.now, heldItem := some held } }
    (s1.trace base.ctx base.stn base.gslot).postHeld (s1.ctx base.ctx).fn g.grid recs

/-- Takes TRAP_INSN or BREAKPOINT: recorded without R and F, the group held for RESUME (R305, R385, R412). The PC is that of
the instruction; the group stands after it. -/
def State.takeResumable (s : State) (cause pc code : Nat) : State :=
  let g := s.me
  let tk := s.freshToken
  let r : TrapRec := { g.trapRec s cause with token := tk, va := code, pc := pc, mask := 0 }
  let held : Held := ⟨tk, true, [(cause, code, 0)], 0, 0, false, []⟩
  let s1 := { s with me := { g with park := some .held, parkedAt := s.now, heldItem := some held } }
  let s2 := (s1.trace r.ctx r.stn r.gslot).postHeld (s1.ctx r.ctx).fn g.grid [r]
  if cause = cBreakpoint then s2.fire 0 38 else s2

/-- Takes a trap of the issuing group: the ONE operation by which every instruction raises one. A replayable cause is held
with its replay mask; TRAP_INSN and BREAKPOINT are held for RESUME; every other cause is fatal (R282, R385). `lanes` are the
trapped lanes, `off` the word at which it is reported (R212). -/
def State.takeTrap (s : State) (cause : Nat) (lanes : BitVec 32) (va kv off : Nat) : State :=
  if replayable cause then s.takeReplayable [(cause, va, kv, lanes)] []
  else if resumable cause then s.takeResumable cause (s.me.pc.toNat + 4 * off) va
  else
    s.takeFatal { s.me.trapRec s cause with
      pc := s.me.pc.toNat + 4 * off
      va := va
      kv := kv
      tid := (s.me.thread (lowLane lanes)).tid.toNat }

/-- A trap raised for every thread of C (R211, R292). -/
def State.trapAll (s : State) (cause va : Nat) : State := s.takeTrap cause s.me.cur va 0 0

/-- An access that waits for the response to a PRI page request (R354): the group is held to replay the lanes, neither
recorded nor counted (R390). -/
def State.waitPri (s : State) (page : Nat) (lanes : BitVec 32) (va : Nat) : State :=
  let g := s.me
  let h := g.heldItem.getD ⟨s.freshToken, false, [], 0, 0, false, []⟩
  let t := s.trace (s.grid g.grid).ctx (stationOf g.core) g.gslot
  { t with
    me := { g with
      park := some (.pri s.priNext va)
      parkedAt := s.now
      heldItem := some { h with mask := lanes, again := true } }
    priNext := s.priNext + 1
    priWaits := s.priWaits ++ [(s.priNext, page)] }

/-- The trap of a translation that found no place (R281, R358, R407, R421): a page fault is replayable, the others are not; a
denial of an access table is logged first (R408). -/
def State.xlatTrap (s : State) (x : Xlat) (k : Access) (master : Nat) (lanes : BitVec 32) (va : Nat) : State :=
  match x with
  | .ok _ => s
  | .fault => s.takeTrap cPageFault lanes va 0 0
  | .fatal => s.takeFatal { s.me.trapRec s cPageFault with va := va, tid := (s.me.thread (lowLane lanes)).tid.toNat }
  | .denied none => s.takeTrap cAccessDenied lanes va 0 0
  | .denied (some (target, a)) => (s.logDenial target master a k).takeTrap cAccessDenied lanes va 0 0
  | .hole pa => { s with hole := some pa }
  | .poison => s.takeTrap cPoison lanes va 0 0
  | .pri page => s.waitPri page lanes va

/-- The run of the group begins anew (R22); the events it has counted stay counted once (R8, R151). -/
def Group.redo (g : Group) : Group :=
  { g with pc := g.runPc, counted := if g.counted.toNat < g.pc.toNat then g.pc else g.counted }

/-- The group goes on where it stands after a trap, a park or a pre-emption: what it issues first begins a run, with latches invalid
and no kept CLK word (R20, R22, R250), 4 clk after what released it (R208). -/
def Group.released (g : Group) (now : Nat) : Group :=
  { (g.onAll fun _ t => { t with lat := List.replicate 8 0, clkHi := none }) with
    runPc := g.pc, park := none, readyAt := max g.readyAt (now + 4) }

/-- The return from a trap by REPLAY (R389): the replay count rises and the group re-executes its masked lanes (R22). Private
marks are raised as R97 states by the operation that knows the thread. -/
def Group.replayed (g : Group) (now : Nat) : Group :=
  match g.heldItem with
  | some h => { g.released now with heldItem := some { h with replays := h.replays + 1, again := true } }
  | none => g

/-- The return from a trap by RESUME (R305, R389): the group continues after the instruction. -/
def Group.resumed (g : Group) (now : Nat) : Group := { g.released now with heldItem := none }

end Sys2Proof.Machine
end

