-- ==== Sys2Proof/Machine/Operands.lean ====
section
/-! DEFINITION. Operands of the lane and uniform words, guards, results, and the end of an instruction: source fields (R214,
R216, R224), guards (R220, R225), write-back and latches (R18, R19, R215), poison in registers (R421), pipe occupancy and
switch points (R14 to R20). -/

namespace Sys2Proof.Machine

/-- What an instruction answers. -/
abbrev Result := Host.Outcome State Fault Refusal

/-- Changes the group on the issuing pipe. -/
def State.onMe (s : State) (f : Group → Group) : State := { s with me := f s.me }

/-! Lane sources. -/

/-- Predicate `i` of a thread; p7 reads true (R193). -/
def Thread.pred (t : Thread) (i : Nat) : Bool := decide (i = 7) || t.p.getLsbD i

/-- A 32-bit lane source (R214). -/
def srcVal (g : Group) (t : Thread) (x : BitVec 8) : Word :=
  if x.toNat < 0x78 then nth t.v x.toNat 0
  else if x.toNat < 0x80 then nth t.lat (x.toNat - 0x78) 0
  else nth g.k (x.toNat - 0x80) 0

/-- A 64-bit lane source: a pair, or the latch pair of an odd latch code (R216). -/
def srcPair (g : Group) (t : Thread) (x : BitVec 8) : Dword :=
  if 0x78 ≤ x.toNat ∧ x.toNat < 0x80 then nth t.lat (x.toNat - 0x79) 0 ++ nth t.lat (x.toNat - 0x78) 0
  else srcVal g t (x + 1) ++ srcVal g t x

/-- The third source of an LXC, field 0x00 without one (R220). -/
def lxcC (l : Option Lxc) : BitVec 8 :=
  match l with
  | some x => x.c
  | none => 0

/-- EXT of an LXC as a number, 0 without one. -/
def lxcExt (l : Option Lxc) : Nat :=
  match l with
  | some x => x.ext.toNat
  | none => 0

/-- Words of an LXC. -/
def lxcLen (l : Option Lxc) : Nat := if l.isSome then 1 else 0

/-- Words of an instruction of each lane form. -/
def lrLen (w : LR) : Nat := 1 + lxcLen w.lxc
def liLen (w : LI) : Nat := 1 + lxcLen w.lxc + (if w.lxi.isSome then 1 else 0)
def ljLen (w : LJ) : Nat := 1 + lxcLen w.lxc
def lmLen (w : LM) : Nat := 1 + lxcLen w.lxc + (if w.lxi.isSome then 1 else 0)
def lcLen (w : LC) : Nat := 1 + lxcLen w.lxc

/-- A thread passes the guard of an LXC (R220). -/
def guardPass (l : Option Lxc) (t : Thread) : Bool :=
  match l with
  | none => true
  | some x => decide (x.ge = 0) || (t.pred x.gp.toNat != decide (x.gn = 1))

/-- The lanes a replay re-executes: all of them but when a granted replay stands (R22, R282). -/
def Group.replayMask (g : Group) : BitVec 32 :=
  match g.heldItem with
  | some h => if h.again then h.mask else BitVec.allOnes 32
  | none => BitVec.allOnes 32

/-- The active lanes of a lane instruction (R15, R22, R220). -/
def Group.active (g : Group) (l : Option Lxc) : BitVec 32 :=
  g.cur &&& g.replayMask &&& maskOf fun i => guardPass l (g.thread i)

/-! Poison in registers (R421). -/

/-- A poisoned word among `n` registers from a lane source field, as read by lane `i`. -/
def Group.poisonedSrc (g : Group) (i : Nat) (x : BitVec 8) (n : Nat) (p : PoisonAt) : Bool :=
  match p with
  | .vreg c gs l pr =>
    decide (c = g.core ∧ gs = g.gslot ∧ l = i ∧ x.toNat < 0x78 ∧ x.toNat / 2 ≤ pr ∧ pr ≤ (x.toNat + n - 1) / 2)
  | .kreg c gs pr =>
    decide (c = g.core ∧ gs = g.gslot ∧ 0x80 ≤ x.toNat ∧ (x.toNat - 0x80) / 2 ≤ pr ∧ pr ≤ (x.toNat - 0x80 + n - 1) / 2)
  | _ => false

/-- The active lanes that would consume poison through one of their sources (field, registers). -/
def State.lanePoison (s : State) (act : BitVec 32) (srcs : List (BitVec 8 × Nat)) : BitVec 32 :=
  if s.poison.isEmpty then 0
  else act &&& maskOf fun i => srcs.any fun x => s.poison.any (s.me.poisonedSrc i x.1 x.2)

/-- A write of two or more aligned registers clears the marks of the words it covers (R421). -/
def State.clearV (s : State) (act : BitVec 32) (d n : Nat) : State :=
  if s.poison.isEmpty ∨ n < 2 then s
  else { s with poison := s.poison.filter fun p =>
    match p with
    | .vreg c gs l pr => !(decide (c = s.me.core ∧ gs = s.me.gslot ∧ d / 2 ≤ pr ∧ pr < (d + n) / 2) && act.getLsbD l)
    | _ => true }

/-- The same for uniform registers. -/
def State.clearK (s : State) (d n : Nat) : State :=
  if s.poison.isEmpty ∨ n < 2 then s
  else { s with poison := s.poison.filter fun p =>
    match p with
    | .kreg c gs pr => !decide (c = s.me.core ∧ gs = s.me.gslot ∧ d / 2 ≤ pr ∧ pr < (d + n) / 2)
    | _ => true }

/-! Lane results. -/

/-- Writes a v register. -/
def Thread.setV (t : Thread) (d : Nat) (x : Word) : Thread := { t with v := setNth t.v d x }

/-- One shift of the latches, with the value that enters y0 (R18). -/
def Thread.shiftLatch (t : Thread) (x : Word) : Thread := { t with lat := x :: t.lat.take 7 }

/-- Write-back of a 32-bit result, suppressed by N = 1 and by D = 0x7F (R19, R215). -/
def Thread.writeBack (t : Thread) (d : BitVec 7) (n : BitVec 1) (x : Word) : Thread :=
  if n = 1 ∨ 0x78 ≤ d.toNat then t else t.setV d.toNat x

/-- Write-back of a 64-bit result into an even:odd pair. -/
def Thread.writePair (t : Thread) (d : BitVec 7) (n : BitVec 1) (x : Dword) : Thread :=
  if n = 1 ∨ 0x78 ≤ d.toNat then t else (t.setV d.toNat (x.extractLsb' 0 32)).setV (d.toNat + 1) (x.extractLsb' 32 32)

/-- A 32-bit lane result: latches of every lane, registers of the active ones (R18). -/
def Group.result (g : Group) (act : BitVec 32) (d : BitVec 7) (n : BitVec 1) (f : Nat → Thread → Word) : Group :=
  g.onAll fun i t => if act.getLsbD i then (t.writeBack d n (f i t)).shiftLatch (f i t) else t.shiftLatch 0

/-- A 64-bit lane result: the high word in y0 and the low word in y1 (R18). -/
def Group.resultPair (g : Group) (act : BitVec 32) (d : BitVec 7) (n : BitVec 1) (f : Nat → Thread → Dword) : Group :=
  g.onAll fun i t =>
    if act.getLsbD i then
      ((t.writePair d n (f i t)).shiftLatch ((f i t).extractLsb' 0 32)).shiftLatch ((f i t).extractLsb' 32 32)
    else (t.shiftLatch 0).shiftLatch 0

/-- Writes predicate `p` of a thread; a write of p7 is discarded. -/
def Thread.setPred (t : Thread) (p : Nat) (b : Bool) : Thread :=
  { t with p := if b then t.p ||| (1#7 <<< p) else t.p &&& ~~~(1#7 <<< p) }

/-- A predicate result of the active lanes. -/
def Group.resultPred (g : Group) (act : BitVec 32) (p : Nat) (f : Nat → Thread → Bool) : Group :=
  g.onLanes act fun i t => t.setPred p (f i t)

/-! The end of an instruction. -/

/-- Pipe occupancy of a lane instruction (R14). -/
def occupancy (long : Bool) (act : BitVec 32) : Nat := max 8 (if long then 4 * countLanes act else countLanes act)

/-- The time until which a pipe is busy. -/
def busyOf (c p : Nat) : List (Nat × Nat × Nat) → Nat
  | [] => 0
  | x :: r => if x.1 = c ∧ x.2.1 = p then x.2.2 else busyOf c p r

/-- Sets that time. -/
def setBusy (c p t : Nat) : List (Nat × Nat × Nat) → List (Nat × Nat × Nat)
  | [] => [(c, p, t)]
  | x :: r => if x.1 = c ∧ x.2.1 = p then (c, p, t) :: r else x :: setBusy c p t r

/-- The group's pipe is occupied for `n` clk from now, and at least as long as it was. An instruction occupies it when it issues: a
parked group that tests what it waits for, or completes, holds no pipe time (R14, R31). -/
def State.occupy (s : State) (n : Nat) : State :=
  { s with pipeBusy := if s.me.park.isSome then s.pipeBusy
      else setBusy s.me.core s.me.pipe (max (busyOf s.me.core s.me.pipe s.pipeBusy) (s.now + n)) s.pipeBusy }

/-- The group goes on after an instruction of `words` words that is no switch point. -/
def State.advance (s : State) (words occ : Nat) : State :=
  (s.occupy occ).onMe fun g => { g with pc := g.pc + BitVec.ofNat 64 (4 * words) }

/-- A switch point ends the run: latches and the kept CLK word become invalid, the next run starts at `pc` (R16, R20, R22,
R250), ready after `lat` clk more (R208). -/
def Group.endRun (g : Group) (pc : Dword) (ready : Nat) : Group :=
  { (g.onAll fun _ t => { t with lat := List.replicate 8 0, clkHi := none }) with
    pc := pc, runPc := pc, readyAt := ready, park := none, heldItem := none, resume := none, counted := 0 }

/-- The group goes on at `pc` after a switch point that occupied the pipe for `occ` clk, ready at a clk; a parked group is ready 4 clk
after what wakes it (R208). -/
def State.switchAt (s : State) (pc : Dword) (occ ready : Nat) : State :=
  (s.occupy occ).onMe fun g => g.endRun pc (if s.me.park.isSome then s.now + 4 else ready)

/-- The same, ready `lat` clk after the occupancy ends (R208). -/
def State.switchTo (s : State) (pc : Dword) (occ lat : Nat) : State := s.switchAt pc occ (s.now + occ + lat)

/-- The group goes on after a switch point of `words` words. -/
def State.switch (s : State) (words occ lat : Nat) : State :=
  s.switchTo (s.me.pc + BitVec.ofNat 64 (4 * words)) occ lat

/-- The code of a park reason, which the window shows (assumption 23). -/
def Park.code (p : Park) : Nat :=
  match p with
  | .await => 1
  | .tracker => 2
  | .barrier _ _ => 3
  | .slot _ _ => 4
  | .future _ _ => 5
  | .waita _ => 6
  | .gwait => 7
  | .gwaitOver _ => 7
  | .phend _ => 8
  | .mwait => 9
  | .resv => 10
  | .tile _ => 11
  | .queuePoint => 12
  | .opBuffer => 13
  | .yard => 14
  | .pri _ _ => 15
  | .held => 16

/-- Parks the group at an instruction that it completes when it is woken (R31); the instruction has issued and occupied the pipe (R14).
A park is traced, and so is one for another reason (R409). `readyAt` is the clk of the last test. -/
def State.parkMe (s : State) (why : Park) (occ : Nat := 1) : State :=
  let t := if s.me.park.isSome then s else s.occupy occ
  (if s.me.park.map Park.code = some why.code then t else t.trace s.myCtx (stationOf s.me.core) s.me.gslot).onMe fun g =>
    { g with park := some why, parkedAt := if g.park.isSome then g.parkedAt else s.now, readyAt := s.now }

/-- The instruction belongs to a part of a run that is repeated (R22): its events have been counted (R8, R151). -/
def Group.repeats (g : Group) : Bool := decide (g.pc.toNat < g.counted.toNat)

/-! Lane instructions as a whole. -/

/-- A lane instruction: its sources are consumed, or poison is, and its effect follows for the active lanes. -/
def State.laneRun (s : State) (l : Option Lxc) (srcs : List (BitVec 8 × Nat)) (k : BitVec 32 → State) : Result :=
  let act := s.me.active l
  let bad := s.lanePoison act srcs
  .next (if bad = 0 then k act else s.takeTrap cPoison bad 0 0 0)

/-- A lane instruction with a 32-bit result. -/
def State.laneWord (s : State) (l : Option Lxc) (d : BitVec 7) (n : BitVec 1) (words : Nat) (srcs : List (BitVec 8 × Nat))
    (f : Nat → Thread → Word) : Result :=
  s.laneRun l srcs fun act => (s.onMe fun g => g.result act d n f).advance words (occupancy false act)

/-- A lane instruction with a 64-bit result. -/
def State.lanePair (s : State) (l : Option Lxc) (d : BitVec 7) (n : BitVec 1) (words : Nat) (srcs : List (BitVec 8 × Nat))
    (f : Nat → Thread → Dword) : Result :=
  s.laneRun l srcs fun act =>
    ((s.clearV (if n = 1 ∨ 0x78 ≤ d.toNat then 0 else act) d.toNat 2).onMe fun g => g.resultPair act d n f).advance words
      (occupancy false act)

/-- A lane instruction with a predicate result. -/
def State.lanePred (s : State) (l : Option Lxc) (p : Nat) (words : Nat) (srcs : List (BitVec 8 × Nat))
    (f : Nat → Thread → Bool) : Result :=
  s.laneRun l srcs fun act => (s.onMe fun g => g.resultPred act p f).advance words (occupancy false act)

/-- LR words of one, two and three 32-bit sources. -/
def State.lane1 (s : State) (w : LR) (f : Word → Word) : Result :=
  s.laneWord w.lxc w.d w.n (lrLen w) [(w.a, 1)] fun _ t => f (srcVal s.me t w.a)

def State.lane2 (s : State) (w : LR) (f : Word → Word → Word) : Result :=
  s.laneWord w.lxc w.d w.n (lrLen w) [(w.a, 1), (w.b, 1)] fun _ t => f (srcVal s.me t w.a) (srcVal s.me t w.b)

def State.lane3 (s : State) (w : LR) (f : Word → Word → Word → Word) : Result :=
  s.laneWord w.lxc w.d w.n (lrLen w) [(w.a, 1), (w.b, 1), (lxcC w.lxc, 1)] fun _ t =>
    f (srcVal s.me t w.a) (srcVal s.me t w.b) (srcVal s.me t (lxcC w.lxc))

/-- LI words: one source and the immediate of R243. -/
def State.laneImm (s : State) (w : LI) (f : Word → Word → Word) : Result :=
  s.laneWord w.lxc w.d w.n (liLen w) [(w.a, 1)] fun _ t => f (srcVal s.me t w.a) (liImm w.imm (w.lxi.map fun x => x.hi.toNat))

/-- Predicate destinations of R217: PD and CND. -/
def pdOf (d : BitVec 7) : Nat := d.toNat / 16
def cndOf (d : BitVec 7) : Nat := d.toNat / 2 % 8

/-- An integer compare of two sources into a predicate (R240). -/
def State.laneCmp (s : State) (w : LR) (u : Bool) : Result :=
  s.lanePred w.lxc (pdOf w.d) (lrLen w) [(w.a, 1), (w.b, 1)] fun _ t =>
    icmp32 u (cndOf w.d) (srcVal s.me t w.a) (srcVal s.me t w.b)

/-! Uniform operands. -/

/-- A uniform pair; 511 reads 0. -/
def kPair (g : Group) (x : Nat) : Dword := if x = 511 then 0 else nth g.k (x + 1) 0 ++ nth g.k x 0

/-- Writes a uniform register; a write to 511 is discarded (R224). -/
def Group.setK (g : Group) (d : Nat) (x : Word) : Group := if d = 511 then g else { g with k := setNth g.k d x }

/-- Writes a uniform pair. -/
def Group.setKPair (g : Group) (d : Nat) (x : Dword) : Group :=
  if d = 511 then g else (g.setK d (x.extractLsb' 0 32)).setK (d + 1) (x.extractLsb' 32 32)

/-- Predicate q; q7 reads true. -/
def Group.qVal (g : Group) (i : Nat) : Bool := decide (i = 7) || g.q.getLsbD i

/-- Writes a predicate q; a write of q7 is discarded. -/
def Group.setQ (g : Group) (i : Nat) (b : Bool) : Group :=
  { g with q := if b then g.q ||| (1#7 <<< i) else g.q &&& ~~~(1#7 <<< i) }

/-- The guard of a KX (R225). -/
def kxPass (g : Group) (k : Option Kx) : Bool :=
  match k with
  | none => true
  | some x => decide (x.ge = 0) || (g.qVal x.gq.toNat != decide (x.gn = 1))

/-- IMMHI16 and EXT4 of a KX, 0 without one. -/
def kxImmHi (k : Option Kx) : Nat :=
  match k with
  | some x => x.imm.toNat
  | none => 0

/-- Words of a uniform instruction. -/
def kxLen (k : Option Kx) : Nat := if k.isSome then 2 else 1

/-- A uniform read consumes poison: register and count (R421). -/
def State.kPoison (s : State) (srcs : List (Nat × Nat)) : Bool :=
  s.poison.any fun p =>
    match p with
    | .kreg c gs pr => decide (c = s.me.core ∧ gs = s.me.gslot) &&
        srcs.any fun x => decide (x.1 < 384 ∧ x.1 / 2 ≤ pr ∧ pr ≤ (x.1 + x.2 - 1) / 2)
    | _ => false

/-- A uniform instruction: its guard, then its sources, then its effect; a false guard makes it a no-op that advances, as a
switch point where it is one (R225). -/
def State.uniRun (s : State) (k : Option Kx) (srcs : List (Nat × Nat)) (isSwitch : Bool) (f : State) : Result :=
  .next (if kxPass s.me k = false then (if isSwitch then s.switch (kxLen k) 1 0 else s.advance (kxLen k) 1)
    else if s.kPoison srcs then s.takeTrap cPoison s.me.cur 0 0 0
    else f)

/-- A uniform instruction that only changes the group's registers. -/
def State.uniCalc (s : State) (k : Option Kx) (srcs : List (Nat × Nat)) (f : Group → Group) : Result :=
  s.uniRun k srcs false ((s.onMe f).advance (kxLen k) 1)

/-- A UR word of two 32-bit sources. -/
def State.uni2 (s : State) (w : UR) (f : Word → Word → Word) : Result :=
  s.uniCalc w.kx [(w.a.toNat, 1), (w.b.toNat, 1)] fun g =>
    g.setK w.d.toNat (f (kVal g w.a.toNat) (kVal g w.b.toNat))

end Sys2Proof.Machine
end

