-- ==== Sys2Proof/Machine/Fetch.lean ====
section
/-! DEFINITION. Choosing the next group of a pipe (R17), fetching and decoding its instruction (R32, R211, R212), holding an
early-emitted group (R48), and the small machine in which one instruction word stands where the next fetch finds it. -/

namespace Sys2Proof.Machine

/-- Clk of the 1.4 GHz reference in a microsecond (R250). -/
def clkPerUs : Nat := 1400

/-- A station issues instructions: it is neither halted nor stopped by heat, it is not power-gated, and the clock is not changing (R411,
R414, R424); one in P2 wakes first. -/
def State.stationIssues (s : State) (stn : Nat) : Bool :=
  !s.sec.halt.getLsbD stn && !s.fleet.tstop && decide (nth s.power.cur stn 0 ≠ 3) && !s.power.clkBusy && !s.power.removed

/-- Under the power cap a station issues in the first DUTY of every 16 µs slots (R424, assumption 22). -/
def State.dutyFrom (s : State) (t : Nat) : Nat :=
  if t / clkPerUs % 16 < s.fleet.duty then t else (t / clkPerUs / 16 + 1) * 16 * clkPerUs

/-- The clk in which a group's next instruction can start on its pipe. -/
def State.startOf (s : State) (g : Group) : Nat := s.dutyFrom (max s.now (max g.readyAt (busyOf g.core g.pipe s.pipeBusy)))

/-- A run of the group is under way on its pipe (R16): one that stopped inside its run waits to be chosen again. -/
def Group.midRun (g : Group) : Bool := g.park.isNone && !g.apart && decide (g.pc ≠ g.runPc)

/-- No other group of the pipe is inside a run (R17). -/
def State.pipeFree (s : State) (g : Group) : Bool :=
  !s.resident.any fun x => x.core == g.core && x.pipe == g.pipe && x.uid != g.uid && x.midRun

/-- The groups that can issue: ready in the sense of R17 but for their readiness time. -/
def State.canIssue (s : State) : List Group :=
  s.resident.filter fun g => g.park.isNone && !g.stopAsked && s.stationIssues (stationOf g.core) && s.pipeFree g

/-- a issues before b: earlier start, then earlier readiness, then the lower GSLOT, core and pipe (R17, assumption 1). -/
def State.issuesBefore (s : State) (a b : Group) : Bool :=
  keyLt [s.startOf a, a.readyAt, a.gslot, a.core, a.pipe] [s.startOf b, b.readyAt, b.gslot, b.core, b.pipe]

/-- The group of a list that issues first. -/
def State.firstOf (s : State) : List Group → Option Group
  | [] => none
  | g :: r =>
    match s.firstOf r with
    | some h => some (if s.issuesBefore h g then h else g)
    | none => some g

/-- Brings a resident group onto the issuing pipe. -/
def State.select (s : State) (uid : Nat) : State :=
  if s.me.uid = uid then s
  else
    match s.groups.find? (fun g => g.uid == uid) with
    | none => s
    | some g => { s with
        me := g
        groups := (if s.me.uid = 0 then [] else [s.me]) ++ s.groups.filter (fun x => x.uid != uid) }

/-- Instruction-cache line of an address (R209). -/
def lineOf (va : Nat) : Nat := va / 128

/-- The line is present in the station's instruction cache. -/
def State.hasLine (s : State) (stn ctx line : Nat) : Bool := s.icache.contains (stn, ctx, line)

/-- What the fetch of one word gives: the word, or the state after a miss or a trap. -/
inductive Fetched where
  | word (w : Word)
  | stop (s : State)
  deriving DecidableEq, Repr

/-- The time at which a line that is on its way arrives. -/
def State.fillDue (s : State) (stn ctx line : Nat) : Option Nat :=
  (s.fills.find? fun x => x.1 == stn && x.2.1 == ctx && x.2.2.1 == line).map fun x => x.2.2.2

/-- A line's fill starts, unless the line is present or on its way: 160 clk from the die cache (R32, R209). -/
def State.startFill (s : State) (stn line : Nat) : State :=
  if s.hasLine stn s.myCtx line || (s.fillDue stn s.myCtx line).isSome then s
  else { s with fills := s.fills ++ [(stn, s.myCtx, line, s.now + 160)] }

/-- A miss (R32): the slip counter advances, the line is on its way, and the group waits until it arrives. -/
def State.fetchMiss (s : State) (line : Nat) : State :=
  let stn := stationOf s.me.core
  let s1 := s.startFill stn line
  { s1.onMe fun g => { g with readyAt := max (s.now + 1) ((s1.fillDue stn s.myCtx line).getD 0) } with
    fleet := { s.fleet with slip := setNth s.fleet.slip stn (nth s.fleet.slip stn 0 + 1) } }

/-- The outcome of a fetch after which the group goes on: a replayable fault, or a wait for a page, which R354 calls one. -/
def Xlat.refetch (x : Xlat) : Bool :=
  match x with
  | .fault => true
  | .pri _ => true
  | _ => false

/-- A fetch that faults is reported at the first word (R212); what follows the replay, or the response that a page has come, is the run
from its start (R22). -/
def State.fetchFault (s : State) (x : Xlat) (va : Nat) : State :=
  let t := s.xlatTrap x .fetch (s.master s.me.grid) s.me.cur va
  if x.refetch then
    t.onMe fun g => if g.uid = s.me.uid then
      { g.redo with heldItem := g.heldItem.map fun h => { h with mask := BitVec.allOnes 32 } } else g
  else t

/-- The word at an address, through the instruction cache and the context's tables. -/
def State.fetchWord (s : State) (va : Nat) : Fetched :=
  if s.hasLine (stationOf s.me.core) s.myCtx (lineOf va) = false then .stop (s.fetchMiss (lineOf va))
  else if 2 ^ 56 ≤ va then .stop (s.fetchFault (.denied none) va)
  else
    match translate s s.myCtx (s.master s.me.grid) va .fetch with
    | .ok (.mem pa _) => .word (BitVec.ofNat 32 (Memory.num s.hbm pa 4))
    | .ok (.sys a) => .word (BitVec.ofNat 32 (Memory.num s.sysMem a 4))
    | .ok (.win off) => .word (BitVec.ofNat 32 (Memory.num s.window off 4))
    | x => .stop (s.fetchFault x va)

/-- What the decoder makes of the words at the PC, or the state after a miss or a trap. -/
inductive Issued where
  | run (i : Instr)
  | trap (malformed : Bool) (off : Nat)
  | stop (s : State)
  deriving DecidableEq, Repr

/-- Checks 1 to 3 of R211 on the words at the PC, fetching on while a prefix asks for more. -/
def State.fetchInstr (s : State) : Nat → List Word → Issued
  | 0, _ => .trap true 0
  | fuel + 1, ws =>
    match s.fetchWord (s.me.pc.toNat + 4 * ws.length) with
    | .stop t => .stop t
    | .word w =>
      match decodeWords (ws ++ [w]) with
      | .ok i _ =>
        match fieldError (s.grid s.me.grid).v (s.grid s.me.grid).kn i with
        | none => .run i
        | some off => .trap true off
      | .needMore => s.fetchInstr fuel (ws ++ [w])
      | .badForm off => .trap true off
      | .badOpcode => .trap false 0

/-- The instructions a group emitted early may not issue before its episode releases (R48). -/
def heldEarly (i : Instr) : Bool :=
  match i with
  | .ldg _ | .stg _ | .lds _ | .sts _ | .ldp _ | .stp _ | .atomg _ | .atoms _ | .kvx _ | .kvxNf _ | .acld _ | .acst _ => true
  | .rebinB _ | .rebinS _ | .spawn _ | .await _ | .exit _ | .fread _ | .ffill _ => true
  | .kld _ | .kst _ | .klds _ | .ksts _ | .katom _ => true
  | .cpy _ | .cpym _ | .qfen _ | .mres _ | .mrel _ | .mma _ | .mfen _ | .mwait _ | .twm _ | .tstat _ | .tclr _ => true
  | .kvld _ | .kvst _ | .kvinv _ | .mrg _ | .rfen _ | .bara _ | .barw _ | .bars _ => true
  | .slotaFree _ | .slotaFull _ | .slotrFull _ | .slotrFree _ | .slotrInit _ | .waita _ | .glnch _ | .gwait _ | .phend _ => true
  | .yield _ | .tail _ | .exitg _ | .trap _ | .brkp _ | .csrw _ | .hsig _ | .hflush _ => true
  | _ => false

/-- The group was emitted before its episode released, and the instruction must wait for the release. -/
def State.heldByYard (s : State) (i : Instr) : Bool :=
  match s.me.early with
  | some e => heldEarly i && s.episodes.any (fun x => x.id == e)
  | none => false

/-! The machine that State.withFetchWord builds (assumption 2): context 0, a 64 MiB page at PA 0x400_0000 mapped at VA 0,
grid 1 of one block with one group of 32 threads on pipe 0 of core 0, V = 120, Kn = 384. -/

/-- The page tables: three levels of table and a 64 MiB leaf that allows every access. -/
def launchTables : Memory :=
  Memory.putBytes (Memory.putBytes (Memory.putBytes [] 0x10000 (natLe 0x12001 8)) 0x12000 (natLe 0x14001 8)) 0x14000
    (natLe 0x400001F 8)

/-- Access-table quadwords that let master 0 reach every page of the eight stacks. -/
def launchAccess : List (Nat × Dword) :=
  (List.range 8).foldr (fun t l => (t * 8192, 0xF) :: (t * 8192 + 1, 0x00FFFFFFFFFFF000) :: l) []

/-- The context of the launched grid. -/
def launchCtx : Ctx := { Ctx.empty with valid := true, groot := 0x10000, rsz := 16, pcap := 256 }

/-- The launched grid: running, one block of one group, V = 120, Kn = 384. -/
def launchGrid : Grid := { Grid.empty with
  handle := 1, state := 3, word := 0x063C4320, dims := (1, 1, 1), groups := 1, sbytes := 4096, ntiles := 1, placed := 1,
  stations := [⟨0, 0, false, 0, 0⟩] }

/-- A thread of the launched group. -/
def launchThread (lane : Nat) : Thread := { Thread.empty with
  tid := BitVec.ofNat 32 lane, blk := 1, btid := lane, rank := [lane], v := List.replicate 120 0, exited := false,
  party := Party.empty (lane + 1) }

/-- The launched group. -/
def launchGroup : Group := { Group.empty with
  uid := 1, grid := 1, blk := 1, lanes := (List.range 32).map fun i => some (launchThread i), path := BitVec.allOnes 32,
  k := List.replicate 384 0 }

/-- The launched block. -/
def launchBlock : Block := { Block.empty with
  uid := 1, grid := 1, home := 0, cores := [0], groups := 1, sb := 4096, tiles := [Tile.fresh],
  rings := List.replicate 16 Ring.fresh }

/-- Memory of the launched machine with a word at the group's PC. -/
def launchMemory (nbits w : Nat) : Memory := launchTables.putBytes 0x4000000 (natLe w (max 4 (nbits / 8)))

end Sys2Proof.Machine
end

