-- ==== Sys2Proof/Machine/Private.lean ====
section
/-! DEFINITION. Private memory (R96, R97, R359): the grid's private tree, pages from the context's pool ring, the two areas of
a thread and their marks, and the stack of hardware saves. -/

namespace Sys2Proof.Machine

/-- Takes the next page of the context's pool ring for a grid; none while the ring is empty (R359). -/
def State.poolPage (s : State) (h : Nat) : Option (Nat × State) :=
  let g := s.grid h
  let c := s.ctx g.ctx
  if c.ppTail = c.ppHead then none
  else
    let r := s.readHub false (c.ppool + 8 * (c.ppTail.toNat % max c.rsz 1)) 8
    let pa := r.1
    some (pa, (r.2.onCtx g.ctx fun c => { c with ppTail := c.ppTail + 1 }).onGrid h fun x =>
      { x with privPages := x.privPages ++ [pa] })

/-- Takes an 8 KiB table of the grid's tree, cutting a new page into 8 when none is left (R359). -/
def State.privTable (s : State) (h : Nat) : Option (Nat × State) :=
  match (s.grid h).privFree with
  | t :: r => some (t, s.onGrid h fun x => { x with privFree := r })
  | [] =>
    match s.poolPage h with
    | some (pa, t) => some (pa, t.onGrid h fun x => { x with privFree := (List.range 7).map fun i => pa + 8192 * (i + 1) })
    | none => none

/-- The walk of a private key TID:offset, binding what is missing on the way (R97, R359): a place, or PRIVATE_GROW (`fault`)
when the pool is empty. -/
def State.privWalk (s : State) (h key : Nat) : Nat → Nat → Xlat × State
  | 0, _ => (.fatal, s)
  | fuel + 1, table =>
    let at_ := table + 8 * field key (16 + 10 * fuel) 10
    let e := s.readMem at_ 8
    if s.badWord at_ then (.poison, s)
    else if e.testBit 0 then
      let addr := field e 13 43 * 8192
      if fuel = 0 then (if hbmBytes ≤ addr then .hole addr else .ok (.mem (addr + key % 65536) false), s)
      else s.privWalk h key fuel addr
    else if fuel = 0 then
      match s.poolPage h with
      | some (pa, t) =>
        (if hbmBytes ≤ pa then .hole pa else .ok (.mem (pa + key % 65536) false),
          t.putAs hubMaster false at_ (natLe (pa / 65536 * 65536 + 15) 8))
      | none => (.fault, s)
    else
      match s.privTable h with
      | some (pa, t) => (t.putAs hubMaster false at_ (natLe (pa / 8192 * 8192 + 1) 8)).privWalk h key fuel pa
      | none => (.fault, s)

/-- The tree's root, taken at the grid's acceptance. -/
def State.privPlace (s : State) (h tid off : Nat) : Xlat × State :=
  match (s.grid h).privRoot with
  | some r => s.privWalk h (tid * 2 ^ 24 + off) 4 r
  | none =>
    match s.privTable h with
    | some (r, t) => (t.onGrid h fun x => { x with privRoot := some r }).privWalk h (tid * 2 ^ 24 + off) 4 r
    | none => (.fault, s)

/-- The per-thread cap in pages (R98). -/
def Ctx.cap (c : Ctx) : Nat := if c.pcap = 0 ∨ 256 < c.pcap then 256 else c.pcap

/-- The marks of a thread may take these values: within the cap, and the areas do not overlap (R97). -/
def marksOk (cap low high : Nat) : Bool := decide ((low + high) / 65536 ≤ cap) && decide (low + high ≤ 2 ^ 24)

/-- The low mark raised to the end of the page of a byte; the high mark raised to cover the page of a byte (R97). -/
def lowFor (t : Thread) (off : Nat) : Nat := max t.low ((off / 65536 + 1) * 65536)
def highFor (t : Thread) (off : Nat) : Nat := max t.high (2 ^ 24 - off / 65536 * 65536)

/-- Raises the marks of the thread a held fault names (R97). -/
def Thread.grow (t : Thread) (tid : Nat) (save : Bool) (off : Nat) : Thread :=
  if t.tid.toNat ≠ tid then t else if save then { t with high := highFor t off } else { t with low := lowFor t off }

/-! The core's TLB holds private translations too (R100). -/

/-- The TLB of a core takes the page of a private key. -/
def State.fillPriv (s : State) (h key pa : Nat) : State :=
  if (s.tlbEntry s.me.core (privTag h) key).isSome then s
  else
    let e := (s.me.core, privTag h, key / 65536, 16, pa / 65536 * 65536 + 15)
    { s with tlb := keepFirst (fun x => x.1 == s.me.core) (tlbSize s.me.core) (e :: s.tlb) }

/-- The page of a private byte, from the TLB of the issuing core or by a walk, which fills it where it succeeds (R100, R358). -/
def State.privPage (s : State) (h tid off : Nat) : Xlat × State :=
  let key := tid * 2 ^ 24 + off
  match s.tlbEntry s.me.core (privTag h) key with
  | some e => (.ok (.mem (field e.1 13 43 * 8192 + key % 65536) false), s)
  | none =>
    match s.privPlace h tid off with
    | (.ok (.mem pa ap), u) => (.ok (.mem pa ap), u.fillPriv h key pa)
    | r => r

/-- The place of `n` bytes at a private offset, for a program access or a save push: `fault` is a replayable PRIVATE_GROW,
`fatal` one that cannot be granted (R97). -/
def State.privAccess (s : State) (h : Nat) (t : Thread) (off n : Nat) (save : Bool) (k : Access) : Xlat × State :=
  let inside := (!save && decide (off + n ≤ t.low)) || decide (2 ^ 24 - t.high ≤ off)
  let cap := (s.ctx (s.grid h).ctx).cap
  let ok := if save then marksOk cap t.low (highFor t off) else marksOk cap (lowFor t (off + n - 1)) t.high
  if inside then
    match s.privPage h t.tid.toNat off with
    | (.ok (.mem pa ap), u) =>
      if accessOk u (pa / 4096 % 8) (s.grid h).ctx pa k then (.ok (.mem pa ap), u) else (.denied (some (pa / 4096 % 8, pa)), s)
    | (x, u) => (x, u)
  else if ok then (.fault, s) else (.fatal, s)

/-- Raises PRIVATE_GROW for the issuing group: fatal when a growth cannot be granted, else held for replay with the marks to
raise (R97, R387). `parts` lists the lanes by private offset. -/
def State.privGrow (s : State) (fatal : Bool) (parts : List (Nat × Nat × BitVec 32)) (grow : List (Nat × Bool × Nat)) : State :=
  if fatal then
    let p := parts.headD (0, 0, 0)
    s.takeFatal { s.me.trapRec s cPrivateGrow with va := p.1, tid := (s.me.thread (lowLane p.2.2)).tid.toNat }
  else s.takeReplayable (parts.map fun p => (cPrivateGrow, p)) grow

/-! The stack of hardware saves (R96). -/

/-- The chunks of `n` bytes at a private offset, at most a page of them, cut at 4 KiB: each 4 KiB page that an access touches is checked
(R407). -/
def pageChunks (off n : Nat) : List (Nat × Nat) :=
  let first := min n (4096 - off % 4096)
  if n = 0 then [] else if first = n then [(off, n)] else [(off, first), (off + first, n - first)]

/-- Writes bytes into a thread's save area, binding its pages; the first outcome that is no place ends it. -/
def State.saveBytes (s : State) (h : Nat) (t : Thread) (off : Nat) (bs : List Byte) : Xlat × State :=
  (pageChunks off bs.length).foldl (fun acc c =>
    match acc.1 with
    | .ok _ =>
      match acc.2.privAccess h t c.1 c.2 true .write with
      | (.ok (.mem pa ap), u) => (.ok (.mem pa ap), u.putPhys false pa ((bs.drop (c.1 - off)).take c.2))
      | r => r
    | _ => acc) (.ok (.mem 0 false), s)

/-- Reads bytes of a thread's save area; the first outcome that is no place ends it, and so does poison (R407, R421). -/
def State.savedBytes (s : State) (h : Nat) (t : Thread) (off n : Nat) : Xlat × List Byte × State :=
  (pageChunks off n).foldl (fun acc c =>
    match acc.1 with
    | .ok _ =>
      match acc.2.2.privAccess h t c.1 c.2 true .read with
      | (.ok (.mem pa ap), u) =>
        (if (List.range ((pa % 8 + c.2 + 7) / 8)).any (fun i => u.badWord (pa + 8 * i)) then .poison else .ok (.mem pa ap),
          acc.2.1 ++ Memory.bytes u.hbm pa c.2, u)
      | (x, u) => (x, acc.2.1, u)
    | _ => acc) (.ok (.mem 0 false), [], s)

/-- A restore whose save cannot be read traps (R281, R407): it is an access of the group's threads. -/
def State.saveTrap (s : State) (x : Xlat) (off : Nat) : State :=
  match x with
  | .fault => s.privGrow true [(off, 0, s.me.cur)] []
  | .fatal => s.privGrow true [(off, 0, s.me.cur)] []
  | y => s.xlatTrap y .read (s.master s.me.grid) s.me.cur off

/-- What follows for the issuing group, unless it has trapped and is gone. -/
def State.ifStays (t : State) (uid : Nat) (f : State → State) : State := if t.me.uid = uid then f t else t

/-- Bytes of the save area below its upper end, down to the last save that it holds (R96). -/
def Thread.saved (t : Thread) : Nat :=
  match t.saves with
  | [] => 0
  | x :: _ => 2 ^ 24 - x.1

/-- The private offset at which a push of `n` bytes lands. -/
def Thread.pushAt (t : Thread) (n : Nat) : Nat := 2 ^ 24 - t.saved - n

/-- A save of `n` bytes is pushed (R96). -/
def Thread.push (t : Thread) (n : Nat) : Thread := { t with saves := (t.pushAt n, n) :: t.saves }

/-- The save at an offset is released; the stack ends at the last one that is left, which may have been pushed after it (R60, R96). -/
def Thread.free (t : Thread) (off : Nat) : Thread := { t with saves := t.saves.filter fun x => x.1 != off }

end Sys2Proof.Machine
end

