-- ==== Sys2Proof/Machine/Control.lean ====
section
/-! DEFINITION. Control flow and the divergence stack (R24, R25, R297 to R300), with the spill of its oldest entries into
private memory. -/

namespace Sys2Proof.Machine

/-- Depth for R26 and R34: entries, and one more while threads wait or paths are deferred at the base level (R297). -/
def Group.depth (g : Group) : Nat :=
  g.stack.length + (if g.base.q.isEmpty ∧ g.base.wb &&& g.liveMask = 0 then 0 else 1)

/-- Pops the top entry. -/
def Group.pop (g : Group) : Group := { g with stack := g.stack.drop 1 }

/-- The 64 bytes of a spilled entry in the thread-0 area (R25): rpc, F, then the first four deferred paths, each its PC and its mask;
no rule gives the layout (assumption 87). -/
def DivEntry.image (e : DivEntry) : List Byte :=
  let bs := natLe e.rpc.toNat 8 ++ natLe e.f.toNat 4 ++ ((e.q.take 4).map fun x => natLe x.1.toNat 8 ++ natLe x.2.toNat 4).flatten
  bs ++ List.replicate (64 - bs.length) 0

/-- A spilled entry as its bytes give it back, whoever has written them since (R97). -/
def DivEntry.restored (e : DivEntry) (bs : List Byte) : DivEntry :=
  { e with
    rpc := BitVec.ofNat 64 (recNum bs 0 8)
    f := BitVec.ofNat 32 (recNum bs 8 4)
    q := mapFrom (fun i x => if i < 4 then (BitVec.ofNat 64 (recNum bs (12 + 12 * i) 8), BitVec.ofNat 32 (recNum bs (20 + 12 * i) 4))
      else x) 0 e.q }

/-- A spilled entry that has become the top comes back from the thread-0 area, which shrinks (R25). -/
def State.unspill (s : State) : State :=
  let g := s.me
  match g.stack with
  | e :: r =>
    if g.stack.length ≤ g.spilled then
      match s.savedBytes g.grid (g.thread 0) e.spill 64 with
      | (.ok _, bs, u) => u.onMe fun g =>
          { (g.onLanes 1 fun _ t => t.free e.spill) with stack := e.restored bs :: r, spilled := r.length }
      | (x, _, u) => u.saveTrap x e.spill
    else s
  | [] => s

/-- The address after an instruction of a KX and a word. -/
def State.after (s : State) (k : Option Kx) : Dword := s.me.pc + BitVec.ofNat 64 (4 * kxLen k)

/-- The target of a UB word (R298). -/
def State.target (s : State) (w : UB) : Dword := s.me.pc + (w.off.signExtend 64 <<< 2)

/-- The guard of a UB word (R298). -/
def ubGuard (g : Group) (w : UB) : Bool := g.qVal w.cq.toNat != decide (w.cn = 1)

/-- BRA (R298). -/
def execBra (w : UB) (s : State) : Result :=
  .next (s.switchTo (if ubGuard s.me w then s.target w else s.me.pc + 4) 1 0)

/-- CALL (R298): k0:k1 take the return address. -/
def execCall (w : UB) (s : State) : Result :=
  .next (if ubGuard s.me w then ((s.clearK 0 2).onMe fun g => g.setKPair 0 (s.me.pc + 4)).switchTo (s.target w) 1 0
    else s.switchTo (s.me.pc + 4) 1 0)

/-- BRD (R298): the taken threads are deferred on the top level; the others fall through. -/
def execBrd (w : UB) (s : State) : Result :=
  let c := s.me.cur
  let t := c &&& maskOf fun i => (s.me.thread i).pred w.cq.toNat != decide (w.cn = 1)
  .next (if t = c then s.switchTo (s.target w) 1 0
    else if t = 0 then s.switchTo (s.me.pc + 4) 1 0
    else
      let put (g : Group) : Group :=
        match g.stack with
        | e :: r => { g with stack := { e with q := e.q ++ [(s.target w, t)] } :: r }
        | [] => { g with base := { g.base with q := g.base.q ++ [(s.target w, t)] } }
      (s.onMe fun g => { put g with path := c &&& ~~~t }).switchTo (s.me.pc + 4) 1 0)

/-- Pushes an entry; the 33rd resident entry makes the oldest one spill to the thread-0 area first (R25, R97). -/
def State.pushEntry (s : State) (e : DivEntry) : Xlat × State :=
  let g := s.me
  if g.stack.length - g.spilled < 32 then (.ok (.mem 0 false), s.onMe fun g => { g with stack := e :: g.stack })
  else
    let t0 := g.thread 0
    let off := t0.pushAt 64
    let i := g.stack.length - g.spilled - 1
    let oldest := nth g.stack i ⟨0, 0, [], none, 0⟩
    match s.saveBytes g.grid t0 off oldest.image with
    | (.ok p, u) => (.ok p, u.onMe fun g =>
        { (g.onLanes 1 fun _ t => t.push 64) with
          stack := e :: setNth g.stack i { oldest with spill := off }, spilled := g.spilled + 1 })
    | (x, u) => (x, u)

/-- SYN (R298); a spill that meets a gap or an empty pool raises PRIVATE_GROW (R25). -/
def execSyn (w : UB) (s : State) : Result :=
  .next (if ubGuard s.me w = false then s.switchTo (s.me.pc + 4) 1 0
    else
      let off := (s.me.thread 0).pushAt 64
      match s.pushEntry ⟨s.target w, s.me.cur, [], none, 0⟩ with
      | (.ok _, t) => t.switchTo (s.me.pc + 4) 1 0
      | (.fault, _) => (s.occupy 1).privGrow false [(off, 0, s.me.cur)] [((s.me.thread 0).tid.toNat, true, off)]
      | (.fatal, _) => s.privGrow true [(off, 0, s.me.cur)] []
      | (x, _) => s.xlatTrap x .write (s.master s.me.grid) s.me.cur off)

/-- JOIN on the top level (R299): the new PC, `after` being the address after the JOIN. -/
def Group.joined (g : Group) (after : Dword) : Group :=
  match g.stack with
  | e :: r =>
    match e.q with
    | (pc, m) :: q => { g with stack := { e with q := q } :: r, path := m, pc := pc }
    | [] => { g.pop with path := e.f, pc := after }
  | [] =>
    match g.base.q with
    | (pc, m) :: q =>
      { g with
        base := ⟨q, g.base.wb ||| g.cur, if g.base.wb &&& g.liveMask = 0 then after else g.base.wpc⟩
        path := m
        pc := pc }
    | [] => { g with base := { g.base with wb := 0 }, path := g.cur ||| g.base.wb, pc := after }

/-- JOIN (R299). -/
def execJoin (w : UC) (s : State) : Result :=
  s.uniRun w.kx [] true (((s.onMe fun g => g.joined (s.after w.kx)).unspill).ifStays s.me.uid fun t =>
    t.switchTo (s.me.joined (s.after w.kx)).pc 1 0)

/-- Checks the target of a register branch (R300). -/
def State.jumpTo (s : State) (target : Dword) (f : State → State) : State :=
  if 2 ^ 56 ≤ target.toNat then s.trapAll cAccessDenied target.toNat
  else if target.toNat % 4 ≠ 0 then s.trapAll cMisaligned target.toNat
  else (f s).switchTo target 1 0

/-- JMPR, RET (R300). -/
def execJmpr (w : UC) (s : State) : Result :=
  s.uniRun w.kx [(w.a.toNat, 2)] true (s.jumpTo (kPair s.me w.a.toNat) fun t => t)
def execRet (w : UC) (s : State) : Result :=
  s.uniRun w.kx [(w.a.toNat, 2)] true (s.jumpTo (kPair s.me w.a.toNat) fun t => t)

/-- CALLR (R300): the pair is read before k0:k1 is written. -/
def execCallr (w : UC) (s : State) : Result :=
  s.uniRun w.kx [(w.a.toNat, 2)] true
    (s.jumpTo (kPair s.me w.a.toNat) fun t => (t.clearK 0 2).onMe fun g => g.setKPair 0 (s.after w.kx))

end Sys2Proof.Machine
end

