-- ==== Sys2Proof/Machine/Edges.lean ====
section
/-! DEFINITION. Creating edges and handing them to their receivers (R107 to R111, R114), and the atomic state of words
(R117 to R119). -/

namespace Sys2Proof.Machine

/-! Edges. -/

/-- The places of the four bytes of a word. -/
def wordBytesAt (l : Loc) (v : Word) : List (Loc × Byte) := List.zip (l.span 4) (word32Bytes v)

/-- The atomic candidates of a set of words: their current atomic values (R109 step 1). -/
def State.atomCands (s : State) (ws : List Loc) : List (Loc × Byte) :=
  ((addLocs ws []).filterMap fun l => (findAtom l s.atoms).map fun a => wordBytesAt l a.val).flatten

/-- The bytes at which the launch value of grid `b` differs from that of grid `a`, as cells of `b` (R106). -/
def launchCells (b a : Grid) : List VCell :=
  let diff (f : Nat → Loc) (m n : Memory) : List VCell :=
    ((m.filter fun x => Memory.get n x.1 != x.2).map fun x => ⟨f x.1, x.2, ⟨0, 0, []⟩⟩) ++
    ((n.filter fun x => Memory.get m x.1 = 0).map fun x => ⟨f x.1, 0, ⟨0, 0, []⟩⟩)
  diff Loc.mem b.snapMem a.snapMem ++ diff Loc.sys b.snapSys a.snapSys

/-- An edge of senders of grid `b` as a party of grid `a` receives it: their launch values are carried where they have no other
(R109). -/
def Edge.foreign (e : Edge) (b a : Grid) : Edge :=
  if b.handle = 0 ∨ b.handle = a.handle then e
  else
    let add (v : List VCell) (c : VCell) : List VCell := if (findCell c.loc v).isSome then v else c :: v
    { e with senders := e.senders.map fun x => { x with view := (launchCells b a).foldl add x.view } }

/-- The edge of a list of senders, with the atomic candidates of the words the senders, and the receivers listed, performed
atomics on in their ending quanta (R109): their values at this moment. -/
def State.edge (s : State) (ss : List Sender) (recv : List Loc) : Edge :=
  ⟨ss, s.atomCands ((ss.map fun x => x.atoms).flatten ++ recv), none⟩

/-- An edge as the parties `ps` receive it now: the atomic candidates are the present values of the words that any of its parties
performed atomics on. What a barrier, an episode or a phase fixed at its completion stands for the words that no receiver of this
moment touched since (assumption 89). -/
def State.offer (s : State) (e : Edge) (ps : List Party) : Edge :=
  let mine := (ps.map fun p => p.atoms).flatten
  { e with atoms := s.atomCands mine ++ (if e.atoms.isEmpty then s.atomCands (e.senders.map fun x => x.atoms).flatten else e.atoms) }

/-- Bytes of an atomic word after a direct plain write won at the edge, where it is chosen (R109). -/
def settleWord (e : Edge) (chosen : Loc → Bool) (a : AtomWord) : AtomWord :=
  { a with val := BitVec.ofNat 32 (leNat ((wordBytesAt a.loc a.val).map fun x =>
      if chosen x.1 then (directWinner e x.1).getD x.2 else x.2)) }

/-- The atomic state takes the bytes of the direct writes chosen at an edge (R109), at the places where some receiver chooses one. -/
def State.settleWhere (s : State) (e : Edge) (chosen : Loc → Bool) : State := { s with atoms := s.atoms.map (settleWord e chosen) }

/-- The same where no receiver has a candidate of its own: all of them are new parties or senders. -/
def State.settleEdge (s : State) (e : Edge) : State := s.settleWhere e fun _ => true

/-- The same for the receivers `ps`: a byte of which every one of them has its own candidate is not chosen. -/
def State.settleFor (s : State) (e : Edge) (ps : List Party) : State := s.settleWhere e fun l => ps.any fun p => (e.own p l).isNone

/-- Parties that have ended sent an edge: what is kept of them folds, so that a later edge of theirs carries their writes as
view values (R109 step 4). -/
def State.foldSent (s : State) (ss : List Sender) : State :=
  let pids := ss.map fun x => x.q.pid
  let one (x : Sender) : Sender := if pids.contains x.q.pid then x.fold else x
  { s with
    grids := s.grids.map fun g => { g with
      ended := foldThose pids g.ended
      arrivedPhase := g.arrivedPhase.map fun x => (x.1, one x.2) }
    frames := s.frames.map fun f => { f with done := foldThose pids f.done }
    doneOps := s.doneOps.map fun o => { o with sender := one o.sender }
    doneMmas := s.doneMmas.map fun m => { m with sender := one m.sender } }

/-- A thread as a sender with a rank. -/
def Thread.sender (t : Thread) (r : Rank) : Sender := t.party.sender r

/-- A thread folds its pending writes after a send (R109 step 4). -/
def Thread.fold (t : Thread) : Thread := { t with party := t.party.fold }

/-- A thread receives an edge. -/
def Thread.receive (t : Thread) (e : Edge) : Thread := { t with party := t.party.receive e }

/-- The active lanes of a mask as senders ranked by LANE (R107). -/
def Group.laneSenders (g : Group) (m : BitVec 32) : List Sender :=
  (lanesOf m).map fun i => (g.thread i).sender (Rank.thread [i])

/-- The lanes of a mask send an edge to new parties, which receive it at once: the edge, and the state in which they have folded. -/
def State.sendLanes (s : State) (m : BitVec 32) : Edge × State :=
  let e := s.edge (s.me.laneSenders m) []
  (e, (s.settleEdge e).onMe fun g => g.onLanes m fun _ t => t.fold)

/-- The lanes of a mask send an edge that is received later, when its atomic candidates are taken and its direct writes settle
(assumption 89). -/
def State.publishLanes (s : State) (m : BitVec 32) : Edge × State :=
  (⟨s.me.laneSenders m, [], none⟩, s.onMe fun g => g.onLanes m fun _ t => t.fold)

/-- The parties of the lanes of a mask. -/
def Group.laneParties (g : Group) (m : BitVec 32) : List Party := (lanesOf m).map fun i => (g.thread i).party

/-- The lanes of a mask receive an edge together (R109). -/
def State.receiveLanes (s : State) (m : BitVec 32) (e : Edge) : State :=
  let ps := s.me.laneParties m
  let e1 := s.offer e ps
  (s.settleFor e1 ps).onMe fun g => g.onLanes m fun _ t => t.receive e1

/-- No receiver has chosen the direct write of a byte yet. -/
def Edge.untaken (e : Edge) (l : Loc) : Bool :=
  match e.rest with
  | none => true
  | some ls => ls.contains l

/-- The edge after the parties `ps` have received it: what is left to be chosen are the bytes of which each has a candidate of its own. -/
def Edge.takenBy (e : Edge) (ps : List Party) : Edge :=
  match ps with
  | [] => e
  | p :: r => { e with rest := some ((p.pend.map fun x => x.1).filter fun l => e.untaken l && (p :: r).all fun q => (e.own q l).isSome) }

/-- The lanes of a mask receive an edge that others receive too, each at a time of its own. Atomic state takes a direct write when the
first of them chooses it, and not again (R109, R121, assumption 89). The edge as it stands for the others, and the state. -/
def State.receiveShared (s : State) (m : BitVec 32) (e : Edge) : Edge × State :=
  let ps := s.me.laneParties m
  let e1 := s.offer e ps
  (e.takenBy ps, (s.settleWhere e1 fun l => e.untaken l && ps.any fun p => (e1.own p l).isNone).onMe fun g =>
    g.onLanes m fun _ t => t.receive e1)

/-! Copy completions that are observed (R114). -/

/-- The name under which a window word's completions are kept: window words are outside views (R103). -/
def winLoc (off : Nat) : Loc := .sys (2 ^ 60 + off)

/-- The completed operations whose completion value still stands in a word. -/
def State.completions (s : State) (l : Loc) (v : Word) : List OpDone :=
  s.doneOps.filter fun o => o.word == some l && o.value == v && !o.aborted

/-- The lanes of a mask observe the completions whose value stands in a word (R114). -/
def State.observe (s : State) (l : Loc) (v : Word) (m : BitVec 32) : State :=
  (s.completions l v).foldl (fun t o => (t.receiveLanes m (t.edge [o.sender] [])).foldSent [o.sender]) s

/-- An atomic observes the completions of each of the words it reads (R114): of a doubleword, both halves (assumption 89). -/
def State.observeAll (s : State) (ws : List (Loc × Word)) (m : BitVec 32) : State := ws.foldl (fun t x => t.observe x.1 x.2 m) s

/-- A word's value changes: completions and fills it carried can no longer be observed there. -/
def State.forgetWord (s : State) (l : Loc) : State :=
  { s with
    futures := s.futures.filter fun f => f.1 != l
    doneOps := s.doneOps.map fun o => if o.word = some l then { o with word := none } else o }

/-- The same for the window words that `n` bytes at an offset touch. -/
def State.forgetWindow (s : State) (off n : Nat) : State :=
  (List.range ((off % 8 + n + 3) / 4)).foldl (fun t i => t.forgetWord (winLoc (off / 8 * 8 + 4 * i))) s

/-! Atomic state. -/

/-- The identity that stands for a grid's task block on a station (R9). -/
def taskBlockId (h stn : Nat) : Nat := 2 ^ 40 + h * 32 + stn

/-- The holder that a domain names for a party (R118, R119): block, station, die, home die, hub. -/
def holderOf (dom blk h core : Nat) : Holder :=
  match dom with
  | 0 => .block (if blk = 0 then taskBlockId h (stationOf core) else blk)
  | 1 => .station (stationOf core)
  | 2 => .die (dieOf core)
  | 3 => .home
  | _ => .hub

/-- The value the hub left in a word when a grid completed, for a live grid of that moment that has not stored there since (R374,
assumption 98). -/
def State.hubWord (s : State) (h : Nat) (l : Loc) : Option Word :=
  (s.hubWords.find? fun x => x.1 == l && x.2.2.contains h).map fun x => x.2.1

/-- The atomic value of a word: what is held, or what a completed grid left there (R374), or what a plain read by the party returns when
it enters (R117). -/
def State.atomVal (s : State) (h : Nat) (p : Party) (l : Loc) : Word :=
  match findAtom l s.atoms with
  | some a => a.val
  | none => (s.hubWord h l).getD (BitVec.ofNat 32 (leNat (readBytes (s.grid h) p l 4)))

/-- A word is held by another holder (R119). -/
def State.conflict (s : State) (l : Loc) (d : Holder) : Bool :=
  match findAtom l s.atoms with
  | some a => decide (a.holder ≠ d)
  | none => false

/-- Writes a word's atomic state; a word already held keeps its holder (R114, R119). -/
def State.setAtom (s : State) (h : Nat) (l : Loc) (d : Holder) (v : Word) : State :=
  let a : AtomWord :=
    match findAtom l s.atoms with
    | some x => { x with val := v, grids := if x.grids.contains h then x.grids else h :: x.grids }
    | none => ⟨l, v, d, [h]⟩
  { s with atoms := putAtom a s.atoms }

/-- The words of an atomic of 4 or 8 bytes. -/
def atomWords (l : Loc) (size : Nat) : List Loc := if size = 8 then [l, (l.span 5).getLastD l] else [l]

/-- The value of an atomic of 4 or 8 bytes. -/
def State.atomRead (s : State) (h : Nat) (p : Party) (l : Loc) (size : Nat) : Dword :=
  match atomWords l size with
  | [a, b] => s.atomVal h p b ++ s.atomVal h p a
  | _ => (s.atomVal h p l).setWidth 64

/-- Writes an atomic of 4 or 8 bytes. -/
def State.atomWrite (s : State) (h : Nat) (l : Loc) (size : Nat) (d : Holder) (v : Dword) : State :=
  match atomWords l size with
  | [a, b] => (s.setAtom h a d (v.extractLsb' 0 32)).setAtom h b d (v.extractLsb' 32 32)
  | _ => s.setAtom h l d (v.extractLsb' 0 32)

/-- A party has performed an atomic on words in its quantum. -/
def Party.didAtomic (p : Party) (ws : List Loc) : Party := { p with atoms := addLocs ws p.atoms }

/-- The new value of an atomic, with its events: AOP of R284 on `size` bytes (R285). -/
def atomNew (aop size : Nat) (old b c : Dword) : Dword × Ev :=
  let so := if size = 8 then old.toInt else (old.setWidth 32).toInt
  let sb := if size = 8 then b.toInt else (b.setWidth 32).toInt
  let cut (x : Dword) : Dword := if size = 8 then x else (x.setWidth 32).setWidth 64
  match aop with
  | 0 => (cut (old + b), Ev.none)
  | 1 => let r := fpAdd fp32 .rne (old.toNat % 2 ^ 32) (b.toNat % 2 ^ 32); (BitVec.ofNat 64 r.1, r.2)
  | 2 => (if sb < so then b else old, Ev.none)
  | 3 => (if so < sb then b else old, Ev.none)
  | 4 => (if b.toNat < old.toNat then b else old, Ev.none)
  | 5 => (if old.toNat < b.toNat then b else old, Ev.none)
  | 6 => (old &&& b, Ev.none)
  | 7 => (old ||| b, Ev.none)
  | 8 => (old ^^^ b, Ev.none)
  | 9 => (b, Ev.none)
  | _ => (if old = c then b else old, Ev.none)

end Sys2Proof.Machine
end

