-- ==== Sys2Proof/Machine/MemAcc.lean ====
section
/-! DEFINITION. The accesses of threads to memory: the checks of R281, plain loads and stores through views (R105, R283), the
coherent window (R99), out-of-range scratchpad accesses (R88, R89), the version log (R391), and how the lanes of one
instruction finish (R282). -/

namespace Sys2Proof.Machine

/-- Where a checked access goes: global space, scratchpad, private memory, or beyond the scratchpad (R88). -/
inductive Target where
  | glob (p : Place)
  | spad (blk off : Nat)
  | priv (pa : Nat)
  | beyond (blk off : Nat)
  deriving DecidableEq, Repr

/-- The outcome of the checks of one lane (R281): a target; a cause that is not replayable, with the VA and the denial to log;
a replayable cause with the VA and the private marks to raise; a wait for a PRI response; an address that does not exist. -/
inductive Check where
  | ok (t : Target)
  | stop (cause va : Nat) (log : Option (Nat × Nat))
  | wait (cause va : Nat) (grow : List (Nat × Bool × Nat))
  | pri (page va : Nat)
  | hole (pa : Nat)
  deriving DecidableEq, Repr

/-- A 64-bit word under a place is marked poison (R421). -/
def State.poisonAt (s : State) (t : Target) (n : Nat) : Bool :=
  s.poison.any fun p =>
    match p, t with
    | .mem w, .glob (.mem pa _) => decide (pa / 8 ≤ w ∧ w ≤ (pa + n - 1) / 8)
    | .mem w, .priv pa => decide (pa / 8 ≤ w ∧ w ≤ (pa + n - 1) / 8)
    | .win w, .glob (.win off) => decide (off / 8 ≤ w ∧ w ≤ (off + n - 1) / 8)
    | .spad b w, .spad b' off => decide (b = b' ∧ off / 8 ≤ w ∧ w ≤ (off + n - 1) / 8)
    | _, _ => false

/-- A write of 8 or more bytes clears the marks of the words it covers (R421). -/
def State.clearMem (s : State) (t : Target) (n : Nat) : State :=
  if s.poison.isEmpty ∨ n < 8 then s
  else { s with poison := s.poison.filter fun p =>
    match p, t with
    | .mem w, .glob (.mem pa _) => !decide (pa ≤ 8 * w ∧ 8 * w + 8 ≤ pa + n)
    | .mem w, .priv pa => !decide (pa ≤ 8 * w ∧ 8 * w + 8 ≤ pa + n)
    | .win w, .glob (.win off) => !decide (off ≤ 8 * w ∧ 8 * w + 8 ≤ off + n)
    | .spad b w, .spad b' off => !decide (b = b' ∧ off ≤ 8 * w ∧ 8 * w + 8 ≤ off + n)
    | _, _ => true }

/-- A target that consumes poison when it is read. -/
def State.checkPoison (s : State) (reads : Bool) (va n : Nat) (t : Target) : Check :=
  if reads && s.poisonAt t n then .stop cPoison va none else .ok t

/-- The outcome of a translation as a check. -/
def Xlat.check (x : Xlat) (fault va : Nat) (grow : List (Nat × Bool × Nat)) (f : Place → Check) : Check :=
  match x with
  | .ok p => f p
  | .denied log => .stop cAccessDenied va log
  | .fault => .wait fault va grow
  | .fatal => .stop fault va none
  | .hole pa => .hole pa
  | .poison => .stop cPoison va none
  | .pri page => .pri page va

/-- Steps 1 to 4 of R281 for a global access of `n` bytes by a thread of the issuing group. -/
def State.checkGlobal (s : State) (va n : Nat) (k : Access) : Check :=
  if 2 ^ 56 ≤ va then .stop cAccessDenied va none
  else if va % n ≠ 0 then .stop cMisaligned va none
  else (translateBy s s.me.core s.myCtx (s.master s.me.grid) va k).check cPageFault va [] fun p =>
    s.checkPoison (decide (k ≠ .write)) va n (.glob p)

/-- Steps 2 and 6 of R281 for a scratchpad access of `n` bytes to a block. -/
def State.checkSpad (s : State) (blk off n : Nat) (k : Access) : Check :=
  if off % n ≠ 0 then .stop cMisaligned off none
  else if (s.block blk).sb < off + n then .ok (.beyond blk off)
  else s.checkPoison (decide (k ≠ .write)) off n (.spad blk off)

/-- Steps 1, 2 and 5 of R281 for a private access of `n` bytes by a thread (R97), binding the page it touches first. -/
def State.checkPriv (s : State) (t : Thread) (off n : Nat) (k : Access) : Check × State :=
  if 2 ^ 24 ≤ off then (.stop cAccessDenied off none, s)
  else if off % n ≠ 0 then (.stop cMisaligned off none, s)
  else
    let r := s.privAccess s.me.grid t off n false k
    let inside := decide (off + n ≤ t.low) || decide (2 ^ 24 - t.high ≤ off)
    (r.1.check cPrivateGrow off (if inside then [] else [(t.tid.toNat, false, off + n - 1)]) fun p =>
      match p with
      | .mem pa _ => r.2.checkPoison (decide (k ≠ .write)) off n (.priv pa)
      | _ => .stop cAccessDenied off none, r.2)

/-- The place of the view that a target names. -/
def Target.loc (t : Target) : Option Loc :=
  match t with
  | .glob (.mem pa _) => some (.mem pa)
  | .glob (.sys a) => some (.sys a)
  | .spad b off => some (.spad b off)
  | _ => none

/-- What a load of `n` bytes by a party of a grid returns (R283). -/
def State.loadBytes (s : State) (h : Nat) (p : Party) (t : Target) (n : Nat) : List Byte :=
  match t with
  | .glob (.win off) => Memory.bytes s.window off n
  | .priv pa => Memory.bytes s.hbm pa n
  | .beyond _ _ => List.replicate n 0
  | _ =>
    match t.loc with
    | some l => readBytes (s.grid h) p l n
    | none => List.replicate n 0

/-- A grid stored to `n` bytes from a place on: its atomics find what was stored, not what the hub left there before (R117, R374). -/
def State.dropHubWords (s : State) (h : Nat) (l : Loc) (n : Nat) : State :=
  if s.hubWords.isEmpty then s
  else { s with hubWords := s.hubWords.map fun x =>
    if (x.1.span 4).any fun b => (l.span n).contains b then (x.1, x.2.1, x.2.2.filter fun g => g != h) else x }

/-- A store of bytes by a party of a grid: pending in its quantum, immediate in the window and in private memory (R283). -/
def State.storeBytes (s : State) (h : Nat) (p : Party) (t : Target) (bs : List Byte) : Party × State :=
  let s1 := s.clearMem t bs.length
  match t with
  | .glob (.win off) => (p, { s1.forgetWindow off bs.length with window := Memory.putBytes s1.window off bs })
  | .priv pa => (p, s1.putPhys false pa bs)
  | .beyond _ _ => (p, s1)
  | _ =>
    match t.loc with
    | some l => (p.writeBytes l bs, (s1.dropFixes l bs.length).dropHubWords h l bs.length)
    | none => (p, s1)

/-- Records an out-of-range scratchpad access (R89). -/
def State.recordSpad (s : State) (c : Nat) (wr : Bool) (off : Nat) (blk : Word) : State :=
  s.onCtx c fun x =>
    let cnt := min 63 (field x.spstat.toNat 24 6 + 1)
    if x.spstat.getLsbD 31 then
      { x with spstat := BitVec.ofNat 32 (2 ^ 31 + field x.spstat.toNat 30 1 * 2 ^ 30 + cnt * 2 ^ 24 + x.spstat.toNat % 2 ^ 24) }
    else { x with spstat := BitVec.ofNat 32 (2 ^ 31 + bit wr * 2 ^ 30 + 2 ^ 24 + off % 2 ^ 24), spblk := blk }

/-- BLK of a thread's block as SPBLK records it. -/
def State.blkWord (s : State) (t : Thread) : Word := if t.task then 0xFFFFFFFF else BitVec.ofNat 32 (s.block t.blk).index

/-- Replaces an operation. -/
def State.putOp (s : State) (o : Op) : State := { s with ops := s.ops.map fun x => if x.id = o.id then o else x }

/-! The version log (R391). -/

/-- Bytes of global memory pending in the quanta of a grid's threads and operations. -/
def State.pendingBytes (s : State) (h : Nat) : Nat :=
  let glob (p : Party) : Nat := (p.pend.filter fun x => match x.1 with | .mem _ => true | .sys _ => true | _ => false).length
  (s.allGroups.filter fun g => decide (g.grid = h)).foldl (fun a g =>
    (g.lanes.foldl (fun b o => match o with | some t => b + glob t.party | none => b) a)) 0 +
  (s.ops.filter fun o => decide (o.grid = h)).foldl (fun a o => a + glob o.party) 0

/-- Room for one more line of 64 B per 64 bytes pending: the starting size and the pages linked since. -/
def Grid.vlogBytes (g : Grid) : Nat := g.vlogMiB * 2 ^ 20 + g.vlogPages.length * 65536

/-- Links pages of the pool ring to a grid's version log until it has room for `need` bytes: `wait` when the ring is empty first, `stop`
when the log would pass 64 times its starting size (R391). -/
def State.linkLog (s : State) (h va need : Nat) : Nat → Check × State
  | 0 => (.ok (.beyond 0 0), s)
  | fuel + 1 =>
    let g := s.grid h
    if need ≤ g.vlogBytes then (.ok (.beyond 0 0), s)
    else if 64 * (g.vlogMiB * 2 ^ 20) ≤ g.vlogBytes then (.stop cVlogGrow va none, s)
    else
      match s.poolPage h with
      | some (pa, t) =>
        (t.onGrid h fun x => { x with
          privPages := x.privPages.filter fun y => y != pa, vlogPages := x.vlogPages ++ [pa] }).linkLog h va need fuel
      | none => (.wait cVlogGrow va [], s)

/-- The version log has room for `pending` bytes, after the signal box has linked what pages it needs (R391). -/
def State.growLog (s : State) (h va pending : Nat) : Check × State := s.linkLog h va (64 * pending) (64 * pending / 65536 + 1)

/-- The same for the bytes that are pending now. -/
def State.vlogRoom (s : State) (h va : Nat) : Check × State := s.growLog h va (s.pendingBytes h)

/-- An access that passed writes to the version log: it is one to global memory and not to the window (R99, R391). -/
def Check.logged (c : Check) : Bool :=
  match c with
  | .ok (.glob (.win _)) => false
  | .ok (.glob _) => true
  | _ => false

/-- The room that a write to the version log finds; what writes nothing there asks for none. -/
def State.logRoom (s : State) (h va : Nat) (writes : Bool) : Check × State :=
  if writes then s.vlogRoom h va else (.ok (.beyond 0 0), s)

/-- An outcome at another VA. -/
def Check.atVa (c : Check) (va : Nat) : Check :=
  match c with
  | .stop cause _ log => .stop cause va log
  | .wait cause _ grow => .wait cause va grow
  | x => x

/-! How the lanes of an instruction finish (R282). -/

/-- Logs the denials among the outcomes of the lanes (R408). -/
def State.logStops (s : State) (k : Access) (outs : List (Nat × Check)) : State :=
  outs.foldl (fun t x =>
    match x.2 with
    | .stop _ _ (some (target, a)) => t.logDenial target (s.master s.me.grid) a k
    | _ => t) s

/-- The mask of the lanes whose outcome satisfies a test. -/
def lanesWhere (outs : List (Nat × Check)) (f : Check → Bool) : BitVec 32 :=
  maskOf fun i => outs.any fun x => x.1 == i && f x.2

def Check.isOk (c : Check) : Bool := match c with | .ok _ => true | _ => false

/-- The outcomes of the lanes of a store as the version log's room leaves them: where it has none, each lane that would write to it waits
or stops for it, at its own VA (R384, R387). -/
def withRoom (va : Nat → Nat) (room : Check) (outs : List (Nat × Check)) : List (Nat × Check) :=
  if room.isOk then outs else outs.map fun x => if x.2.logged then (x.1, room.atVa (va x.1)) else x

def Check.isStop (c : Check) : Bool := match c with | .stop _ _ _ => true | _ => false
def Check.isWait (c : Check) : Bool := match c with | .wait _ _ _ => true | _ => false

/-- One record per cause and page: the VA and KV tuple of the lowest lane of the page, and its lanes (R387). `key` tells pages apart. -/
def groupParts (key : Nat → Nat → Nat) (kv : Nat → Nat) (outs : List (Nat × Check)) : List (Nat × Nat × Nat × BitVec 32) :=
  let step (acc : List (Nat × Nat × Nat × Nat × BitVec 32)) (x : Nat × Check) : List (Nat × Nat × Nat × Nat × BitVec 32) :=
    match x.2 with
    | .wait c va _ =>
      let k := key x.1 va
      let m := BitVec.ofNat 32 (2 ^ x.1)
      if acc.any (fun y => y.1 == k && y.2.1 == c) then
        acc.map fun y => if y.1 = k ∧ y.2.1 = c then (y.1, y.2.1, y.2.2.1, y.2.2.2.1, y.2.2.2.2 ||| m) else y
      else acc ++ [(k, c, va, kv x.1, m)]
    | _ => acc
  (outs.foldl step []).map fun y => y.2

/-- The records of global and private accesses, which have no KV tuple. -/
def groupPages (key : Nat → Nat → Nat) (outs : List (Nat × Check)) : List (Nat × Nat × Nat × BitVec 32) := groupParts key (fun _ => 0) outs

/-- Global pages are told apart by their VA. -/
def globalKey (_ va : Nat) : Nat := va / 65536

/-- Private pages are told apart by their thread's lane as well. -/
def privateKey (lane off : Nat) : Nat := lane * 2 ^ 24 + off / 65536

/-- The end of a lane instruction some of whose lanes failed: an address that does not exist, the lowest non-replayable lane,
a PRI wait, or a hold with the replay mask and the records `parts` (R281, R282), each after the occupancy of every active lane (R14).
`done` is the state when every lane has passed. -/
def State.finishParts (s : State) (k : Access) (outs : List (Nat × Check)) (parts : List (Nat × Nat × Nat × BitVec 32))
    (done : State) : State :=
  let holes := outs.filterMap fun x => match x.2 with | .hole pa => some pa | _ => none
  let stops := outs.filterMap fun x => match x.2 with | .stop c va _ => some (x.1, c, va) | _ => none
  let pris := outs.filterMap fun x => match x.2 with | .pri page va => some (page, va) | _ => none
  let waits := outs.filterMap fun x => match x.2 with | .wait c _ g => some (c, g) | _ => none
  let u := s.occupy (max 8 outs.length)
  match holes with
  | pa :: _ => { s with hole := some pa }
  | [] =>
    match stops with
    | (i, c, va) :: _ =>
      let again (x : Check) : Bool := match x with | .wait _ _ _ => true | .pri _ _ => true | _ => false
      (u.logStops k outs).takeFatal { s.me.trapRec s c with
        va := va, tid := (s.me.thread i).tid.toNat, mask := (lanesWhere outs again).toNat }
    | [] =>
      match pris with
      | (page, va) :: _ => u.waitPri page (lanesWhere outs fun c => !c.isOk) va
      | [] =>
        match waits with
        | _ :: _ => u.takeReplayable parts (waits.map fun w => w.2).flatten
        | [] => done

/-- The same with the records of a global or private access. -/
def State.finishLanes (s : State) (k : Access) (outs : List (Nat × Check)) (key : Nat → Nat → Nat) (done : State) : State :=
  s.finishParts k outs (groupPages key outs) done

/-- The latency of a block's scratchpad, tiles and rings from the issuing group's core (R46, R208); a task group, which has none of them,
finds that out on its own core. -/
def State.homeLatency (s : State) (b : Nat) : Nat := if b = 0 ∨ (s.block b).home = s.me.core then 24 else 64

/-- Unloaded latency of an access by the issuing group (R208): that of an L1 hit for global memory (assumption 7), and of the block's
home core or another core of its station for scratchpad. -/
def State.latency (s : State) (t : Target) : Nat :=
  match t with
  | .glob (.win _) => 900
  | .glob _ => 56
  | .priv _ => 56
  | .spad b _ => s.homeLatency b
  | .beyond b _ => s.homeLatency b

/-- The clk at which a group is ready after a store (R208): a store to scratchpad takes the latency of the access after the occupancy
ends, any other 8 clk after issue. -/
def State.storeReady (s : State) (sp : Bool) (occ lat : Nat) : Nat := if sp then s.now + occ + lat else s.now + 8

/-- The longest latency among the lanes; with no active lane, 8 clk: the table of R208 gives none, and the choice is the model's
(assumption 7). -/
def lanesLatency (f : Target → Nat) (outs : List (Nat × Check)) : Nat :=
  outs.foldl (fun a x => match x.2 with | .ok t => max a (f t) | _ => a) 8

/-- The core's TLB takes the translations of the lanes that passed (R100): `va` gives a lane's address. -/
def State.fillLanes (s : State) (va : Nat → Nat) (outs : List (Nat × Check)) : State :=
  outs.foldl (fun t x => match x.2 with | .ok (.glob _) => t.fillTlb t.me.core t.myCtx (va x.1) | _ => t) s

/-- Reads a thread of the issuing group again and changes its party. -/
def State.setParty (s : State) (i : Nat) (p : Party) : State :=
  s.onMe fun g => g.onLanes (BitVec.ofNat 32 (2 ^ i)) fun _ t => { t with party := p }

end Sys2Proof.Machine
end

