-- ==== Sys2Proof/Machine/Place.lean ====
section
/-! DEFINITION. Every live thread of a grid wherever it stands, and the placement of groups on cores and pipes (R27, R49, R57,
R63, R85). -/

namespace Sys2Proof.Machine

/-! Where threads are. -/

/-- Changes every live thread of a grid in its groups. -/
def State.onThreads (s : State) (h : Nat) (f : Thread → Thread) : State :=
  s.onGroups fun g => if g.grid = h then g.onAll fun _ t => if t.exited then t else f t else g

/-- The station of a thread's block. -/
def State.stationOfBlk (s : State) (b : Nat) : Nat := (s.block b).station

/-! Placement. -/

/-- Bytes of a group's registers (R27). -/
def groupBytes (v kn : Nat) : Nat := (128 * v + 4 * kn + 255) / 256 * 256

/-- Groups a core may hold under a partition word (R27). -/
def groupsPerCore (w : Word) : Nat :=
  let r := field w.toNat 0 6
  let v := 8 * field w.toNat 18 4
  let kn := 16 * field w.toNat 22 5
  if v = 0 then 0 else min 1024 (min (r * 131072 / groupBytes v kn) (4194304 / (128 * v)))

/-- The partition word a core runs under, if one is set (R85). -/
def State.wordOf (s : State) (core : Nat) : Option Word := (s.coreWord.find? fun x => x.1 == core).map fun x => x.2

/-- A core is quarantined, or is being cleared for it (R423 steps 1 to 4). -/
def Fleet.out (f : Fleet) (core : Nat) : Bool := nth f.quar core false || f.drain.contains core

/-- A core is quarantined or its die is off: nothing new is placed on it (R414, R422). -/
def State.coreUsable (s : State) (core : Nat) : Bool :=
  !s.fleet.out core && decide (nth s.power.cur (stationOf core) 0 < 2) && !nth s.power.dieOff (dieOf core) false &&
    !s.sec.halt.getLsbD (stationOf core)

/-- Resident groups of a core, and of a pipe. -/
def State.onCore (s : State) (core : Nat) : List Group := s.resident.filter fun g => decide (g.core = core)
def State.onPipe (s : State) (core pipe : Nat) : List Group := (s.onCore core).filter fun g => decide (g.pipe = pipe)

/-- A core can take one more group under a partition word: the word is its own or the core is empty, and a GSLOT and a register
share are free (R49, R85). -/
def State.coreFits (s : State) (core : Nat) (w : Word) : Bool :=
  (s.wordOf core == some w || (s.wordOf core).isNone) && s.coreUsable core && decide ((s.onCore core).length < groupsPerCore w)

/-- The lowest free GSLOT of a core. -/
def State.freeGslot (s : State) (core : Nat) : Nat :=
  let used := (s.onCore core).map fun g => g.gslot
  ((List.range 1024).find? fun i => !used.contains i).getD 0

/-- The pipe of a core with the fewest groups, the lowest on a tie, with its count. -/
def State.bestPipe (s : State) (core : Nat) : Nat × Nat :=
  (List.range 128).foldl (fun a p => let n := (s.onPipe core p).length; if n < a.2 then (p, n) else a) (0, (s.onPipe core 0).length)

/-- The core and pipe for a group among eligible cores: fewest resident groups on the pipe, then the lower core (R49). -/
def State.choosePipe (s : State) (w : Word) (cores : List Nat) : Option (Nat × Nat) :=
  ((cores.filter fun c => s.coreFits c w).foldl (fun (a : Option (Nat × Nat × Nat)) c =>
    let p := s.bestPipe c
    match a with
    | none => some (c, p.1, p.2)
    | some x => if keyLt [p.2, c] [x.2.2, x.1] then some (c, p.1, p.2) else some x) none).map fun x => (x.1, x.2.1)

/-- Sets the partition word of a core that has none (R85). -/
def State.claimCore (s : State) (core : Nat) (w : Word) : State :=
  if (s.wordOf core).isSome then s else { s with coreWord := s.coreWord ++ [(core, w)] }

/-- A place of a register of one group slot. -/
def inSlot (core gslot : Nat) (p : PoisonAt) : Bool :=
  match p with
  | .vreg c g _ _ => decide (c = core ∧ g = gslot)
  | .kreg c g _ => decide (c = core ∧ g = gslot)
  | _ => false

/-- A mark of one group slot as it stands in another. -/
def moveMark (c gs c' gs' : Nat) (p : PoisonAt) : PoisonAt :=
  match p with
  | .vreg x y l r => if x = c ∧ y = gs then .vreg c' gs' l r else .vreg x y l r
  | .kreg x y r => if x = c ∧ y = gs then .kreg c' gs' r else .kreg x y r
  | q => q

/-- Puts a group on a core and pipe, ready from `ready`; its registers are written, so the marks of the slot clear. -/
def State.install (s : State) (g : Group) (core pipe ready : Nat) : State :=
  let gs := s.freeGslot core
  let g1 := { g with core := core, pipe := pipe, gslot := gs, readyAt := max ready g.readyAt }
  { (s.claimCore core (s.grid g.grid).word) with
    groups := s.groups ++ [g1]
    poison := s.poison.filter fun p => !inSlot core gs p }

/-- A block is saved, or a pre-emption has stopped it and its save waits for pages (R394, R395). -/
def State.still (s : State) (uid : Nat) : Bool :=
  (s.block uid).saved || s.asked.any fun x => decide ((s.block uid).bind = some (x.1, x.2.1))

/-- A group may run: a pre-emption has stopped none of its threads' blocks. -/
def State.restorable (s : State) (g : Group) : Bool := !(g.lanes.any fun o =>
  match o with
  | some t => !t.exited && !t.task && s.still t.blk
  | none => false)

/-! The turntable (R51). -/

/-- The time, in 32nds of a clk, from which a port of a core is free: `out` for the one out of the yard. -/
def State.portFree (s : State) (core : Nat) (out : Bool) : Nat :=
  ((s.ports.find? fun x => decide (x.1 = core ∧ x.2.1 = out)).map fun x => x.2.2).getD 0

/-- Words cross a port of a core from a clk on, 32 in a clk: the clk by which the last has crossed, and the state. -/
def State.cross (s : State) (core : Nat) (out : Bool) (start words : Nat) : Nat × State :=
  if words = 0 then (start, s)
  else
    let last := max (32 * start) (s.portFree core out) + words
    ((last + 31) / 32, { s with ports := (core, out, last) :: s.ports.filter fun x => !decide (x.1 = core ∧ x.2.1 = out) })

/-- The cores of a station. -/
def stationCores (stn : Nat) : List Nat := (List.range 4).map fun i => 4 * stn + i

/-- The cores on which a waiting group may be placed (R49, R57): those of its block; for a group that spans blocks or holds
tasks, those of its station. -/
def State.eligible (s : State) (g : Group) : List Nat :=
  if g.task then stationCores (stationOf g.core)
  else if g.blk = 0 then
    (stationCores (stationOf g.core)).filter fun c => s.blocks.any fun b => decide (b.grid = g.grid) && b.cores.contains c
  else (s.block g.blk).cores

/-- Places the waiting group at an index, if it may run and some eligible core has room (R49, R53): it is ready when its last record
has crossed to the core (R51). -/
def State.letIn (s : State) (i : Nat) : State :=
  match s.waiting[i]? with
  | none => s
  | some g =>
    if s.restorable g = false then s
    else
      match s.choosePipe (s.grid g.grid).word (s.eligible g) with
      | some (c, p) =>
        let x := s.cross c true s.now g.words
        { x.2 with waiting := x.2.waiting.eraseIdx i }.install g c p x.1
      | none => s

end Sys2Proof.Machine
end

