-- ==== Sys2Proof/Machine/LaneFp.lean ====
section
/-! DEFINITION. Lane floating point, packed halves, conversions and dot products (R251 to R267): rounding modes (R132, R133),
the pipe's stochastic generator (R144, R145), ordered dither (R147), and the instructions. -/

namespace Sys2Proof.Machine

/-- The mode code that an EXT rounding field and the group's CVC choose (R133, R252). -/
def modeCode (g : Group) (ext : Nat) : Nat :=
  let m := if ext.testBit 3 then ext % 8 else g.cvc.toNat % 8
  if m = 5 ∧ g.cvc.getLsbD 4 then 6 else m

/-- The mode of an arithmetic instruction: SR and DTH act as RNE (R133). -/
def arithMode (g : Group) (ext : Nat) : Rnd := rndOfMode (modeCode g ext)

/-- E4SAT of the group (R134). -/
def e4sat (g : Group) : Bool := g.cvc.getLsbD 3

/-- The events of a thread's instruction are added to its block's FSTAT, once however often a restart repeats it (R22, R151). -/
def State.evOf (t s : State) (i : Nat) (e : Ev) : State :=
  t.addEv s.me.grid (s.me.thread i).blk (stationOf s.me.core) (if s.me.repeats then Ev.none else e)

/-- A lane instruction whose 32-bit results carry FSTAT events (R151, R253); `gen` is what it does to the generator first. -/
def State.laneEv (s : State) (w : LR) (long : Bool) (srcs : List (BitVec 8 × Nat)) (gen : State → State)
    (f : Nat → Thread → Word × Ev) : Result :=
  s.laneRun w.lxc srcs fun act =>
    let s1 := (lanesOf act).foldl (fun t i => t.evOf s i (f i (s.me.thread i)).2) (gen s)
    (s1.onMe fun g => g.result act w.d w.n fun i t => (f i t).1).advance (lrLen w) (occupancy long act)

/-- The same without a generator. -/
def State.laneFp (s : State) (w : LR) (long : Bool) (srcs : List (BitVec 8 × Nat)) (f : Nat → Thread → Word × Ev) : Result :=
  s.laneEv w long srcs (fun t => t) f

/-- FP32 instructions of one, two and three sources under the arithmetic mode. -/
def State.fp1 (s : State) (w : LR) (long : Bool) (f : Rnd → Nat → Nat × Ev) : Result :=
  s.laneFp w long [(w.a, 1)] fun _ t => asWord (f (arithMode s.me (lxcExt w.lxc)) (srcVal s.me t w.a).toNat)

def State.fp2 (s : State) (w : LR) (long : Bool) (f : Rnd → Nat → Nat → Nat × Ev) : Result :=
  s.laneFp w long [(w.a, 1), (w.b, 1)] fun _ t =>
    asWord (f (arithMode s.me (lxcExt w.lxc)) (srcVal s.me t w.a).toNat (srcVal s.me t w.b).toNat)

def State.fp3 (s : State) (w : LR) (f : Rnd → Nat → Nat → Nat → Nat × Ev) : Result :=
  s.laneFp w false [(w.a, 1), (w.b, 1), (lxcC w.lxc, 1)] fun _ t =>
    asWord (f (arithMode s.me (lxcExt w.lxc)) (srcVal s.me t w.a).toNat (srcVal s.me t w.b).toNat
      (srcVal s.me t (lxcC w.lxc)).toNat)

/-- FADD, FSUB, FMUL, FFMA, FDIV (R255). -/
def execFadd (w : LR) (s : State) : Result := s.fp2 w false (fpAdd fp32)
def execFsub (w : LR) (s : State) : Result := s.fp2 w false (fpSub fp32)
def execFmul (w : LR) (s : State) : Result := s.fp2 w false (fpMul fp32)
def execFfma (w : LR) (s : State) : Result := s.fp3 w (fpFma fp32)
def execFdiv (w : LR) (s : State) : Result := s.fp2 w true (fpDiv fp32)

/-- FMIN, FMAX (R256). -/
def execFmin (w : LR) (s : State) : Result := s.fp2 w false fun _ a b => fpMinMax fp32 false a b
def execFmax (w : LR) (s : State) : Result := s.fp2 w false fun _ a b => fpMinMax fp32 true a b

/-- An FP32 compare (R257). -/
def State.fpCmpOp (s : State) (w : LR) (quiet : Bool) : Result :=
  s.laneRun w.lxc [(w.a, 1), (w.b, 1)] fun act =>
    let f (t : Thread) : Bool × Ev := fpCompare fp32 quiet (cndOf w.d) (srcVal s.me t w.a).toNat (srcVal s.me t w.b).toNat
    let s1 := (lanesOf act).foldl (fun t i => t.evOf s i (f (s.me.thread i)).2) s
    (s1.onMe fun g => g.resultPred act (pdOf w.d) fun _ t => (f t).1).advance (lrLen w) (occupancy false act)

/-- FCMP, FCMPN (R257). -/
def execFcmp (w : LR) (s : State) : Result := s.fpCmpOp w false
def execFcmpn (w : LR) (s : State) : Result := s.fpCmpOp w true

/-- FRCP, FSQRT, FRSQ, FEXP2, FLOG2 (R258). -/
def execFrcp (w : LR) (s : State) : Result := s.fp1 w true (fpRcp fp32)
def execFsqrt (w : LR) (s : State) : Result := s.fp1 w true fun r a => finish fp32 r (sqrtVal (fp32.decode a))
def execFrsq (w : LR) (s : State) : Result := s.fp1 w true fun r a => finish fp32 r (rsqVal (fp32.decode a))
def execFexp2 (w : LR) (s : State) : Result := s.fp1 w true (fpExp2 fp32)
def execFlog2 (w : LR) (s : State) : Result := s.fp1 w true (fpLog2 fp32)

/-- FFRC, FRND (R259). -/
def execFfrc (w : LR) (s : State) : Result := s.fp1 w false fun _ a => fpFrc fp32 a
def execFrnd (w : LR) (s : State) : Result := s.fp1 w false (fpRnd fp32)

/-- FSMX (R260, R184). -/
def execFsmx (w : LR) (s : State) : Result := s.fp2 w true (fpSmx fp32)

/-- A packed-half instruction: EXT[4] names BF16 (R261). -/
def State.halves (s : State) (w : LR) (c : Bool) (f : FloatFmt → Rnd → Nat → Nat → Nat → Nat × Ev) : Result :=
  let x := lxcExt w.lxc
  s.laneFp w false ([(w.a, 1), (w.b, 1)] ++ if c then [(lxcC w.lxc, 1)] else []) fun _ t =>
    packed2 (f (halfFmt (x.testBit 4)) (arithMode s.me x)) (srcVal s.me t w.a) (srcVal s.me t w.b)
      (if c then srcVal s.me t (lxcC w.lxc) else 0)

/-- HADD2, HMUL2, HFMA2, HMAX2, HMIN2 (R261). -/
def execHadd2 (w : LR) (s : State) : Result := s.halves w false fun f r a b _ => fpAdd f r a b
def execHmul2 (w : LR) (s : State) : Result := s.halves w false fun f r a b _ => fpMul f r a b
def execHfma2 (w : LR) (s : State) : Result := s.halves w true fun f r a b c => fpFma f r a b c
def execHmax2 (w : LR) (s : State) : Result := s.halves w false fun f _ a b _ => fpMinMax f true a b
def execHmin2 (w : LR) (s : State) : Result := s.halves w false fun f _ a b _ => fpMinMax f false a b

/-! Conversions. -/

/-- The generator of a pipe; one that is not listed stands where device reset loaded it (R144). -/
def State.genState (s : State) (c p : Nat) : Word :=
  match s.gens.find? (fun x => x.1 == c && x.2.1 == p) with
  | some x => x.2.2
  | none => seedLoad 0 c p

/-- Sets the generator of a pipe. -/
def State.setGen (s : State) (c p : Nat) (w : Word) : State :=
  { s with gens := (c, p, w) :: s.gens.filter fun x => !(x.1 == c && x.2.1 == p) }

/-- The states after each of `m` advances (R144). -/
def advances (s : Word) : Nat → List Word
  | 0 => []
  | m + 1 => xorshift s :: advances (xorshift s) m

/-- The rounding of element `e` of lane `l` in a conversion of `m` elements per lane (R133, R144, R145, R147). -/
def convRnd (g : Group) (ext m : Nat) (gs : List Word) (l e : Nat) : Rnd :=
  match modeCode g ext with
  | 5 => .sr (rotl32 (nth gs e 0) (5 * l % 32)).toNat
  | 6 => .dth (dither5 ((m * l + e + g.dphase.toNat) % 32))
  | c => rndOfMode c

/-- A conversion instruction of `m` elements per lane: under SR the generator advances `m` times first, whether or not a lane
is active (R144). `f` is given the rounding of each element. -/
def State.laneConv (s : State) (w : LR) (m : Nat) (srcs : List (BitVec 8 × Nat)) (f : (Nat → Rnd) → Thread → Word × Ev) :
    Result :=
  let x := lxcExt w.lxc
  let gs := advances (s.genState s.me.core s.me.pipe) m
  s.laneEv w false srcs (fun t => if modeCode s.me x = 5 then t.setGen s.me.core s.me.pipe (gs.getLastD 0) else t) fun i t =>
    f (convRnd s.me x m gs i) t

/-- CVT (R263): the destination code in B, the source code in EXT[11:4]. -/
def execCvt (w : LR) (s : State) : Result :=
  s.laneConv w 1 [(w.a, 1)] fun r t =>
    asWord (convert w.b.toNat (lxcExt w.lxc / 16) (r 0) (e4sat s.me) (srcVal s.me t w.a).toNat)

/-- CVTP (R264): POS in EXT[11:10], the destination code in EXT[9:4]. -/
def execCvtp (w : LR) (s : State) : Result :=
  s.laneConv w 2 [(w.a, 1), (w.b, 1), (lxcC w.lxc, 1)] fun r t =>
    cvtp32 (lxcExt w.lxc / 16 % 64) (lxcExt w.lxc / 1024) (e4sat s.me) (r 0) (r 1) (srcVal s.me t w.a) (srcVal s.me t w.b)
      (srcVal s.me t (lxcC w.lxc))

/-- CVTU (R265): KIND in EXT[5:4]. -/
def execCvtu (w : LR) (s : State) : Result :=
  s.laneConv w 1 [(w.a, 1)] fun r t => cvtu32 (lxcExt w.lxc / 16 % 4) (r 0) (srcVal s.me t w.a)

/-! Dot products. -/

/-- DOT4, DOT8 (R266). -/
def execDot4 (w : LR) (s : State) : Result :=
  let x := lxcExt w.lxc
  s.lane3 w (dotInt 4 (x.testBit 0) (x.testBit 1) (x.testBit 2))
def execDot8 (w : LR) (s : State) : Result :=
  let x := lxcExt w.lxc
  s.lane3 w (dotInt 8 (x.testBit 0) (x.testBit 1) (x.testBit 2))

/-- A float dot product of elements of width `n` (R267). -/
def State.dotF (s : State) (w : LR) (n : Nat) (fa fb : FloatFmt) : Result :=
  s.laneFp w false [(w.a, 1), (w.b, 1), (lxcC w.lxc, 1)] fun _ t =>
    dotFloat n fa fb (arithMode s.me (lxcExt w.lxc)) (srcVal s.me t w.a) (srcVal s.me t w.b) (srcVal s.me t (lxcC w.lxc))

/-- DOTF4, DOTF8 (R267): EXT[4] and EXT[5] name E5M2 for a and b. -/
def execDotf4 (w : LR) (s : State) : Result := s.dotF w 4 e2m1 e2m1
def execDotf8 (w : LR) (s : State) : Result :=
  let x := lxcExt w.lxc
  s.dotF w 8 (if x.testBit 4 then e5m2 else e4m3) (if x.testBit 5 then e5m2 else e4m3)

end Sys2Proof.Machine
end

