-- ==== Sys2Proof/Machine/LaneMem.lean ====
section
/-! DEFINITION. Lane loads, stores and atomics (R280 to R285). -/

namespace Sys2Proof.Machine

/-- The space of a lane access. -/
inductive Space where
  | glob
  | spad
  | priv
  deriving DecidableEq, Repr

/-- Bytes of an access size (R218). -/
def szBytes (sz : BitVec 3) : Nat :=
  match sz.toNat with
  | 0 => 1
  | 1 => 2
  | 2 => 4
  | 3 => 8
  | 4 => 16
  | 5 => 1
  | _ => 2

/-- Registers of an access size. -/
def szRegs (sz : BitVec 3) : Nat := if sz = 3 then 2 else if sz = 4 then 4 else 1

/-- The words a load of `bs` writes: zero- or sign-extended, lowest address first (R283). -/
def szWords (sz : BitVec 3) (bs : List Byte) : List Word :=
  match sz.toNat with
  | 3 => [BitVec.ofNat 32 (leNat (bs.take 4)), BitVec.ofNat 32 (leNat (bs.drop 4))]
  | 4 => (List.range 4).map fun i => BitVec.ofNat 32 (leNat ((bs.drop (4 * i)).take 4))
  | 5 => [(BitVec.ofNat 8 (leNat bs)).signExtend 32]
  | 6 => [(BitVec.ofNat 16 (leNat bs)).signExtend 32]
  | _ => [BitVec.ofNat 32 (leNat bs)]

/-- The bytes a store of the registers from `d` writes. -/
def szStore (sz : BitVec 3) (reg : Nat → Word) (d : Nat) : List Byte :=
  ((List.range (szRegs sz)).map fun i => natLe (reg (d + i)).toNat (min 4 (szBytes sz))).flatten

/-- Writes consecutive v registers. -/
def Thread.setVs (t : Thread) (d : Nat) : List Word → Thread
  | [] => t
  | x :: r => (t.setV d x).setVs (d + 1) r

/-- The element offset of an LM word: OFF6, or IMMHI:OFF6 with an LXI (R218). -/
def lmOffset (w : LM) : Int :=
  match w.lxi with
  | some x => (x.hi ++ w.off).toInt
  | none => w.off.toInt

/-- The effective address of a lane access (R280). -/
def lmAddress (g : Group) (t : Thread) (sp : Space) (w : LM) : Nat :=
  let bytes := lmOffset w * (szBytes w.sz : Nat)
  match sp with
  | .spad => (BitVec.ofInt 32 ((srcVal g t w.a).toNat + bytes)).toNat
  | _ => (BitVec.ofInt 64 ((srcPair g t w.a).toNat + bytes)).toNat

/-- The checks of one lane (R281). -/
def State.checkLane (s : State) (sp : Space) (w : LM) (k : Access) (i : Nat) : Check × State :=
  let t := s.me.thread i
  let a := lmAddress s.me t sp w
  match sp with
  | .glob => (s.checkGlobal a (szBytes w.sz) k, s)
  | .spad => (s.checkSpad t.blk a (szBytes w.sz) k, s)
  | .priv => s.checkPriv t a (szBytes w.sz) k

/-- The checks of the lanes of a mask, in ascending order: private pages are bound on the way. -/
def State.checkLanes (s : State) (sp : Space) (w : LM) (k : Access) (m : BitVec 32) : List (Nat × Check) × State :=
  (lanesOf m).foldl (fun acc i =>
    let r := acc.2.checkLane sp w k i
    (acc.1 ++ [(i, r.1)], r.2)) ([], s)

/-- One lane's load into its registers. -/
def State.loadLane (s : State) (w : LM) (i : Nat) (t : Target) : State :=
  let n := szBytes w.sz
  let bs := s.loadBytes s.me.grid (s.me.thread i).party t n
  let bit1 := BitVec.ofNat 32 (2 ^ i)
  if w.n = 1 ∨ 0x78 ≤ w.d.toNat then s
  else (s.clearV bit1 w.d.toNat (szRegs w.sz)).onMe fun g => g.onLanes bit1 fun _ x => x.setVs w.d.toNat (szWords w.sz bs)

/-- One lane's store from its registers. -/
def State.storeLane (s : State) (w : LM) (i : Nat) (t : Target) : State :=
  let th := s.me.thread i
  let r := s.storeBytes s.me.grid th.party t (szStore w.sz (fun x => nth th.v x 0) w.d.toNat)
  r.2.setParty i r.1

/-- Records the lowest out-of-range scratchpad lane of one instruction (R89). -/
def State.recordBeyond (s : State) (wr : Bool) (outs : List (Nat × Check)) : State :=
  match outs.filterMap (fun x => match x.2 with | .ok (.beyond _ off) => some (x.1, off) | _ => none) with
  | (i, off) :: _ => s.recordSpad s.myCtx wr off (s.blkWord (s.me.thread i))
  | [] => s

/-- A lane load or store (R280 to R283). -/
def State.laneAccess (s : State) (w : LM) (sp : Space) (store : Bool) : Result :=
  let dreg : List (BitVec 8 × Nat) := if store then [(w.d.setWidth 8, szRegs w.sz)] else []
  s.laneRun w.lxc ((w.a, if sp = .spad then 1 else 2) :: dreg) fun act =>
    let k : Access := if store then .write else .read
    let va (i : Nat) : Nat := lmAddress s.me (s.me.thread i) sp w
    let key := if sp = .priv then privateKey else globalKey
    let c := s.checkLanes sp w k act
    let room := c.2.logRoom s.me.grid (va (lowLane act)) (store && c.1.any fun x => x.2.logged)
    let outs := withRoom va room.1 c.1
    let s1 := outs.foldl (fun t x =>
      match x.2 with
      | .ok tg => if store then t.storeLane w x.1 tg else t.loadLane w x.1 tg
      | _ => t) room.2
    let s2 := (s1.recordBeyond store outs).fillLanes va outs
    s2.finishLanes k outs key
      (let occ := occupancy false act
      let lat := lanesLatency s.latency outs
      if store then s2.switchAt (s2.me.pc + BitVec.ofNat 64 (4 * lmLen w)) occ (s.storeReady (decide (sp = .spad)) occ lat)
      else s2.switch (lmLen w) occ lat)

/-- LDG, STG, LDS, STS, LDP, STP (R280). -/
def execLdg (w : LM) (s : State) : Result := s.laneAccess w .glob false
def execStg (w : LM) (s : State) : Result := s.laneAccess w .glob true
def execLds (w : LM) (s : State) : Result := s.laneAccess w .spad false
def execSts (w : LM) (s : State) : Result := s.laneAccess w .spad true
def execLdp (w : LM) (s : State) : Result := s.laneAccess w .priv false
def execStp (w : LM) (s : State) : Result := s.laneAccess w .priv true

/-! Atomics. -/

/-- The outcome of an atomic of a thread: a domain conflict, or the value found and the state after it. -/
inductive AtomOut where
  | conflict
  | old (v : Dword) (e : Ev) (s : State)
  deriving DecidableEq, Repr

/-- An atomic of lane `i` on a target (R117 to R119, R285): the word enters atomic state, the thread observes a completion whose
value it finds if it returns that value (R114), and a value that changes ends what the word could show. -/
def State.atomicAt (s : State) (i aop size dom : Nat) (tg : Target) (b c : Dword) (returns : Bool) : AtomOut :=
  let t := s.me.thread i
  match tg with
  | .beyond _ _ => .old 0 Ev.none s
  | .glob (.win off) =>
    if dom ≠ 4 then .conflict
    else
      let old := BitVec.ofNat 64 (Memory.num s.window off size)
      let r := atomNew aop size old b c
      let l := winLoc off
      let s1 := { s.clearMem tg size with window := Memory.putBytes s.window off (natLe r.1.toNat size) }
      let s2 := if returns then s1.observeAll (List.zip (atomWords l size) [old.extractLsb' 0 32, old.extractLsb' 32 32])
          (BitVec.ofNat 32 (2 ^ i)) else s1
      .old old r.2 (if r.1 = old then s2 else s2.forgetWord l)
  | _ =>
    match tg.loc with
    | none => .old 0 Ev.none s
    | some l =>
      let d := match tg with
        | .spad b _ => .block b
        | _ => holderOf dom t.blk s.me.grid s.me.core
      let ws := atomWords l size
      if dom = 4 ∨ ws.any (fun x => s.conflict x d) then .conflict
      else
        let old := s.atomRead s.me.grid t.party l size
        let r := atomNew aop size old b c
        let s1 := ((s.atomWrite s.me.grid l size d r.1).clearMem tg size).setParty i (t.party.didAtomic ws)
        let s2 := if returns then s1.observeAll (List.zip ws [old.extractLsb' 0 32, old.extractLsb' 32 32]) (BitVec.ofNat 32 (2 ^ i))
          else s1
        .old old r.2 (if r.1 = old then s2 else s2.forgetWord l)

/-- A scratchpad atomic of a domain other than .b conflicts, once its offset is known to lie in the scratchpad (R88, R285). -/
def spadConflict (dom : Nat) (tg : Target) : Bool := match tg with | .spad _ _ => decide (dom ≠ 0) | _ => false

/-- One lane of ATOMG or ATOMS: its outcome and the state after it. -/
def State.atomLane (s : State) (w : LR) (glob : Bool) (i : Nat) : Check × State :=
  let t := s.me.thread i
  let x := lxcExt w.lxc
  let wide := x.testBit 7
  let size := if wide then 8 else 4
  let dom := x / 16 % 8
  let a := if glob then (srcPair s.me t w.a).toNat else (srcVal s.me t w.a).toNat
  let val (f : BitVec 8) : Dword := if wide then srcPair s.me t f else (srcVal s.me t f).setWidth 64
  let chk := if glob then s.checkGlobal a size .atomic else s.checkSpad t.blk a size .atomic
  match chk with
  | .ok tg =>
    if spadConflict dom tg then (.stop cDomainConflict a none, s)
    else
      match s.atomicAt i (x % 16) size dom tg (val w.b) (val (lxcC w.lxc)) (decide (w.d ≠ 0x7F)) with
      | .conflict => (.stop cDomainConflict a none, s)
      | .old v e u =>
        let bit1 := BitVec.ofNat 32 (2 ^ i)
        let u1 := u.addEv u.me.grid t.blk (stationOf u.me.core) e
        let u2 := if w.d = 0x7F then u1
          else if wide then (u1.clearV bit1 w.d.toNat 2).onMe fun g => g.onLanes bit1 fun _ y => y.writePair w.d w.n v
          else u1.onMe fun g => g.onLanes bit1 fun _ y => y.writeBack w.d w.n (v.extractLsb' 0 32)
        (.ok tg, u2)
  | c => (c, s)

/-- ATOMG and ATOMS: each active lane in ascending order (R285). -/
def State.laneAtomic (s : State) (w : LR) (glob : Bool) : Result :=
  let n := if (lxcExt w.lxc).testBit 7 then 2 else 1
  let srcs := [(w.a, if glob then 2 else 1), (w.b, n)] ++ (if lxcExt w.lxc % 16 = 10 then [(lxcC w.lxc, n)] else [])
  s.laneRun w.lxc srcs fun act =>
    let r := (lanesOf act).foldl (fun (acc : List (Nat × Check) × State) i =>
      let o := acc.2.atomLane w glob i
      (acc.1 ++ [(i, o.1)], o.2)) ([], s)
    let s1 := (r.2.recordBeyond true r.1).fillLanes (fun i => (srcPair s.me (s.me.thread i) w.a).toNat) r.1
    (s1.finishLanes .atomic r.1 globalKey (s1.switch (lrLen w) (occupancy false act)
      (if (lxcExt w.lxc) / 16 % 8 = 3 then 300 else lanesLatency s.latency r.1))).wakeWaita

/-- ATOMG, ATOMS (R284, R285). -/
def execAtomg (w : LR) (s : State) : Result := s.laneAtomic w true
def execAtoms (w : LR) (s : State) : Result := s.laneAtomic w false

end Sys2Proof.Machine
end

