-- ==== Sys2Proof/Machine/UniMem.lean ====
section
/-! DEFINITION. Uniform loads, stores and atomics (R301, R302), made for the lowest active lane's thread (R112). -/

namespace Sys2Proof.Machine

/-- The element offset of a UM word: OFF4, or IMMHI16:OFF4 with W (R225). -/
def umOffset (w : UM) : Int :=
  if (kxExt4 w.kx).testBit 0 then (BitVec.ofNat 16 (kxImmHi w.kx) ++ w.off).toInt else w.off.toInt

/-- The effective address of a uniform access (R301). -/
def umAddress (g : Group) (w : UM) (glob : Bool) : Nat :=
  let bytes := umOffset w * (szBytes w.sz : Nat)
  if glob then (BitVec.ofInt 64 ((kPair g w.a.toNat).toNat + bytes)).toNat
  else (BitVec.ofInt 32 ((kVal g w.a.toNat).toNat + bytes)).toNat

/-- Writes consecutive k registers; 511 discards. -/
def Group.setKs (g : Group) (d : Nat) : List Word → Group
  | [] => g
  | x :: r => if d = 511 then g else (g.setK d x).setKs (d + 1) r

/-- The block a uniform instruction acts on: the anchor's (R44). -/
def State.anchorBlk (s : State) : Nat := s.me.anchor.blk

/-- The end of a uniform access: its one outcome stands for every thread of C (R292). -/
def State.finishUni (s : State) (k : Access) (c : Check) (done : State) : State :=
  let u := s.occupy 1
  match c with
  | .ok _ => done
  | .stop cause va log =>
    let s1 := match log with
      | some x => u.logDenial x.1 (s.master s.me.grid) x.2 k
      | none => u
    s1.takeFatal { s.me.trapRec s cause with va := va }
  | .wait cause va g => u.takeReplayable [(cause, va, 0, s.me.cur)] g
  | .pri page va => u.waitPri page s.me.cur va
  | .hole pa => { s with hole := some pa }

/-- Records an out-of-range uniform scratchpad access of the anchor's block (R89). -/
def State.recordUni (s : State) (wr : Bool) (t : Target) : State :=
  match t with
  | .beyond _ off => s.recordSpad s.myCtx wr off (s.blkWord s.me.anchor)
  | _ => s

/-- The core's TLB takes the translation of a uniform access (R100). -/
def State.fillUni (s : State) (t : Target) (va : Nat) : State :=
  match t with
  | .glob _ => s.fillTlb s.me.core s.myCtx va
  | _ => s

/-- A uniform load or store (R301). -/
def State.uniAccess (s : State) (w : UM) (glob store : Bool) : Result :=
  let n := szBytes w.sz
  let k : Access := if store then .write else .read
  let data : List (Nat × Nat) := if store then [(w.d.toNat, szRegs w.sz)] else []
  s.uniRun w.kx ((w.a.toNat, if glob then 2 else 1) :: data) true
    (let a := umAddress s.me w glob
    let chk := if glob then s.checkGlobal a n k else s.checkSpad s.anchorBlk a n k
    let room := s.logRoom s.me.grid a (store && chk.logged)
    match chk with
    | .ok t =>
      if room.1.isOk = false then room.2.finishUni k room.1 room.2
      else
        let s1 := (room.2.recordUni store t).fillUni t a
        let i := lowLane s1.me.cur
        let p := (s1.me.thread i).party
        if store then
          let r := s1.storeBytes s1.me.grid p t (szStore w.sz (fun x => kVal s1.me (if w.d.toNat = 511 then 511 else x)) w.d.toNat)
          (r.2.setParty i r.1).switchAt (s1.me.pc + BitVec.ofNat 64 (4 * kxLen w.kx)) 1 (s.storeReady (!glob) 1 (s.latency t))
        else
          let ws := szWords w.sz (s1.loadBytes s1.me.grid p t n)
          ((s1.clearK w.d.toNat (szRegs w.sz)).onMe fun g => g.setKs w.d.toNat ws).switch (kxLen w.kx) 1 (s.latency t)
    | c => s.finishUni k c s)

/-- KLD, KST, KLDS, KSTS (R301). -/
def execKld (w : UM) (s : State) : Result := s.uniAccess w true false
def execKst (w : UM) (s : State) : Result := s.uniAccess w true true
def execKlds (w : UM) (s : State) : Result := s.uniAccess w false false
def execKsts (w : UM) (s : State) : Result := s.uniAccess w false true

/-- KATOM (R302): the atomic of the lowest active lane's thread; on scratchpad that of the anchor's block (R44). -/
def execKatom (w : UC) (s : State) : Result :=
  let hi := kxImmHi w.kx
  let dom := hi / 8192
  let wide := hi.testBit 12
  let sp := hi.testBit 11
  let cmp := hi % 128
  let size := if wide then 8 else 4
  let n := if wide then 2 else 1
  let aop := kxExt4 w.kx
  let val (x : Nat) : Dword := if wide then kPair s.me x else (kVal s.me x).setWidth 64
  s.uniRun w.kx ([(w.b.toNat, if sp then 1 else 2), (w.fn.toNat, n)] ++ (if aop = 10 then [(cmp, n)] else [])) true
    (let a := if sp then (kVal s.me w.b.toNat).toNat else (kPair s.me w.b.toNat).toNat
    match (if sp then s.checkSpad s.anchorBlk a size .atomic else s.checkGlobal a size .atomic) with
    | .ok t =>
      let i := lowLane s.me.cur
      if spadConflict dom t then s.trapAll cDomainConflict a
      else
        match s.atomicAt i aop size dom t (val w.fn.toNat) (val cmp) (decide (w.a ≠ 511)) with
        | .conflict => s.trapAll cDomainConflict a
        | .old v e u =>
          let u1 := ((u.recordUni true t).fillUni t a).addEv u.me.grid s.anchorBlk (stationOf u.me.core) e
          let u2 := if wide then (u1.clearK w.a.toNat 2).onMe fun g => g.setKPair w.a.toNat v
            else u1.onMe fun g => g.setK w.a.toNat (v.extractLsb' 0 32)
          (u2.switch (kxLen w.kx) 1 (if dom = 3 then 300 else s.latency t)).wakeWaita
    | c => s.finishUni .atomic c s)

end Sys2Proof.Machine
end

