-- ==== Sys2Proof/Machine/Barrier.lean ====
section
/-! DEFINITION. Hardware barriers (R64 to R68): arrivals, phases and their edges. -/

namespace Sys2Proof.Machine

/-- What a thread's barrier of a level belongs to: its group, its block, the station of its block or, for a task, of its
core, or the grid (R45, R64). -/
def State.barOwner (s : State) (g : Group) (t : Thread) (level : Nat) : Nat :=
  match level with
  | 0 => g.uid
  | 1 => t.blk
  | 2 => if t.task then stationOf g.core else s.stationOfBlk t.blk
  | _ => 0

/-- The rank of a thread among the arrivers of a level (R66). -/
def barRank (level lane : Nat) (t : Thread) : Rank :=
  match level with
  | 0 => Rank.thread [lane]
  | 1 => Rank.thread [t.btid]
  | _ => Rank.thread t.rank

/-- A barrier's identity. -/
def Barrier.is (b : Barrier) (grid level owner num : Nat) : Bool :=
  decide (b.grid = grid ∧ b.level = level ∧ b.owner = owner ∧ b.num = num)

/-- A barrier; one that nothing has arrived at stands at phase 0. -/
def State.barrier (s : State) (grid level owner num : Nat) : Barrier :=
  (s.barriers.find? fun b => b.is grid level owner num).getD ⟨grid, level, owner, num, 0, [], []⟩

/-- Replaces a barrier. -/
def State.putBarrier (s : State) (b : Barrier) : State :=
  { s with barriers := b :: s.barriers.filter fun x => !x.is b.grid b.level b.owner b.num }

/-- The live members of a barrier (R64). -/
def State.members (s : State) (b : Barrier) : List Thread :=
  match b.level with
  | 0 => ((s.allGroups.filter fun g => decide (g.uid = b.owner)).map Group.liveThreads).flatten
  | 1 => (s.liveThreads b.grid).filter fun t => !t.task && decide (t.blk = b.owner)
  | 2 => (s.liveThreads b.grid).filter fun t => !t.task && decide (s.stationOfBlk t.blk = b.owner)
  | _ => (s.liveThreads b.grid).filter fun t => !t.task

/-- A thread's arrivals at its barriers of a level and number whose edges it has not received, the last one first. -/
def Thread.arrivalsAt (t : Thread) (level num : Nat) : List Arrival :=
  t.arrivals.filter fun a => decide (a.level = level ∧ a.num = num)

/-- The thread has arrived at a phase of a barrier. -/
def Thread.arrivedAt (t : Thread) (b : Barrier) (phase : Nat) : Bool := t.arrivals.contains ⟨b.level, b.owner, b.num, phase⟩

/-- The arrivals of a thread without those at its barriers of a level and number. -/
def Thread.noArrival (t : Thread) (level num : Nat) : Thread :=
  { t with arrivals := t.arrivals.filter fun a => !decide (a.level = level ∧ a.num = num) }

/-- The blocks whose threads are members are all placed: of a grid barrier, every block of the grid (R64). -/
def State.allPlaced (s : State) (b : Barrier) : Bool :=
  let g := s.grid b.grid
  decide (b.level ≠ 3) || decide (g.placed = g.dims.1 * g.dims.2.1 * g.dims.2.2)

/-- The open phase completes when every live member has arrived in it; its edge stands for the arrivers, each of whom receives it at its
BARW or BARS (R66, R107). -/
def State.checkBarrier (s : State) (b : Barrier) : State :=
  if b.arrived.isEmpty then s
  else if s.allPlaced b && (s.members b).all fun t => t.arrivedAt b b.phase then
    let e := s.edge b.arrived []
    (s.putBarrier { b with phase := b.phase + 1, arrived := [], edges := (b.phase, e) :: b.edges }).wake fun g =>
      decide (g.grid = b.grid) && g.park == some (.barrier b.level b.num)
  else s

/-- Every barrier of a grid is looked at again after a member has left. -/
def State.checkBarriers (s : State) (grid : Nat) : State :=
  (s.barriers.filter fun b => decide (b.grid = grid)).foldl (fun t b => t.checkBarrier b) s

/-- Edges that no thread can receive any more are dropped, and group barriers of groups that are gone. -/
def State.pruneBarriers (s : State) (grid : Nat) : State :=
  let ts := s.liveThreads grid
  let uids := s.allGroups.map fun g => g.uid
  { s with barriers := (s.barriers.filter fun b => decide (b.level ≠ 0) || uids.contains b.owner).map fun b =>
      if b.grid = grid then
        { b with edges := b.edges.filter fun e => ts.any fun t => t.arrivedAt b e.1 }
      else b }

/-- One thread of the issuing group arrives: its sender joins the open phase and its quantum ends (R107). Arrivals whose phases have
completed stay until it receives their edges. -/
def State.arriveOne (s : State) (level num lane : Nat) : State :=
  let g := s.me
  let t := g.thread lane
  let own := s.barOwner g t level
  let b := s.barrier g.grid level own num
  (s.putBarrier { b with arrived := b.arrived ++ [t.sender (barRank level lane t)] }).onMe fun g =>
    g.onLanes (BitVec.ofNat 32 (2 ^ lane)) fun _ t => { t.fold with arrivals := ⟨level, own, num, b.phase⟩ :: t.arrivals }

/-- Every active thread arrives; then the barriers they arrived at are looked at. -/
def State.arriveAll (s : State) (level num : Nat) : State :=
  ((lanesOf s.me.cur).foldl (fun t i => t.arriveOne level num i) s).checkBarriers s.me.grid

/-- The phase of an arrival of a thread of a grid has not completed. -/
def State.phaseOpen (s : State) (grid : Nat) (a : Arrival) : Bool :=
  decide ((s.barrier grid a.level a.owner a.num).phase ≤ a.phase)

/-- The phase of a thread's last arrival has not completed. -/
def State.arrivalOpen (s : State) (level num lane : Nat) : Bool :=
  match (s.me.thread lane).arrivalsAt level num with
  | a :: _ => s.phaseOpen s.me.grid a
  | [] => false

/-- A thread receives the edges of the phases it arrived in, the earliest first (R66). -/
def State.receiveBarrier (s : State) (level num lane : Nat) : State :=
  let m : BitVec 32 := BitVec.ofNat 32 (2 ^ lane)
  let as := ((s.me.thread lane).arrivalsAt level num).reverse
  as.foldl (fun (t : State) a =>
    let b := t.barrier s.me.grid level a.owner num
    match b.edges.find? fun e => e.1 == a.phase with
    | some e =>
      let r := t.receiveShared m e.2
      r.2.putBarrier { b with edges := b.edges.map fun x => if x.1 = a.phase then (x.1, r.1) else x }
    | none => t) (s.onMe fun g => g.onLanes m fun _ t => t.noArrival level num)

/-- The wait of BARW and BARS: the group parks while an arrival phase of an active thread is open, else each receives. -/
def State.waitBarrier (s : State) (level num words : Nat) : State :=
  if (lanesOf s.me.cur).any fun i => s.arrivalOpen level num i then s.parkMe (.barrier level num)
  else
    let t := (lanesOf s.me.cur).foldl (fun t i => t.receiveBarrier level num i) s
    (t.pruneBarriers t.me.grid).switch words 1 0

/-- The numbers of a level (R64). -/
def barNumbers (level : Nat) : Nat :=
  match level with
  | 0 => 4
  | 1 => 16
  | 2 => 8
  | _ => 4

/-- The misuse of R67; `arrives` for BARA and BARS. -/
def State.barMisuse (s : State) (level num : Nat) (arrives : Bool) : Bool :=
  decide (barNumbers level ≤ num) || (decide (level = 1) && s.me.task) ||
  (decide (level = 3) && !(s.grid s.me.grid).flags.getLsbD 0) ||
  (arrives && (lanesOf s.me.cur).any fun i => s.arrivalOpen level num i)

/-- Level and number of a barrier command (R65). -/
def barLevel (w : UC) : Nat := w.fn.toNat / 32
def barNum (w : UC) : Nat := w.fn.toNat % 16

/-- BARA (R66). -/
def execBara (w : UC) (s : State) : Result :=
  s.uniRun w.kx [] true
    (if s.barMisuse (barLevel w) (barNum w) true then s.trapAll cBarrierMisuse 0
    else (s.arriveAll (barLevel w) (barNum w)).switch (kxLen w.kx) 1 0)

/-- BARW (R66). -/
def execBarw (w : UC) (s : State) : Result :=
  s.uniRun w.kx [] true
    (if s.barMisuse (barLevel w) (barNum w) false then s.trapAll cBarrierMisuse 0
    else s.waitBarrier (barLevel w) (barNum w) (kxLen w.kx))

/-- BARS (R66): the arrival is made once, and a parked group only waits. -/
def execBars (w : UC) (s : State) : Result :=
  s.uniRun w.kx [] true
    (if s.me.park = some (.barrier (barLevel w) (barNum w)) then s.waitBarrier (barLevel w) (barNum w) (kxLen w.kx)
    else if s.barMisuse (barLevel w) (barNum w) true then s.trapAll cBarrierMisuse 0
    else (s.arriveAll (barLevel w) (barNum w)).waitBarrier (barLevel w) (barNum w) (kxLen w.kx))

end Sys2Proof.Machine
end

