-- ==== Sys2Proof/Machine/Slots.lean ====
section
/-! DEFINITION. Slot rings (R69 to R72) and timed waits on scratchpad words (R77, R78). -/

namespace Sys2Proof.Machine

/-- Ring `r` of a block; a task group has none, and N reads 0. -/
def State.ring (s : State) (blk r : Nat) : Ring := nth (s.block blk).rings r Ring.fresh

/-- Replaces a ring. -/
def State.putRing (s : State) (blk r : Nat) (x : Ring) : State :=
  s.onBlock blk fun b => { b with rings := setNth b.rings r x }

/-- The groups parked on a ring. -/
def State.wakeRing (s : State) (blk r : Nat) : State := s.wake fun g => g.park == some (.slot blk r)

/-- A publication is set in a side's window from `first` up (R71). -/
def pubSet (first : Word) (pubs : List (Word × Edge)) (i : Word) : Bool :=
  pubs.any fun p => wrapGe p.1 first && decide (p.1.toNat % 64 = i.toNat % 64)

/-- The counter after it has moved over the publications that are set from it up (R71). -/
def pubMove (pubs : List (Word × Edge)) : Nat → Word → Word
  | 0, f => f
  | n + 1, f => if pubs.any fun p => p.1 == f then pubMove pubs n (f + 1) else f

/-- What a slot command finds (R71): a misuse, nothing yet, or success. -/
inductive SlotTry where
  | misuse
  | wait
  | go
  deriving DecidableEq, Repr

/-- SLOTR.full of index i. -/
def Ring.tryFull (x : Ring) (i : Word) : SlotTry :=
  if x.n = 0 || !(wrapGe i x.full && !wrapGe i x.ap) || pubSet x.full x.pubFull i then .misuse
  else if wrapGe i (x.full + 64) then .wait else .go

/-- SLOTR.free of index i. -/
def Ring.tryFree (x : Ring) (i : Word) : SlotTry :=
  if x.n = 0 || !(wrapGe i (x.free - x.n) && !wrapGe i x.ac) || pubSet (x.free - x.n) x.pubFree i then .misuse
  else if wrapGe i (x.free - x.n + 64) then .wait else .go

/-- Publishes index i with its edge; F moves over what is set (R71, R72). -/
def Ring.publish (x : Ring) (i : Word) (e : Edge) : Ring :=
  let pubs := x.pubFull ++ [(i, e)]
  { x with pubFull := pubs, full := pubMove pubs 65 x.full }

/-- Returns index i with its edge. -/
def Ring.giveBack (x : Ring) (i : Word) (e : Edge) : Ring :=
  let pubs := x.pubFree ++ [(i, e)]
  { x with pubFree := pubs, free := pubMove pubs 65 (x.free - x.n) + x.n }

/-- The latency that a ring of a block on another core of its station adds (R46, R208): that of a remote access beyond a local one. -/
def State.ringLatency (s : State) : Nat := s.homeLatency s.anchorBlk - 24

/-- The end of a slot command: the .nb forms write q[B]. -/
def State.slotDone (s : State) (w : US) (ok : Bool) : State :=
  (s.onMe fun g => if w.nb = 1 then g.setQ w.b.toNat ok else g).switch (kxLen w.kx) 1 s.ringLatency

/-- A slot command that finds nothing: it parks, or its .nb form writes q := 0 (R71). -/
def State.slotWait (s : State) (w : US) : State :=
  if w.nb = 1 then s.slotDone w false else s.parkMe (.slot s.anchorBlk w.ring.toNat)

/-- The active threads receive the edge of an index, if one stands for it. -/
def State.receivePub (s : State) (pubs : List (Word × Edge)) (i : Word) : State :=
  match pubs.find? fun p => p.1 == i with
  | some p => s.receiveLanes s.me.cur p.2
  | none => s

/-- SLOTA.free (R71, R72): the index obtained is i + N of the index whose return it receives. -/
def execSlotaFree (w : US) (s : State) : Result :=
  s.uniRun w.kx [] true
    (let b := s.anchorBlk
    let x := s.ring b w.ring.toNat
    if x.n = 0 then s.trapAll cSlotMisuse 0
    else if x.ap = x.free then s.slotWait w
    else
      let i := x.ap - x.n
      let s1 := (s.receivePub x.pubFree i).putRing b w.ring.toNat
        { x with ap := x.ap + 1, pubFree := x.pubFree.filter fun p => p.1 != i }
      ((s1.onMe fun g => g.setK w.a.toNat x.ap).slotDone w true).wakeRing b w.ring.toNat)

/-- SLOTA.full (R71, R72). -/
def execSlotaFull (w : US) (s : State) : Result :=
  s.uniRun w.kx [] true
    (let b := s.anchorBlk
    let x := s.ring b w.ring.toNat
    if x.n = 0 then s.trapAll cSlotMisuse 0
    else if x.ac = x.full then s.slotWait w
    else
      let s1 := (s.receivePub x.pubFull x.ac).putRing b w.ring.toNat
        { x with ac := x.ac + 1, pubFull := x.pubFull.filter fun p => p.1 != x.ac }
      ((s1.onMe fun g => g.setK w.a.toNat x.ac).slotDone w true).wakeRing b w.ring.toNat)

/-- SLOTR.full (R71, R72). -/
def execSlotrFull (w : US) (s : State) : Result :=
  s.uniRun w.kx [(w.a.toNat, 1)] true
    (let b := s.anchorBlk
    let i := kVal s.me w.a.toNat
    match (s.ring b w.ring.toNat).tryFull i with
    | .misuse => s.trapAll cSlotMisuse 0
    | .wait => s.slotWait w
    | .go =>
      let r := s.publishLanes s.me.cur
      ((r.2.putRing b w.ring.toNat ((s.ring b w.ring.toNat).publish i r.1)).slotDone w true).wakeRing b w.ring.toNat)

/-- SLOTR.free (R71, R72). -/
def execSlotrFree (w : US) (s : State) : Result :=
  s.uniRun w.kx [(w.a.toNat, 1)] true
    (let b := s.anchorBlk
    let i := kVal s.me w.a.toNat
    match (s.ring b w.ring.toNat).tryFree i with
    | .misuse => s.trapAll cSlotMisuse 0
    | .wait => s.slotWait w
    | .go =>
      let r := s.publishLanes s.me.cur
      ((r.2.putRing b w.ring.toNat ((s.ring b w.ring.toNat).giveBack i r.1)).slotDone w true).wakeRing b w.ring.toNat)

/-- SLOTR.init (R71): an idle ring starts anew, and no earlier return is received any more (assumption 14). -/
def execSlotrInit (w : US) (s : State) : Result :=
  s.uniRun w.kx [(w.a.toNat, 1)] true
    (let b := s.anchorBlk
    let x := s.ring b w.ring.toNat
    let n := kVal s.me w.a.toNat
    if n = 0 ∨ 65536 < n.toNat ∨ (s.block b).rings.isEmpty ∨ ¬(x.ap = x.full ∧ x.full = x.ac ∧ x.ac = x.free - x.n) then
      s.trapAll cSlotMisuse 0
    else
      ((s.putRing b w.ring.toNat { Ring.fresh with n := n, free := n }).switch (kxLen w.kx) 1 s.ringLatency).wakeRing b w.ring.toNat)

/-! WAITA. -/

/-- The conditions of R77. -/
def waitaCond (code : Nat) (word value : Word) : Bool :=
  match code with
  | 0 => word == value
  | 1 => word != value
  | _ => wrapGe word value

/-- The word a WAITA tests: what atomics and completions left, else what its lowest active lane reads (R78). -/
def State.waitaWord (s : State) (t : Target) : Word :=
  match t.loc with
  | some l => s.atomVal s.me.grid (s.me.thread (lowLane s.me.cur)).party l
  | none => 0

/-- The end of a WAITA: its word lies in scratchpad, on the home core or another of the station (R46, R82). -/
def State.waitaDone (s : State) (w : UC) (b : Bool) : State :=
  (s.onMe fun g => g.setQ (w.fn.toNat / 4 % 8) b).switch (kxLen w.kx) 1 s.ringLatency

/-- The deadline of a WAITA: that it parked with, or the issue clk and the timeout (R78). -/
def State.waitaDeadlineOf (s : State) (w : UC) : Option Nat :=
  match s.me.park with
  | some (.waita d) => d
  | _ =>
    let n := kVal s.me (w.b.toNat + 1)
    if n = 0xFFFFFFFF then none else some (s.now + n.toNat)

/-- WAITA (R77, R78). -/
def execWaita (w : UC) (s : State) : Result :=
  s.uniRun w.kx [(w.a.toNat, 1), (w.b.toNat, 2)] true
    (let off := (kVal s.me w.a.toNat).toNat % 2 ^ 24
    match s.checkSpad s.anchorBlk off 4 .read with
    | .ok t =>
      let s1 := match s.me.park with
        | some (.waita _) => s
        | _ => s.recordUni false t
      let v := s1.waitaWord t
      if waitaCond (w.fn.toNat % 4) v (kVal s1.me w.b.toNat) then
        let s2 := match t.loc with
          | some l => s1.observe l v s1.me.cur
          | none => s1
        s2.waitaDone w true
      else
        match s1.waitaDeadlineOf w with
        | some d => if d ≤ s1.now then s1.waitaDone w false else s1.parkMe (.waita (some d))
        | none => s1.parkMe (.waita none)
    | c => s.finishUni .read c s)

end Sys2Proof.Machine
end

