-- ==== Sys2Proof/Machine/Yard.lean ====
section
/-! DEFINITION. The marshalling yard: REBIN, its episodes, and the groups they form (R33 to R49). -/

namespace Sys2Proof.Machine

/-! Forming groups. -/

/-- a stands before b in the order of (key, TID) (R38, R39). -/
def recBefore (a b : YardRec) : Bool := keyLt [a.key, a.thread.tid.toNat] [b.key, b.thread.tid.toNat]

/-- Inserts a record into a sorted list. -/
def insertRec (r : YardRec) : List YardRec → List YardRec
  | [] => [r]
  | x :: l => if recBefore r x then r :: x :: l else x :: insertRec r l

/-- Records by (key, TID). -/
def sortRecs (l : List YardRec) : List YardRec := l.foldl (fun a r => insertRec r a) []

/-- Cuts a list into runs of equal key. -/
def runsOf : List YardRec → List (List YardRec)
  | [] => []
  | r :: l =>
    match runsOf l with
    | (x :: xs) :: rest => if x.key = r.key then (r :: x :: xs) :: rest else [r] :: (x :: xs) :: rest
    | rest => [r] :: rest

/-- Cuts a list into pieces of 32, the last possibly partial. -/
def chop32 {α : Type} : Nat → List α → List (List α)
  | 0, _ => []
  | n + 1, l => if l.isEmpty then [] else l.take 32 :: chop32 n (l.drop 32)

/-- The groups a release forms (R38 to R40): full groups of each key, then the remainders, each its own group or, with .m,
concatenated and cut. -/
def formGroups (merge : Bool) (recs : List YardRec) : List (List YardRec) :=
  let runs := runsOf (sortRecs recs)
  let full (r : List YardRec) : List (List YardRec) := chop32 (r.length / 32) r
  let rem (r : List YardRec) : List YardRec := r.drop (r.length / 32 * 32)
  let rems := runs.map rem
  (runs.map full).flatten ++
    (if merge then chop32 (rems.flatten.length + 1) rems.flatten else rems.filter fun r => !r.isEmpty)

/-- The anchor's record: the lowest TID (R43). -/
def anchorRec : List YardRec → Option YardRec
  | [] => none
  | r :: l =>
    match anchorRec l with
    | some x => some (if x.thread.tid.toNat < r.thread.tid.toNat then x else r)
    | none => some r

/-- The lanes of a new group: its threads from lane 0, then empty positions. -/
def fillLanes (ts : List Thread) : List (Option Thread) := (ts.map some ++ List.replicate 32 none).take 32

/-- The mask of the lowest `n` lanes. -/
def firstLanes (n : Nat) : BitVec 32 := BitVec.ofNat 32 (2 ^ n - 1)

/-- A rebuilt group of records in lane order, with the uniform image of its anchor's source group (R43). -/
def Episode.group (e : Episode) (uid ready : Nat) (rs : List YardRec) (early : Bool) : Group :=
  let im := ((anchorRec rs).bind fun a => e.images.find? fun i => i.source == a.source).getD ⟨0, [], 0, 8, 0, 0⟩
  { Group.empty with
    uid := uid
    core := 4 * e.station
    grid := e.grid
    blk := if e.stationScope then 0 else e.owner
    lanes := fillLanes (rs.map fun r => r.thread)
    pc := e.pc + 4
    runPc := e.pc + 4
    path := firstLanes rs.length
    k := im.k
    q := im.q
    cvc := im.cvc
    srseed := im.srseed
    dphase := im.dphase
    readyAt := ready
    early := if early then some e.id else none
    words := rs.length * (e.cnt + 4) }

/-- The thread has left the yard in an episode of a scope: its count rises (R37, R42). -/
def Thread.leaveYard (t : Thread) (station : Bool) : Thread :=
  if station then { t with epS := t.epS + 1 } else { t with epB := t.epB + 1 }

/-- The record of a thread that leaves the yard. -/
def YardRec.leave (r : YardRec) (station : Bool) : YardRec := { r with thread := r.thread.leaveYard station }

/-- Emits a group of records to wait for admission (R49). -/
def State.emitGroup (s : State) (e : Episode) (ready : Nat) (early : Bool) (rs : List YardRec) : State :=
  let f := s.fresh
  { f.2 with waiting := f.2.waiting ++ [e.group f.1 ready (rs.map fun r => r.leave e.stationScope) early] }

/-- The yard's record of a thread among a list is poisoned (R421). -/
def State.yardPoison (s : State) (grid : Nat) (rs : List YardRec) : Option YardRec :=
  rs.find? fun r => s.poison.any fun p =>
    match p with
    | .yardRec h t _ => decide (h = grid ∧ t = r.thread.tid.toNat)
    | _ => false

/-- A group is to be made of poisoned records (R421): the yard's read of them consumes it (assumption 82). -/
def State.yardFatal (s : State) (e : Episode) (r : YardRec) : State :=
  s.takeFatal { fd := s.fdOf e.grid, cause := cPoison, ctx := (s.grid e.grid).ctx, handle := e.grid, tid := r.thread.tid.toNat,
                pc := e.pc.toNat, stn := e.station, core := 4 * e.station, time := s.now }

/-- A thread enters the yard: its record is written, and marks in it clear. -/
def State.freshRec (s : State) (grid tid : Nat) : State :=
  if s.poison.isEmpty then s
  else { s with poison := s.poison.filter fun p =>
    match p with
    | .yardRec h t _ => !decide (h = grid ∧ t = tid)
    | _ => true }

/-! Release. -/

/-- The thread is a participant of the episode by its block and its count (R36, R37). -/
def Episode.takesPart (e : Episode) (t : Thread) : Bool :=
  !t.task && e.blocks.contains t.blk && decide ((if e.stationScope then t.epS else t.epB) = e.number)

/-- Every participant that has not exited has arrived, and none waits in a saved block: those in groups and those that another
episode holds have not arrived (R36, R37, R53). -/
def State.allArrived (s : State) (e : Episode) : Bool :=
  !(s.allGroups.filter fun g => decide (g.grid = e.grid)).any (fun g => g.liveThreads.any e.takesPart) &&
  !(s.episodes.filter fun x => decide (x.grid = e.grid ∧ x.id ≠ e.id)).any (fun x => x.recs.any fun r => e.takesPart r.thread) &&
  !e.recs.any fun r => (s.block r.thread.blk).saved

/-- The state of a grid on a station. -/
def Grid.station (g : Grid) (n : Nat) : GridStation := (g.stations.find? fun x => x.station == n).getD ⟨n, 0, false, 0, 0⟩

/-- Changes it. -/
def Grid.onStation (g : Grid) (n : Nat) (f : GridStation → GridStation) : Grid :=
  { g with stations := f (g.station n) :: g.stations.filter fun x => x.station != n }

/-- The scope's owner of a thread: its block, or its block's station. -/
def State.epOwner (s : State) (station : Bool) (t : Thread) : Nat := if station then s.stationOfBlk t.blk else t.blk

/-- The episode of a grid before it that is still open in the thread's block or on its station, for which the thread waits (R37). -/
def State.epBefore (s : State) (h : Nat) (station : Bool) (t : Thread) : Option Episode :=
  s.episodes.find? fun e =>
    decide (e.grid = h ∧ e.stationScope = station ∧ e.number + 1 = if station then t.epS else t.epB) &&
      (e.blocks.contains t.blk || decide (e.owner = s.epOwner station t))

/-- A group's threads reach a REBIN of a scope before the episode that it follows has released (R37). -/
def State.rebinHeld (s : State) (g : Group) (station : Bool) : Bool := g.liveThreads.any fun t => (s.epBefore g.grid station t).isSome

/-- What holds a group that the yard has parked: the episode before whose release it was emitted (R48), or the one that its REBIN follows
(R37). -/
def State.yardHolds (s : State) (g : Group) : Bool :=
  match g.early with
  | some e => s.episodes.any fun x => x.id == e
  | none =>
    match g.insn with
    | some (.rebinB _) => s.rebinHeld g false
    | some (.rebinS _) => s.rebinHeld g true
    | _ => false

/-- A group that the yard no longer holds is ready 4 clk later (R208): it issues the held instruction on its pipe, when the pipe chooses
it again. An evicted one repeats its run (R22). -/
def Group.unheld (g : Group) (now : Nat) : Group := { g with park := none, readyAt := now + 4, apart := true }

/-- Releases an episode: the edge of R47 to every participant, then the remaining groups (R38 to R40, R51); the groups that it held look
again (R37, R48). -/
def State.release (s : State) (e : Episode) : State :=
  match s.yardPoison e.grid e.recs with
  | some r => s.yardFatal e r
  | none =>
  let edge := s.edge e.senders []
  let s1 := s.settleEdge edge
  let s2 := { s1 with episodes := s1.episodes.filter fun x => x.id != e.id }
  let s3 := s2.onGroups fun g =>
    if g.early = some e.id then
      { g.onAll fun _ t => if t.exited then t else t.receive edge with early := none }
    else g
  let more := s2.episodes.any fun x => x.stationScope && decide (x.grid = e.grid ∧ x.station = e.station)
  let s4 := if e.stationScope then
      s3.onGrid e.grid fun g => g.onStation e.station fun x => { x with epS := x.epS + 1, openS := more }
    else s3
  let recs := e.recs.map fun r => { r with thread := r.thread.receive edge }
  let ready := max s.now e.landed + 16 + (e.senders.length + 31) / 32
  ((formGroups e.merge recs).foldl (fun t rs => t.emitGroup e ready false rs) s4).wake fun g =>
    decide (g.grid = e.grid) && g.park == some .yard

/-- Releases every episode of a grid whose participants have all arrived. -/
def State.checkEpisodes (s : State) (grid : Nat) : State :=
  (s.episodes.filter fun e => decide (e.grid = grid)).foldl (fun t e => if t.allArrived e then t.release e else t) s

/-! Arrival. -/

/-- The episode a thread's arrival joins: that of its count in which its block takes part (R36, R37). -/
def State.epJoin (s : State) (station : Bool) (t : Thread) : Option Episode :=
  s.episodes.find? fun e => decide (e.grid = s.me.grid ∧ e.stationScope = station) && e.takesPart t

/-- The misuse of R34. Its last case, threads that belong to an open episode with another PC, is tested for the scope of this REBIN:
the model's choice (assumption 93). -/
def State.rebinMisuse (s : State) (w : LB) (station : Bool) : Bool :=
  let g := s.me
  let ts := g.liveThreads
  decide (8 < w.cnt.toNat) || (decide (0 < w.cnt.toNat) && decide ((s.grid g.grid).v < w.b.toNat + w.cnt.toNat)) ||
  decide (g.depth ≠ 0) || (station && !w.opt.getLsbD 1) || g.task ||
  (lanesOf g.liveMask).any (fun i => (List.range 4).any fun n => s.arrivalOpen 0 n i) ||
  g.slots.any (fun x => x.isSome) || s.mmas.any (fun m => m.group == g.uid) ||
  ts.any (fun t => match s.epJoin station t with | some e => decide (e.pc ≠ g.pc) | none => false)

/-- The thread as the yard holds it: its payload, every other register zero, predicates false (R42). -/
def Thread.enter (t : Thread) (b cnt key : Nat) : Thread :=
  { t.fold with
    v := mapFrom (fun i x => if b ≤ i ∧ i < b + cnt then x else 0) 0 t.v
    p := 0
    lat := List.replicate 8 0
    clkHi := none
    key := BitVec.ofNat 32 key
    arrivals := t.arrivals.filter fun a => decide (a.level ≠ 0) }

/-- Opens the episode a thread joins, if it is not open (R36, R37). -/
def State.openEpisode (s : State) (w : LB) (station : Bool) (t : Thread) : State :=
  match s.epJoin station t with
  | some _ => s
  | none =>
    let g := s.me
    let stn := s.stationOfBlk t.blk
    let f := s.fresh
    let blocks := if station then
        (s.blocks.filter fun b => decide (b.grid = g.grid ∧ b.station = stn) && !b.saved).map fun b => b.uid
      else [t.blk]
    let e : Episode :=
      { id := f.1, grid := g.grid, stationScope := station, owner := s.epOwner station t, station := stn,
        number := if station then t.epS else t.epB, pc := g.pc, merge := w.opt.getLsbD 0,
        det := w.opt.getLsbD 2 || (s.grid g.grid).flags.getLsbD 2, cnt := w.cnt.toNat, blocks := blocks,
        recs := [], images := [], senders := [], landed := 0 }
    let s1 := { f.2 with episodes := f.2.episodes ++ [e] }
    if station then s1.onGrid g.grid fun x => x.onStation stn fun y => { y with openS := true } else s1

/-- The image of a group's uniform registers. -/
def Group.image (g : Group) : UniImage := ⟨g.uid, g.k, g.q, g.cvc, g.srseed, g.dphase⟩

/-- Adds a record, which lands at a time, to an episode; a streaming bin that fills is emitted (R38). -/
def State.enterRec (s : State) (g : Group) (id land : Nat) (r : YardRec) (snd : Sender) : State :=
  match s.episodes.find? fun e => e.id == id with
  | none => s
  | some e =>
    let imgs := if e.images.any fun i => i.source == g.uid then e.images else e.images ++ [g.image]
    let e1 := { e with recs := e.recs ++ [r], senders := e.senders ++ [snd], images := imgs, landed := max e.landed land }
    let bin := e1.recs.filter fun x => x.key == r.key
    let full := !e.det && decide (bin.length = 32)
    let e2 := if full then { e1 with recs := e1.recs.filter fun x => x.key != r.key } else e1
    let s1 := { s.freshRec e.grid r.thread.tid.toNat with episodes := s.episodes.map fun x => if x.id = id then e2 else x }
    if full then
      match s1.yardPoison e.grid bin with
      | some x => s1.yardFatal e x
      | none => s1.emitGroup e2 (bin.foldl (fun a x => max a x.land) 0) true (sortRecs bin)
    else s1

/-- One thread of the issuing group enters the yard, where its record lands at a time. -/
def State.enterOne (s : State) (w : LB) (station : Bool) (land lane : Nat) : State :=
  let g := s.me
  let t := g.thread lane
  let s1 := s.openEpisode w station t
  let key := (srcVal g t w.a).toNat % 65536
  let rank := Rank.thread (if station then t.rank else [t.btid])
  match s1.epJoin station t with
  | some e => s1.enterRec g e.id land ⟨t.enter w.b.toNat w.cnt.toNat key, key, g.uid, land⟩ (t.sender rank)
  | none => s1

/-- The group on the issuing pipe ceases to exist. -/
def State.dropMe (s : State) : State := { s with me := Group.empty }

/-- REBIN (R33 to R49). A group whose threads must wait for an earlier episode is held before it issues it, and holds no pipe (R37). The
crossing into the yard starts at the issue, the records of the group land together when its last word has crossed, and at the release a
last part of fewer than 32 participants takes a clk of its own: the model's choices (assumption 109). -/
def State.rebin (s : State) (w : LB) (station : Bool) : Result :=
  if s.rebinHeld s.me station then .next (s.parkMe .yard 0)
  else s.laneRun none ((w.a, 1) :: if w.cnt = 0 then [] else [(w.b, w.cnt.toNat)]) fun act =>
    if s.rebinMisuse w station then s.trapAll cYardMisuse 0
    else
      let grid := s.me.grid
      let x := (s.occupy (occupancy false act)).cross s.me.core false s.now (countLanes act * (w.cnt.toNat + 4))
      let s1 := (lanesOf act).foldl (fun t i => t.ifStays s.me.uid fun u => u.enterOne w station x.1 i) x.2
      (((s1.dropMe).checkEpisodes grid).pruneBarriers grid).releaseCores

def execRebinB (w : LB) (s : State) : Result := s.rebin w false
def execRebinS (w : LB) (s : State) : Result := s.rebin w true

end Sys2Proof.Machine
end

