-- ==== Sys2Proof/Machine/Exits.lean ====
section
/-! DEFINITION. How threads and groups end: frames and their join edges (R56, R59, R62), the return of inline children (R60),
EXIT, EXITG and TAIL (R29, R30, R59, R290), and AWAIT with stolen continuations (R61 to R63). -/

namespace Sys2Proof.Machine

/-! Frames. -/

/-- The frame a thread holds, by its party (R56). -/
def State.frameOf (s : State) (t : Thread) : Option Frame := s.frames.find? fun f => f.holder == t.party.pid

/-- Changes the frame of a holder. -/
def State.onFrame (s : State) (pid : Nat) (f : Frame → Frame) : State :=
  { s with frames := s.frames.map fun x => if x.holder = pid then f x else x }

/-- A lane of the mask holds a frame whose children have not all ended. -/
def State.framesOpen (s : State) (m : BitVec 32) : Bool :=
  (lanesOf m).any fun i => match s.frameOf (s.me.thread i) with | some f => decide (0 < f.count) | none => false

/-- The join edge to one thread, and the release of its frame (R62). -/
def State.joinOne (s : State) (lane : Nat) : State :=
  match s.frameOf (s.me.thread lane) with
  | none => s
  | some f =>
    let s1 := { s with frames := s.frames.filter fun x => x.holder != f.holder }
    ((s1.receiveLanes (BitVec.ofNat 32 (2 ^ lane)) ⟨f.done, [], none⟩).foldSent f.done).onMe fun g =>
      g.onLanes (BitVec.ofNat 32 (2 ^ lane)) fun _ t => { t with hasFrame := false, spawnOrder := 0 }

/-- The join edges of every lane of a mask. -/
def State.joinAll (s : State) (m : BitVec 32) : State := (lanesOf m).foldl (fun t i => t.joinOne i) s

/-! The return of an inline child (R60). -/

/-- Bytes of an inline save of a thread: v0..v(V−1), then a word of p0..p6. -/
def saveLen (v : Nat) : Nat := 4 * v + 4

/-- Words of a list of bytes. -/
def wordsFrom (bs : List Byte) (n : Nat) : List Word :=
  (List.range n).map fun i => BitVec.ofNat 32 (recNum bs (4 * i) 4)

/-- The bytes of an inline save of a thread. -/
def Thread.saveImage (t : Thread) : List Byte := (t.v.map fun x => natLe x.toNat 4).flatten ++ natLe t.p.toNat 4

/-- The bytes of an inline save of the uniform registers. -/
def Group.saveImage (g : Group) : List Byte := (g.k.map fun x => natLe x.toNat 4).flatten ++ natLe g.q.toNat 4

/-- A lane leaves the masks of an entry. -/
def DivEntry.drop (e : DivEntry) (m : BitVec 32) : DivEntry :=
  { e with f := e.f &&& ~~~m, q := e.q.map fun x => (x.1, x.2 &&& ~~~m) }

/-- A lane leaves the entries above that of its inline call; none when the stack holds no such entry. -/
def leaveEntries (m : BitVec 32) : List DivEntry → Option (List DivEntry)
  | [] => none
  | e :: r =>
    match e.inl with
    | some (k, _) => if k &&& m ≠ 0 then some (e :: r) else (leaveEntries m r).map fun x => e.drop m :: x
    | none => (leaveEntries m r).map fun x => e.drop m :: x

/-- The return of the inline child that runs in a lane: the join edge to the parent, the saved registers, and the wait on the
entry of the call. What is written back clears the marks of the registers (R421). -/
def State.inlineReturn (s : State) (lane : Nat) : State :=
  let g := s.me
  let t := g.thread lane
  match t.inl with
  | [] => s
  | c :: rest =>
    let m := BitVec.ofNat 32 (2 ^ lane)
    let e := s.offer ⟨[t.sender (Rank.thread t.rank)], [], none⟩ [c.party]
    let s1 := s.settleFor e [c.party]
    match s1.savedBytes g.grid t c.save (saveLen t.v.length) with
    | (.ok _, bytes, u) =>
      let back : Thread := { t with
        party := c.party.receive e
        rank := c.rank
        spawnOrder := c.spawnOrder
        hasFrame := false
        inl := rest
        v := wordsFrom bytes t.v.length
        p := BitVec.ofNat 7 (recNum bytes (4 * t.v.length) 4) }
      (u.clearV m 0 t.v.length).onMe fun g =>
        let g1 := g.onLanes m fun _ _ => back.free c.save
        match leaveEntries m g1.stack with
        | some st => { g1 with stack := st, path := g1.path &&& ~~~m }
        | none => g1
    | (x, _, u) => u.saveTrap x c.save

/-- The uniform registers that an inline level saved come back (R60), and their marks clear (R421). -/
def State.restoreUni (s : State) (off : Nat) : State :=
  let g := s.me
  let n := 4 * g.k.length + 4
  match s.savedBytes g.grid (g.thread 0) off n with
  | (.ok _, bytes, u) => (u.clearK 0 g.k.length).onMe fun g => { (g.onLanes 1 fun _ t => t.free off) with
      k := wordsFrom bytes g.k.length, q := BitVec.ofNat 7 (recNum bytes (4 * g.k.length) 4) }
  | (x, _, u) => u.saveTrap x off

/-! The end of threads. -/

/-- A thread ends (R59): it is a sender of its grid's completion and phase end, and of its parent's join. -/
def State.endThread (s : State) (lane : Nat) : State :=
  let g := s.me
  let t := g.thread lane
  let snd := t.sender (Rank.thread t.rank)
  let s1 := (s.onMe fun g => g.onLanes (BitVec.ofNat 32 (2 ^ lane)) fun _ t => { t.fold with exited := true }).onGrid g.grid fun x =>
    { (if t.task then x.counts (stationOf g.core) 0 1 else x) with
      ended := x.ended ++ [snd]
      arrivedPhase := x.arrivedPhase ++ [(x.phases, snd)]
      opsOut := s.ops.any fun o => o.grid == g.grid }
  match t.parent with
  | some p =>
    let s2 := s1.onFrame p fun f => { f with count := f.count - 1, done := f.done ++ [snd] }
    if s2.frames.any fun f => decide (f.holder = p ∧ f.count = 0) then
      s2.wake fun x => x.park == some .await && x.liveThreads.any fun y => y.party.pid == p
    else s2
  | none => s1

/-- EXIT of one lane: an inline child returns, a thread ends. -/
def State.exitOne (s : State) (lane : Nat) : State :=
  if (s.me.thread lane).inl.isEmpty then s.endThread lane else s.inlineReturn lane

/-- Every inline level of a lane returns, and then the thread ends (EXITG, TAIL). -/
def State.exitWhole (s : State) (lane : Nat) : Nat → State
  | 0 => s.endThread lane
  | n + 1 => if (s.me.thread lane).inl.isEmpty then s.endThread lane else (s.inlineReturn lane).exitWhole lane n

/-- The group retires (R29): its slot and registers are free. -/
def State.retireMe (s : State) : State :=
  let g := s.me
  (s.dropMe.pruneBarriers g.grid).releaseCores

/-- What follows the end of threads of a grid: phases and episodes that waited for them. -/
def State.afterExits (s : State) (grid : Nat) : State := ((s.checkBarriers grid).checkEpisodes grid).pruneBarriers grid

/-- Deferred paths and entries of a group, and one more: the moves after which `settlePath` has decided. -/
def Group.paths (g : Group) : Nat := g.stack.length + ((g.stack.map fun e => e.q.length).foldl (fun a x => a + x) 0) + g.base.q.length + 2

/-- When every thread of C has ended, the path counts as arrived: the next path runs, or the group retires (R60, R299). -/
def State.settlePath (s : State) : Nat → State
  | 0 => s.retireMe
  | fuel + 1 =>
    let g := s.me
    if g.cur ≠ 0 then s
    else
      let go (t : State) (f : Group → Group) : State := (t.onMe f).settlePath fuel
      match g.stack with
      | e :: r =>
        match e.q with
        | (pc, m) :: q => go s fun g => { g with stack := { e with q := q } :: r, path := m, pc := pc }
        | [] =>
          match e.inl with
          | some (_, off) => go (((s.restoreUni off).ifStays g.uid fun t => (t.onMe fun g => g.pop).unspill)) fun x =>
              if x.uid = g.uid then { x with path := e.f, pc := e.rpc } else x
          | none =>
            if e.f &&& g.liveMask = 0 then go ((s.onMe fun g => g.pop).unspill) fun g => g
            else go s fun g => { g with path := e.f, pc := e.rpc }
      | [] =>
        match g.base.q with
        | (pc, m) :: q => go s fun g => { g with base := { g.base with q := q }, path := m, pc := pc }
        | [] =>
          if g.base.wb &&& g.liveMask = 0 then s.retireMe
          else go s fun g => { g with base := { g.base with wb := 0 }, path := g.base.wb, pc := g.base.wpc }

/-- The end of an instruction of `words` words by which lanes of the group have ended. -/
def State.exitDone (s : State) (words occ : Nat) : State :=
  let s1 := s.afterExits s.me.grid
  if s1.me.cur ≠ 0 then s1.switch words occ 0
  else
    let s2 := (s1.occupy occ).settlePath s1.me.paths
    if s2.me.uid = s1.me.uid then s2.switchTo s2.me.pc occ 0 else s2

/-- EXIT (R59, R290). -/
def execExit (w : LR) (s : State) : Result :=
  s.laneRun w.lxc [] fun act =>
    if act = 0 then s.switch (lrLen w) 8 0
    else if s.framesOpen act then s.parkMe .await (occupancy false act)
    else ((lanesOf act).foldl (fun t i => t.exitOne i) (s.joinAll act)).ifStays s.me.uid fun t =>
      t.exitDone (lrLen w) (occupancy false act)

/-- Every thread of the group that has not ended ends, in ascending lane order (R290). -/
def State.exitGroup (s : State) : State :=
  let m := s.me.liveMask
  (lanesOf m).foldl (fun t i => t.exitWhole i (s.me.thread i).inl.length) (s.joinAll m)

/-- EXITG (R29, R290). -/
def execExitg (w : UF) (s : State) : Result :=
  s.uniRun w.kx [] true
    (if s.framesOpen s.me.liveMask then s.parkMe .await
    else
      s.exitGroup.ifStays s.me.uid fun s1 => ((s1.afterExits s1.me.grid).occupy 1).retireMe)

/-- Operations the group issued are outstanding (R30). -/
def State.outstanding (s : State) (uid : Nat) : Bool := s.ops.any fun o => o.group == uid

/-- Step 3 of TAIL (R30): what is outstanding drains under a tracker entry of the core, or the group waits for one. -/
def State.tailEnd (s : State) : State :=
  if s.outstanding s.me.uid = false then s.retireMe
  else if (s.trackers.filter fun x => x.1 == s.me.core).length < 16 then
    { s with trackers := s.trackers ++ [(s.me.core, s.me.uid)] }.retireMe
  else s.parkMe .tracker

/-- TAIL (R30). -/
def execTail (w : UF) (s : State) : Result :=
  s.uniRun w.kx [] true
    (if s.me.park = some .tracker then s.tailEnd
    else if s.framesOpen s.me.liveMask then s.parkMe .await
    else
      s.exitGroup.ifStays s.me.uid fun s1 => ((s1.afterExits s1.me.grid).occupy 1).tailEnd)

/-! AWAIT. -/

/-- A group is ready (R17, R208): it is not parked, what it last issued has completed, and the line of its next instruction is present. -/
def State.isReady (s : State) (g : Group) : Bool :=
  g.park.isNone && decide (g.readyAt ≤ s.now) && s.hasLine (stationOf g.core) (s.grid g.grid).ctx (lineOf g.pc.toNat)

/-- Groups of a pipe that are ready, but for one. -/
def State.readyOn (s : State) (core pipe uid : Nat) : Nat :=
  ((s.onPipe core pipe).filter fun g => s.isReady g && g.uid != uid).length

/-- The groups of a partition word that one pipe of a core may hold (R27): the lower-numbered pipes take the extra group. -/
def pipeShare (w : Word) (pipe : Nat) : Nat := groupsPerCore w / 128 + if pipe < groupsPerCore w % 128 then 1 else 0

/-- The pipe of the station to which a resumed continuation is stolen (R63): it has no ready group, and room. -/
def State.thief (s : State) : Option (Nat × Nat) :=
  let g := s.me
  if s.readyOn g.core g.pipe g.uid < 2 then none
  else
    let w := (s.grid g.grid).word
    let cores := (stationCores (stationOf g.core)).filter fun c => decide (c = g.core) || s.coreFits c w
    ((cores.map fun c => (List.range 128).map fun p => (c, p)).flatten).find? fun x =>
      decide (s.readyOn x.1 x.2 g.uid = 0) && decide ((s.onPipe x.1 x.2).length < pipeShare w x.2)

/-- Moves the group to another pipe of the station; a group slot of another core is a new one. -/
def State.moveTo (s : State) (core pipe : Nat) : State :=
  let g := s.me
  let gs := if core = g.core then g.gslot else s.freeGslot core
  State.releaseCores { (s.claimCore core (s.grid g.grid).word) with
    me := { g with core := core, pipe := pipe, gslot := gs }
    poison := (s.poison.filter fun p => decide (core = g.core) || !inSlot core gs p).map (moveMark g.core g.gslot core gs) }

/-- A resumed continuation may be stolen (R63): the clk by which it has crossed the turntable, and the state. An evicted group has no
pipe to leave. -/
def State.steal (s : State) : Nat × State :=
  if s.me.park.isNone || decide (1024 ≤ s.me.gslot) then (s.now, s)
  else
    match s.thief with
    | some (c, p) =>
      let n := 32 * (s.grid s.me.grid).v + (s.grid s.me.grid).kn + 8
      let x := s.cross s.me.core false s.now n
      let y := x.2.cross c true x.1 n
      (y.1, y.2.moveTo c p)
    | none => (s.now, s)

/-- AWAIT (R62, R63). -/
def execAwait (w : LR) (s : State) : Result :=
  s.laneRun w.lxc [] fun act =>
    if s.framesOpen act then s.parkMe .await (occupancy false act)
    else
      let x := (s.joinAll act).steal
      (x.2.switch (lrLen w) (occupancy false act) 0).onMe fun g => { g with readyAt := max g.readyAt x.1 }

end Sys2Proof.Machine
end

