-- ==== Sys2Proof/Machine/Tasks.lean ====
section
/-! DEFINITION. SPAWN, task bins and the inline fall-back (R10, R54 to R58, R60). -/

namespace Sys2Proof.Machine

/-- The next task TID of a grid on a station (R10): live values are skipped. The count in a TID is that of the tasks created before,
so that a station's first task has count 0: the model's choice (assumption 94). -/
def nextTid (live : List Word) (stn : Nat) : Nat → Nat → Nat × Word
  | 0, c => (c + 1, BitVec.ofNat 32 (2 ^ 31 + stn * 2 ^ 26 + c % 2 ^ 26))
  | n + 1, c =>
    let t := BitVec.ofNat 32 (2 ^ 31 + stn * 2 ^ 26 + c % 2 ^ 26)
    if live.contains t then nextTid live stn n (c + 1) else (c + 1, t)

/-- A bin's identity. -/
def TaskBin.is (b : TaskBin) (stn grid : Nat) (entry : Dword) (cls : Nat) : Bool :=
  decide (b.station = stn ∧ b.grid = grid ∧ b.entry = entry ∧ b.cls = cls)

/-- The task group of a bin's children in entry order (R57, R135). -/
def TaskBin.group (b : TaskBin) (g : Grid) (uid ready : Nat) : Group :=
  let c := b.kids.head?
  { Group.empty with
    uid := uid
    core := 4 * b.station
    grid := b.grid
    task := true
    lanes := fillLanes (mapFrom (fun i k => { k.thread with btid := i }) 0 b.kids)
    pc := b.entry
    runPc := b.entry
    path := firstLanes b.kids.length
    k := List.replicate g.kn 0
    cvc := (c.map fun x => x.cvc).getD 8
    srseed := (c.map fun x => x.srseed).getD 0
    dphase := (c.map fun x => x.dphase).getD 0
    cls := b.cls
    words := (b.kids.map fun c => c.words).foldl (fun a x => a + x) 0
    born := (c.map fun x => x.at_).getD 0
    readyAt := ready }

/-- Emits a bin as a task group that waits for admission (R57). -/
def State.emitBin (s : State) (b : TaskBin) : State :=
  let f := s.fresh
  { f.2 with
    bins := f.2.bins.filter fun x => !x.is b.station b.grid b.entry b.cls
    waiting := f.2.waiting ++ [b.group (f.2.grid b.grid) f.1 (b.kids.foldl (fun a c => max a c.at_) f.2.now)] }

/-- A child enters its bin; 32 children are emitted (R57). -/
def State.enterBin (s : State) (stn grid : Nat) (entry : Dword) (cls : Nat) (c : Child) : State :=
  let b := (s.bins.find? fun x => x.is stn grid entry cls).getD ⟨stn, grid, entry, cls, []⟩
  let b1 := { b with kids := b.kids ++ [c] }
  let s1 := { s with bins := (s.bins.filter fun x => !x.is stn grid entry cls) ++ [b1] }
  if b1.kids.length = 32 then s1.emitBin b1 else s1

/-- The argument words of a lane. -/
def Thread.args (t : Thread) (b cnt : Nat) : List Word := (t.v.drop b).take cnt

/-- The registers a child starts with: its arguments, then zeros. -/
def argRegs (args : List Word) (v : Nat) : List Word := (args ++ List.replicate v 0).take v

/-- The spawn edge of one lane: the edge, and the state in which the parent has folded. -/
def State.spawnEdge (s : State) (lane : Nat) : Edge × State :=
  let e := s.edge [(s.me.thread lane).sender (Rank.thread [lane])] []
  (e, (s.settleEdge e).onMe fun g => g.onLanes (BitVec.ofNat 32 (2 ^ lane)) fun _ t => t.fold)

/-- A child of a lane that holds a frame or takes one (R56). -/
def State.spawnOne (s : State) (w : LC) (lane : Nat) : State :=
  let g := s.me
  let stn := stationOf g.core
  let t := g.thread lane
  let ed := s.spawnEdge lane
  let f := ed.2.fresh
  let tid := nextTid ((s.liveThreads g.grid).map fun x => x.tid) stn (s.liveThreads g.grid).length ((s.grid g.grid).station stn).tasks
  let child : Thread := { Thread.empty with
    tid := tid.2
    task := true
    v := argRegs (t.args w.b.toNat w.cnt.toNat) t.v.length
    exited := false
    party := Party.fresh f.1 ed.1
    parent := some t.party.pid
    rank := t.rank ++ [t.spawnOrder] }
  let frames := if (s.frameOf t).isSome then f.2.frames else f.2.frames ++ [⟨t.party.pid, g.grid, stn, 0, []⟩]
  let s1 := ({ f.2 with frames := frames }.onFrame t.party.pid fun x => { x with count := x.count + 1 }).onGrid g.grid fun x =>
    (x.onStation stn fun y => { y with tasks := tid.1 }).counts stn 1 0
  let s2 := s1.onMe fun g => g.onLanes (BitVec.ofNat 32 (2 ^ lane)) fun _ t =>
    { t with hasFrame := true, spawnOrder := t.spawnOrder + 1 }
  let n := w.cnt.toNat + 4
  let x := s2.cross g.core false s.now n
  x.2.enterBin stn g.grid (srcPair g t w.a) w.opt.toNat ⟨child, g.cvc, g.srseed, g.dphase, x.1, n⟩

/-- Frames of a station (R60). -/
def stationFrames : Nat := 4096

/-- A lane finds a frame: its own, or a free one of the station's. -/
def State.hasRoom (s : State) (lane : Nat) : Bool :=
  (s.frameOf (s.me.thread lane)).isSome ||
    decide ((s.frames.filter fun f => decide (f.station = stationOf s.me.core)).length < stationFrames)

/-! The inline fall-back. -/

/-- The paths of inline children by entry VA, in the order of their lowest lanes. -/
def inlinePaths (g : Group) (a : BitVec 8) (m : BitVec 32) : List (Dword × BitVec 32) :=
  (lanesOf m).foldl (fun l i =>
    let e := srcPair g (g.thread i) a
    let b := BitVec.ofNat 32 (2 ^ i)
    if l.any (fun x => x.1 == e) then l.map fun x => if x.1 = e then (x.1, x.2 ||| b) else x else l ++ [(e, b)]) []

/-- A save that did not reach its place: the lanes it stands for, its private offset, the thread it grows, the outcome. -/
structure SaveFail where
  lanes : BitVec 32
  off : Nat
  tid : Nat
  why : Xlat
  deriving DecidableEq, Repr

/-- Pushes bytes onto the save area of the thread in a lane. -/
def State.pushSave (s : State) (lane : Nat) (bs : List Byte) : Xlat × Nat × State :=
  let t := s.me.thread lane
  let off := t.pushAt bs.length
  match s.saveBytes s.me.grid t off bs with
  | (.ok p, u) =>
    (.ok p, off, u.onMe fun g => g.onLanes (BitVec.ofNat 32 (2 ^ lane)) fun _ t => t.push bs.length)
  | (x, u) => (x, off, u)

/-- One lane becomes its inline child: its registers are saved, and it runs on with its arguments (R60). -/
def State.inlineOne (s : State) (w : LC) (acc : List SaveFail) (lane : Nat) : List SaveFail × State :=
  let t := s.me.thread lane
  match s.pushSave lane t.saveImage with
  | (.ok _, off, u) =>
    let ed := u.spawnEdge lane
    let f := ed.2.fresh
    (acc, f.2.onMe fun g => g.onLanes (BitVec.ofNat 32 (2 ^ lane)) fun _ x =>
      { x with
        v := argRegs (t.args w.b.toNat w.cnt.toNat) t.v.length
        inl := ⟨x.party, x.rank, x.spawnOrder, off⟩ :: x.inl
        party := Party.fresh f.1 ed.1
        rank := x.rank ++ [x.spawnOrder]
        spawnOrder := 0
        hasFrame := false })
  | (x, off, u) => (acc ++ [⟨BitVec.ofNat 32 (2 ^ lane), off, t.tid.toNat, x⟩], u)

/-- The top entry of the stack is that of an inline call of the lanes `m`, whose uniform save lies at `off`. -/
def Group.markInline (g : Group) (m : BitVec 32) (off : Nat) : Group :=
  match g.stack with
  | e :: r => { g with stack := { e with inl := some (m, off) } :: r }
  | [] => g

/-- The inline call of the lanes of a mask (R60): the entry, the uniform save, then each lane. -/
def State.inlineCall (s : State) (w : LC) (m : BitVec 32) : List SaveFail × State :=
  let g := s.me
  let t0 := (g.thread 0).tid.toNat
  let paths := inlinePaths g w.a m
  match s.pushEntry ⟨g.pc + BitVec.ofNat 64 (4 * lcLen w), g.cur, paths.drop 1, none, 0⟩ with
  | (.ok _, u) =>
    match u.pushSave 0 g.saveImage with
    | (.ok _, off, u2) =>
      let r := (lanesOf m).foldl (fun a i => a.2.inlineOne w a.1 i) (([] : List SaveFail), u2.onMe fun x => x.markInline m off)
      match paths with
      | p :: _ => (r.1, r.2.onMe fun g => { g with path := p.2, pc := p.1 })
      | [] => r
    | (x, off, u2) => ([⟨m, off, t0, x⟩], u2)
  | (x, u) => ([⟨m, (g.thread 0).pushAt 64, t0, x⟩], u)

/-- The denials among failed saves are logged, each of them (R408). -/
def State.logSaves (s : State) (fs : List SaveFail) : State :=
  fs.foldl (fun t f =>
    match f.why with
    | .denied (some y) => t.logDenial y.1 (t.master t.me.grid) y.2 .write
    | _ => t) s

/-- What a failed save raises (R22, R60, R97): PRIVATE_GROW for the inline lanes, which replay; `s` is the state in which the
lanes with frames have completed. -/
def State.inlineFail (s : State) (m : BitVec 32) (fs : List SaveFail) : State :=
  match fs.find? fun f => f.why != .fault with
  | some f =>
    let u := s.logSaves fs
    match f.why with
    | .fatal => u.privGrow true [(f.off, 0, f.lanes)] []
    | .denied _ => u.takeTrap cAccessDenied f.lanes f.off 0 0
    | x => u.xlatTrap x .write (u.master u.me.grid) f.lanes f.off
  | none =>
    let t := s.takeReplayable (fs.map fun f => (cPrivateGrow, f.off, 0, f.lanes)) (fs.map fun f => (f.tid, true, f.off))
    t.onMe fun g => if g.uid = s.me.uid then { g with heldItem := g.heldItem.map fun h => { h with mask := m } } else g

/-! SPAWN. -/

/-- The misuse of R55. -/
def State.spawnMisuse (s : State) (w : LC) : Bool :=
  decide (8 < w.cnt.toNat) || (decide (0 < w.cnt.toNat) && decide ((s.grid s.me.grid).v < w.b.toNat + w.cnt.toNat)) ||
  !(s.grid s.me.grid).flags.getLsbD 1

/-- The lanes that would run inline and whose registers, or the group's uniform ones, are poisoned: their save reads them (R60, R421). -/
def State.savePoison (s : State) (m : BitVec 32) : BitVec 32 :=
  if s.kPoison [(0, s.me.k.length)] then m else s.lanePoison m [(0, (s.grid s.me.grid).v)]

/-- A lane whose join counter cannot rise (R56). -/
def State.counterFull (s : State) (lane : Nat) : Bool :=
  match s.frameOf (s.me.thread lane) with
  | some f => decide (2 ^ 32 - 1 ≤ f.count)
  | none => false

/-- SPAWN (R54 to R60). -/
def execSpawn (w : LC) (s : State) : Result :=
  s.laneRun w.lxc ((w.a, 2) :: if w.cnt = 0 then [] else [(w.b, w.cnt.toNat)]) fun act =>
    let lanes := lanesOf act
    if act ≠ 0 ∧ s.spawnMisuse w = true then s.takeTrap cYardMisuse act 0 0 0
    else if lanes.any fun i => decide ((srcPair s.me (s.me.thread i) w.a).toNat % 4 ≠ 0) then s.takeTrap cMisaligned act 0 0 0
    else if lanes.any fun i => s.counterFull i then
      s.takeTrap cYardMisuse (act &&& maskOf fun i => s.counterFull i) 0 0 0
    else
      let r := lanes.foldl (fun (a : BitVec 32 × State) i =>
        if a.2.hasRoom i then (a.1, a.2.spawnOne w i) else (a.1 ||| BitVec.ofNat 32 (2 ^ i), a.2)) (0, s)
      if r.1 = 0 then r.2.switch (lcLen w) (occupancy false act) 0
      else if r.2.savePoison r.1 ≠ 0 then r.2.takeTrap cPoison (r.2.savePoison r.1) 0 0 0
      else
        let c := r.2.inlineCall w r.1
        if c.1.isEmpty then c.2.switchTo c.2.me.pc (occupancy false act) 0
        else (r.2.occupy (occupancy false act)).inlineFail r.1 c.1

end Sys2Proof.Machine
end

