-- ==== Sys2Proof/Machine/Futures.lean ====
section
/-! DEFINITION. Futures: FREAD and FFILL (R73 to R76). -/

namespace Sys2Proof.Machine

/-- The place under which a target's word keeps its atomic state, and the domain of a future there (R74). -/
def Target.future (t : Target) : Option (Loc × Nat) :=
  match t with
  | .glob (.win off) => some (winLoc off, 4)
  | .glob (.mem pa _) => some (.mem pa, 3)
  | .glob (.sys a) => some (.sys a, 3)
  | _ => none

/-- The current word of a future for a thread: the window's word, or the word's atomic value (R74). -/
def State.futureWord (s : State) (p : Party) (t : Target) : Dword :=
  match t with
  | .glob (.win off) => BitVec.ofNat 64 (Memory.num s.window off 8)
  | _ =>
    match t.future with
    | some (l, _) => s.atomRead s.me.grid p l 8
    | none => 0

/-- The words of a future are held in another domain (R76, R119). -/
def State.futureConflict (s : State) (t : Target) : Bool :=
  match t.future with
  | some (l, 3) => (atomWords l 8).any fun x => s.conflict x .home
  | _ => false

/-- A future word enters atomic state at its home (R74). -/
def State.futureEnter (s : State) (lane : Nat) (t : Target) (v : Dword) : State :=
  match t.future with
  | some (l, 3) =>
    let s1 := s.atomWrite s.me.grid l 8 .home v
    s1.onMe fun g => g.onLanes (BitVec.ofNat 32 (2 ^ lane)) fun _ x => { x with party := x.party.didAtomic (atomWords l 8) }
  | _ => s

/-- The outcome of one lane of FREAD or FFILL: a conflict of domains ends it as a cause that is not replayable. -/
def State.futureCheck (s : State) (a : Nat) : Check :=
  match s.checkGlobal a 8 .atomic with
  | .ok t => if s.futureConflict t then .stop cDomainConflict a none else .ok t
  | c => c

/-- Writes the 64-bit result of one lane. -/
def State.futureResult (s : State) (w : LR) (lane : Nat) (v : Dword) : State :=
  s.onMe fun g => g.onLanes (BitVec.ofNat 32 (2 ^ lane)) fun _ t => t.writePair w.d w.n v

/-- FREAD of one lane: the word enters atomic state, and a full one gives its value and the filler's edge. The mask collects
the lanes whose words are empty. -/
def State.freadOne (s : State) (w : LR) (lane : Nat) (t : Target) : BitVec 32 × State :=
  let v := s.futureWord (s.me.thread lane).party t
  let s1 := s.futureEnter lane t v
  if v.getLsbD 63 then
    let s2 : State := match t.future.bind fun x => s1.futures.find? fun f => f.1 == x.1 with
      | some f =>
        let r := s1.receiveShared (BitVec.ofNat 32 (2 ^ lane)) (f.2.2.foreign (s1.grid f.2.1) (s1.grid s1.me.grid))
        { r.2 with futures := r.2.futures.map fun (x : Loc × Nat × Edge) => if x.1 = f.1 then (x.1, x.2.1, { x.2.2 with rest := r.1.rest }) else x }
      | none => s1
    (0, s2.futureResult w lane v)
  else (BitVec.ofNat 32 (2 ^ lane), s1)

/-- The addresses of a wait-table entry (R75). -/
def waitKeys (outs : List (Nat × Nat × Target)) : List Nat :=
  outs.foldl (fun l x => if l.contains x.2.1 then l else l ++ [x.2.1]) []

/-- Entries of the issuing group's station. -/
def State.waitCount (s : State) : Nat := (s.waits.filter fun x => decide (x.1 / 2 ^ 32 = stationOf s.me.core)).length

/-- The group no longer waits in the table. -/
def State.dropWaits (s : State) (uid : Nat) : State := { s with waits := s.waits.filter fun x => x.1 % 2 ^ 32 != uid }

/-- Parks the group on the lanes whose words are empty (R74, R75): in the wait table for those outside the window, and polling where a
word lies in the window or the table has no room. A group that waits on more addresses than there are free entries takes none of them
and polls every word: the model's choice (assumption 110). -/
def State.freadPark (s : State) (left : BitVec 32) (outs : List (Nat × Nat × Target)) (occ : Nat) : State :=
  let mine := outs.filter fun x => left.getLsbD x.1
  let window (x : Nat × Nat × Target) : Bool := match x.2.2 with | .glob (.win _) => true | _ => false
  let keys := waitKeys (mine.filter fun x => !window x)
  let s1 := s.dropWaits s.me.uid
  if 1024 < s1.waitCount + keys.length then s1.parkMe (.future left true) occ
  else
    { s1 with waits := s1.waits ++ keys.map fun a => (stationOf s.me.core * 2 ^ 32 + s.me.uid, s.myCtx, a) }.parkMe
      (.future left (mine.any window)) occ

/-- The lanes an FREAD still reads: its active lanes, or those it is parked on. -/
def State.freadLanes (s : State) (act : BitVec 32) : BitVec 32 :=
  match s.me.park with
  | some (.future left _) => act &&& left
  | _ => act

/-- A held group replays these lanes too: those whose words were empty when others faulted. -/
def State.addMask (s : State) (uid : Nat) (m : BitVec 32) : State :=
  s.onMe fun g => if g.uid = uid then { g with heldItem := g.heldItem.map fun h => { h with mask := h.mask ||| m } } else g

/-- FREAD (R73, R74): the full lanes complete at once; the group leaves when every lane has. R208 names no latency of it; the model's is
that of a load (assumption 7). -/
def execFread (w : LR) (s : State) : Result :=
  s.laneRun w.lxc [(w.a, 2)] fun act0 =>
    let act := s.freadLanes act0
    let outs := (lanesOf act).map fun i => (i, s.futureCheck (srcPair s.me (s.me.thread i) w.a).toNat)
    let good := outs.filterMap fun x => match x.2 with
      | .ok t => some (x.1, (srcPair s.me (s.me.thread x.1) w.a).toNat, t)
      | _ => none
    let r := good.foldl (fun (a : BitVec 32 × State) x =>
      let y := a.2.freadOne w x.1 x.2.2
      (a.1 ||| y.1, y.2)) (0, s)
    let u := r.2.fillLanes (fun i => (srcPair s.me (s.me.thread i) w.a).toNat) outs
    if good.length ≠ outs.length then (u.finishLanes .atomic outs globalKey u).addMask s.me.uid r.1
    else if r.1 = 0 then
      ((u.clearV (if w.n = 1 ∨ 0x78 ≤ w.d.toNat then 0 else act) w.d.toNat 2).dropWaits s.me.uid).switch (lrLen w)
        (occupancy false act) (lanesLatency s.latency outs)
    else u.freadPark r.1 good (occupancy false act)

/-- FFILL of one lane: a second fill is a trap; the filled word carries the filler's edge (R74). -/
def State.ffillOne (s : State) (lane : Nat) (a : Nat) (t : Target) (payload : Dword) : Option State :=
  let v := s.futureWord (s.me.thread lane).party t
  if v.getLsbD 63 then none
  else
    let new := 0x8000000000000000 ||| (payload &&& 0x7FFFFFFFFFFFFFFF)
    let m := BitVec.ofNat 32 (2 ^ lane)
    let r := s.publishLanes m
    let e := r.1
    let s1 := r.2
    let s2 := match t with
      | .glob (.win off) => { s1 with window := Memory.putBytes s1.window off (natLe new.toNat 8) }
      | _ => s1.futureEnter lane t new
    let s3 := match t.future with
      | some (l, _) => { s2.forgetWord l with futures := (l, s2.me.grid, e) :: (s2.forgetWord l).futures }
      | none => s2
    let woken := (s3.waits.filter fun x => decide (x.2.1 = s3.myCtx ∧ x.2.2 = a)).map fun x => x.1 % 2 ^ 32
    let parked (g : Group) : Bool := match g.park with | some (.future _ _) => true | _ => false
    let waits (g : Group) : Bool := woken.contains g.uid && parked g
    let s4 := s3.wake waits
    let poll (p : Park) : Park := match p with | .future l _ => .future l true | q => q
    let turn (g : Group) : Group := if waits g then { g with park := g.park.map poll } else g
    some { s4 with groups := s4.groups.map turn, images := s4.images.map turn }

/-- FFILL (R73, R74). R208 names no latency of it; the model's is that of a store (assumption 7). -/
def execFfill (w : LR) (s : State) : Result :=
  s.laneRun w.lxc [(w.a, 2), (w.b, 2)] fun act =>
    let outs := (lanesOf act).map fun i => (i, s.futureCheck (srcPair s.me (s.me.thread i) w.a).toNat)
    let r := outs.foldl (fun (a : List (Nat × Check) × State) x =>
      match x.2 with
      | .ok t =>
        let va := (srcPair s.me (s.me.thread x.1) w.a).toNat
        match a.2.ffillOne x.1 va t (srcPair s.me (s.me.thread x.1) w.b) with
        | some u => (a.1 ++ [x], u)
        | none => (a.1 ++ [(x.1, Check.stop cDoubleFill va none)], a.2)
      | _ => (a.1 ++ [x], a.2)) ([], s)
    let u := r.2.fillLanes (fun i => (srcPair s.me (s.me.thread i) w.a).toNat) r.1
    if r.1.all fun x => x.2.isOk then u.switch (lrLen w) (occupancy false act) 8
    else u.finishLanes .atomic r.1 globalKey u

end Sys2Proof.Machine
end

