-- ==== Sys2Proof/Machine/Kv.lean ====
section
/-! DEFINITION. KV space: the root, the tuple checks, the walk (R171 to R175), KVX and KVINV (R177 to R179). -/

namespace Sys2Proof.Machine

/-! The root (R171). -/

def kvStab (r : List Byte) : Nat := recNum r 0x00 8
def kvNseq (r : List Byte) : Nat := recNum r 0x08 4
def kvEfmt (r : List Byte) : Nat := recNum r 0x0C 1
def kvNlay (r : List Byte) : Nat := recNum r 0x0D 1
def kvNhead (r : List Byte) : Nat := recNum r 0x0E 1

/-- Head dimension D. -/
def kvDim (r : List Byte) : Nat := 64 * (recNum r 0x0F 1 % 4 + 1)

/-- Bytes of an element (R172). -/
def kvEs (r : List Byte) : Nat := if kvEfmt r = 0x18 ∨ kvEfmt r = 0x19 then 2 else 1

/-- Frame size F (R172). -/
def kvFrame (r : List Byte) : Nat := 64 * kvDim r * kvEs r + (if kvEs r = 1 then 64 else 0)

/-- The fields of a root lie in their listed values (R171, R172). -/
def kvRootOk (r : List Byte) : Bool :=
  decide (kvStab r < 2 ^ 56 ∧ kvStab r % 32 = 0) && decide (1 ≤ kvNseq r ∧ kvNseq r ≤ 1048576) &&
  [0x18, 0x19, 0x13, 0x14, 0x0C].contains (kvEfmt r) && decide (kvNhead r < 64) &&
  decide (recNum r 0x0F 1 < 4) && (r.drop 0x10).all fun b => b == 0

/-! Tuples. -/

/-- A tuple (R173). -/
structure KvTuple where
  seq : Nat
  layer : Nat
  head : Nat
  pos : Nat
  kind : Nat
  deriving DecidableEq, Repr

/-- The tuple field of a trap record (R175). -/
def KvTuple.word (t : KvTuple) (reason : Nat) : Nat :=
  t.seq % 2 ^ 20 * 2 ^ 44 + t.layer * 2 ^ 36 + t.head * 2 ^ 30 + t.kind * 2 ^ 29 + reason * 2 ^ 27 + t.pos % 2 ^ 24

/-- The tuple checks (R174). -/
def KvTuple.ok (t : KvTuple) (r : List Byte) : Bool :=
  decide (t.seq < kvNseq r) && decide (t.layer ≤ kvNlay r) && decide (t.head ≤ kvNhead r) && decide (t.pos < 2 ^ 24)

/-- Offset of the tuple's first element in its frame (R177). -/
def KvTuple.elem (t : KvTuple) (r : List Byte) : Nat :=
  if t.kind = 0 then t.pos % 64 * kvDim r * kvEs r else t.pos % 64 * kvEs r

/-- Offset of the tuple's frame in its frame group (R173 step 5). -/
def KvTuple.frame (t : KvTuple) (r : List Byte) : Nat := (2 * t.head + t.kind) * kvFrame r

/-! The walk. -/

/-- Why a walk stops: a KV entry with its reason (R174) and address, or a read of a table that was not made. -/
inductive KvStop where
  | kv (reason va : Nat)
  | xlat (x : Xlat) (va : Nat)
  deriving DecidableEq, Repr

/-- Who walks: grid, context, access-table master, the view read through, and whether the walk is a replay (R173). -/
structure Walker where
  grid : Nat
  ctx : Nat
  master : Nat
  party : Party
  again : Bool
  deriving DecidableEq, Repr

/-- Bytes of a place as a replay sees them: over the view, what the host wrote since and no device store replaced (R173, R351,
R363, assumption 53). -/
def State.withFixes (s : State) (again : Bool) (p : Place) (bs : List Byte) : List Byte :=
  match again && !s.fixes.isEmpty, (Target.glob p).loc with
  | true, some l => (List.zip (l.span bs.length) bs).map fun x => (findByte x.1 s.fixes).getD x.2
  | _, _ => bs

/-- An entry of `n` bytes as the walker reads it. -/
def State.walkRead (s : State) (w : Walker) (va n : Nat) : Except KvStop (List Byte) :=
  if 2 ^ 56 ≤ va then .error (.xlat (.denied none) va)
  else
    match translate s w.ctx w.master va .read with
    | .ok p =>
      if s.poisonAt (.glob p) n then .error (.xlat .poison va)
      else .ok (s.withFixes w.again p (s.loadBytes w.grid w.party (.glob p) n))
    | x => .error (.xlat x va)

/-- Address of the Sequence Table entry. -/
def seqVa (r : List Byte) (seq : Nat) : Nat := kvStab r + 32 * seq

/-- Step 1 of R173: layer directory VA, LEN and RO. -/
def State.walkSeq (s : State) (w : Walker) (r : List Byte) (seq : Nat) : Except KvStop (Nat × Nat × Bool) :=
  (s.walkRead w (seqVa r seq) 32).bind fun e =>
    if recNum e 0x0C 4 % 2 = 0 then .error (.kv 3 (seqVa r seq))
    else .ok (field (recNum e 0 8) 3 53 * 8, recNum e 8 4, (recNum e 0x0C 4).testBit 1)

/-- One table entry with its V bit (R173 steps 2 to 4). -/
def State.walkEntry (s : State) (w : Walker) (va : Nat) : Except KvStop Nat :=
  (s.walkRead w va 8).bind fun e => if leNat e % 2 = 0 then .error (.kv 0 va) else .ok (leNat e)

/-- The address field [55:12] of an entry. -/
def entryVa (e : Nat) : Nat := field e 12 44 * 4096

/-- Steps 2 to 4 of R173: the frame group VA. -/
def State.walkTables (s : State) (w : Walker) (ldir layer b : Nat) : Except KvStop Nat :=
  (s.walkEntry w (ldir + 8 * layer)).bind fun d =>
    (s.walkEntry w (entryVa d + 8 * (b / 512))).bind fun l1 =>
      let va := entryVa l1 + 8 * (b % 512)
      (s.walkEntry w va).bind fun l2 => if l2.testBit 1 then .ok (entryVa l2) else .error (.kv 1 va)

/-! KVX. -/

/-- An entry of a core's KV TLB (R178): core, context, seq, layer, token block, frame group VA. -/
def State.tlbFind (s : State) (core ctx : Nat) (t : KvTuple) : Option Nat :=
  (s.kvTlb.find? fun e => decide (e.1 = core ∧ e.2.1 = ctx ∧ e.2.2.1 = t.seq ∧ e.2.2.2.1 = t.layer ∧ e.2.2.2.2.1 = t.pos / 64)).map
    fun e => e.2.2.2.2.2

/-- Fills a core's KV TLB of 256 entries; the oldest of a full TLB leaves. -/
def State.tlbFill (s : State) (core ctx : Nat) (t : KvTuple) (fg : Nat) : State :=
  if (s.tlbFind core ctx t).isSome then s
  else
    let mine := s.kvTlb.filter fun e => decide (e.1 = core)
    let keep := if mine.length < 256 then mine else mine.drop 1
    { s with kvTlb := (s.kvTlb.filter fun e => decide (e.1 ≠ core)) ++ keep ++ [(core, ctx, t.seq, t.layer, t.pos / 64, fg)] }

/-- The tuple a lane of KVX presents (R177). -/
def kvxTuple (g : Group) (w : LR) (i : Nat) : KvTuple :=
  let t := g.thread i
  let c := (srcVal g t (lxcC w.lxc)).toNat
  ⟨(srcVal g t w.a).toNat, field c 0 8, field c 8 6, (srcVal g t w.b).toNat, field c 14 1⟩

/-- Two tuples lie in one walk group (R178). -/
def KvTuple.walkGroup (a b : KvTuple) : Bool := decide (a.seq = b.seq ∧ a.layer = b.layer ∧ a.pos / 64 = b.pos / 64)

/-- The walk of a lane, made through the view of its walk group's lowest lane `lead` (R178): the frame group. Whether a lane is beyond LEN
is decided by its own position, which is the model's choice (assumption 103). -/
def State.kvxWalk (s : State) (r : List Byte) (t : KvTuple) (lead : Nat) : Except KvStop Nat :=
  let w : Walker := ⟨s.me.grid, s.myCtx, s.master s.me.grid, (s.me.thread lead).party,
    match s.me.heldItem with | some h => h.again | none => false⟩
  (s.walkSeq w r t.seq).bind fun e =>
    if e.2.1 ≤ t.pos then .error (.kv 2 (seqVa r t.seq))
    else
      match s.tlbFind s.me.core s.myCtx t with
      | some fg => .ok fg
      | none => s.walkTables w e.1 t.layer (t.pos / 64)

/-- What one lane of KVX finds: the VA of its element, or why not. -/
inductive KvLane where
  | denied
  | stop (k : KvStop)
  | addr (fg va : Nat)
  deriving DecidableEq, Repr

/-- One lane of KVX among the lanes of `act` (R178): the tuple check, the walk, the page walk of the frame (R100). -/
def State.kvxLane (s : State) (w : LR) (r : List Byte) (act : BitVec 32) (i : Nat) : KvLane :=
  let t := kvxTuple s.me w i
  if t.ok r = false then .denied
  else
    let peers := (lanesOf act).filter fun j => (kvxTuple s.me w j).ok r && (kvxTuple s.me w j).walkGroup t
    match s.kvxWalk r t (peers.headD i) with
    | .error e => .stop e
    | .ok fg =>
      let frame := fg + t.frame r
      if 2 ^ 56 ≤ frame then .denied
      else
        match translateBy s s.me.core s.myCtx (s.master s.me.grid) frame .read with
        | .ok _ => .addr fg (frame + t.elem r)
        | x => .stop (.xlat x frame)

/-- The outcome of a lane as R281 sorts outcomes. -/
def KvLane.check (k : KvLane) : Check :=
  match k with
  | .denied => .stop cAccessDenied 0 none
  | .stop (.kv _ va) => .wait cKvFault va []
  | .stop (.xlat x va) => x.check cPageFault va [] fun p => .ok (.glob p)
  | .addr _ va => .ok (.glob (.sys va))

/-- The tuple and reason that a trap record shows for a lane. -/
def KvLane.tuple (k : KvLane) (t : KvTuple) : Nat :=
  match k with
  | .stop (.kv r _) => t.word r
  | _ => 0

/-- Faults of lanes share a record where they name one token block, or one page of a table or frame (R387). -/
def KvLane.key (k : KvLane) (t : KvTuple) (va : Nat) : Nat :=
  match k with
  | .stop (.kv _ _) => (t.seq * 256 + t.layer) * 2 ^ 18 + t.pos / 64
  | _ => va / 65536

/-- The outcome of a lane of KVX, or of KVX.nf, where a failed walk is no fault (R178). -/
def KvLane.outcome (k : KvLane) (nf : Bool) : Check :=
  match k.check with
  | .wait c va g => if nf then .ok (.beyond 0 0) else .wait c va g
  | c => c

/-- What a lane of KVX writes: its pair and the fill of the KV TLB where its walk succeeded, and the predicate of the .nf form. -/
def State.kvxWrite (s : State) (w : LR) (nf : Bool) (t : KvTuple) (i : Nat) (k : KvLane) : State :=
  let m := BitVec.ofNat 32 (2 ^ i)
  match k with
  | .addr fg va =>
    let s1 := (s.tlbFill s.me.core s.myCtx t fg).fillTlb s.me.core s.myCtx (fg + t.frame ((s.grid s.me.grid).kvRoot.getD []))
    (s1.clearV (if w.n = 1 ∨ 0x78 ≤ w.d.toNat then 0 else m) w.d.toNat 2).onMe fun g => g.onLanes m fun _ y =>
      let z := y.writePair w.d w.n (BitVec.ofNat 64 va)
      if nf then z.setPred (lxcExt w.lxc % 8) true else z
  | _ => if nf && k.check.isWait then s.onMe fun g => g.onLanes m fun _ y => y.setPred (lxcExt w.lxc % 8) false else s

/-- Latency of KVX (R208, R286): 56 clk where every walk group hits the KV TLB, else that of four table reads (assumption 7). -/
def State.kvxLatency (s : State) (ts : List KvTuple) : Nat :=
  if ts.all fun t => (s.tlbFind s.me.core s.myCtx t).isSome then 56 else 224

/-- KVX and KVX.nf (R178, R286). -/
def State.kvxRun (s : State) (w : LR) (nf : Bool) : Result :=
  s.laneRun w.lxc [(w.a, 1), (w.b, 1), (lxcC w.lxc, 1)] fun act =>
    match (s.grid s.me.grid).kvRoot with
    | none => if act = 0 then s.switch (lrLen w) 8 0 else s.takeTrap cAccessDenied act 0 0 0
    | some r =>
      let tup (i : Nat) : KvTuple := kvxTuple s.me w i
      let ks := (lanesOf act).map fun i => (i, s.kvxLane w r act i)
      let s1 := ks.foldl (fun (t : State) x => t.kvxWrite w nf (tup x.1) x.1 x.2) s
      let outs := ks.map fun x => (x.1, x.2.outcome nf)
      let lane (i : Nat) : KvLane := ((ks.find? fun x => x.1 == i).map fun x => x.2).getD .denied
      s1.finishParts .read outs (groupParts (fun i va => (lane i).key (tup i) va) (fun i => (lane i).tuple (tup i)) outs)
        (s1.switch (lrLen w) (occupancy false act) (s.kvxLatency ((lanesOf act).map tup)))

def execKvx (w : LR) (s : State) : Result := s.kvxRun w false
def execKvxNf (w : LR) (s : State) : Result := s.kvxRun w true

/-- KVINV (R179, R334). -/
def execKvinv (w : UC) (s : State) : Result :=
  s.uniRun w.kx [] true
    ({ s with kvTlb := s.kvTlb.filter fun e => e.2.1 != s.myCtx }.switch (kxLen w.kx) 1 400)

end Sys2Proof.Machine
end

