-- ==== Sys2Proof/Machine/Planes.lean ====
section
/-! DEFINITION. Matrix operand formats: bit planes (R153 to R155), scales (R156), the exact block sum (R162), and the update of
an accumulator cell (R148, R149, R152). -/

namespace Sys2Proof.Machine

/-- The 14 matrix formats (R125). -/
def matrixFmt (code : Nat) : Bool :=
  [0x08, 0x09, 0x0A, 0x0B, 0x0C, 0x0D, 0x10, 0x11, 0x12, 0x13, 0x14, 0x18, 0x19, 0x1A].contains code

/-- Planes of a format (R153). -/
def planeCount (code : Nat) : Nat :=
  match fmtOf code with
  | some (.float f) => 2 + f.ebits + f.mbits
  | some (.int w _) => w
  | some .bin => 1
  | some .tern => 2
  | _ => 0

/-- Significand planes P of a format (R153). -/
def sigPlanes (code : Nat) : Nat :=
  match fmtOf code with
  | some (.float f) => f.mbits + 1
  | some (.int w _) => w
  | _ => 1

/-- Bits n−1 .. 0 of a number. -/
def bitsDown (x : Nat) : Nat → List Bool
  | 0 => []
  | n + 1 => x.testBit n :: bitsDown x n

/-- The number of bits given from the highest down. -/
def ofBitsDown (l : List Bool) : Nat := l.foldl (fun a b => 2 * a + bit b) 0

/-- Plane bits of an element's storage bits, plane 0 first (R153, R155). -/
def planeBits (code bits : Nat) : List Bool :=
  match fmtOf code with
  | some (.float f) =>
    let x := bits / 2 ^ f.low
    let e := x / 2 ^ f.mbits % 2 ^ f.ebits
    [x.testBit (f.ebits + f.mbits)] ++ bitsDown e f.ebits ++ [decide (e ≠ 0)] ++ bitsDown x f.mbits
  | some (.int w _) => bitsDown bits w
  | some .bin => [bits.testBit 0]
  | some .tern => [bits.testBit 0 && bits.testBit 1, bits.testBit 0]
  | _ => []

/-- The value of plane bits in a float format (R155). -/
def floatPlanes (f : FloatFmt) (s : Bool) (e h m : Nat) : Val :=
  if f.top = topIeee ∧ e = 2 ^ f.ebits - 1 then (if m = 0 then .inf s else .nan false)
  else if f.top = topE4m3 ∧ e = 2 ^ f.ebits - 1 ∧ m = 2 ^ f.mbits - 1 then .nan false
  else .num s (h * 2 ^ f.mbits + m) (((max e 1 : Nat) : Int) - f.bias - f.mbits)

/-- The value the array decodes from plane bits (R155). -/
def planeVal (code : Nat) (l : List Bool) : Val :=
  match fmtOf code with
  | some (.float f) =>
    floatPlanes f (nth l 0 false) (ofBitsDown ((l.drop 1).take f.ebits)) (bit (nth l (1 + f.ebits) false))
      (ofBitsDown (l.drop (2 + f.ebits)))
  | some (.int w s) => ofScaled (if s then signedOf w (ofBitsDown l) else (ofBitsDown l : Int)) 0 false
  | some .bin => .num (nth l 0 false) 1 0
  | some .tern => .num (nth l 0 false) (bit (nth l 1 false)) 0
  | _ => .num false 0 0

/-- Offset in a region of the byte of a plane that holds element (i, k) of K-block kb, `i` the row of A or column of B (R154). -/
def planeByte (pl kb p i k : Nat) : Nat := kb * pl * 256 + p * 256 + 4 * i + k / 8

/-- Bytes of scales per K-block (R156). -/
def scaleStride (bl : Nat) : Nat := if bl = 2 then 128 else 64

/-- Offset of the scale of row or column `i` for element `k` of K-block kb (R156). -/
def scaleByte (r : Resv) (kb i k : Nat) : Nat :=
  r.scaleOff + kb * scaleStride r.bl + (if r.bl = 2 then 2 * i + k / 16 else i)

/-- A scratchpad byte of a block as a party reads it. -/
def spadByte (g : Grid) (p : Party) (blk off : Nat) : Nat := (readByte g p (.spad blk off)).toNat

/-- The element (i, k) of an operand, as the array decodes it. -/
def operandVal (g : Grid) (p : Party) (blk : Nat) (r : Resv) (kb i k : Nat) : Val :=
  let pl := planeCount r.fmt
  planeVal r.fmt ((List.range pl).map fun n => (spadByte g p blk (r.off + planeByte pl kb n i k)).testBit (k % 8))

/-- Its scale: exactly 1 without a block length (R156). -/
def operandScale (g : Grid) (p : Party) (blk : Nat) (r : Resv) (kb i k : Nat) : Val :=
  if r.bl = 0 then .num false 1 0
  else fmtDecode (if r.e4m3Scale then .e4m3s else .e8m0) (spadByte g p blk (scaleByte r kb i k))

/-- A product of four exact values. -/
def mul4 (a sa b sb : Val) : Val := (mulVal (mulVal a sa).1 (mulVal b sb).1).1

/-- The exponent of the leading bit of a value that is not 0. -/
def leadExp (v : Val) : Option Int :=
  match v with
  | .num _ m e => if m = 0 then none else some (e + Nat.log2 m)
  | _ => none

/-- The largest leading exponent. -/
def maxLead (l : List Val) : Option Int :=
  l.foldl (fun a v => match a, leadExp v with | some x, some y => some (max x y) | none, y => y | x, none => x) none

/-- |p| cut to whole units of 2^q, with its sign, and whether bits were lost. -/
def cutTo (q : Int) (v : Val) : Int × Bool :=
  match v with
  | .num s m e =>
    let k := if q ≤ e then m * 2 ^ (e - q).toNat else m / 2 ^ (q - e).toNat
    (if s then -(k : Int) else k, decide (e < q) && decide (m % 2 ^ (q - e).toNat ≠ 0))
  | _ => (0, false)

def isInf (s : Bool) (v : Val) : Bool := match v with | .inf t => t == s | _ => false

/-- block_sum of R162 for FP36, with its ALN event. -/
def blockSum (ps : List Val) : Val × Bool :=
  if ps.any isNan || (ps.any (isInf true) && ps.any (isInf false)) then (.nan false, false)
  else if ps.any (isInf true) then (.inf true, false)
  else if ps.any (isInf false) then (.inf false, false)
  else
    match maxLead ps with
    | none => (.num false 0 0, false)
    | some emax =>
      let q := emax - 120
      (ofScaled ((ps.map fun v => (cutTo q v).1).foldl (fun a x => a + x) 0) q false, ps.any fun v => (cutTo q v).2)

/-- block_sum of R162 for INT36. -/
def blockInt (ps : List Val) : Int := (ps.map fun v => (cutTo 0 v).1).foldl (fun a x => a + x) 0

/-- What one K-block step does to a cell: the cell, and its OVF, NAN and ALN events (R148, R149, R152). -/
structure CellStep where
  cell : BitVec 36
  ovf : Bool
  nan : Bool
  aln : Bool
  deriving DecidableEq, Repr

/-- round36(c + S) (R148). -/
def fpCell (c : BitVec 36) (ps : List Val) : CellStep :=
  let b := blockSum ps
  let old := fp36.decode c.toNat
  let r := finish fp36 .rne (addVal .rne old b.1)
  let new := fp36.decode r.1
  let inf (v : Val) : Bool := isInf true v || isInf false v
  ⟨BitVec.ofNat 36 r.1, !inf old && !isNan old && inf new, !isNan old && isNan new, b.2⟩

/-- int36(c + S, SAT) (R149). -/
def intCell (sat : Bool) (c : BitVec 36) (ps : List Val) : CellStep :=
  let x := c.toInt + blockInt ps
  let b := intRange 36 true
  if x < b.1 then ⟨if sat then BitVec.ofInt 36 b.1 else BitVec.ofInt 36 x, true, false, false⟩
  else if b.2 < x then ⟨if sat then BitVec.ofInt 36 b.2 else BitVec.ofInt 36 x, true, false, false⟩
  else ⟨BitVec.ofInt 36 x, false, false, false⟩

/-- Integer matrix formats (R163). -/
def intMatrix (code : Nat) : Bool := [0x08, 0x09, 0x0A, 0x0B, 0x0C, 0x0D].contains code

/-- The tag of an MMA's accumulation format (R163): 2 INT36, 1 FP36. -/
def accTag (a b : Resv) : Nat := if intMatrix a.fmt && intMatrix b.fmt && a.bl == 0 && b.bl == 0 then 2 else 1

/-- Clk of a K-block step (R164). -/
def stepClk (a b : Resv) : Nat := max 1 ((sigPlanes a.fmt * sigPlanes b.fmt + 7) / 8)

end Sys2Proof.Machine
end

