-- ==== Sys2Proof/Machine/Matrix.lean ====
section
/-! DEFINITION. The matrix array: reservation slots (R157, R330), MMAs and their queues (R159 to R169), batches (R166), tile
counters and watermarks (R167, R168), and lane access to cells (R287, R288). -/

namespace Sys2Proof.Machine

/-! The operation buffer (R313). -/

/-- Operations and queued MMAs that a station holds: those of a saved block are in its image (R395), and a TCLR is none of them. -/
def State.buffered (s : State) (stn : Nat) : Nat :=
  (s.ops.filter fun o => decide (stationOf o.core = stn) && !(s.block o.blk).saved).length +
  (s.mmas.filter fun m => decide (stationOf m.core = stn) && m.clears.isNone && !(s.block m.blk).saved).length

/-- Another group has parked before the issuing one for a place in its station's buffer: its command enters first (R313). -/
def State.bufferAhead (s : State) : Bool :=
  (s.resident ++ s.images).any fun g => g.park == some .opBuffer && g.uid != s.me.uid && stationOf g.core == stationOf s.me.core &&
    !g.stopAsked && s.restorable g && (s.me.park.isNone || parkedBefore g s.me)

/-- The issuing group's station has no room for `n` more. -/
def State.bufferFull (s : State) (n : Nat) : Bool := decide (512 < s.buffered (stationOf s.me.core) + n) || s.bufferAhead

/-! Tiles of a block. -/

/-- Tile `t` of a block. -/
def State.tile (s : State) (blk t : Nat) : Tile := nth (s.block blk).tiles t Tile.fresh

/-- Changes a tile. -/
def State.onTile (s : State) (blk t : Nat) (f : Tile → Tile) : State :=
  s.onBlock blk fun b => { b with tiles := setNth b.tiles t (f (nth b.tiles t Tile.fresh)) }

/-- A cell of a tile. -/
def cellAt (cells : List (Nat × Nat × BitVec 36)) (i j : Nat) : BitVec 36 :=
  ((cells.find? fun c => c.1 == i && c.2.1 == j).map fun c => c.2.2).getD 0

/-- Writes a cell; a cell of 0 is not listed. -/
def putCellAt (cells : List (Nat × Nat × BitVec 36)) (i j : Nat) (v : BitVec 36) : List (Nat × Nat × BitVec 36) :=
  let rest := cells.filter fun c => !(c.1 == i && c.2.1 == j)
  if v = 0 then rest else (i, j, v) :: rest

/-- The bytes under which views carry a cell. -/
def cellBytes (v : BitVec 36) : List Byte := natLe v.toNat 5

/-- A party writes a cell. -/
def Party.writeCell (p : Party) (blk t i j : Nat) (v : BitVec 36) : Party := p.writeBytes (.acc blk t i j 0) (cellBytes v)

/-- The cell a party's view holds. -/
def viewCell (g : Grid) (p : Party) (blk t i j : Nat) : BitVec 36 :=
  BitVec.ofNat 36 (leNat (readBytes g p (.acc blk t i j 0) 5))

/-! Reservation slots. -/

/-- An MMA of the group's queue names a slot (R157). -/
def State.slotBusy (s : State) (uid slot : Nat) : Bool :=
  s.mmas.any fun m => m.group == uid && m.clears.isNone &&
    (field (nth m.cmd 0 0).toNat 0 3 == slot || field (nth m.cmd 0 0).toNat 3 3 == slot)

/-- Sets a slot of the issuing group. -/
def State.setSlot (s : State) (slot : Nat) (r : Option Resv) : State :=
  s.onMe fun g => { g with slots := setNth g.slots slot r }

/-- The record an MRES names (R330). -/
def mresOf (off len word scale : Word) : Resv where
  off := off.toNat
  len := len.toNat
  fmt := field word.toNat 0 8
  roleB := word.getLsbD 8
  bl := field word.toNat 9 2
  e4m3Scale := word.getLsbD 11
  scaleOff := scale.toNat

/-- The checks of MRES (R330). -/
def mresBad (sb : Nat) (r : Resv) (word : Word) : Bool :=
  decide (4096 ≤ word.toNat) || decide (r.bl = 3) || !matrixFmt r.fmt ||
  decide (r.off % 256 ≠ 0 ∨ r.len % 256 ≠ 0 ∨ r.len = 0) || decide (sb < r.off + r.len) ||
  (if r.bl = 0 then decide (r.scaleOff ≠ 0) || r.e4m3Scale else decide (r.scaleOff % 64 ≠ 0))

/-- MRES (R157, R330). -/
def execMres (w : UC) (s : State) : Result :=
  s.uniRun w.kx [(w.a.toNat, 2), (w.b.toNat, 2)] true
    (let word := kVal s.me w.b.toNat
    let r := mresOf (kVal s.me w.a.toNat) (kVal s.me (w.a.toNat + 1)) word (kVal s.me (w.b.toNat + 1))
    let slot := w.fn.toNat % 8
    if mresBad (s.block s.anchorBlk).sb r word then s.trapAll cMatrixForm 0
    else if (nth s.me.slots slot none).isSome && s.slotBusy s.me.uid slot then s.parkMe .resv
    else (s.setSlot slot (some r)).switch (kxLen w.kx) 1 7)

/-- MREL (R157). -/
def execMrel (w : UC) (s : State) : Result :=
  s.uniRun w.kx [] true
    (let slot := w.fn.toNat % 8
    if (nth s.me.slots slot none).isSome && s.slotBusy s.me.uid slot then s.parkMe .resv
    else (s.setSlot slot none).switch (kxLen w.kx) 1 7)

/-! MMA command blocks (R159). -/

def mmaKb (c : List Word) : Nat := field (nth c 0 0).toNat 16 16
def mmaSat (c : List Word) : Bool := (nth c 0 0).getLsbD 13
def mmaOw (c : List Word) : Bool := (nth c 0 0).getLsbD 12
def mmaTile (c : List Word) : Nat := field (nth c 0 0).toNat 6 6
def mmaBs (c : List Word) : Nat := field (nth c 0 0).toNat 3 3
def mmaAs (c : List Word) : Nat := field (nth c 0 0).toNat 0 3
def mmaKbb (c : List Word) : Nat := field (nth c 1 0).toNat 16 16
def mmaKba (c : List Word) : Nat := field (nth c 1 0).toNat 0 16
def mmaN (c : List Word) : Nat := field (nth c 2 0).toNat 8 7
def mmaM (c : List Word) : Nat := field (nth c 2 0).toNat 0 7

/-- A no-op (R161). -/
def mmaEmpty (c : List Word) : Bool := decide (mmaM c = 0 ∨ mmaN c = 0 ∨ mmaKb c = 0)

/-- Check 1 of R160. -/
def mmaFields (c : List Word) : Bool :=
  decide (field (nth c 0 0).toNat 14 2 ≠ 0 ∨ (nth c 2 0).toNat ≥ 2 ^ 15 ∨ (nth c 2 0).getLsbD 7 = true ∨ nth c 3 0 ≠ 0) ||
  decide (64 < mmaM c ∨ 64 < mmaN c)

/-- Check 5 of R160: the K-blocks of an operand end beyond its slot. -/
def mmaLong (r : Resv) (start kb : Nat) : Bool := decide (r.len < (start + kb) * planeCount r.fmt * 256)

/-- Check 6 of R160: the scales of an operand end beyond the scratchpad. -/
def mmaScales (r : Resv) (sb start kb : Nat) : Bool :=
  decide (r.bl ≠ 0) && decide (sb < r.scaleOff + (start + kb) * scaleStride r.bl)

/-- The checks of R160 for a group on a block. -/
def mmaBad (g : Group) (b : Block) (c : List Word) : Bool :=
  mmaFields c || decide (b.tiles.length ≤ mmaTile c) ||
  (!mmaEmpty c &&
    match nth g.slots (mmaAs c) none, nth g.slots (mmaBs c) none with
    | some ra, some rb =>
      ra.roleB || !rb.roleB || mmaLong ra (mmaKba c) (mmaKb c) || mmaLong rb (mmaKbb c) (mmaKb c) ||
      mmaScales ra b.sb (mmaKba c) (mmaKb c) || mmaScales rb b.sb (mmaKbb c) (mmaKb c) ||
      (!mmaOw c && decide ((nth b.tiles (mmaTile c) Tile.fresh).tag ≠ 0) &&
        decide ((nth b.tiles (mmaTile c) Tile.fresh).tag ≠ accTag ra rb))
    | _, _ => true)

/-! Queues. -/

/-- The MMAs and markers of a group, in issue order. -/
def State.queueOf (s : State) (uid : Nat) : List Mma := s.mmas.filter fun m => m.group == uid

/-- The copy an MMA follows has landed, or it follows none (R169, R328). -/
def mmaFree (m : Mma) : Bool := m.follows.isNone

/-- The array has made an MMA's steps, and its rows are being written (R164). -/
def Mma.writing (m : Mma) : Bool := m.running && decide (mmaKb m.cmd ≤ m.kdone)

/-- The group slot of an MMA's queue: that of its group as it stands now (R165). -/
def State.mmaSlot (s : State) (m : Mma) : Nat := ((s.allGroups.find? fun g => g.uid == m.group).map fun g => g.gslot).getD m.gslot

/-- A completed MMA (R107, R165). -/
def Mma.done (m : Mma) : MmaDone :=
  ⟨m.id, m.group, m.grid, m.batch, m.blk, mmaTile m.cmd, m.rows, m.party.sender (Rank.op m.group m.rankKey m.id)⟩

/-- Markers and empty MMAs at the head of a group's queue complete (R161, R168). -/
def State.drainQueue (s : State) (uid : Nat) : Nat → State
  | 0 => s
  | fuel + 1 =>
    match s.queueOf uid with
    | [] => s
    | m :: _ =>
      let rest := { s with mmas := s.mmas.filter fun x => x.id != m.id }
      match m.clears with
      | some t => ((rest.onTile m.blk t fun x => { x with ovf := 0, nan := 0, aln := 0 }).drainQueue uid fuel)
      | none =>
        if mmaEmpty m.cmd && mmaFree m then { rest with doneMmas := rest.doneMmas ++ [m.done] }.drainQueue uid fuel
        else s

/-- The groups that wait on matrix queues or tiles test again. -/
def State.wakeMatrix (s : State) : State :=
  s.wake fun g =>
    match g.park with
    | some .mwait => true
    | some .resv => true
    | some (.tile _) => true
    | some .queuePoint => true
    | _ => false

/-- Completes what stands at the head of a group's queue. -/
def State.settleQueue (s : State) (uid : Nat) : State := s.drainQueue uid ((s.queueOf uid).length + 1)

/-- An MMA takes the next place of the issuing group's queue and joins its open batch (R165, R166); a tile it will write takes
its tag and W = 0 (R163, R167). `party` is what it reads its operands through. -/
def State.pushMma (s : State) (c : List Word) (follows : Option Nat) (party : Party) (id : Nat) : State :=
  let g := s.me
  let blk := s.anchorBlk
  let ra := nth g.slots (mmaAs c) none
  let rb := nth g.slots (mmaBs c) none
  let m : Mma :=
    { id := id, group := g.uid, grid := g.grid, blk := blk, core := (s.block blk).home, gslot := g.gslot,
      tid := (g.thread (lowLane g.cur)).tid, pc := g.pc, batch := g.openBatch, cmd := c, a := ra, b := rb, follows := follows,
      party := party, rankKey := (g.thread (lowLane g.cur)).rank, running := false, kdone := 0, rows := 0, acc := [], due := 0,
      clears := none }
  let s1 := { s with mmas := s.mmas ++ [m] }
  let s2 := if mmaEmpty c then s1
    else s1.onTile blk (mmaTile c) fun t =>
      { t with water := 0, lastMma := id, tag := match ra, rb with | some x, some y => accTag x y | _, _ => t.tag }
  s2.settleQueue g.uid

/-- The words of a command block. -/
def Group.blockWords (g : Group) (a n : Nat) : List Word := (List.range n).map fun i => kVal g (a + i)

/-- MMA (R162, R331). -/
def execMma (w : UC) (s : State) : Result :=
  s.uniRun w.kx [(w.a.toNat, 4)] true
    (let c := s.me.blockWords w.a.toNat 4
    if mmaBad s.me (s.block s.anchorBlk) c then s.trapAll cMatrixForm 0
    else if s.bufferFull 1 then s.parkMe .opBuffer
    else
      let e := s.sendLanes s.me.cur
      let f := e.2.fresh
      (f.2.pushMma c none (Party.fresh f.1 e.1) f.1).switch (kxLen w.kx) 1 7)

/-- MFEN (R331). -/
def execMfen (w : UC) (s : State) : Result :=
  s.uniRun w.kx [] true
    ((s.onMe fun g => { g.setK w.a.toNat (BitVec.ofNat 32 (g.openBatch % 65536)) with openBatch := g.openBatch + 1 }).switch
      (kxLen w.kx) 1 7)

/-- How far the batch of number `n` lies behind the open batch (R166): batches are counted on, and their numbers are modulo 2^16. -/
def Group.batchAge (g : Group) (n : Nat) : Nat := (g.openBatch % 65536 + 65536 - n % 65536) % 65536

/-- The batch counted `n` lies no later than the one that stands `d` behind the open batch. -/
def Group.waitedFor (g : Group) (d n : Nat) : Bool := decide (n + d ≤ g.openBatch)

/-- MWAIT (R166): the batch completion edge. -/
def execMwait (w : UC) (s : State) : Result :=
  s.uniRun w.kx [(w.a.toNat, 1)] true
    (let g := s.me
    let d := g.batchAge ((kVal g w.a.toNat).toNat % 65536)
    if d = 0 ∨ 32768 ≤ d then s.trapAll cMatrixForm 0
    else if (s.queueOf g.uid).any fun m => m.clears.isNone && g.waitedFor d m.batch then s.parkMe .mwait
    else
      let ss := (s.doneMmas.filter fun m => m.group == g.uid && g.waitedFor d m.batch).map fun m => m.sender
      ((s.receiveLanes g.cur ⟨ss, [], none⟩).foldSent ss).switch (kxLen w.kx) 1 0)

/-! Tile counters and watermarks. -/

/-- The latency of a watermark read (R313): home core or remote. -/
def State.tileLatency (s : State) : Nat := if (s.block s.anchorBlk).home = s.me.core then 23 else 63

/-- TWM (R331). -/
def execTwm (w : UF) (s : State) : Result :=
  s.uniRun w.kx [] true
    (let b := s.block s.anchorBlk
    if b.tiles.length ≤ w.b.toNat then s.trapAll cMatrixForm 0
    else (s.onMe fun g => g.setK w.a.toNat (BitVec.ofNat 32 (s.tile b.uid w.b.toNat).water)).switch (kxLen w.kx) 1 s.tileLatency)

/-- TSTAT (R168, R331). -/
def execTstat (w : UF) (s : State) : Result :=
  s.uniRun w.kx [] true
    (let b := s.block s.anchorBlk
    if b.tiles.length ≤ w.b.toNat then s.trapAll cMatrixForm 0
    else if (s.queueOf s.me.uid).isEmpty = false then s.parkMe .queuePoint
    else
      let t := s.tile b.uid w.b.toNat
      ((s.clearK w.a.toNat 2).onMe fun g =>
        g.setKs w.a.toNat [BitVec.ofNat 32 (t.ovf + 65536 * t.nan), BitVec.ofNat 32 t.aln]).switch (kxLen w.kx) 1 s.tileLatency)

/-- TCLR (R168, R331): a marker of the group's queue. -/
def execTclr (w : UF) (s : State) : Result :=
  s.uniRun w.kx [] true
    (let g := s.me
    let b := s.block s.anchorBlk
    if b.tiles.length ≤ w.b.toNat then s.trapAll cMatrixForm 0
    else
      let f := s.fresh
      let m : Mma :=
        { id := f.1, group := g.uid, grid := g.grid, blk := b.uid, core := b.home, gslot := g.gslot, tid := 0, pc := g.pc,
          batch := g.openBatch, cmd := [], a := none, b := none, follows := none, party := Party.empty f.1, rankKey := [],
          running := false, kdone := 0, rows := 0, acc := [], due := 0, clears := some w.b.toNat }
      ({ f.2 with mmas := f.2.mmas ++ [m] }.settleQueue g.uid).switch (kxLen w.kx) 1 7)

/-! The array. -/

/-- Adds to a numeric counter of a grid's fault domain (R419). -/
def State.addAgg (s : State) (h i n : Nat) : State :=
  let d := s.fdOf h
  let row := nth s.fleet.numagg d []
  { s with fleet := { s.fleet with
      numagg := setNth s.fleet.numagg d (setNth row i (BitVec.ofNat 64 (min (2 ^ 64 - 1) ((nth row i 0).toNat + n)))) } }

/-- The product list of cell (i, j) in step `n` (R162). -/
def mmaProducts (g : Grid) (m : Mma) (ra rb : Resv) (n i j : Nat) : List Val :=
  (List.range 32).map fun k =>
    mul4 (operandVal g m.party m.blk ra (mmaKba m.cmd + n) i k) (operandScale g m.party m.blk ra (mmaKba m.cmd + n) i k)
      (operandVal g m.party m.blk rb (mmaKbb m.cmd + n) j k) (operandScale g m.party m.blk rb (mmaKbb m.cmd + n) j k)

/-- One K-block step on the cells an MMA has reached (R162): the cells and the step's events. -/
def mmaStep (g : Grid) (m : Mma) (ra rb : Resv) (n : Nat) (cells : List (Nat × Nat × BitVec 36)) :
    List (Nat × Nat × BitVec 36) × Bool × Bool × Bool :=
  let pos := ((List.range (mmaM m.cmd)).map fun i => (List.range (mmaN m.cmd)).map fun j => (i, j)).flatten
  let one (x : Nat × Nat) : CellStep :=
    let ps := mmaProducts g m ra rb n x.1 x.2
    let c := if n = 0 ∧ mmaOw m.cmd = true then 0 else cellAt cells x.1 x.2
    if accTag ra rb = 2 then intCell (mmaSat m.cmd) c ps else fpCell c ps
  let rs := pos.map fun x => (x, one x)
  (rs.foldl (fun l r => putCellAt l r.1.1 r.1.2 r.2.cell) cells,
    rs.any fun r => r.2.ovf, rs.any fun r => r.2.nan, rs.any fun r => r.2.aln)

/-- A counter after a step. -/
def count16 (x : Nat) (b : Bool) : Nat := min 0xFFFF (x + bit b)

/-- Replaces an MMA. -/
def State.putMma (s : State) (m : Mma) : State := { s with mmas := s.mmas.map fun x => if x.id = m.id then m else x }

/-- K-block steps of an MMA until its cursor stands at `stop` (R162, R170). -/
def State.mmaAdvance (s : State) (m : Mma) (stop : Nat) : Nat → Mma × State
  | 0 => (m, s)
  | fuel + 1 =>
    if stop ≤ m.kdone then (m, s)
    else
      match m.a, m.b with
      | some ra, some rb =>
        let r := mmaStep (s.grid m.grid) m ra rb m.kdone m.acc
        let s1 := s.onTile m.blk (mmaTile m.cmd) fun t =>
          { t with ovf := count16 t.ovf r.2.1, nan := count16 t.nan r.2.2.1, aln := count16 t.aln r.2.2.2 }
        let s2 := ((s1.addAgg m.grid 0 (bit r.2.1)).addAgg m.grid 1 (bit r.2.2.1)).addAgg m.grid 2 (bit r.2.2.2)
        s2.mmaAdvance { m with acc := r.1, kdone := m.kdone + 1 } stop fuel
      | _, _ => (m, s)

/-- The MMAs that stand next in the queues of a core, behind what is being written back (R164, R165, R169). -/
def State.heads (s : State) (core : Nat) : List Mma :=
  (s.mmas.filter fun m => decide (m.core = core) && m.clears.isNone && mmaFree m && !mmaEmpty m.cmd && !m.running &&
    !s.still m.blk).filter fun m =>
    (((s.queueOf m.group).find? fun x => !x.writing).map fun x => x.id) == some m.id

/-- How far a group slot lies after the one served last. -/
def afterServed (last gslot : Nat) : Nat := (gslot + 1023 - last) % 1024

/-- The head whose slot comes next; `slot` gives the slot of an MMA's queue. -/
def nextHead (slot : Mma → Nat) (last : Nat) : List Mma → Option Mma
  | [] => none
  | m :: r =>
    match nextHead slot last r with
    | some x => some (if keyLt [afterServed last (slot x), x.id] [afterServed last (slot m), m.id] then x else m)
    | none => some m

/-- The slot a core's array served last. -/
def State.lastServed (s : State) (core : Nat) : Nat := ((s.arrays.find? fun x => x.1 == core).map fun x => x.2).getD 1023

/-- The MMA whose steps a core's array makes. -/
def State.stepping (s : State) (core : Nat) : Option Mma := s.mmas.find? fun m => decide (m.core = core) && m.running && !m.writing

/-- The MMAs of a core whose rows are being written. -/
def State.writebacks (s : State) (core : Nat) : List Mma := s.mmas.filter fun m => decide (m.core = core) && m.writing

/-- The head that is served next: one that a pre-emption saved between two steps goes on before any other begins (R170), else the head
whose slot comes next (R165). -/
def State.nextServed (s : State) (core : Nat) : Option Mma :=
  match (s.heads core).find? fun m => decide (0 < m.kdone) with
  | some m => some m
  | none => nextHead s.mmaSlot (s.lastServed core) (s.heads core)

/-- The MMA a core's array takes next: the array makes no steps, and one write-back at most goes on, of another tile (R164, R165). -/
def State.nextMma (s : State) (core : Nat) : Option Mma :=
  if (s.stepping core).isSome || decide (1 < (s.writebacks core).length) then none
  else (s.nextServed core).filter fun m =>
    (s.writebacks core).all fun x => !decide (x.blk = m.blk ∧ mmaTile x.cmd = mmaTile m.cmd)

/-- Clk of a step of an MMA (R164). -/
def Mma.clk (m : Mma) : Nat := match m.a, m.b with | some x, some y => stepClk x y | _, _ => 1

/-- What an MMA of a queue receives by queue order (R115): the earlier MMAs of the queue, those whose rows are still being written
among them. -/
def State.queueSenders (s : State) (m : Mma) : List Sender :=
  (s.doneMmas.filter fun d => d.group == m.group).map (fun d => d.sender) ++
  ((s.queueOf m.group).filter fun x => x.writing && x.id != m.id).map fun x => x.party.sender (Rank.op x.group x.rankKey x.id)

/-- MMAs that are writing back and have sent fold their writes (R109). -/
def State.foldRunning (s : State) (ss : List Sender) : State :=
  { s with mmas := s.mmas.map fun m => if ss.any (fun x => x.q.pid == m.party.pid) then { m with party := m.party.fold } else m }

/-- The first poisoned byte of `n` bytes of a block's scratchpad (R421). -/
def State.firstPoison (s : State) (blk lo n : Nat) : Option Nat :=
  s.poison.foldl (fun a p =>
    match p with
    | .spad b w => if b = blk ∧ lo < 8 * w + 8 ∧ 8 * w < lo + n then some (min (max lo (8 * w)) (a.getD (lo + n))) else a
    | _ => a) none

/-- A poisoned byte of the K-block of an operand that step `n` reads: its planes, or its scales. -/
def State.operandPoison (s : State) (blk : Nat) (r : Resv) (b : Nat) : Option Nat :=
  match s.firstPoison blk (r.off + b * planeCount r.fmt * 256) (planeCount r.fmt * 256) with
  | some x => some x
  | none => if r.bl = 0 then none else s.firstPoison blk (r.scaleOff + b * scaleStride r.bl) (scaleStride r.bl)

/-- A poisoned byte in what step `n` of an MMA reads of its operands (R421): its scratchpad offset. -/
def State.stepPoison (s : State) (m : Mma) (n : Nat) : Option Nat :=
  if s.poison.isEmpty then none
  else
    match m.a.bind (fun r => s.operandPoison m.blk r (mmaKba m.cmd + n)), m.b.bind fun r => s.operandPoison m.blk r (mmaKbb m.cmd + n) with
    | some x, _ => some x
    | none, y => y

/-- The same for the `k` steps from the cursor on. -/
def State.mmaPoison (s : State) (m : Mma) : Nat → Option Nat
  | 0 => none
  | k + 1 => match s.mmaPoison m k with | some x => some x | none => s.stepPoison m (m.kdone + k)

/-- Words of 64 bits that the first `n` cells of a tile row touch, and that they cover (R93). -/
def cellsTouch (n : Nat) : Nat := (36 * n + 63) / 64
def cellsCover (n : Nat) : Nat := 36 * n / 64

/-- A poisoned word among the cells that an MMA starts from: it reads none of them with OW (R162, R170, R421). -/
def State.cellPoison (s : State) (m : Mma) : Bool :=
  (!mmaOw m.cmd || decide (0 < m.kdone)) && s.poison.any fun p =>
    match p with
    | .row b t i w => decide (b = m.blk ∧ t = mmaTile m.cmd ∧ i < mmaM m.cmd ∧ w < cellsTouch (mmaN m.cmd))
    | _ => false

/-- Poison consumed by the array stops the MMA's fault domain (R421, R396). -/
def State.mmaAbort (s : State) (m : Mma) (va : Nat) : State :=
  let g := s.grid m.grid
  s.takeFatal
    { fd := g.fd, async := true, cause := cPoison, ctx := g.ctx, handle := m.grid, core := m.core,
      stn := stationOf m.core, gslot := m.gslot, time := s.now, pc := m.pc.toNat, tid := m.tid.toNat, va := va,
      unitValid := true, unit := stationOf m.core, kind := 4 }

/-- MMA_START (R165): the array takes the next head, which receives the edges of the earlier MMAs of its queue (R115) and starts from
the tile's cells; one that a pre-emption saved goes on at its cursor (R170). -/
def execMmaStart (core : Nat) (s : State) : Result :=
  .next (match s.nextMma core with
    | none => s
    | some m =>
      if s.cellPoison m then s.mmaAbort m 0
      else
        let ss := s.queueSenders m
        let e := s.edge ss []
        let m1 := { m with running := true, party := if ss.isEmpty then m.party else m.party.receive e,
                           acc := (s.tile m.blk (mmaTile m.cmd)).cells,
                           due := s.now + if m.kdone < mmaKb m.cmd then m.clk else 1 }
        { (((s.settleEdge e).foldSent ss).foldRunning ss).putMma m1 with
          arrays := (core, s.mmaSlot m) :: s.arrays.filter fun x => x.1 != core })

/-- Rows lo .. hi−1 of an MMA's cells. -/
def rowsOf (lo hi : Nat) (cells : List (Nat × Nat × BitVec 36)) (m n : Nat) : List (Nat × Nat × BitVec 36) :=
  ((List.range m).map fun i => (List.range n).map fun j => (i, j, cellAt cells i j)).flatten.filter fun c =>
    decide (lo ≤ c.1 ∧ c.1 < hi)

/-- Writes cells to a tile. -/
def Tile.putCells (t : Tile) (cs : List (Nat × Nat × BitVec 36)) : Tile :=
  { t with cells := cs.foldl (fun l c => putCellAt l c.1 c.2.1 c.2.2) t.cells }

/-- Rows written from their first cell on clear the marks of the words they cover (R421). -/
def State.clearRows (s : State) (blk t lo hi n : Nat) : State :=
  if s.poison.isEmpty then s
  else { s with poison := s.poison.filter fun p =>
    match p with
    | .row b u i w => !decide (b = blk ∧ u = t ∧ lo ≤ i ∧ i < hi ∧ w < cellsCover n)
    | _ => true }

/-- Eight rows of the write-back, and the end of the MMA after the last (R167). -/
def State.writeRows (s : State) (m : Mma) : State :=
  let tile := mmaTile m.cmd
  let rows := min (mmaM m.cmd) (m.rows + 8)
  let cs := rowsOf m.rows rows m.acc (mmaM m.cmd) (mmaN m.cmd)
  let m1 := { m with rows := rows, party := cs.foldl (fun (p : Party) (c : Nat × Nat × BitVec 36) => p.writeCell m.blk tile c.1 c.2.1 c.2.2) m.party }
  let last := rows = mmaM m.cmd
  let s1 := ((s.onTile m.blk tile fun t =>
      let u := t.putCells cs
      if t.lastMma = m.id then { u with water := if last then 64 else rows } else u).clearRows m.blk tile m.rows rows
        (mmaN m.cmd)).putMma { m1 with due := s.now + 1 }
  let s2 := if last then
      { s1 with mmas := s1.mmas.filter fun x => x.id != m.id, doneMmas := s1.doneMmas ++ [m1.done] }.settleQueue m.group
    else s1
  s2.wakeMatrix

/-- The clk after which the rows of an MMA that has made its steps may be written: one write-back follows another (R164). -/
def State.writeFrom (s : State) (core : Nat) : Nat :=
  (s.writebacks core).foldl (fun a x => max a (x.due + (mmaM x.cmd - x.rows + 7) / 8 - 1)) s.now

/-- The array completes a K-block step (R162, R164): its events count at this moment (R420). -/
def State.arrayStep (s : State) (core : Nat) : State :=
  match s.stepping core with
  | none => s
  | some m =>
    match s.mmaPoison m 1 with
    | some va => s.mmaAbort m va
    | none =>
      let r := s.mmaAdvance m (m.kdone + 1) 1
      r.2.putMma { r.1 with due := if r.1.kdone < mmaKb m.cmd then s.now + m.clk else s.writeFrom core + 1 }

/-- The MMA of a core whose rows are written next: that which began first. -/
def State.firstWriteback (s : State) (core : Nat) : Option Mma :=
  (s.writebacks core).foldl (fun (a : Option Mma) m =>
    match a with
    | none => some m
    | some x => if m.due < x.due then some m else some x) none

/-- MMA_WRITEBACK (R162, R167): eight rows of the MMA that is being written back; where there is none, the steps that the running one
lacks come first. -/
def execMmaWriteback (core : Nat) (s : State) : Result :=
  .next (match s.firstWriteback core, s.stepping core with
    | some m, _ => s.writeRows m
    | none, some m =>
      match s.mmaPoison m (mmaKb m.cmd - m.kdone) with
      | some va => s.mmaAbort m va
      | none =>
        let r := s.mmaAdvance m (mmaKb m.cmd) (mmaKb m.cmd)
        r.2.writeRows r.1
    | none, none => s)

/-! Cells by lane (R287, R288). -/

/-- The selector of a lane: tile, row, column. -/
def cellSel (x : Word) : Nat × Nat × Nat := (field x.toNat 12 6, field x.toNat 6 6, field x.toNat 0 6)

/-- The senders of the row-final edge of a row (R107). -/
def State.rowSenders (s : State) (blk t i : Nat) : List Sender :=
  (s.doneMmas.filter fun m => decide (m.blk = blk ∧ m.tile = t ∧ i < m.rows)).map (fun m => m.sender) ++
  (s.mmas.filter fun m => decide (m.blk = blk ∧ m.clears = none ∧ mmaTile m.cmd = t ∧ i < m.rows)).map fun m =>
    m.party.sender (Rank.op m.group m.rankKey m.id)

/-- A cell byte that an ACST of the group wrote after the row had been written: what the row-final edge sends of it, directly or as a
value its senders carry, happens before (R288). -/
def laterCell (ss : List Sender) (blk t i : Nat) (c : VCell) : Bool :=
  match c.loc with
  | .acc b u r _ _ => decide (b = blk ∧ u = t ∧ r = i) &&
      ss.all fun x =>
        match findByte c.loc x.writes, findCell c.loc x.view with
        | some _, _ => x.q.before c.by_
        | none, some d => d.by_ == c.by_ || d.by_.before c.by_
        | none, none => true
  | _ => false

/-- The party sees these cells again. -/
def Party.keep (p : Party) (cs : List VCell) : Party := { p with view := cs.foldl (fun v c => putCell c v) p.view }

/-- A lane takes the row-final edge of a row; what ACSTs of its group have written there since stays (R288). -/
def State.receiveRow (s : State) (lane blk t i : Nat) : State :=
  let ss := s.rowSenders blk t i
  let p := (s.me.thread lane).party
  let m := BitVec.ofNat 32 (2 ^ lane)
  if ss.isEmpty then s
  else (((s.receiveLanes m ⟨ss, [], none⟩).onMe fun g => g.onLanes m fun _ x =>
    { x with party := x.party.keep (p.view.filter fun c => laterCell ss blk t i c && (findByte c.loc p.pend).isNone) }).foldSent
      ss).foldRunning ss

/-- What ACLD makes of a cell (R287). -/
def acldValue (kind tag : Nat) (r : Rnd) (c : BitVec 36) : Dword × Ev :=
  let x := fp36.decode c.toNat
  match kind with
  | 0 => let y := roundTo fp32 r false (if tag = 2 then ofScaled c.toInt 0 false else x); (BitVec.ofNat 64 y.1, y.2)
  | 1 =>
    let y := if tag = 2 then intToInt 36 32 true (ofScaled c.toInt 0 false) else deliver (.int 32 true) r false x
    (BitVec.ofNat 64 y.1, y.2)
  | _ => (c.setWidth 64, Ev.none)

/-- What ACST makes of a register (R287): the cell, the tag it leaves, the events. -/
def acstValue (kind tag : Nat) (x : Dword) : BitVec 36 × Nat × Ev :=
  match kind with
  | 0 => let y := roundTo fp36 .rne false (fp32.decode (x.toNat % 2 ^ 32)); (BitVec.ofNat 36 y.1, 1, y.2)
  | 1 => ((x.setWidth 32).signExtend 36, 2, Ev.none)
  | _ => (x.setWidth 36, tag, Ev.none)

/-- ACLD of one lane. -/
def State.acldLane (s : State) (w : LR) (i : Nat) : State :=
  let t := s.me.thread i
  let c := cellSel (srcVal s.me t w.a)
  let kind := lxcExt w.lxc / 16
  let m := BitVec.ofNat 32 (2 ^ i)
  let s1 := s.receiveRow i t.blk c.1 c.2.1
  let v := acldValue kind (s1.tile t.blk c.1).tag (arithMode s1.me (lxcExt w.lxc))
    (viewCell (s1.grid s1.me.grid) (s1.me.thread i).party t.blk c.1 c.2.1 c.2.2)
  let s2 := s1.addEv s1.me.grid t.blk (stationOf s1.me.core) v.2
  if kind = 2 then
    (s2.clearV (if w.n = 1 ∨ 0x78 ≤ w.d.toNat then 0 else m) w.d.toNat 2).onMe fun g => g.onLanes m fun _ y => y.writePair w.d w.n v.1
  else s2.onMe fun g => g.onLanes m fun _ y => y.writeBack w.d w.n (v.1.setWidth 32)

/-- The other lanes of the group see the cell a lane wrote (R288), beneath what they wrote there in their own quantum (R105). -/
def Party.seeCell (p : Party) (q : Quantum) (blk t i j : Nat) (v : BitVec 36) : Party :=
  { p with view := (List.zip ((Loc.acc blk t i j 0).span 5) (cellBytes v)).foldl (fun a x => putCell ⟨x.1, x.2, q⟩ a) p.view }

/-- The quantum as one that comes after what senders have written. -/
def Quantum.after (q : Quantum) (ss : List Sender) : Quantum :=
  { q with seen := ss.foldl (fun a x => raiseCount x.q.pid (x.q.k + 1) a) q.seen }

/-- ACST of one lane: the row it writes has been written by its MMAs before (R288). -/
def State.acstLane (s : State) (w : LR) (i : Nat) : State :=
  let t := s.me.thread i
  let c := cellSel (srcVal s.me t w.a)
  let kind := lxcExt w.lxc / 16
  let v := acstValue kind (s.tile t.blk c.1).tag (if kind = 2 then srcPair s.me t w.b else (srcVal s.me t w.b).setWidth 64)
  let q := t.party.quantum.after (s.rowSenders t.blk c.1 c.2.1)
  let s1 := s.onTile t.blk c.1 fun x => { x with cells := putCellAt x.cells c.2.1 c.2.2 v.1, tag := v.2.1 }
  (s1.onMe fun g => g.onAll fun l y =>
    if l = i then { y with party := y.party.writeCell t.blk c.1 c.2.1 c.2.2 v.1 }
    else { y with party := y.party.seeCell q t.blk c.1 c.2.1 c.2.2 v.1 }).addEv s.me.grid t.blk (stationOf s.me.core) v.2.2

/-- ACLD and ACST (R288): the lanes whose tiles exist wait for their rows and complete; then the others trap. -/
def State.cellRun (s : State) (w : LR) (srcs : List (BitVec 8 × Nat)) (store : Bool) (f : State → Nat → State) : Result :=
  s.laneRun w.lxc srcs fun act =>
    let sel (i : Nat) : Nat × Nat × Nat := cellSel (srcVal s.me (s.me.thread i) w.a)
    let bad := match s.me.park with
      | some (.tile m) => m
      | _ => act &&& maskOf fun i => decide ((s.block (s.me.thread i).blk).tiles.length ≤ (sel i).1)
    let good := act &&& ~~~bad
    let waits := (lanesOf good).any fun i => decide ((s.tile (s.me.thread i).blk (sel i).1).water ≤ (sel i).2.1)
    let sick := good &&& maskOf fun i => !store && s.poison.any fun p =>
      match p with
      | .row b t r x => decide (b = (s.me.thread i).blk ∧ t = (sel i).1 ∧ r = (sel i).2.1 ∧
          36 * (sel i).2.2 / 64 ≤ x ∧ x ≤ (36 * (sel i).2.2 + 35) / 64)
      | _ => false
    let lat := (lanesOf good).foldl (fun a i => max a (s.homeLatency (s.me.thread i).blk)) 24
    if waits then s.parkMe (.tile bad) (occupancy false act)
    else
      let s1 := (lanesOf (good &&& ~~~sick)).foldl f s
      let lost := sick ||| bad
      if lost = 0 then s1.switch (lrLen w) (occupancy false act) lat
      else s1.takeTrap (if sick.getLsbD (lowLane lost) then cPoison else cMatrixForm) lost 0 0 0

/-- ACLD, ACST (R288). -/
def execAcld (w : LR) (s : State) : Result := s.cellRun w [(w.a, 1)] false fun t i => t.acldLane w i
def execAcst (w : LR) (s : State) : Result :=
  s.cellRun w [(w.a, 1), (w.b, if lxcExt w.lxc / 16 = 2 then 2 else 1)] true fun t i => t.acstLane w i

end Sys2Proof.Machine
end

