-- ==== Sys2Proof/Machine/Run.lean ====
section
/-! DEFINITION. What an engine operation does with its data (R314 to R321, R335, R336, R158, R180 to R182): the tensor shape
record, the rows of a box, plane loads, KV deliveries, appends and merges, from the operation's cursor to its end or to the
access that stops it. Data moves through the operation's party (R113) and is pending there until completion. -/

namespace Sys2Proof.Machine

/-! The tensor shape record (R314). -/

def tsrBase (r : List Byte) : Nat := recNum r 0x00 8
def tsrFmt (r : List Byte) : Nat := recNum r 0x08 1
def tsrRank (r : List Byte) : Nat := recNum r 0x09 1
def tsrFlags (r : List Byte) : Nat := recNum r 0x0A 2
def tsrOob (r : List Byte) : Nat := tsrFlags r % 4
def tsrSwz (r : List Byte) : Nat := field (tsrFlags r) 2 3
def tsrIdx (r : List Byte) : Bool := (tsrFlags r).testBit 5
def tsrPeer (r : List Byte) : Bool := (tsrFlags r).testBit 6
def tsrFill (r : List Byte) : Nat := recNum r 0x0C 4
def tsrDim (r : List Byte) (d : Nat) : Nat := recNum r (0x10 + 8 * d) 8
def tsrStride (r : List Byte) (d : Nat) : Nat := recNum r (0x38 + 8 * d) 8
def tsrBox (r : List Byte) (d : Nat) : Nat := recNum r (0x60 + 4 * d) 4
def tsrOrigin (r : List Byte) (d : Nat) : Nat := recNum r (0x74 + 4 * (d - 3)) 4
def tsrIcount (r : List Byte) : Nat := recNum r 0x7C 4
def tsrIlist (r : List Byte) : Nat := recNum r 0x80 8
def tsrIsz (r : List Byte) : Nat := recNum r 0x88 1
def tsrIdim (r : List Byte) : Nat := recNum r 0x89 1
def tsrPport (r : List Byte) : Nat := recNum r 0x8A 1
def tsrScale (r : List Byte) : Nat := recNum r 0x90 8
def tsrSblk (r : List Byte) : Nat := recNum r 0x98 4
def tsrSmask (r : List Byte) : Nat := recNum r 0x9C 4

/-- Element width in memory, in bits (R131). -/
def tsrWidth (r : List Byte) : Nat := storageWidth (tsrFmt r)

/-- Rows of the box. -/
def boxRows (r : List Byte) : Nat := ((List.range (min 5 (tsrRank r))).drop 1).foldl (fun a d => a * tsrBox r d) 1

/-- Bytes of a row (R315). -/
def rowBytes (r : List Byte) : Nat := tsrBox r 0 * tsrWidth r / 8

/-- Box position j_d of row i (R315). -/
def rowPos (r : List Byte) (i d : Nat) : Nat :=
  i / (((List.range d).drop 1).foldl (fun a e => a * tsrBox r e) 1) % max 1 (tsrBox r d)

/-! Command-block fields of a copy (R317). -/

def cpyWord (c : List Word) (i : Nat) : Nat := (nth c i 0).toNat
def cpyTsr (c : List Word) : Nat := cpyWord c 1 * 2 ^ 32 + cpyWord c 0
def cpyGl (c : List Word) : Bool := (nth c 2 0).getLsbD 31
def cpySlot (c : List Word) : Nat := field (cpyWord c 2) 28 3
def cpyPs (c : List Word) : Bool := (nth c 2 0).getLsbD 27
def cpySwz (c : List Word) : Nat := field (cpyWord c 2) 24 3
def cpyOff (c : List Word) : Nat := field (cpyWord c 2) 0 24

/-- The swizzle in effect (R315). -/
def cpySwizzle (c : List Word) (r : List Byte) : Nat := if cpySwz c = 3 then tsrSwz r else cpySwz c

/-- The offset in the tile layout of byte `x` of row `i` (R315). -/
def tileByte (c : List Word) (r : List Byte) (i x : Nat) : Nat :=
  let m := match cpySwizzle c r with | 1 => i % 8 | 2 => i % 16 | _ => 0
  cpyOff c + i * rowBytes r + (Nat.xor (x / 16) m) * 16 + x % 16

/-! A run of an operation. -/

/-- Why an operation stops: a fault that replays (R323), an abort with the denial to log (target, master, address, kind; R324), a PRI wait
(R354), an address that does not exist. -/
inductive OpStop where
  | fault (cause va kv : Nat)
  | abort (cause va : Nat) (log : Option (Nat × Nat × Nat × Access))
  | pri (page va : Nat)
  | hole (pa : Nat)
  deriving DecidableEq, Repr

/-- An operation under way: the state, the operation, why it stopped, if it did, and the list entries it has fetched (R319). -/
structure Run where
  s : State
  o : Op
  stop : Option OpStop
  entries : List (Nat × Nat)
  deriving DecidableEq, Repr

/-- Goes on unless the run has stopped. -/
def Run.andThen (r : Run) (f : Run → Run) : Run := if r.stop.isSome then r else f r

/-- Stops a run. -/
def Run.halt (r : Run) (x : OpStop) : Run := { r with stop := some x }

/-- The grid of the operation. -/
def Run.grid (r : Run) : Grid := r.s.grid r.o.grid

/-- The master under which an operation's accesses are checked (R406). -/
def Run.master (r : Run) : Nat := 64 + r.grid.fd

/-- What a translation that found no place does to an operation (R323, R324). -/
def Xlat.opStop (x : Xlat) (master : Nat) (k : Access) (va : Nat) : OpStop :=
  match x with
  | .ok _ => .hole va
  | .denied log => .abort cAccessDenied va (log.map fun y => (y.1, master, y.2, k))
  | .fault => .fault cCopyFault va 0
  | .fatal => .abort cCopyFault va none
  | .hole pa => .hole pa
  | .poison => .abort cPoison va none
  | .pri page => .pri page va

/-- The TLB of the tile translation engine that serves an operation (R100). -/
def Run.tlbUnit (r : Run) : Nat := 128 + stationOf r.o.core

/-- The tile translation engine keeps the translation of an access that was made (R100). -/
def Run.fill (r : Run) (va : Nat) : Run := { r with s := r.s.fillTlb r.tlbUnit r.o.ctx va }

/-- The place of an access of an operation. -/
def Run.place (r : Run) (va : Nat) (k : Access) : Except OpStop Place :=
  if 2 ^ 56 ≤ va then .error (.abort cAccessDenied va none)
  else
    match translateBy r.s r.tlbUnit r.o.ctx r.master va k with
    | .ok p => .ok p
    | x => .error (x.opStop r.master k va)

/-- The first of some bytes from a place on that is poisoned (R421). -/
def State.poisonFrom (s : State) (p : Place) (offs : List Nat) : Option Nat :=
  if s.poison.isEmpty then none
  else offs.find? fun i => s.poisonAt (.glob (match p with
    | .mem pa ap => .mem (pa + i) ap
    | .win off => .win (off + i)
    | .sys a => .sys (a + i))) 1

/-- The target of an access of an operation, which consumes no poison (R421). -/
def Run.target (r : Run) (va n : Nat) (k : Access) : Except OpStop Place :=
  (r.place va k).bind fun p =>
    match (if k = .write then none else r.s.poisonFrom p (List.range n)) with
    | some i => .error (.abort cPoison (va + i) none)
    | none => .ok p

/-- The pieces of `n` bytes at an address, cut at 4 KiB pages: address, bytes. -/
def pageCuts : Nat → Nat → Nat → List (Nat × Nat)
  | 0, _, _ => []
  | fuel + 1, va, n =>
    if n = 0 then []
    else
      let k := min n (4096 - va % 4096)
      (va, k) :: pageCuts fuel (va + k) (n - k)

def cutsOf (va n : Nat) : List (Nat × Nat) := pageCuts (n / 4096 + 2) va n

/-- Reads global bytes through the operation's view (R113). -/
def Run.globRead (r : Run) (va n : Nat) : Run × List Byte :=
  (cutsOf va n).foldl (fun (a : Run × List Byte) c =>
    if a.1.stop.isSome then a
    else
      match a.1.target c.1 c.2 .read with
      | .ok p => (a.1.fill c.1, a.2 ++ a.1.s.loadBytes a.1.o.grid a.1.o.party (.glob p) c.2)
      | .error x => (a.1.halt x, a.2)) (r, [])

/-- The operation replays. -/
def Op.again (o : Op) : Bool := match o.heldItem with | some h => h.again | none => false

/-- A piece of a frame, of which the bytes at `used` are needed (R180): read through the operation's view, or as a replay finds it
(R351). -/
def Run.framePiece (r : Run) (va n : Nat) (used : List Nat) : Run × List Byte :=
  match used with
  | [] => (r, List.replicate n 0)
  | _ =>
    match r.place va .read with
    | .error x => (r.halt x, [])
    | .ok p =>
      match r.s.poisonFrom p used with
      | some i => (r.halt (.abort cPoison (va + i) none), [])
      | none => (r.fill va, r.s.withFixes r.o.again p (r.s.loadBytes r.o.grid r.o.party (.glob p) n))

/-- Reads a frame; the pages that hold no needed byte are not touched (R180). -/
def Run.frameRead (r : Run) (va n : Nat) (need : Nat → Bool) : Run × List Byte :=
  (cutsOf va n).foldl (fun (a : Run × List Byte) c =>
    if a.1.stop.isSome then a
    else
      let x := a.1.framePiece c.1 c.2 ((List.range c.2).filter fun i => need (c.1 - va + i))
      (x.1, a.2 ++ x.2)) (r, [])

/-- Writes bytes at a place, if the version log has room: a write to it at a VA waits or stops where it has none (R391). -/
def Run.store (r : Run) (va : Nat) (p : Place) (bs : List Byte) : Run :=
  match (if (Check.ok (.glob p)).logged then r.s.growLog r.o.grid va ((r.s.putOp r.o).pendingBytes r.o.grid)
    else (.ok (.beyond 0 0), r.s)) with
  | (.wait c v _, t) => { r with s := t, stop := some (.fault c v 0) }
  | (.stop c v _, _) => r.halt (.abort c v none)
  | (_, t) =>
    let w := t.storeBytes r.o.grid r.o.party (.glob p) bs
    ({ r with s := w.2, o := { r.o with party := w.1 } } : Run).fill va

/-- Writes global bytes: pending in the operation's party, at once in the window. -/
def Run.globWrite (r : Run) (va : Nat) (bs : List Byte) : Run :=
  (cutsOf va bs.length).foldl (fun (a : Run) c =>
    a.andThen fun a =>
      match a.target c.1 c.2 .write with
      | .ok p => a.store c.1 p ((bs.drop (c.1 - va)).take c.2)
      | .error x => a.halt x) r

/-- The BLK that SPBLK records for an operation (R89). -/
def Run.blkWord (r : Run) : Word := if r.o.blk = 0 then 0xFFFFFFFF else BitVec.ofNat 32 (r.s.block r.o.blk).index

/-- An operation records its first out-of-range scratchpad access, once (R88, R89). -/
def Run.noteOob (r : Run) (wr : Bool) (off : Nat) : Run :=
  if r.o.oob then r else { r with s := r.s.recordSpad r.o.ctx wr off r.blkWord, o := { r.o with oob := true } }

/-- Scratchpad size of the operation's block. -/
def Run.sb (r : Run) : Nat := (r.s.block r.o.blk).sb

/-- Reads scratchpad bytes; those beyond Sb read 0 (R88). -/
def Run.spadRead (r : Run) (offs : List Nat) : Run × List Byte :=
  let sb := r.sb
  let bad := offs.filter fun x => decide (sb ≤ x)
  let sick := offs.find? fun x => decide (x < sb) && r.s.poisonAt (.spad r.o.blk x) 1
  let r1 := match bad with | [] => r | x :: l => r.noteOob false (l.foldl min x)
  let r2 := match sick with | some x => r1.halt (.abort cPoison x none) | none => r1
  (r2, offs.map fun x => if x < sb then readByte r.grid r.o.party (.spad r.o.blk x) else 0)

/-- The target blocks that are still there: one that has retired is skipped (R320). -/
def State.liveTargets (s : State) (o : Op) : List Nat :=
  match o.kind with
  | .cpy _ true => o.targets.filter fun b => s.blocks.any fun x => x.uid == b
  | _ => o.targets

/-- Writes scratchpad bytes in a list of blocks; those beyond a block's Sb are dropped (R88). Of a row or element that goes out of range the
byte of the least offset is the operation's first out-of-range byte (assumption 90). -/
def Run.spadWriteIn (r : Run) (ts : List Nat) (bs : List (Nat × Byte)) : Run :=
  let sb (b : Nat) : Nat := (r.s.block b).sb
  let bad := bs.filter fun x => ts.any fun b => decide (sb b ≤ x.1)
  let r1 := match bad with | [] => r | x :: l => r.noteOob true (l.foldl (fun (a : Nat) (y : Nat × Byte) => min a y.1) x.1)
  { r1 with o := { r1.o with party := ts.foldl (fun (p : Party) b =>
      (bs.filter fun x => decide (x.1 < sb b)).foldl (fun (q : Party) (x : Nat × Byte) => q.write (.spad b x.1) x.2) p) r1.o.party } }

/-- Writes scratchpad bytes in every target block. -/
def Run.spadWrite (r : Run) (bs : List (Nat × Byte)) : Run := r.spadWriteIn (r.s.liveTargets r.o) bs

/-- Consecutive scratchpad bytes. -/
def spanAt (off : Nat) (bs : List Byte) : List (Nat × Byte) := mapFrom (fun i b => (off + i, b)) 0 bs

/-- A run of whole words written clears their poison marks (R421). -/
def Run.clearSpad (r : Run) (off n : Nat) : Run :=
  { r with s := r.o.targets.foldl (fun t b => t.clearMem (.spad b off) n) r.s }

/-- Adds events to the operation (R151). -/
def Run.events (r : Run) (e : Ev) : Run := { r with o := { r.o with ev := r.o.ev.add e } }

/-- CPSTAT's first event (R327). -/
def State.cpEvent (s : State) (c ev pos val : Nat) : State :=
  s.onCtx c fun x => if x.cpstat.getLsbD 31 then x
    else { x with cpstat := BitVec.ofNat 32 (2 ^ 31 + ev * 2 ^ 28 + pos % 4096 * 65536 + val % 65536) }

def Run.cpEvent (r : Run) (ev pos val : Nat) : Run := { r with s := r.s.cpEvent r.o.ctx ev pos val }

/-! Elements of a row. -/

/-- The fill value of a format as a producer writes it: bits that the format does not use are 0 (R127, R131), and TERN2's code 10, which
reads as 0, is written as 00 (R129). -/
def fillBits (fmt f : Nat) : Nat :=
  match fmtOf fmt with
  | some .tern => if f % 4 = 2 then 0 else f % 4
  | _ => storageBits fmt f

/-- `n` elements of width `w` that all hold `f` (R315). -/
def fillElems (w f n : Nat) : Nat := if w = 0 then 0 else f % 2 ^ w * ((2 ^ (w * n) - 1) / (2 ^ w - 1))

/-- What out-of-bounds elements read as (R315). -/
def fillOf (r : List Byte) : Nat := if tsrOob r = 1 then fillBits (tsrFmt r) (tsrFill r) else 0

/-- Coordinate c[d] of row i but for an indexed dimension (R315, R319). -/
def rowCoord (c : List Word) (r : List Byte) (i d : Nat) : Nat :=
  (if d = 1 then cpyWord c 4 else if d = 2 then cpyWord c 5 else tsrOrigin r d) + rowPos r i d

/-- Row i of a box in global memory: its VA, and how many of its elements are in bounds; `index` replaces the coordinate of
the indexed dimension. -/
def rowPlace (c : List Word) (r : List Byte) (c0 : Nat) (index : Option Nat) (i : Nat) : Nat × Nat :=
  let at_ (d : Nat) : Nat :=
    match index with
    | some x => if d = tsrIdim r then x else rowCoord c r i d
    | none => rowCoord c r i d
  let ds := (List.range (min 5 (tsrRank r))).drop 1
  let va := (tsrBase r + c0 * tsrWidth r / 8 + (ds.map fun d => at_ d * tsrStride r d).foldl (fun a x => a + x) 0) % 2 ^ 64
  (va, if ds.all fun d => decide (at_ d < tsrDim r d) then min (tsrBox r 0) (tsrDim r 0 - c0) else 0)

/-- A global row of a box: in-bounds elements as the operation reads them, the others as R315 fills them. -/
def Run.rowRead (r : Run) (va n : Nat) : Run × Nat :=
  let t := r.o.record
  let w := tsrWidth t
  let all := tsrBox t 0
  if n < all ∧ tsrOob t = 2 then (r.halt (.abort cCopyFault va none), 0)
  else
    let x := r.globRead va ((n * w + 7) / 8)
    (x.1, leNat x.2 % 2 ^ (n * w) + fillElems w (fillOf t) (all - n) * 2 ^ (n * w))

/-- Writes the in-bounds elements of a global row; a last partial byte keeps its other bits. -/
def Run.rowWrite (r : Run) (va n row : Nat) : Run :=
  let t := r.o.record
  let w := tsrWidth t
  if n < tsrBox t 0 ∧ tsrOob t = 2 then r.halt (.abort cCopyFault va none)
  else
    let whole := n * w / 8
    let rest := n * w % 8
    let r1 := r.globWrite va (natLe row whole)
    if rest = 0 ∨ r1.stop.isSome then r1
    else
      let x := r1.globRead (va + whole) 1
      x.1.andThen fun y =>
        y.globWrite (va + whole) (natLe (leNat x.2 / 2 ^ rest * 2 ^ rest + row / 2 ^ (8 * whole) % 2 ^ rest) 1)

/-- The scratchpad offsets of a row in tile layout. -/
def rowOffs (c : List Word) (t : List Byte) (i : Nat) : List Nat := (List.range (rowBytes t)).map fun x => tileByte c t i x

/-- Writes a row in tile layout. -/
def Run.tileWrite (r : Run) (i row : Nat) : Run :=
  let offs := rowOffs r.o.cmd r.o.record i
  (r.spadWrite (List.zip offs (natLe row (rowBytes r.o.record)))).clearSpad (cpyOff r.o.cmd + i * rowBytes r.o.record)
    (rowBytes r.o.record)

/-! Plane loads (R158). -/

/-- `n` advances of a generator. -/
def advanceBy (s : Word) : Nat → Word
  | 0 => s
  | n + 1 => advanceBy (xorshift s) n

/-- The rounding of element `e` of an operation (R133, R146, R147). -/
def opRnd (o : Op) (e : Nat) : Rnd :=
  let m := if o.cvc.toNat % 8 = 5 ∧ o.cvc.getLsbD 4 = true then 6 else o.cvc.toNat % 8
  match m with
  | 5 => .sr (rotl32 (advanceBy (seedLoad o.srseed 0 0) (e / 32 + 1)) (5 * e % 32)).toNat
  | 6 => .dth (dither5 ((e % 32 + o.dphase.toNat + e / 32) % 32))
  | c => rndOfMode c

/-- Writes the plane bits of element (i, k) of K-block kb, `i` the row of A or column of B (R153, R154). -/
def Run.planeWrite (r : Run) (v : Resv) (kb i k bits : Nat) : Run :=
  let pl := planeCount v.fmt
  let offs := (List.range pl).map fun p => v.off + planeByte pl kb p i k
  let put (b : Nat) (x : Nat × Bool) : Nat × Byte :=
    let old := readByte r.grid r.o.party (.spad b x.1)
    (x.1, if x.2 then old ||| (1#8 <<< (k % 8)) else old &&& ~~~(1#8 <<< (k % 8)))
  (r.s.liveTargets r.o).foldl (fun (a : Run) b => a.spadWriteIn [b] ((List.zip offs (planeBits v.fmt bits)).map (put b))) r

/-- K-block, row or column, and K index of element `x` of box row `i` for the slot's role (R158). -/
def planePlace (v : Resv) (t : List Byte) (i x : Nat) : Nat × Nat × Nat :=
  if v.roleB then (x / 64 * (boxRows t / 32) + i / 32, x % 64, i % 32)
  else (i / 64 * (tsrBox t 0 / 32) + x / 32, i % 64, x % 32)

/-- The box is a whole number of K-block tiles of the slot's role (R158). -/
def wholeTiles (v : Resv) (t : List Byte) : Bool :=
  if v.roleB then decide (tsrBox t 0 % 64 = 0 ∧ boxRows t % 32 = 0) else decide (tsrBox t 0 % 32 = 0 ∧ boxRows t % 64 = 0)

/-- A row of a plane load: each element converted and its bits placed (R158). -/
def Run.planeRow (r : Run) (v : Resv) (i row : Nat) : Run :=
  let t := r.o.record
  let w := tsrWidth t
  (List.range (tsrBox t 0)).foldl (fun (a : Run) x =>
    let e := i * tsrBox t 0 + x
    let y := convert v.fmt (tsrFmt t) (opRnd r.o e) (r.o.cvc.getLsbD 3) (field row (w * x) w)
    let p := planePlace v t i x
    (a.planeWrite v p.1 p.2.1 p.2.2 y.1).events y.2) r

/-- K-blocks a plane load delivers. -/
def planeTiles (t : List Byte) : Nat := boxRows t * tsrBox t 0 / 2048

/-- The scales that follow the planes (R158); a slot without a block length has no scale region (R156). -/
def Run.planeScales (r : Run) (v : Resv) : Run :=
  if tsrScale r.o.record = 0 ∨ v.bl = 0 then r
  else
    let n := planeTiles r.o.record * scaleStride v.bl
    let x := r.globRead (tsrScale r.o.record) n
    x.1.andThen fun y => (y.spadWrite (spanAt v.scaleOff x.2)).clearSpad v.scaleOff n

/-! Copies (R318, R319). -/

/-- The list position of row i of a gather or scatter (R319). -/
def listPos (c : List Word) (t : List Byte) (i : Nat) : Nat := cpyWord c 3 + rowPos t i (tsrIdim t)

/-- Fetches the list entries of row i and of the rows after it in its eight, unless it has them: positions count in eights from the
box's first (R319, assumption 112). -/
def Run.fetchEntries (r : Run) (i : Nat) : Run :=
  let t := r.o.record
  let j := rowPos t i (tsrIdim t)
  let p := listPos r.o.cmd t i
  if r.entries.any fun e => e.1 == p then r
  else
    (List.range (min (8 - j % 8) (tsrBox t (tsrIdim t) - j))).foldl (fun (a : Run) d =>
      a.andThen fun a =>
        let x := a.globRead (tsrIlist t + (p + d) * tsrIsz t) (tsrIsz t)
        { x.1 with entries := a.entries ++ [(p + d, leNat x.2)] }) { r with entries := [] }

/-- The index of row i, and the record of a bad one as its row comes (R319, R327): the run, the index if it is good. -/
def Run.index (r : Run) (i : Nat) : Run × Option Nat :=
  let t := r.o.record
  let p := listPos r.o.cmd t i
  let x := r.fetchEntries i
  match x.entries.find? fun e => e.1 == p with
  | some e =>
    if x.stop.isSome then (x, none)
    else if e.2 < tsrDim t (tsrIdim t) then (x, some e.2)
    else (x.cpEvent 1 p e.2, none)
  | none => (x, none)

/-- Delivers a loaded row: in tile layout, or as planes. -/
def Run.deliverRow (r : Run) (i row : Nat) : Run :=
  match r.o.slot with
  | some v => r.planeRow v i row
  | none => r.tileWrite i row

/-- A scratchpad row in tile layout. -/
def Run.tileRead (r : Run) (i : Nat) : Run × Nat :=
  let x := r.spadRead (rowOffs r.o.cmd r.o.record i)
  (x.1, leNat x.2)

/-- A host read of a flushed byte gives this value (R123, R321). -/
def State.flushByte (s : State) (pa : Nat) (b : Byte) : State :=
  { s with flushed := (pa, b) :: s.flushed.filter fun x => x.1 != pa }

/-- A physical address lies in the BAR4 range (R365). -/
def State.inAperture (s : State) (pa : Nat) : Bool :=
  let b := field s.apBase.toNat 28 28 * 2 ^ 28
  decide (b ≤ pa ∧ pa < b + 2 ^ s.bar4Exp)

/-- What the walk for a VA of a context finds, by the first kind of access that its entries allow. -/
def State.anyWalk (s : State) (c va : Nat) : Xlat :=
  let walk (k : Access) : Xlat := walkFrom s (s.atsOf c) va k 4 (s.ctx c).groot
  match walk .read with
  | .denied _ =>
    match walk .write with
    | .denied _ => walk .fetch
    | x => x
  | x => x

/-- The device memory behind a VA on a device-owned aperture page of a context (R365), if there is any; `none` outside where the walk
consumes poison (R421). -/
def State.aperturePa (s : State) (c va : Nat) : Option (Option Nat) :=
  if (windowOff (s.ctx c) va).isSome then some none
  else
    match s.anyWalk c va with
    | .ok (.mem pa true) => some (if s.inAperture pa then some pa else none)
    | .poison => none
    | _ => some none

/-- Flushes the aperture bytes among `n` bytes of a row; bytes on other pages are skipped (R321). -/
def Run.flushRow (r : Run) (va n : Nat) : Run :=
  (cutsOf va n).foldl (fun (a : Run) c =>
    match a.s.aperturePa a.o.ctx c.1 with
    | none => a.halt (.abort cPoison c.1 none)
    | some (some pa) =>
      let cells := mapFrom (fun i b => (pa + i, b)) 0 (a.s.loadBytes a.o.grid a.o.party (.glob (.mem pa true)) c.2)
      { a with s := cells.foldl (fun (t : State) (x : Nat × Byte) => t.flushByte x.1 x.2) a.s }
    | some none => a) r

/-- Out-of-bounds elements of a box abort the operation under OOB = 2 (R315). -/
def Run.inBounds (r : Run) (va n : Nat) (f : Run → Run) : Run :=
  if n < tsrBox r.o.record 0 ∧ tsrOob r.o.record = 2 then r.halt (.abort cCopyFault va none) else f r

/-- The access table of the outbound port of a peer copy, which denies everything while PEEROUT.EN is 0, at each page of a row's bytes
(R366, R406, R407). -/
def Run.peerRow (r : Run) (va n : Nat) : Run :=
  let port := tsrPport r.o.record
  let en := (nth r.s.peers port ⟨0, 0, 0⟩).out.getLsbD 31
  match (cutsOf va n).find? fun c => !(en && accessOk r.s (10 + port) r.master c.1 .write) with
  | some c => r.halt (.abort cAccessDenied c.1 (some (10 + port, r.master, c.1, .write)))
  | none => r

/-- One row of a copy of a kind (R318). -/
def Run.copyRow (r : Run) (kind i : Nat) : Run :=
  let c := r.o.cmd
  let t := r.o.record
  let place := rowPlace c t (cpyWord c 3) none i
  let fill := fillElems (tsrWidth t) (fillBits (tsrFmt t) (tsrFill t)) (tsrBox t 0)
  match kind with
  | 1 => let x := r.tileRead i; x.1.andThen fun y => y.rowWrite place.1 place.2 x.2
  | 2 =>
    let x := r.index i
    x.1.andThen fun y =>
      match x.2 with
      | some n =>
        let p := rowPlace c t 0 (some n) i
        let z := y.rowRead p.1 p.2
        z.1.andThen fun u => u.deliverRow i z.2
      | none => y.deliverRow i (fillElems (tsrWidth t) (fillOf t) (tsrBox t 0))
  | 3 =>
    let x := r.index i
    x.1.andThen fun y =>
      match x.2 with
      | some n =>
        let p := rowPlace c t 0 (some n) i
        let z := y.tileRead i
        z.1.andThen fun u => u.rowWrite p.1 p.2 z.2
      | none => (y.tileRead i).1
  | 4 => if cpyGl c then r.rowWrite place.1 place.2 fill else r.tileWrite i fill
  | 6 => r.inBounds place.1 place.2 fun a => (a.peerRow place.1 ((place.2 * tsrWidth t + 7) / 8)).andThen fun b => (b.tileRead i).1
  | 7 => r.inBounds place.1 place.2 fun a => a.flushRow place.1 ((place.2 * tsrWidth t + 7) / 8)
  | _ => let x := r.rowRead place.1 place.2; x.1.andThen fun y => y.deliverRow i x.2

/-- Rows `cursor ..` of an operation, the cursor following the rows that are done; the events of a row that a fault cuts short come
with its replay (R151, R323). -/
def Run.rows (r : Run) (n : Nat) (f : Run → Nat → Run) : Run :=
  ((List.range n).drop r.o.cursor).foldl (fun (a : Run) i =>
    a.andThen fun a =>
      let b := f a i
      { b with o := if b.stop.isSome then { b.o with ev := a.o.ev } else { b.o with cursor := i + 1 } }) r

/-- A copy from its cursor on. -/
def Run.copy (r : Run) (kind : Nat) : Run :=
  (r.rows (boxRows r.o.record) fun b i => b.copyRow kind i).andThen fun a =>
    match a.o.slot with
    | some v => (a.clearSpad v.off (planeTiles a.o.record * planeCount v.fmt * 256)).planeScales v
    | none => a

/-! KV operations. -/

/-- The walker of an operation: its grid's context and the view it captured (R173). -/
def Run.walker (r : Run) : Walker :=
  ⟨r.o.grid, r.o.ctx, r.o.ctx, r.o.walker, r.o.again⟩

/-- A walk that stopped, as an operation's stop (R181, R323): a table whose page cannot be read is a KV_FAULT of a KV command, in whose
tuple the model gives reason 0 (assumption 103); the walker's master is that of its context (R406). -/
def KvStop.opStop (k : KvStop) (t : KvTuple) (master : Nat) : OpStop :=
  match k with
  | .kv reason va => .fault cKvFault va (t.word reason)
  | .xlat .fault va => .fault cKvFault va (t.word 0)
  | .xlat .fatal va => .abort cKvFault va none
  | .xlat x va => x.opStop master .read va

/-- LEN, and the frame VA of a tuple unless its first position `first` lies at or beyond LEN (R173, R180). -/
def Run.frameVa (r : Run) (root : List Byte) (t : KvTuple) (first : Nat) : Except KvStop (Nat × Nat) :=
  (r.s.walkSeq r.walker root t.seq).bind fun e =>
    if e.2.1 ≤ first then .ok (e.2.1, 0)
    else (r.s.walkTables r.walker e.1 t.layer (t.pos / 64)).map fun fg => (e.2.1, fg + t.frame root)

/-- The value of a KV element under its token's scale (R176). -/
def kvScaled (fmt bits scale : Nat) : Val :=
  match fmtOf fmt with
  | some c => (mulVal (fmtDecode c bits) (fmtDecode .e8m0 scale)).1
  | none => .nan false

/-- A KV element converted to a slot's format (R180). A scaled INT8 element is rounded as a real value, into an integer format too, which
is the model's choice (assumption 103). -/
def kvConvert (root : List Byte) (dst : Nat) (rnd : Rnd) (sat : Bool) (bits scale : Nat) : Nat × Ev :=
  if kvEs root = 2 then convert dst (kvEfmt root) rnd sat bits
  else
    match fmtOf dst with
    | some d => deliver d rnd sat (kvScaled (kvEfmt root) bits scale)
    | none => (0, Ev.none)

/-- Fields of KVLD (R332) and its tuple at a position. -/
def kvldTuple (c : List Word) (pos : Nat) : KvTuple :=
  ⟨cpyWord c 0, field (cpyWord c 1) 0 8, field (cpyWord c 1) 8 6, pos, field (cpyWord c 1) 14 1⟩
def kvldPos (c : List Word) : Nat := field (cpyWord c 2) 0 24
def kvldCount (c : List Word) : Nat := field (cpyWord c 3) 0 9
def kvldPs (c : List Word) : Bool := (nth c 4 0).getLsbD 27
def kvldSlot (c : List Word) : Nat := field (cpyWord c 4) 24 3
def kvldOff (c : List Word) : Nat := field (cpyWord c 4) 0 24

/-- K-blocks a plane-split delivery fills (R180). -/
def kvldTiles (root : List Byte) (kind count : Nat) : Nat :=
  if kind = 0 then (count + 63) / 64 * (kvDim root / 32) else kvDim root / 64 * ((count + 31) / 32)

/-- K-block, column and K index of element d of token n in a plane-split delivery (R180). -/
def kvPlace (kind dim count n d : Nat) : Nat × Nat × Nat :=
  if kind = 0 then (n / 64 * (dim / 32) + d / 32, n % 64, d % 32)
  else (d / 64 * ((count + 31) / 32) + n / 32, d % 64, n % 32)

/-- Delivers one element of token n (R180). Its index, from which SR and DTH take their state (R146), counts in the order of the raw
delivery (assumption 50). -/
def Run.kvElem (r : Run) (root : List Byte) (kind n d bits scale : Nat) : Run :=
  let dim := kvDim root
  let es := kvEs root
  let count := kvldCount r.o.cmd
  match r.o.slot with
  | some v =>
    let y := kvConvert root v.fmt (opRnd r.o (if kind = 0 then n * dim + d else d * count + n)) (r.o.cvc.getLsbD 3) bits scale
    let p := kvPlace kind dim count n d
    (r.planeWrite v p.1 p.2.1 p.2.2 y.1).events y.2
  | none =>
    let x := if kind = 0 then n * dim + d else d * count + n
    r.spadWrite (spanAt (kvldOff r.o.cmd + x * es) (natLe bits es))

/-- The scale byte of token n of a raw delivery of an 8-bit format (R180). -/
def Run.kvScale (r : Run) (root : List Byte) (n : Nat) (b : Byte) : Run :=
  if kvEs root = 1 ∧ r.o.slot.isNone = true then
    r.spadWrite [(kvldOff r.o.cmd + kvldCount r.o.cmd * kvDim root + n, b)]
  else r

/-- The token at offset n of a KVLD from its frame, or zeros beyond LEN (R180), with a scale byte of 0 in raw mode, which is the model's
choice (assumption 103). -/
def Run.kvToken (r : Run) (root : List Byte) (kind n t : Nat) (frame : Option (List Byte)) : Run :=
  let dim := kvDim root
  let es := kvEs root
  match frame with
  | none =>
    let r1 := if r.o.slot.isSome then r
      else (List.range dim).foldl (fun (a : Run) d => a.kvElem root kind n d 0 0) r
    r1.kvScale root n 0
  | some f =>
    let scale := (nth f (64 * dim) 0).toNat
    let at_ (d : Nat) : Nat := recNum f ((if kind = 0 then t * dim + d else d * 64 + t) * es) es
    let sc := if es = 1 then (nth f (64 * dim + t) 0).toNat else scale
    ((List.range dim).foldl (fun (a : Run) d => a.kvElem root kind n d (at_ d) sc) r).kvScale root n (BitVec.ofNat 8 sc)

/-- The byte at an offset of a frame belongs to one of the tokens `lo ..< hi` (R176). -/
def kvNeeds (root : List Byte) (kind lo hi x : Nat) : Bool :=
  let dim := kvDim root
  let es := kvEs root
  let tok := if 64 * dim * es ≤ x then x - 64 * dim * es else if kind = 0 then x / (dim * es) else x / es % 64
  decide (lo ≤ tok ∧ tok < hi)

/-- One token block of a KVLD (R180, R181): positions at or beyond LEN or the count are not read. -/
def Run.kvBlock (r : Run) (root : List Byte) (i : Nat) : Run :=
  let c := r.o.cmd
  let pos := kvldPos c
  let b := pos / 64 + i
  let tup := kvldTuple c (b * 64)
  let first := max pos (b * 64)
  let last := min (pos + kvldCount c) (b * 64 + 64)
  match r.frameVa root tup first with
  | .error e => r.halt (e.opStop tup r.walker.master)
  | .ok (len, frame) =>
    let x : Run × List Byte := if len ≤ first then (r, [])
      else r.frameRead frame (kvFrame root) (kvNeeds root tup.kind (first - b * 64) (min last len - b * 64))
    x.1.andThen fun y =>
      ((List.range (last - first)).map fun j => first + j).foldl (fun (a : Run) p =>
        a.kvToken root tup.kind (p - pos) (p % 64) (if p < len then some x.2 else none)) y

/-- The plane region of a plane-split KVLD starts as zeros: unfilled elements are written as 0 (R180). -/
def Run.kvZero (r : Run) (root : List Byte) : Run :=
  match r.o.slot with
  | some v =>
    if r.o.cursor ≠ 0 then r
    else
      let n := kvldTiles root (field (cpyWord r.o.cmd 1) 14 1) (kvldCount r.o.cmd) * planeCount v.fmt * 256
      (r.spadWrite (spanAt v.off (List.replicate n 0))).clearSpad v.off n
  | none => r

/-- A raw KVLD has written every byte of its delivery: marks there clear (R421). -/
def Run.kvClear (r : Run) (root : List Byte) : Run :=
  if r.stop.isSome ∨ r.o.slot.isSome = true then r
  else r.clearSpad (kvldOff r.o.cmd) (kvldCount r.o.cmd * (kvDim root * kvEs root + if kvEs root = 1 then 1 else 0))

/-- KVLD from its cursor on (R180, R181). -/
def Run.kvld (r : Run) : Run :=
  let c := r.o.cmd
  match r.grid.kvRoot with
  | none => r
  | some root =>
    if kvldCount c = 0 then r
    else ((r.kvZero root).rows ((kvldPos c + kvldCount c - 1) / 64 - kvldPos c / 64 + 1) fun a i => a.kvBlock root i).kvClear root

/-- The tuple of a KVST (R175, R333). -/
def kvstTuple (c : List Word) : KvTuple :=
  let x := cpyWord c 1 * 2 ^ 32 + cpyWord c 0
  ⟨field x 44 20, field x 36 8, field x 30 6, field x 0 24, field x 29 1⟩

/-- The frame of a KVST's core that stands open in the corner-turn buffer. -/
def State.openFrame (s : State) (o : Op) (va : Nat) : Option Corner :=
  s.corner.find? fun c => decide (c.core = o.core ∧ c.frame = va ∧ c.grid = o.grid)

/-- The frame group of a KVST by a walk: a read-only sequence denies it (R174, R182). -/
def State.kvstWalk (s : State) (w : Walker) (root : List Byte) (t : KvTuple) : Except KvStop Nat :=
  (s.walkSeq w root t.seq).bind fun e =>
    if e.2.2 then .error (.xlat (.denied none) (seqVa root t.seq)) else s.walkTables w e.1 t.layer (t.pos / 64)

/-- The frame VA a KVST writes: that of its walk at issue, else of a walk now, or why this walk stopped (R182). -/
def Run.kvstFrame (r : Run) (root : List Byte) (t : KvTuple) : Except KvStop Nat :=
  (match r.o.frame with
    | some fg => Except.ok fg
    | none => r.s.kvstWalk r.walker root t).map fun fg => fg + t.frame root

/-- The rows of a frame as an append of token `tok` that opens it writes them (R182): its own column, and in the other columns what `old`
holds. -/
def frameRows (dim es tok : Nat) (body old : List Byte) : List Byte :=
  ((List.range dim).map fun d =>
    let row := (old.drop (d * 64 * es)).take (64 * es)
    row.take (tok * es) ++ (body.drop (d * es)).take es ++ row.drop ((tok + 1) * es)).flatten

/-- KVST (R182): the row of kind K, or the column of kind V. A frame that token 0 opens starts from zeros; one that another token opens
has its rows read, and they are written with the columns that the appends stage (assumption 91). -/
def Run.kvst (r : Run) : Run :=
  match r.grid.kvRoot with
  | none => r
  | some root =>
    let t := kvstTuple r.o.cmd
    let dim := kvDim root
    let es := kvEs root
    match r.kvstFrame root t with
    | .error e => r.halt (e.opStop t r.walker.master)
    | .ok frame =>
      let x := r.spadRead ((List.range (dim * es + (if es = 1 then 1 else 0))).map fun i => cpyWord r.o.cmd 2 % 2 ^ 24 + i)
      x.1.andThen fun y =>
        let body := x.2.take (dim * es)
        let tok := t.pos % 64
        let elem (d : Nat) : List Byte := (body.drop (d * es)).take es
        let opens := (r.s.openFrame r.o frame).isNone
        let y1 :=
          if t.kind = 0 then y.globWrite (frame + tok * dim * es) body
          else if opens then
            let old := if tok = 0 then (y, List.replicate (64 * dim * es) 0) else y.globRead frame (64 * dim * es)
            old.1.andThen fun z => z.globWrite frame (frameRows dim es tok body old.2)
          else (List.range dim).foldl (fun (a : Run) d => a.andThen fun a => a.globWrite (frame + (d * 64 + tok) * es) (elem d)) y
        y1.andThen fun z => if es = 1 then z.globWrite (frame + 64 * dim + tok) (x.2.drop dim) else z

/-! MRG (R335, R336). -/

def mrgRows (r : List Byte) : Nat := recNum r 0x00 4
def mrgVa (r : List Byte) (i : Nat) : Nat := recNum r (0x08 + 8 * i) 8

/-- A 32-bit entry of an array of the record. -/
def Run.word (r : Run) (va i : Nat) : Run × Nat :=
  let x := r.globRead (va + 4 * i) 4
  (x.1, leNat x.2)

/-- Where a merged row stands: the cursors x and y, the count n, and the last columns of each side. -/
structure MrgRow where
  x : Nat
  y : Nat
  n : Nat
  pa : Option Nat
  pb : Option Nat
  deriving DecidableEq, Repr

/-- Emits an element of row C (R336). -/
def Run.emit (r : Run) (o n c v : Nat) : Run :=
  (r.globWrite (mrgVa r.o.record 6 + 4 * (o + n)) (natLe c 4)).andThen fun a =>
    a.globWrite (mrgVa a.o.record 7 + 4 * (o + n)) (natLe v 4)

/-- A column that is not greater than its predecessor in its row (R336). -/
def Run.sorted (r : Run) (i : Nat) (prev : Option Nat) (c : Nat) : Run :=
  match prev with
  | some p => if c ≤ p then r.cpEvent 3 i c else r
  | none => r

/-- The merge of one row, an element or a pair at a time (R336). -/
def Run.mergeRow (r : Run) (i o a1 b1 : Nat) (m : MrgRow) : Nat → Run × Nat
  | 0 => (r, m.n)
  | fuel + 1 =>
    if r.stop.isSome ∨ (a1 ≤ m.x ∧ b1 ≤ m.y) then (r, m.n)
    else
      let t := r.o.record
      let (sub, kz) := match r.o.kind with | .mrg s k => (s, k) | _ => (false, false)
      let xa := if m.x < a1 then r.word (mrgVa t 1) m.x else (r, 2 ^ 32)
      let xb := if m.y < b1 then xa.1.word (mrgVa t 4) m.y else (xa.1, 2 ^ 32)
      let va := if m.x < a1 ∧ xa.2 ≤ xb.2 then xb.1.word (mrgVa t 2) m.x else (xb.1, 0)
      let vb := if m.y < b1 ∧ xb.2 ≤ xa.2 then va.1.word (mrgVa t 5) m.y else (va.1, 0)
      let r1 := if xa.2 ≤ xb.2 then vb.1.sorted i m.pa xa.2 else vb.1
      let r2 := if xb.2 ≤ xa.2 then r1.sorted i m.pb xb.2 else r1
      if vb.1.stop.isSome then (vb.1, m.n)
      else if xa.2 < xb.2 then
        (r2.emit o m.n xa.2 va.2).mergeRow i o a1 b1 { m with x := m.x + 1, n := m.n + 1, pa := some xa.2 } fuel
      else if xb.2 < xa.2 then
        (r2.emit o m.n xb.2 (if sub then Nat.xor vb.2 (2 ^ 31) else vb.2)).mergeRow i o a1 b1
          { m with y := m.y + 1, n := m.n + 1, pb := some xb.2 } fuel
      else
        let rm := rndOfMode (r.o.cvc.toNat % 8)
        let v := if sub then fpSub fp32 rm va.2 vb.2 else fpAdd fp32 rm va.2 vb.2
        let m1 := { m with x := m.x + 1, y := m.y + 1, pa := some xa.2, pb := some xb.2 }
        let r3 := r2.events v.2
        if v.1 % 2 ^ 31 = 0 ∧ kz = false then r3.mergeRow i o a1 b1 m1 fuel
        else (r3.emit o m.n xa.2 v.1).mergeRow i o a1 b1 { m1 with n := m.n + 1 } fuel

/-- One row of MRG: its pointers, the merge, and its count. -/
def Run.mrgRow (r : Run) (i : Nat) : Run :=
  let t := r.o.record
  let a0 := r.word (mrgVa t 0) i
  let a1 := a0.1.word (mrgVa t 0) (i + 1)
  let b0 := a1.1.word (mrgVa t 3) i
  let b1 := b0.1.word (mrgVa t 3) (i + 1)
  b1.1.andThen fun r1 =>
    let badA := decide (a1.2 < a0.2)
    let badB := decide (b1.2 < b0.2)
    let r2 := if badA then r1.cpEvent 3 i a1.2 else if badB then r1.cpEvent 3 i b1.2 else r1
    let ea := if badA then a0.2 else a1.2
    let eb := if badB then b0.2 else b1.2
    let m := r2.mergeRow i (a0.2 + b0.2) ea eb ⟨a0.2, b0.2, 0, none, none⟩ (ea - a0.2 + (eb - b0.2) + 1)
    m.1.andThen fun r3 => r3.globWrite (mrgVa t 8 + 4 * i) (natLe m.2 4)

/-- MRG from its cursor on. -/
def Run.mrg (r : Run) : Run := r.rows (mrgRows r.o.record) fun a i => a.mrgRow i

/-- An operation from its cursor to its end, or to what stops it. -/
def State.opRun (s : State) (o : Op) : Run :=
  let r : Run := ⟨s, o, none, []⟩
  match o.kind with
  | .cpy kind _ => r.copy kind
  | .kvld => r.kvld
  | .kvst _ => r.kvst
  | .mrg _ _ => r.mrg
  | .qfen _ => r

end Sys2Proof.Machine
end

