-- ==== Sys2Proof/Machine/Engine.lean ====
section
/-! DEFINITION. Engine commands (R229 to R232, R312 to R337) and the life of an operation: its queue, its start on an engine,
its completion, fault or abort (R113 to R116, R320 to R327, R341), and the corner-turn buffer (R182). -/

namespace Sys2Proof.Machine

/-! Records read at issue (R102, R335, R338). -/

/-- A record of `n` bytes as a thread of the issuing group reads it, or the check it fails. -/
def State.readRecord (s : State) (p : Party) (va n : Nat) : Except Check (List Byte) :=
  (cutsOf va n).foldl (fun a c =>
    a.bind fun bs =>
      match translateBy s s.me.core s.myCtx (s.master s.me.grid) c.1 .read with
      | .ok q =>
        if s.poisonAt (.glob q) c.2 then .error (.stop cPoison c.1 none)
        else .ok (bs ++ s.loadBytes s.me.grid p (.glob q) c.2)
      | x => .error (x.check cPageFault c.1 [] fun _ => .stop cPageFault c.1 none)) (.ok [])

/-- The checks on a record's address (R230 step 1). -/
def recordAddr (va align : Nat) : Option Nat :=
  if 2 ^ 56 ≤ va then some cAccessDenied else if va % align ≠ 0 then some cMisaligned else none

/-- A TSR through the station's record cache (R102): the record, whether it missed, and the state with the cache as the use
leaves it. -/
def State.readTsr (s : State) (va : Nat) : Except Check (List Byte × Bool × State) :=
  let stn := stationOf s.me.core
  let is (e : Nat × Nat × Nat × List Byte) : Bool := decide (e.1 = stn ∧ e.2.1 = s.myCtx ∧ e.2.2.1 = va)
  let use (r : List Byte) : State :=
    let mine := s.tsrCache.filter fun e => decide (e.1 = stn) && !is e
    let keep := mine.drop (mine.length - 63)
    { s with tsrCache := (s.tsrCache.filter fun e => decide (e.1 ≠ stn)) ++ keep ++ [(stn, s.myCtx, va, r)] }
  match s.tsrCache.find? is with
  | some e => .ok (e.2.2.2, false, use e.2.2.2)
  | none => (s.readRecord (s.me.thread (lowLane s.me.cur)).party va 192).map fun r => (r, true, use r)

/-! Completion descriptors (R231). -/

def descP (d : Word) : Bool := d.getLsbD 31
def descZ (d : Word) : Bool := d.getLsbD 30
def descOff (d : Word) : Nat := field d.toNat 0 24

/-- The forms that raise ILLEGAL_FORM. -/
def descForm (d : Word) : Bool :=
  (descP d && descZ d) || decide (field d.toNat 24 6 ≠ 0) || (descZ d && decide (descOff d ≠ 0)) ||
  (descP d && decide (16 ≤ descOff d))

/-- A completion word that is not aligned. -/
def descMisaligned (d : Word) : Bool := !descP d && !descZ d && decide (descOff d % 4 ≠ 0)

/-- The descriptor of an operation and its value. -/
def Op.desc (o : Op) : Word × Word :=
  match o.kind with
  | .cpy _ _ => (nth o.cmd 6 0, nth o.cmd 7 0)
  | .kvld => (nth o.cmd 5 0, nth o.cmd 6 0)
  | .mrg _ _ => (nth o.cmd 2 0, nth o.cmd 3 0)
  | _ => (0x40000000, 0)

/-! Queues (R115, R116). -/

/-- The identity of the block whose queues an operation uses. -/
def queueBlock (grid blk core : Nat) : Nat := if blk = 0 then taskBlockId grid (stationOf core) else blk

/-- The operations of a block, outstanding and completed: queue, identity, what it follows, whether it is a marker. -/
def State.blockOps (s : State) (grid qb : Nat) : List (Nat × Nat × List Nat × Bool) :=
  ((s.ops.filter fun o => decide (o.grid = grid ∧ queueBlock o.grid o.blk o.core = qb)).map fun o =>
    (o.queue, o.id, o.after, match o.kind with | .qfen _ => true | _ => false)) ++
  ((s.doneOps.filter fun o => decide (o.grid = grid ∧ o.blk = qb)).map fun o => (o.queue, o.id, o.after, o.marker))

/-- What a new operation of a queue follows: every earlier one of the queue, and what its markers joined (R115, R116). -/
def State.behind (s : State) (grid qb queue : Nat) : List Nat :=
  ((s.blockOps grid qb).filter fun x => x.1 == queue).foldl (fun a x => a ++ [x.2.1] ++ (if x.2.2.2 then x.2.2.1 else [])) []

/-- What a QFEN joins (R116): a bit for its own queue adds nothing. -/
def State.joined (s : State) (grid qb mask : Nat) : List Nat :=
  ((s.blockOps grid qb).filter fun x => mask.testBit x.1).map fun x => x.2.1

/-! Issue (R313). -/

/-- The unit whose chimney counters count an operation (R79): its station's copy-engine set or merge unit. -/
def Op.node (o : Op) : Nat :=
  match o.kind with
  | .mrg _ _ => 64 + stationOf o.core
  | _ => 32 + stationOf o.core

/-- An operation of the issuing group enters its queue: the copy-issue edge, the count, the captured command (R107, R230). -/
def State.issueOp (s : State) (kind : OpKind) (queue : Nat) (cmd : List Word) (record : List Byte) (slot : Option Resv) :
    Nat × State :=
  let marker := match kind with | .qfen _ => true | _ => false
  let e := if marker then (⟨[], [], none⟩, s) else s.sendLanes s.me.cur
  let f := e.2.fresh
  let g := f.2.me
  let low := g.thread (lowLane g.cur)
  let blk := s.anchorBlk
  let qb := queueBlock g.grid blk g.core
  let after := match kind with
    | .qfen m => s.joined g.grid qb (if m.testBit queue then m - 2 ^ queue else m)
    | _ => s.behind g.grid qb queue
  let walker : Walker := ⟨g.grid, s.myCtx, s.myCtx, low.party, false⟩
  let frame := match kind, (s.grid g.grid).kvRoot with
    | .kvst _, some root => (s.kvstWalk walker root (kvstTuple cmd)).toOption
    | _, _ => none
  let o : Op :=
    { id := f.1, kind := kind, ctx := s.myCtx, grid := g.grid, blk := blk, core := g.core, group := g.uid, gslot := g.gslot,
      tid := low.tid, pc := g.pc, queue := queue, cmd := cmd, record := record, slot := slot, cvc := g.cvc,
      srseed := g.srseed, dphase := g.dphase, rankKey := low.rank, after := after,
      stage := .queued, engine := 0, cursor := 0, targets := [blk], party := Party.fresh f.1 e.1, walker := low.party,
      ev := Ev.none, oob := false, heldItem := none, due := 0, began := false, frame := frame }
  let s1 := { f.2 with ops := f.2.ops ++ [o] }
  (f.1, if marker then s1 else s1.onGrid g.grid fun x => x.counts o.node 1 0)

/-- The follow-on MMA of an operation (R169). -/
def State.follow (s : State) (op : Nat) (c : List Word) : State :=
  let f := s.fresh
  f.2.pushMma c (some op) (Party.empty f.1) f.1

/-- Issues an operation with its follow-on MMA, if any, or parks the group while the buffer is full (R313). -/
def State.issueWith (s : State) (kx : Option Kx) (lat : Nat) (kind : OpKind) (queue : Nat) (cmd : List Word) (record : List Byte)
    (slot : Option Resv) (mma : Option (List Word)) : State :=
  if s.bufferFull (if mma.isSome then 2 else 1) then s.parkMe .opBuffer
  else
    let r := s.issueOp kind queue cmd record slot
    (match mma with | some c => r.2.follow r.1 c | none => r.2).switch (kxLen kx) 1 lat

/-! CPY and CPYM. -/

/-- The forms of R317 and R328 that raise ILLEGAL_FORM. -/
def cpyForm (kind : Nat) (mc mma : Bool) (c : List Word) : Bool :=
  let planes := cpyPs c || decide (kind = 5)
  (cpyGl c && decide (kind ≠ 4)) || (cpyPs c && !(kind == 0 || kind == 2)) || (decide (cpySlot c ≠ 0) && !planes) ||
  (decide (cpyOff c ≠ 0) && planes) || decide (4 ≤ cpySwz c) ||
  (mc && ([1, 3, 6, 7].contains kind || (kind == 4 && cpyGl c))) ||
  (mma && !([0, 2, 5].contains kind || (kind == 4 && !cpyGl c))) || descForm (nth c 6 0)

/-- Format codes a TSR may name (R125, R126). -/
def copyFmt (code : Nat) : Bool := (fmtOf code).isSome && !(code == 4 || code == 5)

/-- R316: format, shape and packing. -/
def tsrShape (kind : Nat) (c : List Word) (t : List Byte) : Bool :=
  let n := tsrRank t
  let w := tsrWidth t
  let c0 := if kind = 2 ∨ kind = 3 then 0 else cpyWord c 3
  !copyFmt (tsrFmt t) || decide (n = 0 ∨ 5 < n) ||
  (List.range 5).any (fun d =>
    if d < n then decide (tsrDim t d = 0 ∨ tsrBox t d = 0) else decide (tsrDim t d ≠ 0 ∨ tsrStride t d ≠ 0 ∨ tsrBox t d ≠ 0)) ||
  decide (tsrStride t 0 ≠ 0) || ((List.range 5).drop 1).any (fun d => decide (tsrStride t d % 4 ≠ 0)) ||
  (decide (w < 8) && decide (c0 * w % 8 ≠ 0 ∨ tsrBox t 0 * w % 8 ≠ 0)) || decide (2 ^ 24 < boxRows t * tsrBox t 0 * w / 8)

/-- R316: flags, swizzle, index, peer, scale, multicast and reserved bytes. -/
def tsrOther (kind : Nat) (mc : Bool) (c : List Word) (t : List Byte) (slot : Option Resv) : Bool :=
  let swz := cpySwizzle c t
  let indexed := kind = 2 ∨ kind = 3
  let planes := kind == 5 || (kind == 2 && cpyPs c)
  decide (128 ≤ tsrFlags t) || decide (tsrOob t = 3) || decide (2 < tsrSwz t) ||
  (decide (swz = 1) && decide (rowBytes t % 128 ≠ 0)) || (decide (swz = 2) && decide (rowBytes t % 256 ≠ 0)) ||
  (decide indexed && !tsrIdx t) ||
  (tsrIdx t && (!([2, 4, 8].contains (tsrIsz t)) || decide (tsrIdim t = 0 ∨ tsrRank t ≤ tsrIdim t) ||
    decide (tsrIlist t % tsrIsz t ≠ 0) ||
    (decide indexed && decide (tsrIcount t < cpyWord c 3 + tsrBox t (tsrIdim t))))) ||
  (if kind = 6 then !tsrPeer t || decide (11 < tsrPport t) else tsrPeer t) ||
  !([0, 16, 32].contains (tsrSblk t)) || (decide (tsrScale t ≠ 0) && !planes) ||
  (match slot with
    | some v => decide (tsrSblk t ≠ (if v.bl = 1 then 32 else if v.bl = 2 then 16 else 0))
    | none => false) ||
  (mc && decide (tsrSmask t = 0)) || ((t.drop 0x8B).take 5).any (fun b => b != 0) || (t.drop 0xA0).any fun b => b != 0

/-- The traps of CPY and CPYM after the record has been read, in the order of R230. -/
def cpyTrap (g : Group) (b : Block) (kind : Nat) (mc mma : Bool) (c : List Word) (t : List Byte) : Option (Nat × Nat) :=
  let planes := cpyPs c || decide (kind = 5)
  let slot := nth g.slots (cpySlot c) none
  if planes && (match slot with | some v => !wholeTiles v t | none => true) then some (cMatrixForm, 0)
  else if mma && mmaBad g b (c.drop 8) then some (cMatrixForm, 0)
  else if tsrShape kind c t || tsrOther kind mc c t (if planes then slot else none) then some (cTsrInvalid, cpyTsr c)
  else if cpyOff c % 16 ≠ 0 then some (cMisaligned, cpyOff c)
  else if descMisaligned (nth c 6 0) then some (cMisaligned, descOff (nth c 6 0))
  else none

/-- CPY and CPYM (R317, R328). -/
def State.issueCopy (s : State) (w : UC) (mma : Bool) : Result :=
  s.uniRun w.kx [(w.a.toNat, if mma then 12 else 8)] true
    (let c := s.me.blockWords w.a.toNat (if mma then 12 else 8)
    let kind := w.fn.toNat % 8
    let mc := w.fn.getLsbD 3
    if cpyForm kind mc mma c then s.trapAll cIllegalForm 0
    else
      match recordAddr (cpyTsr c) 64 with
      | some cause => s.trapAll cause (cpyTsr c)
      | none =>
        match s.readTsr (cpyTsr c) with
        | .error k => s.finishUni .read k s
        | .ok (t, miss, s1) =>
          match cpyTrap s.me (s.block s.anchorBlk) kind mc mma c t with
          | some x => s1.trapAll x.1 x.2
          | none =>
            let slot := if cpyPs c || decide (kind = 5) then nth s.me.slots (cpySlot c) none else none
            s1.issueWith w.kx (if miss then 63 else 7) (.cpy kind mc) w.b.toNat c t slot (if mma then some (c.drop 8) else none))

def execCpy (w : UC) (s : State) : Result := s.issueCopy w false
def execCpym (w : UC) (s : State) : Result := s.issueCopy w true

/-- QFEN (R116, R329). A poisoned mask register raises POISON at its read, as R421 has it of any register, though R329 names no trap after
decoding: the model's choice (assumption 88). -/
def execQfen (w : UC) (s : State) : Result :=
  s.uniRun w.kx [(w.a.toNat, 1)] true
    (s.issueWith w.kx 7 (.qfen ((kVal s.me w.a.toNat).toNat % 65536)) w.b.toNat [] [] none none)

/-! KV commands. -/

/-- The forms of R332 that raise ILLEGAL_FORM. -/
def kvldForm (c : List Word) : Bool :=
  decide (2 ^ 15 ≤ cpyWord c 1) || decide (2 ^ 24 ≤ cpyWord c 2) || decide (512 ≤ cpyWord c 3) || decide (256 < kvldCount c) ||
  decide (2 ^ 28 ≤ cpyWord c 4) || (!kvldPs c && decide (kvldSlot c ≠ 0)) || (kvldPs c && decide (kvldOff c ≠ 0)) ||
  decide (cpyWord c 7 ≠ 0) || descForm (nth c 5 0)

/-- The slot of a plane-split KVLD does not fit (R180). -/
def kvldSlotBad (root : Option (List Byte)) (c : List Word) (slot : Option Resv) : Bool :=
  match slot with
  | none => true
  | some v =>
    !v.roleB || decide (v.bl ≠ 0) ||
    match root with
    | some r => decide (v.len < kvldTiles r (field (cpyWord c 1) 14 1) (kvldCount c) * planeCount v.fmt * 256)
    | none => false

/-- The traps of KVLD, in the order of R230. -/
def kvldTrap (g : Group) (b : Block) (root : Option (List Byte)) (mma : Bool) (c : List Word) : Option (Nat × Nat) :=
  if kvldForm c then some (cIllegalForm, 0)
  else if kvldPs c && kvldSlotBad root c (nth g.slots (kvldSlot c) none) then some (cMatrixForm, 0)
  else if mma && mmaBad g b (c.drop 8) then some (cMatrixForm, 0)
  else
    match root with
    | none => some (cAccessDenied, 0)
    | some r =>
      if !(kvldTuple c (kvldPos c)).ok r ||
          (decide (0 < kvldCount c) && !(kvldTuple c (kvldPos c + kvldCount c - 1)).ok r) then some (cAccessDenied, 0)
      else if kvldOff c % 16 ≠ 0 then some (cMisaligned, kvldOff c)
      else if descMisaligned (nth c 5 0) then some (cMisaligned, descOff (nth c 5 0))
      else none

/-- KVLD (R180, R332). -/
def execKvld (w : UC) (s : State) : Result :=
  let mma := w.fn.getLsbD 0
  s.uniRun w.kx [(w.a.toNat, if mma then 12 else 8)] true
    (let c := s.me.blockWords w.a.toNat (if mma then 12 else 8)
    match kvldTrap s.me (s.block s.anchorBlk) (s.grid s.me.grid).kvRoot mma c with
    | some x => s.trapAll x.1 x.2
    | none =>
      s.issueWith w.kx 7 .kvld w.b.toNat c [] (if kvldPs c then nth s.me.slots (kvldSlot c) none else none)
        (if mma then some (c.drop 8) else none))

/-- The sequence of a KVST is read-only (R174): its entry, as the lowest active lane reads it at issue. -/
def State.kvstReadOnly (s : State) (root : List Byte) (t : KvTuple) : Bool :=
  let w : Walker := ⟨s.me.grid, s.myCtx, s.master s.me.grid, (s.me.thread (lowLane s.me.cur)).party, false⟩
  match s.walkSeq w root t.seq with
  | .ok e => e.2.2
  | .error _ => false

/-- The traps of KVST, in the order of R230 (R333). -/
def State.kvstTrap (s : State) (c : List Word) : Option (Nat × Nat) :=
  let t := kvstTuple c
  if field (cpyWord c 0) 24 5 ≠ 0 then some (cIllegalForm, 0)
  else
    match (s.grid s.me.grid).kvRoot with
    | none => some (cAccessDenied, 0)
    | some r =>
      if !t.ok r || s.kvstReadOnly r t then some (cAccessDenied, 0)
      else if cpyWord c 2 % 4 ≠ 0 then some (cMisaligned, cpyWord c 2 % 2 ^ 24)
      else none

/-- KVST (R182, R333). -/
def execKvst (w : UC) (s : State) : Result :=
  s.uniRun w.kx [(w.a.toNat, 2), (w.b.toNat, 1)] true
    (let c := [kVal s.me w.a.toNat, kVal s.me (w.a.toNat + 1), kVal s.me w.b.toNat]
    match s.kvstTrap c with
    | some x => s.trapAll x.1 x.2
    | none => s.issueWith w.kx 7 (.kvst (w.fn.getLsbD 4)) (w.fn.toNat % 16) c [] none none)

/-! MRG and RFEN. -/

/-- A merge record that is not valid (R335). -/
def mrgInvalid (t : List Byte) : Bool :=
  decide (recNum t 4 1 ≠ 3 ∨ recNum t 5 3 ≠ 0 ∨ recNum t 0x50 16 ≠ 0) ||
  (List.range 9).any fun i => decide (2 ^ 56 ≤ mrgVa t i ∨ mrgVa t i % 4 ≠ 0)

/-- MRG (R335, R336). -/
def execMrg (w : UC) (s : State) : Result :=
  s.uniRun w.kx [(w.a.toNat, 4)] true
    (let c := s.me.blockWords w.a.toNat 4
    if descForm (nth c 2 0) then s.trapAll cIllegalForm 0
    else
      match recordAddr (cpyTsr c) 32 with
      | some cause => s.trapAll cause (cpyTsr c)
      | none =>
        match s.readRecord (s.me.thread (lowLane s.me.cur)).party (cpyTsr c) 96 with
        | .error k => s.finishUni .read k s
        | .ok t =>
          if mrgInvalid t then s.trapAll cTsrInvalid (cpyTsr c)
          else if descMisaligned (nth c 2 0) then s.trapAll cMisaligned (descOff (nth c 2 0))
          else s.issueWith w.kx 56 (.mrg (w.fn.getLsbD 1) (w.fn.getLsbD 0)) w.b.toNat c t none none)

/-- RFEN (R337). -/
def execRfen (w : UC) (s : State) : Result :=
  s.uniRun w.kx [] true
    ({ s with tsrCache := s.tsrCache.filter fun e => e.2.1 != s.myCtx }.switch (kxLen w.kx) 1 200)

/-! The start of an operation. -/

/-- The operation of an identity. -/
def State.op (s : State) (id : Nat) : Option Op := s.ops.find? fun o => o.id == id

/-- Everything an operation follows has completed (R115, R116). -/
def State.opReady (s : State) (o : Op) : Bool := o.after.all fun i => !s.ops.any fun x => x.id == i

/-- The operation runs on a merge unit. -/
def Op.merges (o : Op) : Bool := match o.kind with | .mrg _ _ => true | _ => false

/-- The operation occupies an engine context; one that a fault or a PRI wait holds leaves it to other queues (R323). -/
def Op.onEngine (o : Op) : Bool := decide (o.stage = .running)

/-- The engine of the operation's station that takes it (R341), or the station's merge unit. -/
def State.freeEngine (s : State) (o : Op) : Option Nat :=
  let stn := stationOf o.core
  if o.merges then
    if s.ops.any fun x => x.merges && x.onEngine && decide (stationOf x.core = stn) then none else some stn
  else ((List.range 4).map fun i => 4 * stn + i).find? fun e =>
    decide ((s.ops.filter fun x => !x.merges && x.onEngine && x.engine == e).length < 2)

/-- The blocks a multicast delivers to (R320): those of the grid on the stations of SMASK, when it starts. -/
def State.opTargets (s : State) (o : Op) : List Nat :=
  match o.kind with
  | .cpy _ true =>
    (s.blocks.filter fun b => decide (b.grid = o.grid) && (tsrSmask o.record).testBit b.station).map fun b => b.uid
  | _ => [o.blk]

/-- A marker that completes (R116): it sends nothing. -/
def Op.markerDone (o : Op) : OpDone where
  id := o.id
  grid := o.grid
  blk := queueBlock o.grid o.blk o.core
  queue := o.queue
  after := o.after
  marker := true
  sender := o.party.sender Rank.lowest
  word := none
  value := 0
  aborted := false

/-! Faults and aborts. -/

/-- The engine fields of a record (R384). -/
def Op.unit (o : Op) : Nat × Nat :=
  match o.kind with
  | .mrg _ _ => (stationOf o.core, 1)
  | .kvld => (o.engine, 2)
  | .kvst _ => (o.engine, 2)
  | _ => (o.engine, 0)

/-- The trap record of an operation (R323). -/
def State.opRec (s : State) (o : Op) (cause va kv : Nat) : TrapRec where
  fd := s.fdOf o.grid
  async := true
  cause := cause
  ctx := o.ctx
  handle := o.grid
  tid := o.tid.toNat
  pc := o.pc.toNat
  va := va
  core := o.core
  stn := stationOf o.core
  gslot := o.gslot
  kv := kv
  unitValid := true
  unit := o.unit.1
  kind := o.unit.2
  queue := o.queue
  time := s.now
  rcnt := match o.heldItem with | some h => h.replays | none => 0

/-- The operation and those behind it in its queue are credited to received (R324). -/
def State.creditAborts (s : State) (o : Op) : State :=
  let n := (s.ops.filter fun x => decide (x.grid = o.grid ∧ x.blk = o.blk ∧ x.queue = o.queue ∧ o.id ≤ x.id) &&
    (match x.kind with | .qfen _ => false | _ => true))
  s.onGrid o.grid fun g => n.foldl (fun g x => g.counts x.node 0 1) g

/-- Aborts an operation (R324): CPSTAT, its credit, a record with F and A, and the teardown of its fault domain. -/
def State.abortOp (s : State) (o : Op) (cause va : Nat) (log : Option (Nat × Nat × Nat × Access)) : State :=
  let s1 := match log with
    | some x => s.logDenial x.1 x.2.1 x.2.2.1 x.2.2.2
    | none => s
  (((s1.cpEvent o.ctx 2 o.queue cause).creditAborts o).leaveBytes o.party).takeFatal (s.opRec o cause va 0)

/-- A fault of an operation (R323, R390): held under a token and recorded with R and A; after 15 replays it is fatal. -/
def State.faultOp (s : State) (o : Op) (cause va kv : Nat) : State :=
  let rc := match o.heldItem with | some h => h.replays | none => 0
  if rc = 15 then s.abortOp o cReplayLimit va none
  else
    let tk := match o.heldItem with | some h => h.token | none => s.freshToken
    let r := { s.opRec o cause va kv with replay := true, token := tk, gen := genOf o.heldItem cause va }
    let held : Held := ⟨tk, false, [(cause, va, r.gen)], 0, rc, false, []⟩
    ((s.putOp { o with stage := .heldFault, heldItem := some held }).trace o.ctx (stationOf o.core) o.gslot).postHeld (s.ctx o.ctx).fn
      o.grid [r]

/-- The state a stopped run leaves. -/
def Run.stopped (r : Run) (x : OpStop) : State :=
  match x with
  | .fault c va kv => (r.s.putOp r.o).faultOp r.o c va kv
  | .abort c va log => (r.s.putOp r.o).abortOp r.o c va log
  | .pri page _ =>
    { r.s.putOp { r.o with stage := .pri } with
      priNext := r.s.priNext + 1, priWaits := r.s.priWaits ++ [(r.s.priNext, page)] }
  | .hole pa => { r.s with hole := some pa }

/-- OPERATION_START (R341): an engine, and at its first start the queue-order edges (R113, R115) and the targets; one that a fault or
a pre-emption stopped goes on through the view and with the pending writes it has (R113, R124). Its engine reads its record, and consumes
poison there (R421, assumption 82). -/
def execOperationStart (id : Nat) (s : State) : Result :=
  .next (match s.op id with
    | none => s
    | some o =>
      if o.stage ≠ .queued ∨ s.opReady o = false ∨ s.still o.blk = true ∨ nth s.power.cur (stationOf o.core) 0 = 3 then s
      else
        match o.kind with
        | .qfen _ => { s with ops := s.ops.filter (fun x => x.id != id), doneOps := s.doneOps ++ [o.markerDone] }
        | _ =>
          match s.freeEngine o with
          | none => s
          | some e =>
            if s.poison.any (fun p => match p with | .engineRec i _ => i == id | _ => false) then s.abortOp o cPoison 0 none
            else if o.began then s.putOp { o with stage := .running, engine := e, due := s.now + 56 }
            else
            let ss := (s.doneOps.filter fun d => o.after.contains d.id && !d.marker && !d.aborted).map fun d => d.sender
            let edge := s.edge ss []
            let o1 := { o with
              stage := .running, began := true, engine := e, targets := s.opTargets o, due := s.now + 56,
              party := if ss.isEmpty then o.party else o.party.receive edge }
            ((s.settleEdge edge).foldSent ss).putOp o1)

/-- OPERATION_FAULT (R323). -/
def execOperationFault (id : Nat) (s : State) : Result :=
  .next (match s.op id with
    | none => s
    | some o =>
      if o.stage ≠ .running then s
      else
        let r := s.opRun o
        match r.stop with
        | some (.fault c va kv) => r.stopped (.fault c va kv)
        | some (.pri page va) => r.stopped (.pri page va)
        | _ => s)

/-- The peer of a peer copy refuses it (R366, R367). -/
def peerRefuses (o : Op) (cause : Nat) : Bool :=
  (match o.kind with | .cpy 6 _ => true | _ => false) && (cause == cAccessDenied || cause == cReplayLimit)

/-- OPERATION_ABORT (R324). -/
def execOperationAbort (id cause : Nat) (s : State) : Result :=
  .next (match s.op id with
    | none => s
    | some o =>
      if o.stage ≠ .running then s
      else
        let r := s.opRun o
        match r.stop with
        | some (.abort c va log) => if c = cause then r.stopped (.abort c va log) else s
        | some (.hole pa) => { s with hole := some pa }
        | some _ => s
        | none => if peerRefuses o cause then s.abortOp o cause (tsrBase o.record) none else s)

/-! Completion. -/

/-- The sender an operation is. -/
def Op.sender (o : Op) : Sender := o.party.sender (Rank.op o.group o.rankKey o.id)

/-- Publishes the completion value on the rings of the target blocks whose windows it lies in (R72, R231): whether a publication is a
misuse, the operation with the targets that are left, and the state. Each block's publication waits for its own window (R320). -/
def State.publishOp (s : State) (o : Op) : Bool × Op × State :=
  (s.liveTargets o).foldl (fun (a : Bool × Op × State) b =>
    if a.1 then a
    else
      let ring := a.2.2.ring b (descOff o.desc.1)
      match ring.tryFull o.desc.2 with
      | .misuse => (true, a.2)
      | .wait => (false, { a.2.1 with targets := a.2.1.targets ++ [b] }, a.2.2)
      | .go =>
        let p := ring.publish o.desc.2 ⟨[a.2.1.sender], [], none⟩
        (false, { a.2.1 with party := a.2.1.party.fold },
          (a.2.2.putRing b (descOff o.desc.1) p).wakeRing b (descOff o.desc.1))) (false, { o with targets := [] }, s)

/-- The completion word in one block (R114, R231): the operation afterwards, the word it wrote. -/
def State.completeWord (s : State) (o : Op) (b : Nat) : Op × Option Loc × State :=
  let off := descOff o.desc.1
  let r : Run := ⟨s, o, none, []⟩
  if (s.block b).sb < off + 4 then
    let r1 := r.noteOob true off
    (r1.o, none, r1.s)
  else
    let l : Loc := .spad b off
    ({ o with party := o.party.didAtomic [l] }, some l, (s.forgetWord l).setAtom o.grid l (.block b) o.desc.2)

/-- What is kept of a completed operation for its observers (R114). -/
def Op.doneAt (o : Op) (l : Option Loc) : OpDone where
  id := o.id
  grid := o.grid
  blk := queueBlock o.grid o.blk o.core
  queue := o.queue
  after := o.after
  marker := false
  sender := o.sender
  word := l
  value := o.desc.2
  aborted := false

/-- The last byte of an operation has landed: its follow-on MMA receives its issue edge and may start (R169, R328). -/
def State.startFollow (s : State) (o : Op) : Op × State :=
  match s.mmas.find? fun m => m.follows == some o.id with
  | none => (o, s)
  | some m =>
    let e := s.edge [o.sender] []
    let s1 := (s.settleEdge e).putMma { m with follows := none, party := Party.fresh m.party.pid e }
    let o1 := { o with party := o.party.fold }
    (o1, (s1.putOp o1).settleQueue m.group)

/-- Groups parked on the operation buffer, the WAITAs and the matrix queues test again. -/
def State.wakeAll (s : State) : State := s.wakeWaita.wakeMatrix

/-- The end of an operation whose descriptor has been performed (R322): received, the senders of phase end and grid
completion, the events of R151. -/
def State.retireOp (s : State) (o : Op) (words : List (Option Loc)) : State :=
  let ds := if words.isEmpty then [o.doneAt none] else words.map o.doneAt
  let s1 := { s with ops := s.ops.filter (fun x => x.id != o.id), doneOps := s.doneOps ++ ds }
  let s2 := s1.onGrid o.grid fun g => { g.counts o.node 0 1 with
    ended := g.ended ++ [o.sender]
    arrivedPhase := g.arrivedPhase ++ [(g.phases, o.sender)] }
  (s2.addEv o.grid o.blk (stationOf o.core) o.ev).wakeAll

/-- Performs the completion descriptor and ends the operation (R231, R322); a publication outside the window holds it. -/
def State.finishOp (s : State) (o : Op) : State :=
  let d := o.desc.1
  if descP d then
    let r := s.publishOp o
    if r.1 then r.2.2.takeFatal (r.2.2.opRec r.2.1 cSlotMisuse 0 0)
    else if r.2.1.targets.isEmpty then r.2.2.retireOp r.2.1 []
    else r.2.2.putOp { r.2.1 with stage := .publishing }
  else if descZ d then s.retireOp o []
  else
    let r := (s.liveTargets o).foldl (fun (a : Op × List (Option Loc) × State) b =>
      let x := a.2.2.completeWord a.1 b
      (x.1, a.2.1 ++ [x.2.1], x.2.2)) (o, [], s)
    r.2.2.retireOp r.1 r.2.1

/-! The corner-turn buffer (R182). -/

/-- Writes an open frame out: its appends complete. -/
def State.writeFrame (s : State) (c : Corner) : State :=
  let s1 := { s with corner := s.corner.filter fun x => !decide (x.core = c.core ∧ x.frame = c.frame ∧ x.grid = c.grid) }
  c.cols.foldl (fun t x => match t.op x.2.2 with | some o => t.finishOp o | none => t) s1

/-- The columns staged in an open frame replace what the append that opened it holds in their places: they are written out as one line
(R182). -/
def State.overZeros (s : State) (o : Op) (frame tok : Nat) : State :=
  match (s.openFrame o frame).bind fun c => c.cols.head?.filter fun x => x.1 != tok with
  | none => s
  | some x => { s with ops := s.ops.map fun p =>
      if p.id = x.2.2 then { p with party := { p.party with pend := p.party.pend.filter fun y => !o.party.pend.any fun z => z.1 == y.1 } }
      else p }

/-- Stages the column of an append whose writes are pending; the frame goes out when R182 says so. -/
def State.stageColumn (s : State) (o : Op) (frame tok dim es : Nat) (close : Bool) : State :=
  let s1 := (s.overZeros o frame tok).putOp { o with stage := .landed }
  let c := (s1.openFrame o frame).getD ⟨o.core, frame, o.grid, dim, es, [], s.now⟩
  let c1 := { c with cols := c.cols ++ [(tok, [], o.id)] }
  let rest := s1.corner.filter fun x => !decide (x.core = o.core ∧ x.frame = frame ∧ x.grid = o.grid)
  let mine := rest.filter fun x => decide (x.core = o.core)
  let s2 := match (if 16 ≤ mine.length then mine.head? else none) with
    | some old => { s1 with corner := rest }.writeFrame old
    | none => { s1 with corner := rest }
  let s3 := { s2 with corner := s2.corner ++ [c1] }
  if c1.cols.length = 16 ∨ tok = 63 ∨ close = true then s3.writeFrame c1 else s3

/-- CORNER_TURN_TIMEOUT (R182): an open frame of a core is written out. -/
def execCornerTurnTimeout (core index : Nat) (s : State) : Result :=
  .next (match (s.corner.filter fun c => decide (c.core = core))[index]? with
    | some c => s.writeFrame c
    | none => s)

/-- An operation whose last byte has landed completes (R322), its follow-on MMA first (R328). -/
def State.landOp (s : State) (o : Op) : State :=
  let f := s.startFollow o
  f.2.finishOp f.1

/-- What follows an operation's last byte: an append of kind V waits in the corner-turn buffer (R182). -/
def Run.landed (r : Run) : State :=
  match r.o.kind, r.grid.kvRoot with
  | .kvst close, some root =>
    let t := kvstTuple r.o.cmd
    if t.kind = 0 then r.s.landOp r.o
    else
      match r.kvstFrame root t with
      | .ok frame => r.s.stageColumn r.o frame (t.pos % 64) (kvDim root) (kvEs root) close
      | .error _ => r.s.landOp r.o
  | _, _ => r.s.landOp r.o

/-- OPERATION_COMPLETION (R322). -/
def execOperationCompletion (id : Nat) (s : State) : Result :=
  .next (match s.op id with
    | none => s
    | some o =>
      match o.stage with
      | .running =>
        let r := s.opRun o
        if r.stop.isSome then s else r.landed
      | .publishing => s.finishOp o
      | _ => s)

/-- A command that waits for a place in the operation buffer enters it, if it may (R313). -/
def State.enterBuffer (s : State) : Result :=
  match s.me.insn with
  | some (.cpy w) => execCpy w s
  | some (.cpym w) => execCpym w s
  | some (.qfen w) => execQfen w s
  | some (.kvld w) => execKvld w s
  | some (.kvst w) => execKvst w s
  | some (.mrg w) => execMrg w s
  | some (.mma w) => execMma w s
  | _ => .next s

end Sys2Proof.Machine
end

