-- ==== Sys2Proof/Machine/System.lean ====
section
/-! DEFINITION. The SYS functions (R304 to R311) but for TAIL and EXITG, and the events of the interrupt coalescers (R368). -/

namespace Sys2Proof.Machine

/-! Coalescers. -/

/-- The coalescer of a function and vector; one that is not listed stands at its reset value (R368). -/
def State.coalOf (s : State) (f v : Nat) : Coal :=
  (s.coal.find? fun c => decide (c.fn = f ∧ c.vector = v)).getD ⟨f, v, true, 16, 20, 0, 0, 0⟩

/-- Replaces a coalescer. -/
def State.putCoal (s : State) (c : Coal) : State :=
  { s with coal := c :: s.coal.filter fun x => !decide (x.fn = c.fn ∧ x.vector = c.vector) }

/-- An event for a function and vector (R368). -/
def State.coalEvent (s : State) (f v : Nat) : State :=
  let c := s.coalOf f v
  s.putCoal { c with evtot := c.evtot + 1, pending := c.pending + 1, t0 := if c.pending = 0 then s.now else c.t0 }

/-! NOP, YIELD, PREF, CLK. -/

/-- NOP (R304). -/
def execNop (w : UF) (s : State) : Result := s.uniRun w.kx [] false (s.advance (kxLen w.kx) 1)

/-- YIELD (R304): a switch point and nothing more. -/
def execYield (w : UF) (s : State) : Result := s.uniRun w.kx [] true (s.switch (kxLen w.kx) 1 0)

/-- The address of the last word of an instruction with an optional KX. -/
def State.wordPc (s : State) (k : Option Kx) : Nat := s.me.pc.toNat + 4 * (kxLen k - 1)

/-- The target of a PREF (R304). -/
def State.prefTarget (s : State) (w : UF) : Nat :=
  if w.a = 511 then
    (BitVec.ofNat 64 (s.wordPc w.kx / 128 * 128) + ((BitVec.ofNat 16 (kxImmHi w.kx)).signExtend 64 <<< 7)).toNat
  else (kPair s.me w.a.toNat).toNat

/-- Starts the fill of a line that can be translated and is neither present nor on its way (R304). -/
def State.prefetch (s : State) (va : Nat) : State :=
  if 2 ^ 56 ≤ va then s
  else
    match translate s s.myCtx (s.master s.me.grid) va .fetch with
    | .ok _ => s.startFill (stationOf s.me.core) (lineOf va)
    | _ => s

/-- PREF (R304): it never traps, and a poisoned pair starts no fill (assumption 88). -/
def execPref (w : UF) (s : State) : Result :=
  let bad := s.kPoison (if w.a = 511 then [] else [(w.a.toNat, 2)])
  s.uniRun w.kx [] false ((if bad then s else s.prefetch (s.prefTarget w)).advance (kxLen w.kx) 1)

/-- CLK (R250, R304): one sample of the device time counter. -/
def execClk (w : UF) (s : State) : Result :=
  s.uniRun w.kx [] false
    (((s.clearK w.a.toNat 2).onMe fun g => g.setKPair w.a.toNat (BitVec.ofNat 64 s.now)).advance (kxLen w.kx) 1)

/-! TRAP and BRKP. -/

/-- The debug level of a context (R409). -/
def State.debugLevel (s : State) (c : Nat) : Nat := field s.sec.dbgLvl.toNat (2 * c) 2

/-- TRAP (R305): it completes as a switch point, and then TRAP_INSN is taken. -/
def execTrap (w : UF) (s : State) : Result :=
  s.uniRun w.kx [] true ((s.switch (kxLen w.kx) 1 0).takeResumable cTrapInsn s.me.pc.toNat w.b.toNat)

/-- BRKP (R305, R409): as TRAP in a context at level 2, and a switch point in any other. -/
def execBrkp (w : UF) (s : State) : Result :=
  s.uniRun w.kx [] true
    (if s.debugLevel s.myCtx = 2 then (s.switch (kxLen w.kx) 1 0).takeResumable cBreakpoint s.me.pc.toNat w.b.toNat
    else s.switch (kxLen w.kx) 1 0)

/-! CSRs (R310). -/

/-- FSTAT of the block the group's uniform instructions act on: its anchor's, or the task block's (R44, R151). -/
def State.fstatOf (s : State) : Word :=
  if s.anchorBlk = 0 then ((s.grid s.me.grid).station (stationOf s.me.core)).fstat else (s.block s.anchorBlk).fstat

/-- What CSRR returns (R310). -/
def State.csr (s : State) (n : Nat) : Word :=
  let c := s.ctx s.myCtx
  match n with
  | 0 => 0x41280100
  | 1 => s.me.cvc.setWidth 32
  | 2 => s.me.srseed
  | 3 => s.me.dphase.setWidth 32
  | 4 => s.fstatOf
  | 5 => c.spstat
  | 6 => c.spblk
  | 7 => c.cpstat
  | _ => BitVec.ofNat 32 c.cap

/-- FSTAT with its reserved bits 0 (R4, R150). -/
def fstatMask (x : Word) : Word := x &&& 0xFFFFFF0F

/-- Replaces FSTAT (R151). -/
def State.setFstat (s : State) (x : Word) : State :=
  if s.anchorBlk = 0 then
    s.onGrid s.me.grid fun g => g.onStation (stationOf s.me.core) fun y => { y with fstat := fstatMask x }
  else s.onBlock s.anchorBlk fun b => { b with fstat := fstatMask x }

/-- The effect of CSRW (R308, R310). -/
def State.setCsr (s : State) (n : Nat) (x : Word) : State :=
  match n with
  | 1 => s.onMe fun g => { g with cvc := x.setWidth 5 }
  | 2 => (s.onMe fun g => { g with srseed := x }).setGen s.me.core s.me.pipe (seedLoad x s.me.core s.me.pipe)
  | 3 => s.onMe fun g => { g with dphase := x.setWidth 5 }
  | 4 => s.setFstat x
  | 5 => s.onCtx s.myCtx fun c => { c with spstat := 0, spblk := 0 }
  | 6 => s.onCtx s.myCtx fun c => { c with spstat := 0, spblk := 0 }
  | 7 => s.onCtx s.myCtx fun c => { c with cpstat := 0 }
  | _ => s

/-- CSRR (R307). -/
def execCsrr (w : UF) (s : State) : Result := s.uniCalc w.kx [] fun g => g.setK w.a.toNat (s.csr w.b.toNat)

/-- CSRW (R308). -/
def execCsrw (w : UF) (s : State) : Result :=
  s.uniRun w.kx [(w.a.toNat, 1)] true ((s.setCsr w.b.toNat (kVal s.me w.a.toNat)).switch (kxLen w.kx) 1 0)

/-! HSIG and HFLUSH. -/

/-- HSIG (R306, R354): the event reaches the coalescer of the function that owns the context. -/
def execHsig (w : UF) (s : State) : Result :=
  s.uniRun w.kx [(w.a.toNat, 1)] true
    ((s.coalEvent (s.ctx s.myCtx).fn ((kVal s.me w.a.toNat).toNat % 32)).switch (kxLen w.kx) 1 0)

/-- The aperture bytes of a range, as pieces of device memory (R309). -/
def State.flushPieces (s : State) (base len : Nat) : List (Nat × Nat) :=
  (cutsOf base len).filterMap fun c => ((s.aperturePa s.myCtx c.1).getD none).map fun pa => (pa, c.2)

/-- The first piece of a range whose walk consumes a poisoned table entry (R421). -/
def State.flushPoison (s : State) (base len : Nat) : Option Nat :=
  ((cutsOf base len).find? fun c => (s.aperturePa s.myCtx c.1).isNone).map fun c => c.1

/-- A byte of a merged view (R427), the launch value where no sender has another. -/
def mergedByte (g : Grid) (v : List VCell) (l : Loc) : Byte :=
  match findCell l v with
  | some c => c.byte
  | none => g.launchByte l

/-- The flush edge (R123): host reads of the pieces return the merged view of the active threads. A range that holds no aperture byte
makes no edge and ends no quantum, which is the model's choice (assumption 80). -/
def State.flushRange (s : State) (pieces : List (Nat × Nat)) : State :=
  if pieces.isEmpty then s
  else
    let e := s.edge (s.me.laneSenders s.me.cur) []
    let r := (s.settleWhere e fun l => match l with
      | .mem a => pieces.any fun c => decide (c.1 ≤ a ∧ a < c.1 + c.2)
      | _ => false).onMe fun g => g.onLanes g.cur fun _ t => t.fold
    let v := mergedView e
    let g := s.grid s.me.grid
    pieces.foldl (fun (t : State) (c : Nat × Nat) =>
      (List.range c.2).foldl (fun (u : State) i => u.flushByte (c.1 + i) (mergedByte g v (.mem (c.1 + i)))) t) r

/-- The view cells that an invalidate gives a party: what the host last wrote to the pieces (R123), stamped with the party's own
quantum, so that the edges it receives later do not take the value for older than what it had before (assumption 92). -/
def State.hostCells (s : State) (pieces : List (Nat × Nat)) (p : Party) : List VCell :=
  s.hostBytes.filterMap fun x =>
    if pieces.any fun c => decide (c.1 ≤ x.1 ∧ x.1 < c.1 + c.2) then some ⟨.mem x.1, x.2, p.quantum⟩ else none

/-- HFLUSH.inv (R123): the view values of the active threads change, and no quantum ends. -/
def State.invalidate (s : State) (pieces : List (Nat × Nat)) : State :=
  s.onMe fun g => g.onLanes g.cur fun _ t =>
    { t with party := { t.party with view := (s.hostCells pieces t.party).foldl (fun v c => putCell c v) t.party.view } }

/-- HFLUSH (R309). It reads its pair with B = 511 too, so that poison there is taken, which is the model's choice (assumption 88). -/
def execHflush (w : UF) (s : State) : Result :=
  s.uniRun w.kx [(w.a.toNat, 2), (w.b.toNat, 1)] true
    (let base := (kPair s.me w.a.toNat).toNat
    let len := (kVal s.me w.b.toNat).toNat
    if len = 0 then s.switch (kxLen w.kx) 1 0
    else if 2 ^ 56 ≤ base ∨ 2 ^ 56 < base + len then s.trapAll cAccessDenied base
    else
      match s.flushPoison base len with
      | some va => s.trapAll cPoison va
      | none =>
        let pieces := s.flushPieces base len
        let s1 := if (kxExt4 w.kx).testBit 0 then s.invalidate pieces else s.flushRange pieces
        s1.switch (kxLen w.kx) 1 (900 + 2 * ((base % 64 + len + 63) / 64)))

end Sys2Proof.Machine
end

