-- ==== Sys2Proof/Machine/Launch.lean ====
section
/-! DEFINITION. Context entries (R356), pages that enter the views of live grids (R360), region control blocks (R369 to R373), the
region tree and its effective fields (R371, R372, R375). -/

namespace Sys2Proof.Machine

/-! Context entries. -/

/-- PA of a context's entry. -/
def State.ctxEntry (s : State) (c : Nat) : Nat := field s.ctxBase.toNat 12 44 * 4096 + 64 * c

/-- The hub reads a context's entry (R356, R407); CPSTAT, SPSTAT and SPBLK read 0 from the moment it is made valid (R89, R327). Of FN, whose
values above 7 name no function, it takes the low three bits, which is the model's choice (assumption 113). -/
def State.readCtx (s : State) (c : Nat) : State :=
  let r := if s.ctxBase.getLsbD 0 then s.readHub false (s.ctxEntry c) 64 else (0, s)
  let w (off n : Nat) : Nat := field r.1 (8 * off) (8 * n)
  r.2.onCtx c fun x =>
    { x with
      valid := (w 0 8).testBit 0
      groot := field (w 0 8) 13 43 * 8192
      ppool := field (w 8 8) 12 44 * 4096
      prel := field (w 16 8) 12 44 * 4096
      rsz := field (w 0x18 4) 16 16
      fn := field (w 0x18 4) 12 3
      fd := field (w 0x18 4) 0 6
      wva := field (w 0x20 8) 16 40 * 65536
      woff := field (w 0x28 4) 16 7
      wsz := field (w 0x28 4) 0 8
      armoff := field (w 0x2C 4) 3 20 * 8
      root := field (w 0x30 8) 8 48 * 256
      pcap := field (w 0x38 8) 0 9
      spstat := if x.valid then x.spstat else 0
      spblk := if x.valid then x.spblk else 0
      cpstat := if x.valid then x.cpstat else 0 }

/-! Pages of a context (R360). -/

/-- The valid entries of a table: their values. -/
def State.tableEntries (s : State) (table : Nat) : List Nat :=
  s.hbm.filterMap fun x =>
    if table ≤ x.1 ∧ x.1 < table + 8192 ∧ x.1 % 8 = 0 ∧ x.2.getLsbD 0 = true then some (s.readMem x.1 8) else none

/-- The pages below a table with `n` levels: in system memory or not, base, bytes. -/
def State.pagesFrom (s : State) : Nat → Nat → List (Bool × Nat × Nat)
  | 0, _ => []
  | n + 1, table =>
    ((s.tableEntries table).map fun e =>
      let a := field e 13 43 * 8192
      if e.testBit 1 then (if n < 2 then [(e.testBit 8, a, if n = 0 then 65536 else 67108864)] else [])
      else s.pagesFrom n a).flatten

/-- A memory that takes the bytes of another one in a range. -/
def Memory.copyRange (src dst : Memory) (a n : Nat) : Memory :=
  (src.filter fun x => decide (a ≤ x.1 ∧ x.1 < a + n)).foldl (fun m x => m.put x.1 x.2) (dropCells a n dst)

/-- A page that became device-owned enters the launch view of a grid with its contents (R360). -/
def Grid.gainPage (g : Grid) (hbm sys : Memory) (p : Bool × Nat × Nat) : Grid :=
  if p.1 then { g with snapSys := Memory.copyRange sys g.snapSys p.2.1 p.2.2 }
  else { g with snapMem := Memory.copyRange hbm g.snapMem p.2.1 p.2.2 }

/-- The grid is ACCEPTED or RUNNING. -/
def Grid.isLive (g : Grid) : Bool := decide (g.state = 2 ∨ g.state = 3)

/-- The pages of a context's tables are looked at again (R360, R362). -/
def State.syncPages (s : State) (c : Nat) : State :=
  let pages := s.pagesFrom 4 (s.ctx c).groot
  let new := pages.filter fun p => !(s.ctx c).pages.contains p
  { s.onCtx c (fun x => { x with pages := pages }) with
    grids := s.grids.map fun g => if g.ctx = c ∧ g.isLive = true then new.foldl (fun x p => x.gainPage s.hbm s.sysMem p) g else g }

/-! What the hub reads. -/

/-- `n` bytes at a VA of a context as the hub reads them (R358, R407), outside views; a denial is logged. -/
def State.hubRead (s : State) (c va n : Nat) : Option (List Byte) × State :=
  (cutsOf va n).foldl (fun (a : Option (List Byte) × State) p =>
    match a.1 with
    | none => a
    | some bs =>
      match translate a.2 c hubMaster p.1 .read with
      | .ok (.mem pa _) => (some (bs ++ Memory.bytes a.2.hbm pa p.2), a.2)
      | .ok (.sys x) => (some (bs ++ Memory.bytes a.2.sysMem x p.2), a.2)
      | .ok (.win off) => (some (bs ++ Memory.bytes a.2.window off p.2), a.2)
      | .denied (some x) => (none, a.2.logDenial x.1 hubMaster x.2 .read)
      | _ => (none, a.2)) (some [], s)

/-- A 64-bit word at a VA, 0 where it cannot be read. -/
def State.hubQuad (s : State) (c va : Nat) : Nat × State :=
  let r := s.hubRead c va 8
  ((r.1.map leNat).getD 0, r.2)

/-- The page of system memory for which a read of the hub would wait (R354). -/
def State.hubBlocked (s : State) (c va n : Nat) : Option Nat :=
  (cutsOf va n).findSome? fun p => match translate s c hubMaster p.1 .read with | .pri page => some page | _ => none

/-- The place behind a VA as one number, by which a record is told from others. -/
def State.placeKey (s : State) (c va : Nat) : Nat :=
  match translate s c hubMaster va .read with
  | .ok (.mem pa _) => pa
  | .ok (.sys a) => 2 ^ 60 + a
  | .ok (.win off) => 2 ^ 61 + off
  | _ => 2 ^ 62 + va

/-! The fields of a record (R369). -/

def rcbParent (r : List Byte) : Nat := recNum r 0x00 8
def rcbNsib (r : List Byte) : Nat := recNum r 0x10 8
def rcbCtl (r : List Byte) : Nat := recNum r 0x1C 4
def rcbWord (r : List Byte) : Nat := recNum r 0x50 4
def rcbFlags (r : List Byte) : Nat := recNum r 0x5C 4

/-- Blocks, groups per block. -/
def rcbBlocks (r : List Byte) : Nat := recNum r 0x40 4 * recNum r 0x44 4 * recNum r 0x48 4
def rcbGroups (r : List Byte) : Nat := recNum r 0x4C 4

/-- Reserved fields and bits of a record that are not 0 (R373, reason 0x01). -/
def rcbReserved (r : List Byte) : Bool :=
  decide (field (rcbCtl r) 27 5 ≠ 0 ∨ field (rcbCtl r) 22 2 ≠ 0 ∨ field (rcbCtl r) 4 12 ≠ 0 ∨ recNum r 0x2C 4 ≠ 0 ∨
    128 ≤ rcbFlags r ∨ 64 ≤ recNum r 0x68 4 ∨ recNum r 0x6C 4 ≠ 0) ||
  (rcbFlags r).testBit 3 || (r.drop 0x98).any fun b => b != 0

/-- The first check of R373 that fails, but for 0x0B; 0 when none does. -/
def rcbReason (c : Ctx) (ctx : Nat) (kvBad : Bool) (r : List Byte) : Nat :=
  let w := rcbWord r
  let segR := field w 0 6
  let segS := field w 6 6
  let segA := field w 12 6
  let g := rcbGroups r
  if rcbReserved r = true ∨ recNum r 0x68 4 % 64 ≠ ctx then 0x01
  else if recNum r 0x30 8 % 4 ≠ 0 ∨ 2 ^ 56 ≤ recNum r 0x30 8 then 0x02
  else if recNum r 0x40 4 = 0 ∨ recNum r 0x44 4 = 0 ∨ recNum r 0x48 4 = 0 ∨ g = 0 ∨ 384 < g then 0x03
  else if 2 ^ 31 < rcbBlocks r * (32 * g) then 0x04
  else if 48 < segR + segS + segA ∨ 40 < segR then 0x05
  else if field w 18 4 = 0 ∨ field w 22 5 = 0 ∨ 24 < field w 22 5 ∨ field w 27 5 ≠ 0 then 0x06
  else if segS * 131072 < recNum r 0x54 4 then 0x07
  else if 7 * segA < recNum r 0x58 4 ∨ 64 < recNum r 0x58 4 then 0x08
  else if 4 * groupsPerCore (BitVec.ofNat 32 w) < g then 0x09
  else if kvBad then 0x0A
  else if 128 < c.woff + c.wsz then 0x0C
  else 0

/-! The region tree (R371). -/

/-- Effective fields of a region. -/
structure Region where
  prio : Nat
  fd : Nat
  smask : Word
  gslots : Nat
  segs : Nat
  deriving DecidableEq, Repr

/-- The smaller non-zero limit of two. -/
def minLimit (a b : Nat) : Nat := if a = 0 then b else if b = 0 then a else min a b

/-- The fields of a context root. -/
def Region.root (r : List Byte) : Region :=
  ⟨rcbCtl r % 16, field (rcbCtl r) 16 6, BitVec.ofNat 32 (recNum r 0x20 4), recNum r 0x24 4, recNum r 0x28 4⟩

/-- The fields of a child. -/
def Region.child (p : Region) (r : List Byte) : Region :=
  let own := Region.root r
  let budget := (rcbCtl r).testBit 24
  { prio := if (rcbCtl r).testBit 25 then own.prio else p.prio
    fd := if (rcbCtl r).testBit 26 then own.fd else p.fd
    smask := if budget then own.smask &&& p.smask else p.smask
    gslots := if budget then minLimit own.gslots p.gslots else p.gslots
    segs := if budget then minLimit own.segs p.segs else p.segs }

/-- Records that a walk of the tree can meet: every one of them has a listed byte. -/
def State.walkBound (s : State) : Nat := s.hbm.length + s.sysMem.length + s.window.length + 1

/-- The effective fields of a record's parent, from its VA, and the state in which denials are logged; a tree whose root cannot be
read starts from the context's default fault domain (R356). -/
def regionAt (c : Nat) : Nat → Nat → State → Region × State
  | 0, _, s => (⟨0, (s.ctx c).fd, BitVec.allOnes 32, 0, 0⟩, s)
  | n + 1, va, s =>
    match s.hubRead c va 256 with
    | (none, t) => (⟨0, (s.ctx c).fd, BitVec.allOnes 32, 0, 0⟩, t)
    | (some r, t) =>
      if rcbParent r = 0 then (Region.root r, t)
      else
        let x := regionAt c n (rcbParent r) t
        (x.1.child r, x.2)

/-- The effective fields of a record armed by the host. -/
def State.region (s : State) (c : Nat) (r : List Byte) : Region × State :=
  if rcbParent r = 0 then (Region.root r, s)
  else
    let x := regionAt c s.walkBound (rcbParent r) s
    (x.1.child r, x.2)

/-- The effective fields of a grid. -/
def Grid.region (g : Grid) : Region := ⟨g.prio, g.fd, g.smask, g.gslots, g.segs⟩

/-! Links (R372, R375). -/

/-- The records of a sibling list from a VA, as the hub reads them. -/
def siblings (c : Nat) : Nat → Nat → State → List Nat × State
  | 0, _, s => ([], s)
  | n + 1, va, s =>
    if va = 0 then ([], s)
    else
      let q := s.hubQuad c (va + 0x10)
      let x := siblings c n q.1 q.2
      (va :: x.1, x.2)

/-- The children of a record. -/
def State.children (s : State) (c va : Nat) : List Nat × State :=
  let q := s.hubQuad c (va + 8)
  siblings c s.walkBound q.1 q.2

/-- Writes a link. -/
def State.setLink (s : State) (c va x : Nat) : State := s.hubWrite c va (natLe x 8)

/-- Appends a record to a parent's list: one write. -/
def State.appendChild (s : State) (c parent va : Nat) : State :=
  let x := s.children c parent
  match x.1.getLast? with
  | none => x.2.setLink c (parent + 8) va
  | some last => x.2.setLink c (last + 0x10) va

/-- A record armed by the host becomes a child of its PARENT (R372). -/
def State.linkHost (s : State) (c va : Nat) (r : List Byte) : State :=
  if rcbParent r = 0 then s
  else
    let x := s.children c (rcbParent r)
    if x.1.contains va then x.2 else x.2.appendChild c (rcbParent r) va

/-- The record before one in a list. -/
def before (va : Nat) : List Nat → Option Nat
  | a :: b :: r => if b = va then some a else before va (b :: r)
  | _ => none

/-- Removes a record from a parent's list, which stands in `list` (R375). -/
def State.unlink (s : State) (c parent va : Nat) (list : List Nat) : State :=
  let q := s.hubQuad c (va + 0x10)
  match before va list with
  | some p => q.2.setLink c (p + 0x10) q.1
  | none => q.2.setLink c (parent + 8) q.1

/-! The pages for which the hub's reads of links and records would wait (R354). -/

/-- The reads of a sibling list from a VA: a VA and a length each. -/
def State.listReads (s : State) (c : Nat) : Nat → Nat → List (Nat × Nat)
  | 0, _ => []
  | n + 1, va => if va = 0 then [] else (va + 0x10, 8) :: s.listReads c n (s.hubQuad c (va + 0x10)).1

/-- The reads of a record's list of children. -/
def State.childReads (s : State) (c va : Nat) : List (Nat × Nat) := (va + 8, 8) :: s.listReads c s.walkBound (s.hubQuad c (va + 8)).1

/-- The reads of a record and of those above it. -/
def State.treeReads (s : State) (c : Nat) : Nat → Nat → List (Nat × Nat)
  | 0, _ => []
  | n + 1, va => if va = 0 then [] else (va, 256) :: s.treeReads c n ((((s.hubRead c va 256).1).map rcbParent).getD 0)

/-- The first page for which one of a list of reads would wait. -/
def State.readsBlocked (s : State) (c : Nat) (l : List (Nat × Nat)) : Option Nat := l.findSome? fun x => s.hubBlocked c x.1 x.2

/-- The page for which linking a record that the host arms would wait. -/
def State.hostBlocked (s : State) (c : Nat) (r : List Byte) : Option Nat :=
  if rcbParent r = 0 then none
  else s.readsBlocked c (s.childReads c (rcbParent r) ++ s.treeReads c s.walkBound (rcbParent r))

/-- The page for which linking a record that a grid launches would wait: its own PARENT, and the lists it may move between. -/
def State.glnchBlocked (s : State) (c me va : Nat) : Option Nat :=
  let p := (s.hubQuad c va).1
  s.readsBlocked c ([(va, 32)] ++ s.childReads c me ++ if p = 0 then [] else s.childReads c p)

/-- A record launched by a grid becomes its child, and takes its context (R375). The links are those in memory, where the hub writes
them (assumption 78). -/
def State.linkGlnch (s : State) (c me va : Nat) : State :=
  let q := (s.hubWrite c (va + 0x68) (natLe c 4)).hubQuad c va
  let p := q.1
  let mine := q.2.children c me
  if p = me ∧ mine.1.contains va = true then mine.2
  else
    let theirs := if p = 0 ∨ p = me then ([], mine.2) else mine.2.children c p
    let s2 := if theirs.1.contains va then theirs.2.unlink c p va theirs.1 else theirs.2
    ((s2.setLink c va me).setLink c (va + 0x10) 0).appendChild c me va

/-- The record as the hub uses it after linking: with the context it wrote. -/
def rcbWithCtx (r : List Byte) (c : Nat) : List Byte := r.take 0x68 ++ natLe c 4 ++ r.drop 0x6C

/-! Grid handles (R338). -/

/-- The handle of a grid is valid: it runs, or it has ended and its parent has not completed (R339). -/
def Grid.named (g : Grid) : Bool := g.isLive || decide (g.parent ≠ orphan)

/-- A handle is taken: its grid is live, completed with its handle still valid (R339), or has pages to return. -/
def State.handleUsed (s : State) (h : Nat) : Bool :=
  s.grids.any fun g => decide (g.handle = h) && (g.isLive || (decide (g.state = 4) && g.named) || !g.privPages.isEmpty)

/-- The lowest free handle. -/
def State.freeHandle (s : State) : Option Nat := ((List.range 4095).map fun i => i + 1).find? fun h => !s.handleUsed h

/-- The record at a place is ACCEPTED or RUNNING. -/
def State.rcbLive (s : State) (key : Nat) : Bool := s.grids.any fun g => g.isLive && decide (g.rcb = key)

/-- The grid of a record, but for what its launch gives it. -/
def gridOf (h c key va : Nat) (rg : Region) (r : List Byte) : Grid :=
  { Grid.empty with
    handle := h
    ctx := c
    rcb := key
    rcbVa := va
    prio := rg.prio
    fd := rg.fd
    smask := rg.smask
    gslots := rg.gslots
    segs := rg.segs
    word := BitVec.ofNat 32 (rcbWord r)
    entry := BitVec.ofNat 64 (recNum r 0x30 8)
    param := BitVec.ofNat 64 (recNum r 0x38 8)
    dims := (recNum r 0x40 4, recNum r 0x44 4, recNum r 0x48 4)
    groups := rcbGroups r
    sbytes := recNum r 0x54 4
    ntiles := recNum r 0x58 4
    flags := BitVec.ofNat 32 (rcbFlags r)
    compVa := BitVec.ofNat 64 (recNum r 0x70 8)
    compVal := BitVec.ofNat 64 (recNum r 0x78 8)
    vlogMiB := 2 ^ field (rcbFlags r) 4 3 }

/-! The KV root at acceptance (R172). -/

/-- The root of a record by a reader of bytes: none for a grid without KV space, and whether it fails. -/
def kvRootOf (va : Nat) (read : Nat → Option (List Byte)) : Option (List Byte) × Bool :=
  if va = 0 then (none, false)
  else if 2 ^ 56 ≤ va ∨ va % 64 ≠ 0 then (none, true)
  else
    match read va with
    | some b => (some b, !kvRootOk b)
    | none => (none, true)

end Sys2Proof.Machine
end

