-- ==== Sys2Proof/Machine/Blocks.lean ====
section
/-! DEFINITION. Bind records, the placement and retirement of blocks, and pre-emption (R12, R27, R29, R85, R86, R170, R202, R379 to
R382, R392 to R395, R414). -/

namespace Sys2Proof.Machine

/-! Bind records (R379). -/

/-- A bind record. -/
structure Bind where
  v : Bool
  gng : Bool
  cmask : Nat
  prio : Nat
  handle : Nat
  first : Nat
  count : Nat
  word : Nat
  slice : Nat
  gang : Nat
  stat : Nat
  ctx : Nat
  start : Nat
  deriving DecidableEq, Repr

/-- The record in 32 bytes. -/
def bindOf (b : List Byte) : Bind where
  v := (recNum b 0 4).testBit 31
  gng := (recNum b 0 4).testBit 30
  cmask := field (recNum b 0 4) 16 4
  prio := field (recNum b 0 4) 12 4
  handle := field (recNum b 0 4) 0 12
  first := recNum b 4 4
  count := recNum b 8 4
  word := recNum b 0x0C 4
  slice := recNum b 0x10 4
  gang := recNum b 0x16 2
  stat := recNum b 0x15 1
  ctx := recNum b 0x14 1 % 64
  start := recNum b 0x18 8

/-- The 32 bytes of a record. -/
def Bind.bytes (b : Bind) : List Byte :=
  natLe (bit b.v * 2 ^ 31 + bit b.gng * 2 ^ 30 + b.cmask % 16 * 65536 + b.prio % 16 * 4096 + b.handle % 4096) 4 ++
  natLe b.first 4 ++ natLe b.count 4 ++ natLe b.word 4 ++ natLe b.slice 4 ++
  natLe (b.gang % 65536 * 65536 + b.stat % 256 * 256 + b.ctx % 64) 4 ++ natLe b.start 8

/-- A station's record; one never written reads 0. -/
def State.bind (s : State) (stn slot : Nat) : Bind :=
  match s.binds.find? fun x => decide (x.1 = stn ∧ x.2.1 = slot) with
  | some x => bindOf x.2.2
  | none => bindOf (List.replicate 32 0)

/-- Inserts a record by station and slot. -/
def insertBind (x : Nat × Nat × List Byte) : List (Nat × Nat × List Byte) → List (Nat × Nat × List Byte)
  | [] => [x]
  | y :: r => if keyLt [x.1, x.2.1] [y.1, y.2.1] then x :: y :: r else y :: insertBind x r

/-- Writes a record. -/
def State.putBind (s : State) (stn slot : Nat) (b : Bind) : State :=
  { s with binds := insertBind (stn, slot, b.bytes) (s.binds.filter fun x => !decide (x.1 = stn ∧ x.2.1 = slot)) }

/-- The time a record was written, or first placed a block. -/
def State.bindTime (s : State) (stn slot : Nat) : Nat :=
  ((s.bindTimes.find? fun x => decide (x.1 = stn ∧ x.2.1 = slot)).map fun x => x.2.2).getD 0

/-- Sets that time to now. -/
def State.stampBind (s : State) (stn slot : Nat) : State :=
  { s with bindTimes := (stn, slot, s.now) :: s.bindTimes.filter fun x => !decide (x.1 = stn ∧ x.2.1 = slot) }

/-- The record directs placement. -/
def Bind.live (b : Bind) : Bool := b.v && decide (b.stat < 2)

/-- A slot the signal box may write: no record, or one that is over. A pre-empted record keeps its slot until its blocks are named
anew. -/
def Bind.spare (b : Bind) : Bool := !b.v || decide (b.stat = 2 ∨ 4 ≤ b.stat)

/-- The slot for a new record of a priority: the lowest spare one behind the records of that priority that still wait to place, so that
equal priorities take turns, the least recently run first (R380, R381). -/
def State.spareSlot (s : State) (stn prio : Nat) : Option Nat :=
  let waits (i : Nat) : Bool := let b := s.bind stn i; b.live && decide (b.stat = 0 ∧ b.prio = prio)
  (List.range 64).find? fun i => (s.bind stn i).spare && !(List.range 64).any fun j => decide (i < j) && waits j

/-! Room (R12, R27, R86). -/

/-- Scratchpad of a block in bytes (R86). -/
def Grid.sb (g : Grid) : Nat := (g.sbytes + 4095) / 4096 * 4096

/-- Segments of the partition word (R84). -/
def Grid.segS (g : Grid) : Nat := field g.word.toNat 6 6
def Grid.segA (g : Grid) : Nat := field g.word.toNat 12 6
def Grid.segAll (g : Grid) : Nat := field g.word.toNat 0 6 + g.segS + g.segA

/-- Blocks of the grid. -/
def Grid.blocks (g : Grid) : Nat := g.dims.1 * g.dims.2.1 * g.dims.2.2

/-- Blocks of the grid a core may hold as home core with `n` of a block's groups on it (R86). -/
def Grid.homes (g : Grid) (n : Nat) : Nat :=
  let a := if n = 0 then 1024 else groupsPerCore g.word / n
  let b := if g.sb = 0 then a else min a (g.segS * 131072 / g.sb)
  if g.ntiles = 0 then b else min b (7 * g.segA / g.ntiles)

/-- Blocks an empty station with `n` cores can hold. -/
def Grid.perStation (g : Grid) (n : Nat) : Nat :=
  let most := groupsPerCore g.word
  if g.groups ≤ most then n * g.homes g.groups
  else if most = 0 then 0 else min (n * most / g.groups) (n * g.homes most)

/-- Blocks homed on a core. -/
def State.homed (s : State) (core : Nat) : List Block := s.blocks.filter fun b => !b.saved && decide (b.home = core)

/-- Where the first of the equal slots of `n` lies that meets no used range (offset, size), of `total`. -/
def freeSlot (total n : Nat) (used : List (Nat × Nat)) : Option Nat :=
  if n = 0 then some 0
  else ((List.range (total / n)).map fun i => i * n).find? fun o => used.all fun x => decide (x.1 + x.2 ≤ o ∨ o + n ≤ x.1)

/-- The scratchpad slot that a block of the grid takes on a core (R86, assumption 95). -/
def State.freeSpad (s : State) (g : Grid) (core : Nat) : Option Nat :=
  freeSlot (g.segS * 131072) g.sb ((s.homed core).map fun b => (b.spOff, b.sb))

/-- The slot in the accumulator segments that it takes, in tiles (R93, assumption 95). -/
def State.freeTiles (s : State) (g : Grid) (core : Nat) : Option Nat :=
  freeSlot (7 * g.segA) g.ntiles ((s.homed core).map fun b => (b.tileOff, b.tiles.length))

/-- The core can be home of one more block of the grid with `n` of its groups. R86 counts the blocks of one grid; where grids of one
partition word share a core, each block keeps its slots (assumption 95). -/
def State.homeRoom (s : State) (g : Grid) (core n : Nat) : Bool :=
  (s.freeSpad g core).isSome && (s.freeTiles g core).isSome &&
  decide (((s.homed core).filter fun b => decide (b.grid = g.handle)).length < g.homes n)

/-- A block with the slots that it takes on its home core. -/
def State.lodged (s : State) (g : Grid) (b : Block) : Block :=
  { b with spOff := (s.freeSpad g b.home).getD 0, tileOff := (s.freeTiles g b.home).getD 0 }

/-- Group places free on a core under a partition word. -/
def State.placesOn (s : State) (core : Nat) (w : Word) : Nat :=
  if s.coreFits core w then groupsPerCore w - (s.onCore core).length else 0

/-- The sets of cores of a station, by size. -/
def coreSets : List (List Nat) :=
  [[0], [1], [2], [3], [0, 1], [0, 2], [0, 3], [1, 2], [1, 3], [2, 3], [0, 1, 2], [0, 1, 3], [0, 2, 3], [1, 2, 3], [0, 1, 2, 3]]

/-- Home core, and the cores for a block of `n` groups, home first (R12): one core where the word allows it, else as few as it
fits on. Of the sets of that size the first of `coreSets` is taken, and its first core with room is home: the model's choice
(assumption 96). -/
def State.chooseCores (s : State) (g : Grid) (stn cmask n : Nat) : Option (Nat × List Nat) :=
  let one := decide (g.groups ≤ groupsPerCore g.word)
  coreSets.findSome? fun set =>
    let cores := set.map fun i => 4 * stn + i
    let room := (cores.map fun c => s.placesOn c g.word).foldl (fun a x => a + x) 0
    if (one && decide (set.length ≠ 1)) || set.any (fun i => !cmask.testBit i) || decide (room < n) ||
        cores.any (fun c => decide (s.placesOn c g.word = 0 ∧ n ≠ 0)) then none
    else (cores.find? fun c => s.homeRoom g c (min n (s.placesOn c g.word))).map fun h => (h, h :: cores.filter fun c => c != h)

/-! Waking a station (R414). -/

/-- A station that sleeps wakes: the state, and the clk until it runs. A request for P3 that is under way stands. -/
def State.wakeStation (s : State) (stn : Nat) : State × Nat :=
  let cur := nth s.power.cur stn 0
  let off := nth s.power.dieOff (stn / 8) false
  if cur = 0 ∧ off = false then (s, 0)
  else
    let s1 := { s with power := { s.power with
      cur := setNth s.power.cur stn 0
      tgt := if nth s.power.busy stn false && decide (nth s.power.tgt stn 0 = 3) then s.power.tgt else setNth s.power.tgt stn 0
      dieOff := setNth s.power.dieOff (stn / 8) false } }
    let s2 := if off then s1.fire 0 39 else s1
    (if cur = 0 then s2 else s2.fire 0 39, (if off then 70000 else 0) + if cur = 0 then 0 else if cur = 2 then 200 else 14000)

/-! The signal box binds a grid (R381). -/

/-- Cores of a station that are not quarantined, as a mask (R423). -/
def State.coreMask (s : State) (stn : Nat) : Nat :=
  (List.range 4).foldl (fun a i => if s.fleet.out (4 * stn + i) then a else a + 2 ^ i) 0

/-- Cores of a mask. -/
def maskCount (m : Nat) : Nat := ((List.range 4).filter fun i => m.testBit i).length

/-- The signal box binds new work to the station (R411, R414, R415, R423). -/
def State.bindable (s : State) (stn : Nat) : Bool :=
  decide (s.coreMask stn ≠ 0) && !s.sec.halt.getLsbD stn && !s.power.d3hot && !s.power.removed &&
    !(nth s.power.busy stn false && decide (nth s.power.tgt stn 0 = 3))

/-- Every block of a grid fits at once on a list of stations. -/
def State.fitsOn (s : State) (g : Grid) (stns : List Nat) : Bool :=
  let most := (stns.map fun n => g.perStation (maskCount (s.coreMask n))).foldl (fun a x => a + x) 0
  decide (g.blocks ≤ most) && (decide (g.gslots = 0) || decide (g.blocks * g.groups ≤ g.gslots)) &&
    (decide (g.segs = 0) || decide (g.segAll ≤ g.segs))

/-- Every block of a grid fits at once in its effective budget (R373, R381). -/
def State.fitsAtOnce (s : State) (g : Grid) : Bool := s.fitsOn g ((List.range 32).filter fun n => g.smask.getLsbD n)

/-- The stations to which the signal box can bind blocks of the grid now. -/
def State.openStations (s : State) (g : Grid) : List Nat :=
  (List.range 32).filter fun n => g.smask.getLsbD n && s.bindable n && (s.spareSlot n g.prio).isSome

/-- Writes the record of a range of a grid's blocks on a station. -/
def State.bindRange (s : State) (g : Grid) (stn first count slice : Nat) : State :=
  match s.spareSlot stn g.prio with
  | none => s
  | some i =>
    ((s.putBind stn i
      { v := true, gng := false, cmask := s.coreMask stn, prio := g.prio, handle := g.handle, first := first, count := count,
        word := g.word.toNat, slice := slice, gang := 0, stat := 0, ctx := g.ctx, start := 0 }).stampBind stn i)

/-- Writes the records of a list of stations: the blocks from `first`, `n` stations left, `left` blocks left. -/
def State.bindOver (s : State) (g : Grid) (slice first left : Nat) : List Nat → State
  | [] => s
  | stn :: r =>
    let k := (left + r.length) / (r.length + 1)
    if k = 0 then s else (s.bindRange g stn first k slice).bindOver g slice (first + k) (left - k) r

/-- Binds a grid's blocks in equal ranges over the stations of its budget (R381, assumption 16). -/
def State.bindGrid (s : State) (h : Nat) : State :=
  let g := s.grid h
  s.bindOver g (if s.fitsAtOnce g then 0 else s.slice) 0 g.blocks (s.openStations g)

/-- A record of the grid directs placement somewhere. -/
def State.isBound (s : State) (h : Nat) : Bool :=
  s.binds.any fun x => !(bindOf x.2.2).spare && decide ((bindOf x.2.2).handle = h)

/-- A co-resident grid that cannot be held at once is rejected at its first placement (R373). -/
def State.rejectLate (s : State) (h : Nat) : State :=
  let s1 := s.hubWrite (s.grid h).ctx ((s.grid h).rcbVa + 0x18) (stateWord (s.grid h) 5 0x0B)
  let s2 := ((((s1.onGrid h fun x => { x with state := 5 }).releasePages h).completionWord h false).endHandles [h] false).endWaits h
    fun _ => (s.grid h).badEnd
  { s2 with
    binds := s2.binds.map fun x => if (bindOf x.2.2).live && decide ((bindOf x.2.2).handle = h) then
      (x.1, x.2.1, { bindOf x.2.2 with stat := 4 }.bytes) else x }

/-- The firmware names the blocks of a pre-empted record in a new one on a station (R380). -/
def State.rebindOn (s : State) (stn slot to_ : Nat) : State :=
  let b := s.bind stn slot
  match s.spareSlot to_ b.prio with
  | some i => ((s.putBind stn slot { b with v := false }).putBind to_ i { b with stat := 0, cmask := s.coreMask to_ }).stampBind to_ i
  | none => s

/-- The station for the blocks of a pre-empted record: its own, else one of the budget that is powered, else any of it. -/
def State.rebindTo (s : State) (stn : Nat) (g : Grid) : Option Nat :=
  let ok (n : Nat) : Bool := s.bindable n && (s.spareSlot n g.prio).isSome
  let all := (List.range 32).filter fun n => g.smask.getLsbD n && ok n
  if ok stn && decide (nth s.power.cur stn 0 ≠ 3) then some stn
  else
    match all.find? fun n => decide (nth s.power.cur n 0 ≠ 3) with
    | some n => some n
    | none => all.head?

/-- The block of a grid with an index. -/
def State.blockAt (s : State) (h idx : Nat) : Option Block := s.blocks.find? fun b => decide (b.grid = h ∧ b.index = idx)

/-- The first block of a range that is neither placed nor retired. -/
def State.nextBlock (s : State) (g : Grid) (last : Nat) : Nat → Nat → Option Nat
  | 0, _ => none
  | n + 1, i =>
    if last ≤ i then none
    else if g.doneBlocks.contains i || (match s.blockAt g.handle i with | some b => !b.saved | none => false) then
      s.nextBlock g last n (i + 1)
    else some i

/-- The block a record places next. -/
def State.nextOf (s : State) (b : Bind) : Option Nat :=
  let g := s.grid b.handle
  s.nextBlock g (min (b.first + b.count) g.blocks) (g.doneBlocks.length + s.blocks.length + 1) b.first

/-- Groups of a block with live threads. -/
def Group.inBlock (g : Group) (uid : Nat) : Bool := !g.task && (decide (g.blk = uid) || g.liveThreads.any fun t => decide (t.blk = uid))

/-- The budget of the grid's region admits one more block (R381). -/
def State.withinBudget (s : State) (g : Grid) (n : Nat) : Bool :=
  let have_ := (s.resident.filter fun x => decide (x.grid = g.handle)).length
  (decide (g.gslots = 0) || decide (have_ + n ≤ g.gslots)) && (decide (g.segs = 0) || decide (g.segAll ≤ g.segs))

/-- Groups of a block that are to be placed: of a saved one, those of its image that may run. -/
def State.groupsOf (s : State) (g : Grid) (idx : Nat) : Nat :=
  match s.blockAt g.handle idx with
  | some b => (s.images.filter fun x => x.inBlock b.uid && s.restorable x).length
  | none => g.groups

/-- A record has a block to place whose START has come and that its region's budget admits: what it can want is room (R380, R381). -/
def State.wantsRoom (s : State) (b : Bind) : Bool :=
  b.v && decide (b.stat ≠ 2 ∧ b.stat < 4) && decide (b.start ≤ s.now) &&
    match s.nextOf b with
    | some idx => s.withinBudget (s.grid b.handle) (s.groupsOf (s.grid b.handle) idx)
    | none => false

/-- A live grid waits for room: it is not bound, or a record of it, live or pre-empted, wants room. -/
def State.waitsRoom (s : State) (g : Grid) : Bool :=
  decide (g.state = 2 ∨ g.state = 3) &&
    ((decide (g.state = 2) && !s.isBound g.handle && s.withinBudget g g.groups) ||
      s.binds.any fun x => decide ((bindOf x.2.2).handle = g.handle) && s.wantsRoom (bindOf x.2.2))

/-- A grid of higher effective priority waits for room in some of the same stations (R381). -/
def State.outranked (s : State) (g : Grid) : Bool :=
  s.grids.any fun x => decide (g.prio < x.prio ∧ x.smask &&& g.smask ≠ 0) && s.waitsRoom x

/-- The firmware binds a grid now (R381): none of higher priority waits for room in its stations, and a co-resident grid that fits its
budget fits on the stations that can be bound, all at once. One that does not fit its budget is bound and rejected at its first
placement (R373). -/
def State.mayBind (s : State) (g : Grid) : Bool :=
  decide (g.state = 2) && !s.isBound g.handle && !s.outranked g && !(s.openStations g).isEmpty &&
    (!g.flags.getLsbD 0 || !s.fitsAtOnce g || s.fitsOn g (s.openStations g))

/-- A grid that waits is bound, if it may be. -/
def State.bindOne (s : State) (g : Grid) : State := if s.mayBind g then s.bindGrid g.handle else s

/-- The station at which a pre-empted record's blocks are named in a new one: none while a region of higher priority waits for room in
its stations (R380, R381). -/
def State.mayRebind (s : State) (stn slot : Nat) : Option Nat :=
  let b := s.bind stn slot
  if b.v = false ∨ b.stat ≠ 3 ∨ s.outranked (s.grid b.handle) = true then none else s.rebindTo stn (s.grid b.handle)

/-- A pre-empted record's blocks are named in a new one, when they may be. -/
def State.rebind (s : State) (stn slot : Nat) : State :=
  match s.mayRebind stn slot with
  | some n => s.rebindOn stn slot n
  | none => s

/-- The blocks on a core. -/
def State.blocksOn (s : State) (core : Nat) : List Block :=
  s.blocks.filter fun b => !b.saved && (decide (b.home = core) || b.cores.contains core)

/-- Steps 3 and 4 of a quarantine, once the records that held blocks on the core are pre-empted (R423). -/
def State.endQuarantine (s : State) : State :=
  (s.fleet.drain.filter fun c => (s.blocksOn c).isEmpty).foldl (fun (t : State) c =>
    State.logEvent { t with fleet := { t.fleet with quar := setNth t.fleet.quar c true, drain := t.fleet.drain.filter fun x => x != c } }
      5 0 0 (stationOf c) c) s

/-- Grids that wait for a station to be bindable are bound, higher priorities first, and so are the blocks of pre-empted records
(R381). -/
def State.bindWaiting (s : State) : State :=
  if s.power.d3hot || s.power.removed then s
  else
    let s1 := (List.range 16).foldl (fun t i =>
      (t.grids.filter fun g => decide (g.state = 2 ∧ g.prio = 15 - i) && !t.isBound g.handle).foldl (fun u g => u.bindOne g) t)
        s.endQuarantine
    s1.binds.foldl (fun t x => t.rebind x.1 x.2.1) s1

/-- The signal box has something to bind, or a quarantine to end. -/
def State.bindsNow (s : State) : Bool :=
  !s.power.d3hot && !s.power.removed &&
    (s.grids.any s.mayBind || s.binds.any (fun x => (s.mayRebind x.1 x.2.1).isSome) ||
      s.fleet.drain.any fun c => (s.blocksOn c).isEmpty)

/-! Placement. -/

/-- A thread of a new block (R9, R10, R106, R202). -/
def firstThread (g : Grid) (pid blk idx btid epS : Nat) : Thread := { Thread.empty with
  tid := BitVec.ofNat 32 (idx * (32 * g.groups) + btid)
  blk := blk
  btid := btid
  rank := [idx * (32 * g.groups) + btid]
  v := List.replicate g.v 0
  exited := false
  party := { Party.empty pid with view := g.initView, seen := g.initSeen }
  epS := epS }

/-- Group `i` of a new block (R135, R202); its threads' parties are `pid0 ..`. -/
def firstGroup (g : Grid) (uid pid0 blk idx i epS : Nat) : Group := { Group.empty with
  uid := uid
  grid := g.handle
  blk := blk
  lanes := (List.range 32).map fun l => some (firstThread g (pid0 + l) blk idx (32 * i + l) epS)
  pc := g.entry
  runPc := g.entry
  path := BitVec.allOnes 32
  k := setNth (setNth (List.replicate g.kn 0) 4 (g.param.extractLsb' 0 32)) 5 (g.param.extractLsb' 32 32)
  cvc := g.cvc
  srseed := g.srseed
  dphase := g.dphase }

/-- Places a group on the first core of a list with a place, on the emptiest pipe (R27). -/
def State.installOn (s : State) (cores : List Nat) (g : Group) (ready : Nat) : State :=
  match cores.find? fun c => decide (s.placesOn c (s.grid g.grid).word ≠ 0) with
  | some c => s.install g c (s.bestPipe c).1 ready
  | none => { s with waiting := s.waiting ++ [g] }

/-- The number of a thread's first .s episode when its block is admitted (R37). -/
def Grid.firstEpS (g : Grid) (stn : Nat) : Nat :=
  let x := g.station stn
  if x.openS then x.epS + 1 else x.epS

/-- Puts a new block on cores (R12, R69, R87, R93, R202). -/
def State.newBlock (s : State) (g : Grid) (stn slot idx home : Nat) (cores : List Nat) (ready : Nat) : State :=
  let f := s.fresh
  let b : Block :=
    { uid := f.1, grid := g.handle, index := idx, station := stn, home := home, cores := cores, groups := g.groups, sb := g.sb,
      tiles := List.replicate g.ntiles Tile.fresh, rings := List.replicate 16 Ring.fresh, fstat := 0, bind := some (stn, slot),
      saved := false, spOff := 0, tileOff := 0 }
  let base := f.2.nextId
  let e := g.firstEpS stn
  let s1 := ({ f.2 with blocks := f.2.blocks ++ [s.lodged g b], nextId := base + 33 * g.groups }.onGrid g.handle fun x =>
    { x.onStation stn (fun y => y) with placed := x.placed + 1 }).claimCore home g.word
  (List.range g.groups).foldl (fun t i =>
    t.installOn cores (firstGroup g (base + 33 * i) (base + 33 * i + 1) f.1 idx i e) ready) s1

/-- Marks in a block's scratchpad or tiles. -/
def poisonIn (uid : Nat) (p : PoisonAt) : Bool :=
  match p with
  | .spad b _ => decide (b = uid)
  | .row b _ _ _ => decide (b = uid)
  | _ => false

/-- A mark in the image of a group (R421). -/
def State.imageMark (s : State) (g : Group) : Option PoisonAt := s.poison.find? (inSlot g.core g.gslot)

/-- The image of a group holds poison. -/
def State.imagePoison (s : State) (g : Group) : Bool := (s.imageMark g).isSome

/-- The fault VA, core and GSLOT by which a record locates a mark (R421): the address of a word of scratchpad, or 0 and the slot of a
register. -/
def markPlace (stn : Nat) (p : PoisonAt) : Nat × Nat × Nat :=
  match p with
  | .spad _ w => (8 * w, 4 * stn, 0)
  | .vreg c g _ _ => (0, c, g % 1024)
  | .kreg c g _ => (0, c, g % 1024)
  | _ => (0, 4 * stn, 0)

/-- The read of a poisoned image stops its fault domain (R421). -/
def State.restoreFatal (s : State) (h stn : Nat) (p : PoisonAt) : State :=
  let x := markPlace stn p
  s.takeFatal { fd := s.fdOf h, cause := cPoison, ctx := (s.grid h).ctx, handle := h, stn := stn, va := x.1, core := x.2.1,
                gslot := x.2.2, time := s.now }

/-- A group of a restored block (R20, R22): its latches are invalid; one that was parked inside a run repeats the run up to its parked
instruction, and one held by a fault or a page request stays at the instruction it is to re-execute. -/
def Group.restored (g : Group) : Group :=
  let g1 := g.onAll fun _ t => { t with lat := List.replicate 8 0, clkHi := none }
  match g.park with
  | none => g1
  | some .held => g1
  | some (.pri _ _) => g1
  | some k => if g.pc = g.runPc then g1 else { g1.redo with park := none, resume := some (g.pc, k, g.parkedAt) }

/-- An open episode that goes on at a station: a block's own, or a station's whose other blocks are there, saved or retired (R53,
assumption 93). -/
def State.episodeMoves (s : State) (e : Episode) (uid stn : Nat) : Bool :=
  e.blocks.contains uid && (!e.stationScope || e.blocks.all fun u => (s.block u).saved || decide ((s.block u).station = stn) ||
    !s.blocks.any fun b => b.uid == u)

/-- An open episode of a block moves to a station, whose number it becomes (R37, R53). -/
def State.moveEpisode (s : State) (e : Episode) (stn : Nat) : State :=
  let s1 : State := { s with episodes := s.episodes.map fun x =>
    if x.id = e.id then { x with station := stn, owner := if e.stationScope then stn else e.owner } else x }
  if e.stationScope && decide (e.station ≠ stn) then
    s1.onGrid e.grid fun g => (g.onStation e.station fun x => { x with epS := x.epS + 1, openS := false }).onStation stn fun x =>
      { x with epS := e.number, openS := true }
  else s1

/-- The episodes of a restored block (R37, R53): an open one goes on at its station; with none open of scope .s, its threads, those
that an episode of scope .b holds among them, count as those of a block admitted now. -/
def State.restoreEpisodes (s : State) (uid h stn : Nat) : State :=
  let s1 := (s.episodes.filter fun e => s.episodeMoves e uid stn).foldl (fun t e => t.moveEpisode e stn) s
  if s.episodes.any fun e => e.stationScope && e.blocks.contains uid then s1
  else
    let n := (s1.grid h).firstEpS stn
    let f (t : Thread) : Thread := if t.blk = uid ∧ t.task = false then { t with epS := n } else t
    { s1.onGroups (fun g => g.onAll fun _ t => f t) with
      episodes := s1.episodes.map fun e => { e with recs := e.recs.map fun r => { r with thread := f r.thread } } }

/-- Restores a saved block (R395): its image goes back to a station, and its groups to cores or the yard. -/
def State.restoreBlock (s : State) (b : Block) (stn slot home : Nat) (cores : List Nat) (ready : Nat) : State :=
  let s0 : State := { s with mmas := s.mmas.map fun m => if m.blk = b.uid then { m with core := home } else m }
  let s1 : State := (s0.onBlock b.uid fun x => s.lodged (s.grid b.grid)
    { x with station := stn, home := home, cores := cores, bind := some (stn, slot), saved := false }).claimCore home
      (s.grid b.grid).word
  let mine := s1.images.filter fun g => g.inBlock b.uid && s1.restorable g
  match (s.poison.filter (poisonIn b.uid) ++ mine.filterMap s.imageMark).head? with
  | some p => s.restoreFatal b.grid stn p
  | none =>
    let uids := mine.map fun g => g.uid
    let s2 : State := { s1 with
      images := s1.images.filter (fun g => !uids.contains g.uid)
      ops := s1.ops.map fun o => if o.blk = b.uid then { o with core := 4 * stn + o.core % 4 } else o }
    let s3 := mine.foldl (fun t g => t.installOn cores { g.restored with core := 4 * stn } (max ready g.readyAt)) s2
    (((s3.restoreEpisodes b.uid b.grid stn).checkEpisodes b.grid).checkBarriers b.grid).pruneBarriers b.grid

/-- The blocks of a record are stopped and wait for pool pages (R395). -/
def State.stalled (s : State) (stn slot : Nat) : Bool := s.asked.any fun x => decide (x.1 = stn ∧ x.2.1 = slot)

/-- What a record can place now: the block's index, its home core and cores (R380). -/
def State.placeable (s : State) (stn slot : Nat) : Option (Nat × Nat × List Nat) :=
  let b := s.bind stn slot
  if b.live = false ∨ s.now < b.start ∨ s.bindable stn = false ∨ s.stalled stn slot = true then none
  else
    let g := s.grid b.handle
    let t := (s.wakeStation stn).1
    (s.nextOf b).bind fun idx =>
      let n := s.groupsOf g idx
      if s.withinBudget g n then (t.chooseCores g stn (b.cmask &&& s.coreMask stn) n).map fun x => (idx, x.1, x.2) else none

/-- STATE with a reason and the new state. -/
def State.markRunning (s : State) (h : Nat) : State := if (s.grid h).state = 2 then s.setGridState h 3 0 else s

/-- A record's next block is placed, or a saved one restored, on a home core and cores; the station's trace goes on with it (R416). -/
def State.placeBlock (s : State) (stn slot idx home : Nat) (cores : List Nat) : State :=
  let b := s.bind stn slot
  let g := s.grid b.handle
  let w := s.wakeStation stn
  let ready := s.now + w.2
  let s1 := if b.stat = 0 then (w.1.putBind stn slot { b with stat := 1 }).stampBind stn slot else w.1
  let s2 : State := { s1 with sec := { s1.sec with trEnded := s1.sec.trEnded &&& ~~~(1#32 <<< stn) } }
  let s3 := (s2.markRunning g.handle).trace g.ctx stn 0
  match s3.blockAt g.handle idx with
  | some old => s3.restoreBlock old stn slot home cores ready
  | none => s3.newBlock (s3.grid g.handle) stn slot idx home cores ready

/-- Station dispatch serves a record now: none of higher priority, or of its priority in a lower slot, has a block that it can place
(R380). -/
def State.serves (s : State) (stn slot : Nat) : Bool :=
  let p (i : Nat) : Nat := (s.bind stn i).prio
  !(List.range 64).any fun i => (decide (p slot < p i) || decide (p slot = p i ∧ i < slot)) && (s.placeable stn i).isSome

/-- A co-resident grid that cannot be held at once is before its first placement (R373). -/
def State.unfit (s : State) (g : Grid) : Bool := decide (g.state = 2) && g.flags.getLsbD 0 && !s.fitsAtOnce g

/-- A record would place the first block of such a grid, whose budget or whose cores need not admit even one (R373, R381). -/
def State.placesUnfit (s : State) (stn slot : Nat) : Bool :=
  let b := s.bind stn slot
  b.live && decide (b.start ≤ s.now) && s.bindable stn && (s.nextOf b).isSome && s.unfit (s.grid b.handle)

/-- BLOCK_PLACEMENT (R12, R380): the next block of a record is placed, or a saved one restored; where there is none to place, the signal
box binds what it can (R381). -/
def execBlockPlacement (stn slot : Nat) (s : State) : Result :=
  .next (match if s.serves stn slot then s.placeable stn slot else none with
    | none => if s.placesUnfit stn slot then s.rejectLate (s.bind stn slot).handle else s.bindWaiting
    | some (idx, home, cores) =>
      let g := s.grid (s.bind stn slot).handle
      if s.unfit g then s.rejectLate g.handle else (s.placeBlock stn slot idx home cores).bindWaiting)

/-! Retirement (R29). -/

/-- A block has nothing left to do. -/
def State.blockOver (s : State) (b : Block) : Bool :=
  !b.saved && !(s.liveThreads b.grid).any (fun t => !t.task && decide (t.blk = b.uid)) &&
  !s.ops.any (fun o => o.blk == b.uid) && !s.mmas.any (fun m => m.blk == b.uid) &&
  !s.episodes.any fun e => !e.recs.isEmpty && e.blocks.contains b.uid

/-- Places in a block's scratchpad or tiles. -/
def Loc.inBlock (l : Loc) (uid : Nat) : Bool :=
  match l with
  | .spad b _ => decide (b = uid)
  | .acc b _ _ _ _ => decide (b = uid)
  | _ => false

/-- STAT 2 for the records whose range has retired (R380). -/
def retireBind (g : Grid) (x : Nat × Nat × List Byte) : Nat × Nat × List Byte :=
  let b := bindOf x.2.2
  if b.live && decide (b.handle = g.handle) &&
      decide ((g.doneBlocks.filter fun i => decide (b.first ≤ i ∧ i < b.first + b.count)).length = b.count) then
    (x.1, x.2.1, { b with stat := 2 }.bytes)
  else x

/-- The pre-emption of a record that is over is asked for no longer (R395). -/
def State.dropAsked (s : State) : State :=
  { s with
    asked := s.asked.filter fun x => (s.bind x.1 x.2.1).live
    pagesTaken := s.pagesTaken.filter fun x => (s.bind x.1 x.2.1).live }

/-- BLOCK_RETIREMENT (R29). -/
def execBlockRetirement (uid : Nat) (s : State) : Result :=
  .next (match s.blocks.find? fun b => b.uid == uid with
    | none => s
    | some b =>
      if s.blockOver b = false then s
      else
        let s1 := { (s.trace (s.grid b.grid).ctx b.station 0).onGrid b.grid fun g => { g with doneBlocks := b.index :: g.doneBlocks } with
          blocks := s.blocks.filter fun x => x.uid != uid
          atoms := s.atoms.filter fun a => !a.loc.inBlock uid
          poison := s.poison.filter fun p => !poisonIn uid p
          barriers := s.barriers.filter fun x => !decide (x.level = 1 ∧ x.owner = uid) }
        let g := s1.grid b.grid
        let s2 := s1.hubWrite g.ctx (g.rcbVa + 0x80) (natLe g.doneBlocks.length 4)
        (({ s2 with binds := s2.binds.map (retireBind g) } : State).dropAsked.releaseCores).bindWaiting)

/-! Pre-emption (R394, R395). -/

/-- Bytes a block's image takes at most (R395). -/
def Block.imageBytes (b : Block) (g : Grid) : Nat :=
  b.groups * (groupBytes g.v g.kn + 256) + b.sb + 16384 * ((b.sb + 131071) / 131072) + 18688 * b.tiles.length + 4096

/-- Pages of images of a list of blocks. -/
def imagePages (g : Grid) (bs : List Block) : Nat := (bs.map fun b => (b.imageBytes g + 65535) / 65536).foldl (fun a x => a + x) 0

/-- Takes `n` pages of the pool for a grid. -/
def State.takePages (s : State) (h : Nat) : Nat → State
  | 0 => s
  | n + 1 => match s.poolPage h with | some (_, t) => t.takePages h n | none => s

/-- Entries of a context's pool ring that the hub has not taken. -/
def Ctx.poolLeft (c : Ctx) : Nat := (c.ppHead - c.ppTail).toNat

/-- The array completes the K-block step in flight (R170): the cells so far stand in the tile, where the MMA finds them again. Poison
that the step reads stops the fault domain (R421). -/
def State.saveMma (s : State) (m : Mma) : State :=
  if m.running = false ∨ 0 < m.rows ∨ (s.mmas.any fun x => x.id == m.id) = false then s
  else match s.mmaPoison m (min 1 (mmaKb m.cmd - m.kdone)) with
  | some va => s.mmaAbort m va
  | none =>
    let r := s.mmaAdvance m (min (m.kdone + 1) (mmaKb m.cmd)) 1
    let cells := rowsOf 0 (mmaM m.cmd) r.1.acc (mmaM m.cmd) (mmaN m.cmd)
    let t := if r.1.kdone = 0 then r.2 else r.2.onTile m.blk (mmaTile m.cmd) fun t => t.putCells cells
    t.putMma { r.1 with running := false, acc := [] }

/-- The rest of a write-back in progress (R170). -/
def State.finishRows (s : State) (id : Nat) : Nat → State
  | 0 => s
  | n + 1 =>
    match s.mmas.find? fun m => m.id == id with
    | some m => if 0 < m.rows then (s.writeRows m).finishRows id n else s
    | none => s

/-- Every running MMA of the blocks is saved. -/
def State.saveMmas (s : State) (uids : List Nat) : State :=
  (s.mmas.filter fun m => m.running && uids.contains m.blk).foldl (fun t m => (t.finishRows m.id 8).saveMma m) s

/-- A group that is not parked restarts at the first instruction of its run, with latches invalid (R20, R22); one released to replay
still replays (R398). -/
def Group.restart (g : Group) : Group :=
  if g.park.isSome then g
  else
    { (g.redo.onAll fun _ t => { t with lat := List.replicate 8 0, clkHi := none }) with
      heldItem := if g.pc = g.runPc then g.heldItem else none }

/-- The group slot under which the registers of an image are marked (R421): no core has it. -/
def Group.imageSlot (g : Group) : Nat := 1024 * (g.uid + 1) + g.gslot % 1024

/-- A group leaves its core for an image (R22, R395): a parked one keeps why it is parked, and the operands its instruction has read
until it is restored (assumption 17). -/
def Group.toImage (g : Group) : Group := { g.restart with stopAsked := false, pipe := 128, gslot := g.imageSlot }

/-- The marks of a group's registers follow it to its image. -/
def Group.markImage (g : Group) (p : PoisonAt) : PoisonAt := moveMark g.core g.gslot g.core g.imageSlot p

/-- Groups that satisfy a test go to images. -/
def State.saveWhere (s : State) (mine : Group → Bool) : State :=
  let meIn := s.me.uid ≠ 0 ∧ mine s.me = true
  { s with
    images := s.images ++ ((s.resident ++ s.waiting).filter mine).map Group.toImage
    poison := (s.resident.filter mine).foldl (fun (l : List PoisonAt) g => l.map g.markImage) s.poison
    me := if meIn then Group.empty else s.me
    groups := s.groups.filter fun g => !mine g
    waiting := s.waiting.filter fun g => !mine g }

/-- Groups of a list of blocks go to images. -/
def State.saveGroups (s : State) (uids : List Nat) : State := s.saveWhere fun g => uids.any fun u => g.inBlock u

/-- Operations of the blocks keep their cursors and give up their engines (R394). -/
def State.saveOps (s : State) (uids : List Nat) : State :=
  { s with ops := s.ops.map fun o => if uids.contains o.blk && decide (o.stage = .running) then { o with stage := .queued } else o }

/-- The station quiesces blocks of a grid (R394 steps 1 to 4): their groups stop, the array and the engines save their cursors, and the
open frames of the context are written out. -/
def State.quiesce (s : State) (stn : Nat) (g : Grid) (uids : List Nat) : State :=
  let s1 := s.onGroups fun x => if uids.any (fun u => x.inBlock u) then { x with stopAsked := true } else x
  let s2 := (s1.saveMmas uids).saveOps uids
  (s2.corner.filter fun c => decide (stationOf c.core = stn ∧ (s2.grid c.grid).ctx = g.ctx)).foldl (fun t c => t.writeFrame c) s2

/-- Pages that a record's save has taken before the pool ran empty (R395). -/
def State.pagesHad (s : State) (stn slot : Nat) : Nat :=
  ((s.pagesTaken.find? fun x => decide (x.1 = stn ∧ x.2.1 = slot)).map fun x => x.2.2).getD 0

/-- The save takes the `left` pages that the pool has and waits for more, with the station quiesced (R395): the pool has run empty, which
is a SAVE_STALL event. -/
def State.stallSave (s : State) (stn slot : Nat) (g : Grid) (n left : Nat) : State :=
  if s.stalled stn slot && decide (left = 0) then s
  else
    let t := s.takePages g.handle left
    State.logEvent { t with
      asked := if s.stalled stn slot then t.asked else t.asked ++ [(stn, slot, s.now)]
      pagesTaken := (stn, slot, s.pagesHad stn slot + left) :: t.pagesTaken.filter fun x => !decide (x.1 = stn ∧ x.2.1 = slot) }
      3 g.ctx g.fd stn n

/-- Pre-empts the blocks of a bind record (R394): none of them runs afterwards, and STAT is 3 once the images are written. Where quiescing
stops the fault domain there is nothing left to save. -/
def State.preempt (s : State) (stn slot : Nat) : State :=
  let b := s.bind stn slot
  let g := s.grid b.handle
  let bs := s.blocks.filter fun x => !x.saved && decide (x.bind = some (stn, slot))
  let uids := bs.map fun x => x.uid
  let pages := imagePages g bs - s.pagesHad stn slot
  let s1 := s.quiesce stn g uids
  let left := (s1.ctx g.ctx).poolLeft
  if (s1.bind stn slot).live = false then s1
  else if left < pages then s1.stallSave stn slot g bs.length left
  else
    let s2 := (s1.takePages g.handle pages).saveGroups uids
    let s3 : State := { s2 with
      blocks := s2.blocks.map fun x => if uids.contains x.uid then { x with saved := true, cores := [] } else x
      asked := s2.asked.filter fun x => !decide (x.1 = stn ∧ x.2.1 = slot)
      pagesTaken := s2.pagesTaken.filter fun x => !decide (x.1 = stn ∧ x.2.1 = slot) }
    ((s3.trace g.ctx stn 0).putBind stn slot { b with stat := 3 }).releaseCores

/-- SLICE_EXPIRY (R380). -/
def execSliceExpiry (stn slot : Nat) (s : State) : Result :=
  let b := s.bind stn slot
  .next (if b.live = false ∨ b.stat ≠ 1 ∨ b.slice = 0 ∨ s.now < s.bindTime stn slot + b.slice * clkPerUs then s
    else (s.preempt stn slot).rebind stn slot)

/-- The running record of the lowest priority on a station below a priority. -/
def State.victim (s : State) (stn prio : Nat) : Option Nat :=
  (List.range 64).foldl (fun (a : Option Nat) i =>
    let b := s.bind stn i
    if b.live && decide (b.stat = 1 ∧ b.prio < prio) then
      match a with
      | none => some i
      | some j => if b.prio < (s.bind stn j).prio then some i else some j
    else a) none

/-- The blocks of a record that are to be placed, as far as its region's budget admits them, all fit. -/
def State.restFits (s : State) (stn slot : Nat) : Nat → Bool
  | 0 => true
  | n + 1 =>
    if s.wantsRoom (s.bind stn slot) = false then true
    else match s.placeable stn slot with
      | some x => (s.placeBlock stn slot x.1 x.2.1 x.2.2).restFits stn slot n
      | none => false

/-- Pre-empts records of lower priority until the record fits (R381). -/
def State.makeRoom (s : State) (stn slot : Nat) : Nat → State
  | 0 => s
  | n + 1 =>
    if s.restFits stn slot (s.bind stn slot).count then s
    else
      match s.victim stn (s.bind stn slot).prio with
      | some i => ((s.preempt stn i).rebind stn i).makeRoom stn slot n
      | none => s

/-- A record waits for room: its next block has none. -/
def State.lacksRoom (s : State) (stn slot : Nat) : Bool :=
  (s.bind stn slot).live && s.wantsRoom (s.bind stn slot) && (s.placeable stn slot).isNone

/-- PRIORITY_WAIT_EXPIRY (R381): a region, some blocks of which may be placed, has waited 100 µs for room. -/
def execPriorityWaitExpiry (stn slot : Nat) (s : State) : Result :=
  .next (if s.lacksRoom stn slot = false ∨ s.now < s.bindTime stn slot + 100 * clkPerUs then s else s.makeRoom stn slot 64)

/-- The live records of a gang: station, slot. -/
def State.gangRecords (s : State) (gang : Nat) : List (Nat × Nat) :=
  (s.binds.filter fun x => (bindOf x.2.2).live && (bindOf x.2.2).gng && decide ((bindOf x.2.2).gang = gang)).map fun x => (x.1, x.2.1)

/-- The records of a gang whose blocks have not all retired, pre-empted ones among them: station, slot. -/
def State.gangAll (s : State) (gang : Nat) : List (Nat × Nat) :=
  (s.binds.filter fun x => (bindOf x.2.2).v && decide ((bindOf x.2.2).stat ≠ 2 ∧ (bindOf x.2.2).stat < 4) && (bindOf x.2.2).gng &&
    decide ((bindOf x.2.2).gang = gang)).map fun x => (x.1, x.2.1)

/-- GANG_MESSAGE (R382): the members have agreed on a gang and a START at least 100 µs ahead; pending records become gang slices. -/
def execGangMessage (gang start : Nat) (records : List (Nat × Nat)) (s : State) : Result :=
  .next (if start < s.now + 100 * clkPerUs then s else records.foldl (fun (t : State) (x : Nat × Nat) =>
    let b := t.bind x.1 x.2
    if b.live && decide (b.stat = 0) then
      t.putBind x.1 x.2 { b with cmask := b.cmask &&& t.coreMask x.1, gng := true, gang := gang, start := start }
    else t) s)

/-- GANG_LATE (R382): a member, on this device or another, has not placed its first block GANGTOL µs after START. Every record of the
gang is pre-empted; the new START, of those not yet named anew too, is 100 µs ahead (assumption 18). -/
def execGangLate (gang : Nat) (s : State) : Result :=
  .next (match (s.gangRecords gang).find? fun x => decide ((s.bind x.1 x.2).start + s.gangTol * clkPerUs < s.now) with
    | none => s
    | some x =>
      let b := s.bind x.1 x.2
      let s1 := (s.gangRecords gang).foldl (fun (t : State) (y : Nat × Nat) =>
        let c := t.bind y.1 y.2
        let u := if c.stat = 1 then (t.preempt y.1 y.2).rebind y.1 y.2 else t
        u) s
      let s2 := (s1.gangAll gang).foldl (fun (t : State) (y : Nat × Nat) =>
        let c := t.bind y.1 y.2
        t.putBind y.1 y.2 { c with cmask := c.cmask &&& t.coreMask y.1, start := s.now + 100 * clkPerUs }) s1
      s2.logEvent 1 b.ctx (s.grid b.handle).fd x.1 gang)

/-- A saved or stalled record goes on when the pool ring is filled (R395). -/
def State.resumeSaves (s : State) (c : Nat) : State :=
  (s.asked.filter fun x => decide ((s.bind x.1 x.2.1).ctx = c) && (s.bind x.1 x.2.1).live).foldl (fun (t : State) x =>
    (t.preempt x.1 x.2.1).rebind x.1 x.2.1) s

/-! Stations that stop making progress (R392, R393). -/

/-- A record of a fault domain that names a group. -/
def State.domainRec (s : State) (g : Group) (stn cause : Nat) : TrapRec :=
  { g.trapRec s cause with
    stn := stn
    tid := (g.liveThreads.map fun t => t.tid.toNat).foldl (fun a x => min a x) (2 ^ 32 - 1) }

/-- The group of a fault domain with the lowest TID among a list. -/
def lowestOf (fd : Nat → Nat) (d : Nat) (gs : List Group) : Option Group :=
  let low (g : Group) : Nat := (g.liveThreads.map fun t => t.tid.toNat).foldl (fun a x => min a x) (2 ^ 32 - 1)
  (gs.filter fun g => decide (fd g.grid = d)).foldl (fun (a : Option Group) g =>
    match a with
    | none => some g
    | some x => if low g < low x then some g else some x) none

/-- One fatal record for each fault domain of a list of groups. -/
def State.stopDomains (s : State) (gs : List Group) (stn cause : Nat) : State :=
  let fds := (gs.map fun g => s.fdOf g.grid).foldl (fun l d => if l.contains d then l else l ++ [d]) []
  fds.foldl (fun (t : State) d =>
    match lowestOf s.fdOf d gs with
    | some g => t.takeFatal (s.domainRec g stn cause)
    | none => t) s

/-- Groups of a station. -/
def State.onStation (s : State) (stn : Nat) : List Group := s.resident.filter fun g => decide (stationOf g.core = stn)

/-- Threads that the yard of a station holds, as a group that names them in a record. -/
def yardGroup (stn grid : Nat) (pc : Dword) (ts : List Thread) : Group :=
  { Group.empty with core := 4 * stn, grid := grid, pc := pc, lanes := ts.map some }

/-- The threads of a station's open episodes (R52). -/
def State.inYard (s : State) (stn : Nat) : List Group :=
  (s.episodes.filter fun e => decide (e.station = stn) && !e.recs.isEmpty).map fun e =>
    yardGroup stn e.grid e.pc (e.recs.map fun r => r.thread)

/-- Groups of a station that wait for admission or in images, and may run (R49, R392). -/
def State.offCore (s : State) (stn : Nat) : List Group :=
  (s.waiting ++ s.images).filter fun g => decide (stationOf g.core = stn) && s.restorable g

/-- Everything of a station that the detector counts as parked or running (R52). -/
def State.stationGroups (s : State) (stn : Nat) : List Group := s.onStation stn ++ s.inYard stn ++ s.offCore stn

/-- The work of operations and MMAs on a station, as groups that name their threads. -/
def State.engineGroups (s : State) (stn : Nat) : List Group :=
  let one (grid core : Nat) (tid : Word) (pc : Dword) : Group :=
    { Group.empty with core := core, grid := grid, pc := pc, lanes := [some { Thread.empty with tid := tid, exited := false }] }
  ((s.ops.filter fun o => decide (stationOf o.core = stn)).map fun o => one o.grid o.core o.tid o.pc) ++
  (s.mmas.filter fun m => decide (stationOf m.core = stn)).map fun m => one m.grid m.core m.tid m.pc

/-- The children that a station's task bins hold, as groups that name them. -/
def State.binGroups (s : State) (stn : Nat) : List Group :=
  (s.bins.filter fun b => decide (b.station = stn)).map fun b =>
    { Group.empty with core := 4 * stn, grid := b.grid, lanes := b.kids.map fun c => some c.thread }

/-- The blocks of a record have not quiesced (R393, R394): a group of them has not stopped, or the array or an engine works for one. -/
def State.unquiet (s : State) (stn slot : Nat) : Bool :=
  s.blocks.any fun b => decide (b.bind = some (stn, slot)) &&
    (s.resident.any (fun g => g.inBlock b.uid && !g.stopAsked) || s.mmas.any (fun m => m.blk == b.uid && m.running) ||
      s.ops.any fun o => o.blk == b.uid && decide (o.stage = .running))

/-- Clk after which a pre-emption that has not quiesced a station raises WATCHDOG (R393): 100 µs. -/
def watchdogClk : Nat := 140000

/-- WATCHDOG (R393): a pre-emption asked for 140,000 clk ago has not quiesced the station, which is fatal for every fault domain with
work on it. -/
def execWatchdog (stn : Nat) (s : State) : Result :=
  .next (if s.asked.any fun x => decide (x.1 = stn ∧ x.2.2 + watchdogClk ≤ s.now) && s.unquiet stn x.2.1 then
      s.stopDomains (s.stationGroups stn ++ (s.engineGroups stn ++ s.binGroups stn)) stn cWatchdog
    else s)

/-! The all-parked detector (R31, R52, R392). -/

/-- Live threads of a grid that a station holds. -/
def State.tidsAt (s : State) (stn h : Nat) : List Word :=
  (((s.stationGroups stn).filter fun g => decide (g.grid = h)).map fun g => g.liveThreads.map fun t => t.tid).flatten ++
  ((s.bins.filter fun b => decide (b.station = stn ∧ b.grid = h)).map fun b => b.kids.map fun c => c.thread.tid).flatten

/-- Some of a list of threads of a grid stand on another station, or in a saved block. -/
def State.awayFrom (s : State) (stn h : Nat) (ts : List Thread) : Bool :=
  let here := s.tidsAt stn h
  ts.any fun t => !here.contains t.tid

/-- A grid has threads elsewhere, or blocks that nothing has placed. -/
def State.gridAway (s : State) (stn h : Nat) : Bool :=
  let g := s.grid h
  g.isLive && (decide (g.placed < g.blocks) || s.awayFrom stn h (s.liveThreads h))

/-- A barrier phase waits for a member elsewhere. -/
def State.barrierAway (s : State) (stn h : Nat) (a : Arrival) : Bool :=
  let b := s.barrier h a.level a.owner a.num
  s.phaseOpen h a && (!s.allPlaced b || s.awayFrom stn h ((s.members b).filter fun t => !t.arrivedAt b b.phase))

/-- A phase waits for a chimney sweep, or for a thread elsewhere. -/
def State.phaseAway (s : State) (stn h : Nat) : Bool :=
  let g := s.grid h
  let late := (s.liveThreads h).filter fun t => !t.task && decide (t.phaseArr ≠ g.phases + 1)
  decide (g.placed < g.blocks) || late.isEmpty || s.awayFrom stn h late

/-- An operation of the grid is outstanding. -/
def State.opsOf (s : State) (h : Nat) : Bool := s.ops.any fun o => o.grid == h

/-- A parked group waits on something outside its station (R392): another station, an operation, a deadline, a polled future, the hub,
the host. -/
def State.waitsOutside (s : State) (g : Group) : Bool :=
  let stn := stationOf g.core
  match g.park with
  | none => false
  | some (.future _ poll) => poll || s.grids.any fun x => decide (x.ctx = (s.grid g.grid).ctx) && s.gridAway stn x.handle
  | some (.waita d) => d.isSome || s.opsOf g.grid || s.gridAway stn g.grid
  | some (.slot _ _) => s.opsOf g.grid || s.gridAway stn g.grid
  | some (.barrier l n) => (lanesOf g.cur).any fun i => ((g.thread i).arrivalsAt l n).any fun a => s.barrierAway stn g.grid a
  | some (.phend _) => s.phaseAway stn g.grid || s.opsOf g.grid
  | some .gwait => true
  | some (.gwaitOver _) => true
  | some (.pri _ _) => true
  | some .held => true
  | some .tracker => true
  | some .opBuffer => true
  | some .await => false
  | some .mwait => s.opsOf g.grid
  | some .resv => s.opsOf g.grid
  | some (.tile _) => s.opsOf g.grid
  | some .queuePoint => s.opsOf g.grid
  | some .yard => false

/-- An open episode of a station waits for a thread of a saved block. -/
def State.episodeAway (s : State) (stn : Nat) : Bool :=
  s.episodes.any fun e => decide (e.station = stn) &&
    ((s.liveThreads e.grid).any (fun t => e.takesPart t && s.still t.blk) || e.recs.any fun r => s.still r.thread.blk)

/-- Something that a station waits for lies outside it. -/
def State.stationWaits (s : State) (stn : Nat) : Bool := (s.onStation stn ++ s.offCore stn).any s.waitsOutside || s.episodeAway stn

/-- An operation, an MMA or a test on its way can still wake a parked group (R31, R81). -/
def State.mayWake (s : State) (g : Group) : Bool :=
  let moves (o : Op) : Bool := decide (o.stage ≠ .heldFault ∧ o.stage ≠ .pri)
  let near (o : Op) : Bool := moves o && decide (o.grid = g.grid)
  let mine := s.mmas.any fun m => decide (m.group = g.uid)
  s.agenda.contains (.retry g.uid) ||
  match g.park with
  | some (.waita _) => s.ops.any near || s.mmas.any fun m => decide (m.grid = g.grid)
  | some (.slot _ _) => s.ops.any near
  | some .tracker => s.ops.any near
  | some .opBuffer => s.ops.any moves
  | some .gwait => s.ops.any near
  | some (.gwaitOver _) => true
  | some (.phend _) => s.ops.any near
  | some .mwait => mine
  | some .resv => s.ops.any near || mine
  | some (.tile _) => mine || s.mmas.any fun m => decide (m.blk = g.blk)
  | some .queuePoint => mine
  | _ => false

/-- Array work, operations, tests and task bins that can still wake a group of the station. -/
def State.inFlight (s : State) (stn : Nat) : Bool :=
  (s.onStation stn).any s.mayWake || s.bins.any fun b => decide (b.station = stn)

/-- The all-parked detector of a station fires (R31, R52): threads in the yard and groups that wait for admission count as parked. -/
def State.allParked (s : State) (stn : Nat) : Bool :=
  let gs := s.onStation stn
  (!gs.isEmpty || !(s.inYard stn).isEmpty || !(s.offCore stn).isEmpty) && gs.all (fun g => g.park.isSome && !g.stopAsked) &&
    !s.inFlight stn

/-! Eviction (R392). -/

/-- Waiting work of a station: a bind record by its slot, a group that waits for admission by its identity. -/
inductive Work where
  | record (slot : Nat)
  | group (uid : Nat)
  deriving DecidableEq, Repr

/-- The waiting work of a station (R392 step 1): records with STAT 0 and pre-empted ones whose blocks lack room, rebuilt and task
groups. -/
def State.waitingWork (s : State) (stn : Nat) : List Work :=
  ((List.range 64).filter fun i => let b := s.bind stn i
    decide (b.stat = 0 ∨ b.stat = 3) && s.wantsRoom b).map Work.record ++
  (s.waiting.filter fun g => decide (stationOf g.core = stn) && s.restorable g).map fun g => Work.group g.uid

/-- A pre-empted record under the new one that would name its blocks on the station, and its slot; another record as it is. -/
def State.renamed (s : State) (stn slot : Nat) : Nat × State :=
  let b := s.bind stn slot
  match if b.stat = 3 then s.spareSlot stn b.prio else none with
  | some j => (j, s.rebindOn stn slot stn)
  | none => (slot, s)

/-- A piece of work is given a place, if it fits. -/
def State.tryWork (s : State) (stn : Nat) (w : Work) : Option State :=
  match w with
  | .record i =>
    let t := s.renamed stn i
    (t.2.placeable stn t.1).map fun x => t.2.placeBlock stn t.1 x.1 x.2.1 x.2.2
  | .group u =>
    (s.waiting.find? fun g => g.uid == u).bind fun g =>
      (s.choosePipe (s.grid g.grid).word (s.eligible g)).map fun x =>
        { s with waiting := s.waiting.filter fun y => y.uid != u }.install g x.1 x.2 s.now

/-- All of a list of work fits at once. -/
def State.allFit (s : State) (stn : Nat) : List Work → Bool
  | [] => true
  | w :: r => match s.tryWork stn w with | some t => t.allFit stn r | none => false

/-- The parked group to evict next: lowest effective priority, then longest parked. -/
def State.evictee (s : State) (stn : Nat) : Option Group :=
  let key (g : Group) : List Nat := [(s.grid g.grid).prio, g.parkedAt, g.core, g.gslot]
  (s.onStation stn).foldl (fun (a : Option Group) g =>
    match a with
    | none => some g
    | some x => if keyLt (key g) (key x) then some g else some x) none

/-- A group leaves its core for memory; its park reason, token and waits stay (R392). -/
def State.evict (s : State) (g : Group) : State := (s.saveWhere fun x => decide (x.uid = g.uid)).releaseCores

/-- Every group of the station is evicted. -/
def State.evictAll (s : State) (stn : Nat) : State := (s.onStation stn).foldl (fun t g => t.evict g) s

/-- The waiting work for which eviction can make room. -/
def State.wantedWork (s : State) (stn : Nat) : List Work :=
  let bare := s.evictAll stn
  (s.waitingWork stn).filter fun w => (bare.tryWork stn w).isSome

/-- Evicts groups until a list of work fits; the grids evicted from. -/
def State.evictSome (s : State) (stn : Nat) (ws : List Work) (from_ : List Nat) : Nat → List Nat × State
  | 0 => (from_, s)
  | n + 1 =>
    if s.allFit stn ws then (from_, s)
    else
      match s.evictee stn with
      | some g => (s.evict g).evictSome stn ws (if from_.contains g.grid then from_ else from_ ++ [g.grid]) n
      | none => (from_, s)

/-- ALL_PARKED_DETECT (R31, R392). -/
def execAllParkedDetect (stn : Nat) (s : State) : Result :=
  .next (if s.allParked stn = false then s
    else
      let s1 := { s with fleet := { s.fleet with parked := setNth s.fleet.parked stn (nth s.fleet.parked stn 0 + 1) } }
      if (s1.waitingWork stn).isEmpty = false then
        let r := s1.evictSome stn (s1.wantedWork stn) [] (s1.onStation stn).length
        r.1.foldl (fun (t : State) h => t.logEvent 2 (s1.grid h).ctx (s1.grid h).fd stn h) r.2
      else if s1.stationWaits stn then s1
      else s1.stopDomains (s1.stationGroups stn) stn cDeadlock)

/-! Rebuilt, evicted and task groups (R49, R57, R392). -/

/-- An evicted group whose wake event has come returns to a core of its station that has room (R392, assumption 19). -/
def State.readmit (s : State) (i : Nat) : State :=
  match s.images[i]? with
  | none => s
  | some g =>
    if s.restorable g = false ∨ g.park.isSome = true then s
    else
      match s.imageMark g with
      | some p => s.restoreFatal g.grid (stationOf g.core) p
      | none =>
      match s.choosePipe (s.grid g.grid).word (s.eligible g) with
      | some (c, p) => { s with images := s.images.eraseIdx i }.install g c p s.now
      | none => s

/-- REBUILT_GROUP_ADMISSION (R49): the waiting group at an index; past them, an evicted group. -/
def execRebuiltGroupAdmission (index : Nat) (s : State) : Result :=
  .next (
    let all := s.waiting ++ s.images
    match all[index]? with
    | none => s
    | some g =>
      let t := (s.wakeStation (stationOf g.core)).1
      if nth s.power.cur (stationOf g.core) 0 = 3 then s
      else if index < s.waiting.length then t.letIn index else t.readmit (index - s.waiting.length))

/-- Of the task groups that wait on a station, the higher class goes first, then the older bin (R57). -/
def taskBefore (a b : Group) : Bool := keyLt [16 - a.cls, a.born, a.uid] [16 - b.cls, b.born, b.uid]

/-- No other task group of the station goes first. -/
def State.taskFirst (s : State) (g : Group) : Bool :=
  !s.waiting.any fun x => x.task && decide (stationOf x.core = stationOf g.core) && taskBefore x g

/-- TASK_GROUP_PLACEMENT (R57): a station in P2 wakes for it (R414). -/
def execTaskGroupPlacement (index : Nat) (s : State) : Result :=
  .next (match s.waiting[index]? with
    | some g => if g.task = true ∧ s.taskFirst g = true ∧ nth s.power.cur (stationOf g.core) 0 ≠ 3 then ((s.wakeStation (stationOf g.core)).1).letIn index else s
    | none => s)

/-- TASK_BIN_TIMEOUT (R57): the bin at an index has waited 64 clk. -/
def execTaskBinTimeout (index : Nat) (s : State) : Result :=
  .next (match s.bins[index]? with
    | some b =>
      match b.kids.head? with
      | some c => if c.at_ + 64 ≤ s.now then s.emitBin b else s
      | none => s
    | none => s)

/-- RETIREMENT_TRACKER_DRAIN (R30): the entry of a tailed group frees when nothing it issued is outstanding. -/
def execRetirementTrackerDrain (core entry : Nat) (s : State) : Result :=
  .next (match s.trackers.find? fun x => decide (x.1 = core ∧ x.2 = entry) with
    | some x => if s.outstanding x.2 then s
        else ({ s with trackers := s.trackers.filter fun y => y != x } : State).wake fun g =>
          decide (g.core = core) && decide (g.park = some .tracker)
    | none => s)

end Sys2Proof.Machine
end

