-- ==== Sys2Proof/Machine/Arming.lean ====
section
/-! DEFINITION. Accepting a grid: the host's arm ring (R372, R373), GLNCH (R338, R375), and the window as the host writes it
(R99, R353, R364). -/

namespace Sys2Proof.Machine

/-! Acceptance. -/

/-- The private root is taken when a grid is accepted (R359). -/
def State.takeRoot (s : State) (h : Nat) : State :=
  match s.privTable h with
  | some (r, t) => t.onGrid h fun x => { x with privRoot := some r }
  | none => s

/-- A grid is rejected at acceptance (R373, R374); its handle is free at once, and GWAIT on it returns as on no grid (R339). -/
def State.reject (s : State) (h reason : Nat) : State :=
  let g := s.grid h
  let s1 := (s.hubWrite g.ctx (g.rcbVa + 0x18) (stateWord g 5 reason)).onGrid h fun x => { x with state := 5 }
  let s2 := (s1.completionWord h false).endHandles [h] false
  { s2 with grids := s2.grids.filter fun x => x.handle != h }

/-- An ended grid leaves the list when its record is armed again, or its handle. -/
def Grid.replacedBy (x g : Grid) : Bool :=
  decide (x.handle = g.handle) || (decide (x.rcb = g.rcb) && !x.isLive && x.privPages.isEmpty)

/-- A grid is accepted and checked (R370, R373): the counters, STATE, and the bind records or the rejection. -/
def State.accept (s : State) (g : Grid) (kvBad : Bool) (r : List Byte) : State :=
  let s1 : State := { s with grids := (s.grids.filter fun x => !x.replacedBy g) ++ [{ g with state := 2 }] }
  let s2 := ((s1.setGridState g.handle 2 0).hubWrite g.ctx (g.rcbVa + 0x80) (natLe 0 8)).hubWrite g.ctx (g.rcbVa + 0x88)
    (natLe s.now 8)
  let reason := rcbReason (s.ctx g.ctx) g.ctx kvBad r
  if reason = 0 then (s2.takeRoot g.handle).bindWaiting else s2.reject g.handle reason

/-! The window as the host sees it. -/

/-- The host reaches the device's memory windows (R399, R414). -/
def State.hostUp (s : State) : Bool := decide (s.sec.stage = 4) && !s.power.d3hot && !s.power.removed

/-- The access-table master of a function (R406). -/
def hostMaster (fn : Nat) : Nat := 128 + fn

/-- A function reaches a window offset: PF0 all of it, a VF the units of its contexts (R353). -/
def State.ownsWindow (s : State) (fn off : Nat) : Bool :=
  decide (off < windowBytes) && (decide (fn = 0) || s.ctxs.any fun c =>
    c.valid && decide (c.fn = fn ∧ c.woff * 65536 ≤ off ∧ off < (c.woff + c.wsz) * 65536))

/-- A host write reaches a page of the window. -/
def State.winWritable (s : State) (fn off : Nat) : Bool :=
  s.ownsWindow fn off && accessOk s 9 (hostMaster fn) off .write

/-- The pages of a host access that the window's access table denies are logged (R353, R407). -/
def State.winDenials (s : State) (fn off n : Nat) (k : Access) : State :=
  ((cutsOf off n).filter fun p => s.ownsWindow fn p.1 && !accessOk s 9 (hostMaster fn) p.1 k).foldl (fun (t : State) p =>
    t.logDenial 9 (hostMaster fn) p.1 k) s

/-- Bytes that the host or a peer writes to one page of the window. -/
def State.putWindow (s : State) (off : Nat) (bs : List Byte) : State :=
  let t := (s.clearMem (.glob (.win off)) bs.length).forgetWindow off bs.length
  { t with window := Memory.putBytes t.window off bs }

/-- A host write to the window (R99): page by page, denied ones dropped and logged (R353). -/
def State.hostWindow (s : State) (fn off : Nat) (bs : List Byte) : State :=
  ((cutsOf off bs.length).filter fun p => s.winWritable fn p.1).foldl (fun (t : State) p =>
    t.putWindow p.1 ((bs.drop (p.1 - off)).take p.2)) (s.winDenials fn off bs.length .write)

/-! The arm ring (R372). -/

/-- The hub reads a ring slot in the window, which its access table may deny: it reads 0 then (R407). -/
def State.readSlot (s : State) (off : Nat) : Nat × State :=
  if accessOk s 9 hubMaster off .read then (Memory.num s.window off 8, s) else (0, s.logDenial 9 hubMaster off .read)

/-- The hub writes a ring slot in the window, if its access table lets it (R407). -/
def State.putSlot (s : State) (off v : Nat) : State :=
  if accessOk s 9 hubMaster off .write then s.putWin off (natLe v 8) else s.logDenial 9 hubMaster off .write

/-- The hub takes one arm: what it writes back. The launch value is memory as the hub found it with the arm word, before it links the
record (R106). -/
def State.arm (s0 : State) (c v : Nat) : Nat × State :=
  let s := (s0.readCtx c).syncPages c
  let va := v - 1
  if v % 256 ≠ 1 ∨ 2 ^ 56 ≤ va ∨ (s.ctx c).valid = false then (2, s)
  else
    match s.hubRead c va 256 with
    | (none, t) => (2, t)
    | (some r, t) =>
      let key := t.placeKey c va
      if t.rcbLive key then (4, t)
      else
        match t.freeHandle with
        | none => (6, t)
        | some h =>
          let kva := recNum r 0x60 8
          let rd := if kva = 0 ∨ 2 ^ 56 ≤ kva ∨ kva % 64 ≠ 0 then (none, t) else t.hubRead c kva 64
          let kv := kvRootOf kva fun _ => rd.1
          let rg := (rd.2.linkHost c va r).region c r
          let g : Grid := { gridOf h c key va rg.1 r with kvRoot := kv.1, snapMem := t.hbm, snapSys := t.sysMem }
          (0, rg.2.accept g kv.2 r)

/-- The page for which the hub would wait before it can take an arm word (R354): behind the record, its KV root, or the records that its
link and its effective fields are read from. -/
def State.armBlocked (s : State) (c v : Nat) : Option Nat :=
  let t := s.readCtx c
  if v % 256 ≠ 1 ∨ 2 ^ 56 ≤ v - 1 ∨ (t.ctx c).valid = false then none
  else
    match t.hubBlocked c (v - 1) 256 with
    | some page => some page
    | none =>
      let r := ((t.hubRead c (v - 1) 256).1).getD []
      let kv := recNum r 0x60 8
      let root := if kv = 0 ∨ 2 ^ 56 ≤ kv ∨ kv % 64 ≠ 0 then none else t.hubBlocked c kv 64
      if root.isSome then root else if t.rcbLive (t.placeKey c (v - 1)) then none else t.hostBlocked c r

/-- The outcome of an arm word goes into its slot, and the hub looks at the next one. -/
def State.armDone (s : State) (c off v : Nat) : State :=
  (s.putSlot off v).onCtx c fun y => { y with armNext := (y.armNext + 1) % 64 }

/-- The hub consumes the slots of a context's arm ring in order, while the next one is armed (R372). -/
def State.drainArms (s : State) (c : Nat) : Nat → State
  | 0 => s
  | n + 1 =>
    let x := (s.readCtx c).ctx c
    let off := x.armoff + 8 * x.armNext
    let v := s.readSlot off
    if v.1 % 2 = 0 then v.2
    else
      match v.2.armBlocked c v.1 with
      | some page => v.2.askPage page
      | none =>
        let r := v.2.wakeDies.arm c v.1
        (r.2.armDone c off r.1).drainArms c n

/-- The contexts whose next arm waits for a page (R354). -/
def State.armsFor (s : State) (page : Nat) : List Nat :=
  (List.range 64).filter fun c =>
    let x := (s.readCtx c).ctx c
    let v := (s.readSlot (x.armoff + 8 * x.armNext)).1
    decide (v % 2 = 1) && decide (s.armBlocked c v = some page)

/-- The page arrived for which the hub waited before an arm (R354), or the host has none, and the record cannot be read (R372). -/
def State.armResponse (s : State) (ok : Bool) (c : Nat) : State :=
  let x := (s.readCtx c).ctx c
  (if ok then s else s.armDone c (x.armoff + 8 * x.armNext) 2).drainArms c 64

/-- ARM_SLOT_WRITE (R372): the host writes an arm word through BAR2; the hub knows the ring by the context's entry (R356). -/
def execArmSlotWrite (ctx slot : Nat) (value : BitVec 64) (s : State) : Result :=
  .next (if s.hostUp = false then s
    else
      let x := (s.readCtx ctx).ctx ctx
      (s.hostWindow x.fn (x.armoff + 8 * (slot % 64)) (natLe value.toNat 8)).drainArms ctx 64)

/-! GLNCH (R338). -/

/-- What peers wrote into this device since the grid's last phase (R321): senders of the lowest rank. -/
def Grid.peerSenders (g : Grid) : List Sender :=
  (g.ended.filter fun x => decide (x.rank.cls = 0) && !x.writes.isEmpty)

/-- The launch value of a grid's child: its own, with what completed grids left in memory for it (R374). -/
def State.childSnap (s : State) (h : Nat) : Memory × Memory :=
  (s.hubWords.filter fun x => x.2.2.contains h).foldl (fun (a : Memory × Memory) x =>
    match x.1 with
    | .mem pa => (Memory.putBytes a.1 pa (word32Bytes x.2.1), a.2)
    | .sys va => (a.1, Memory.putBytes a.2 va (word32Bytes x.2.1))
    | _ => a) ((s.grid h).snapMem, (s.grid h).snapSys)

/-- The end of a GLNCH: k[B] takes the handle. -/
def State.glnchDone (s : State) (w : UF) (h : Nat) : State :=
  (s.onMe fun g => g.setK w.b.toNat (BitVec.ofNat 32 h)).switch (kxLen w.kx) 1 899

/-- What a GLNCH waits for before the hub can take its record (R354): the page of its KV root, or of a link. -/
def State.glnchWaits (s : State) (c me va kva : Nat) (kv : Option (Except Check (List Byte))) : Option Check :=
  match kv with
  | some (.error (.pri page a)) => some (.pri page a)
  | some (.error (.hole pa)) => some (.hole pa)
  | _ => (s.glnchBlocked c me va).map fun page => .pri page kva

/-- GLNCH (R338, R375): the record and its KV root are read through the merged view of the active threads (R172, R427); the launch edge
carries what peers wrote since the grid's last phase too (R321). A link on a page of system memory that
waits for the host holds the group (R354). -/
def execGlnch (w : UF) (s : State) : Result :=
  s.uniRun w.kx [(w.a.toNat, 2)] true
    (let va := (kPair s.me w.a.toNat).toNat
    match recordAddr va 256 with
    | some cause => s.trapAll cause va
    | none =>
      let c := s.myCtx
      let g := s.grid s.me.grid
      let own := s.edge (s.me.laneSenders s.me.cur) []
      let p : Party := { Party.empty 0 with view := mergedView own }
      match s.readRecord p va 256 with
      | .error k => s.finishUni .read k s
      | .ok r =>
        let key := s.placeKey c va
        if s.rcbLive key then s.glnchDone w 0
        else
          match s.freeHandle with
          | none => s.glnchDone w 0
          | some h =>
            let kva := recNum r 0x60 8
            let rd := if kva = 0 ∨ 2 ^ 56 ≤ kva ∨ kva % 64 ≠ 0 then none else some (s.readRecord p kva 64)
            match s.glnchWaits c g.rcbVa va va rd with
            | some k => s.finishUni .read k s
            | none =>
            let kv := kvRootOf kva fun _ => rd.bind fun x => x.toOption
            let f := Party.fresh 0 (s.edge (g.peerSenders ++ s.me.laneSenders s.me.cur) [])
            let snap := s.childSnap g.handle
            let child : Grid :=
              { gridOf h c key va (g.region.child r) r with
                parent := g.handle, kvRoot := kv.1, cvc := s.me.cvc, srseed := s.me.srseed, dphase := s.me.dphase,
                snapMem := snap.1, snapSys := snap.2, initView := f.view, initSeen := f.seen }
            let s1 := ((s.readCtx c).settleEdge own).onMe fun x => x.onLanes x.cur fun _ t => t.fold
            ((s1.linkGlnch c g.rcbVa va).accept child kv.2 (rcbWithCtx r c)).glnchDone w h)

end Sys2Proof.Machine
end

