-- ==== Sys2Proof/Machine/Chimney.lean ====
section
/-! DEFINITION. The chimney, phases and the completion of grids (R29, R79, R80, R119, R339, R340, R374), and the events of a
waiting group: the return of an access, a line fill, a poll, a deadline, an illegal instruction (R32, R75, R78, R208, R226). -/

namespace Sys2Proof.Machine

/-! Phases. -/

/-- The number of the open phase (R340). -/
def Grid.openPhase (g : Grid) : Nat := g.phases + 1

/-- A PHEND has been reached in the open phase, and every non-task thread has arrived or retired (R80). -/
def State.phaseFull (s : State) (g : Grid) : Bool :=
  let ts := (s.liveThreads g.handle).filter fun t => !t.task
  decide (g.placed = g.blocks) && ts.any (fun t => decide (t.phaseArr = g.openPhase)) &&
    ts.all fun t => decide (t.phaseArr = g.openPhase)

/-- Two equal sweeps are needed (R80): the grid's RCB allows tasks, or it had engine operations outstanding when its last thread
arrived or retired. -/
def State.twoSweeps (s : State) (g : Grid) : Bool := g.flags.getLsbD 1 || g.opsOut || s.ops.any fun o => o.grid == g.handle

/-- The phase ends (R80): its edge stands for those that continue and for GWAIT callers. -/
def State.endPhase (s : State) (h : Nat) : State :=
  let g := s.grid h
  let ss := g.arrivedPhase.map fun x => x.2
  let e := s.edge ss []
  let s1 := (s.onGrid h fun x =>
    { x with phases := x.phases + 1, phaseEdges := (x.phases + 1, e) :: x.phaseEdges, arrivedPhase := [], lastSweep := none, swept := false, opsOut := false })
  let s2 := (s1.foldSent ss).hubWrite g.ctx (g.rcbVa + 0x84) (natLe ((g.phases + 1) % 2 ^ 32) 4)
  s2.wake fun x => match x.park with
    | some (.phend _) => true
    | some .gwait => true
    | _ => false

/-- One sweep as it concerns a grid (R80). -/
def State.sweepGrid (s : State) (h : Nat) : State :=
  let g := s.grid h
  let same := decide (g.lastSweep = some (g.sent, g.received)) && decide (g.sent = g.received)
  if s.phaseFull g && (!s.twoSweeps g || same) then s.endPhase h
  else s.onGrid h fun x => { x with lastSweep := some (x.sent, x.received), swept := same }

/-- CHIMNEY_SWEEP (R80): every live grid's totals are read. -/
def execChimneySweep (s : State) : Result :=
  .next ((s.grids.filter fun g => g.isLive).foldl (fun t g => t.sweepGrid g.handle) s)

/-- The misuse of PHEND (R340). -/
def State.phendMisuse (s : State) : Bool :=
  let g := s.grid s.me.grid
  (lanesOf s.me.cur).any (fun i => (s.me.thread i).task || decide ((s.me.thread i).phaseArr = g.openPhase)) || !g.flags.getLsbD 0

/-- The arrival of one thread at a phase: its quantum ends (R80). -/
def State.arrivePhase (s : State) (lane : Nat) : State :=
  let g := s.grid s.me.grid
  let t := s.me.thread lane
  (s.onGrid g.handle fun x => { x with
    arrivedPhase := x.arrivedPhase ++ [(x.phases, t.sender (Rank.thread t.rank))], opsOut := s.ops.any fun o => o.grid == g.handle }).onMe fun y =>
    y.onLanes (BitVec.ofNat 32 (2 ^ lane)) fun _ u => { u.fold with phaseArr := g.openPhase }

/-- A phase edge to the active threads. -/
def State.receivePhase (s : State) (h n : Nat) : State :=
  match (s.grid h).phaseEdges.find? fun x => x.1 == n with
  | some x =>
    let r := s.receiveShared s.me.cur (x.2.foreign (s.grid h) (s.grid s.me.grid))
    r.2.onGrid h fun g => { g with phaseEdges := g.phaseEdges.map fun y => if y.1 = n then (y.1, { y.2 with rest := r.1.rest }) else y }
  | none => s

/-- PHEND (R340): the arrival is made once; the group continues past the phase's end. -/
def execPhend (w : UF) (s : State) : Result :=
  s.uniRun w.kx [] true
    (match s.me.park with
    | some (.phend n) =>
      if n ≤ (s.grid s.me.grid).phases then (s.receivePhase s.me.grid n).switch (kxLen w.kx) 1 0 else s.parkMe (.phend n)
    | _ =>
      if s.phendMisuse then s.trapAll cBarrierMisuse 0
      else ((lanesOf s.me.cur).foldl (fun t i => t.arrivePhase i) s).parkMe (.phend (s.grid s.me.grid).openPhase))

/-! GWAIT. -/

/-- The end of a GWAIT: q[B] takes the result, unless B is 511. -/
def State.gwaitDone (s : State) (w : UF) (ok : Bool) : State :=
  (s.onMe fun g => if w.b = 511 then g else g.setQ w.b.toNat ok).switch (kxLen w.kx) 1 0

/-- The grid completion edge to the active threads (R107). -/
def State.receiveEnd (s : State) (h : Nat) : State :=
  match (s.grid h).endEdge with
  | some e =>
    let r := s.receiveShared s.me.cur (e.foreign (s.grid h) (s.grid s.me.grid))
    r.2.onGrid h fun g => { g with endEdge := some { e with rest := r.1.rest } }
  | none => s

/-- GWAIT of a grid (R339): a group that waits for one whose parent has completed still learns how it ends. -/
def State.gwaitFor (s : State) (w : UF) (ph : Bool) (h : Nat) (n : Word) : State :=
  match s.grids.find? fun g => decide (g.handle = h ∧ g.ctx = s.myCtx ∧ g.handle ≠ 0) && (g.named || decide (s.me.park = some .gwait)) with
  | none => s.gwaitDone w false
  | some g =>
    if ph then
      if wrapGe (BitVec.ofNat 32 g.phases) n then (s.receivePhase h n.toNat).gwaitDone w true
      else if g.isLive then s.parkMe .gwait
      else s.gwaitDone w false
    else if g.isLive then s.parkMe .gwait
    else if g.state = 4 then (s.receiveEnd h).gwaitDone w true
    else s.gwaitDone w false

/-- GWAIT (R339): a group whose grid has ended while it waited takes what that left for it. -/
def execGwait (w : UF) (s : State) : Result :=
  let ph := (kxExt4 w.kx).testBit 0
  s.uniRun w.kx [(w.a.toNat, if ph then 2 else 1)] true
    (match s.me.park with
    | some (.gwaitOver none) => s.gwaitDone w false
    | some (.gwaitOver (some e)) => (s.receiveShared s.me.cur e).2.gwaitDone w true
    | _ => s.gwaitFor w ph (kVal s.me w.a.toNat).toNat (kVal s.me (w.a.toNat + 1)))

/-! Completion (R29, R374). -/

/-- The grid has nothing left to do. -/
def State.gridQuiet (s : State) (g : Grid) : Bool :=
  decide (g.state = 3) && decide (g.doneBlocks.length = g.blocks) && (s.liveThreads g.handle).isEmpty &&
  !s.ops.any (fun o => o.grid == g.handle) && !s.mmas.any (fun m => m.grid == g.handle) && decide (g.sent = g.received)

/-- The chimney has reported it: where two sweeps are needed, by two in a row with the totals that stand (R29, R80). -/
def State.gridOver (s : State) (g : Grid) : Bool :=
  s.gridQuiet g && (!s.twoSweeps g || (g.swept && decide (g.lastSweep = some (g.sent, g.received))))

/-- The words that leave atomic state when a grid completes: it is the last live grid that performed an atomic there (R119). -/
def State.lastWords (s : State) (h : Nat) : List AtomWord :=
  s.atoms.filter fun a => a.grids.contains h && (match a.loc with | .mem _ => true | .sys _ => true | _ => false) &&
    a.grids.all fun x => decide (x = h) || !(s.grid x).isLive

/-- Their values as direct candidates of the lowest operation rank (R119). -/
def wordSender (pid : Nat) (ws : List AtomWord) : Sender :=
  ⟨⟨pid, 0, []⟩, Rank.lowest, (ws.map fun a => wordBytesAt a.loc a.val).flatten, [], []⟩

/-- A completed grid's views go to memory (R374): every byte that some quantum wrote, those that its launch edge delivered among them
(assumption 20). -/
def State.commit (s : State) (e : Edge) : State :=
  (mergedView e).foldl (fun (t : State) c => if c.by_.pid = 0 then t else t.settle c.loc [c.byte]) s

/-- What remains of a completed grid besides its edge and its pages is dropped; the handles of its children are valid no longer
than they run (R339). -/
def State.dropGrid (s : State) (h : Nat) : State :=
  { s.endHandles [h] true with
    frames := s.frames.filter fun f => f.grid != h
    barriers := s.barriers.filter fun b => b.grid != h
    doneOps := s.doneOps.filter fun o => o.grid != h
    doneMmas := s.doneMmas.filter fun m => m.grid != h
    episodes := s.episodes.filter fun x => x.grid != h
    grids := (s.endHandles [h] true).grids.map fun x => if x.handle = h then { x with ended := [], arrivedPhase := [] } else x }

/-- The pages of an ended grid return, and then a completed one's completion word is written (R359, R374, R391, R396). -/
def State.closeGrid (s : State) (h : Nat) : State :=
  let s1 := s.releasePages h
  if (s1.grid h).privPages.isEmpty && decide ((s1.grid h).state = 4) then s1.completionWord h true else s1

/-- The parties of the groups that wait for the end of a grid. -/
def State.endWaiters (s : State) (h : Nat) : List Party :=
  ((s.allGroups.filter fun g => decide (g.gwaits = some (h, none) ∧ (s.grid g.grid).ctx = (s.grid h).ctx)).map fun g =>
    g.laneParties g.cur).flatten

/-- The groups that wait for the end of a grid are released with its edge, whose direct writes atomic state takes then, where one of
them chooses them (R107, R109, R339); those that wait for a phase that has not ended, without. -/
def State.endGrid (s : State) (h : Nat) (e : Edge) : State :=
  let ps := s.endWaiters h
  let x := s.grid h
  let s1 := if ps.isEmpty then s
    else (s.settleWhere e fun l => ps.any fun p => (e.own p l).isNone).onGrid h fun x => { x with endEdge := some (e.takenBy ps) }
  s1.endWaits h fun g ph => match ph with
    | none => some (some { e.foreign x (s.grid g.grid) with rest := some [] })
    | some n => if wrapGe (BitVec.ofNat 32 x.phases) n then none else some none

/-- The views of a grid that is over are committed, then its counters and STATE, then its completion word. -/
def State.completeGrid (s : State) (g : Grid) : State :=
  let ws := s.lastWords g.handle
  let f := s.fresh
  let e := f.2.edge (wordSender f.1 ws :: g.ended) []
  let s1 := f.2
  let s2 := ({ s1 with atoms := s1.atoms.filter fun a => !ws.any fun x => decide (x.loc = a.loc) } : State).dropFills
  let s3 := (s2.commit e).onGrid g.handle fun x => { x with endEdge := some e }
  let s4 := (s3.hubWrite g.ctx (g.rcbVa + 0x90) (natLe s.now 8)).setGridState g.handle 4 0
  ((((s4.endGrid g.handle e).dropGrid g.handle).closeGrid g.handle).releaseCores.bindWaiting)

/-- GRID_COMPLETION (R29, R374); for a grid that is DONE, REJECTED or TORN, more of its pages return. -/
def execGridCompletion (handle : Nat) (s : State) : Result :=
  .next (match s.grids.find? fun g => g.handle == handle with
    | none => s
    | some g =>
      if s.gridOver g then s.completeGrid g
      else if (g.state = 4 ∨ g.state = 5 ∨ g.state = 6) ∧ g.privPages.isEmpty = false then s.closeGrid handle
      else s)

/-! Events of waiting groups. -/

/-- A group by its place. -/
def State.groupAt (s : State) (core gslot : Nat) : Option Group :=
  s.resident.find? fun g => decide (g.core = core ∧ g.gslot = gslot)

/-- MEMORY_ACCESS_RETURN (R208): the access of a switch point completes, and its group is ready. -/
def execMemoryAccessReturn (core gslot : Nat) (s : State) : Result :=
  .next (s.onGroups fun g =>
    if g.core = core ∧ g.gslot = gslot ∧ g.park = none ∧ s.now < g.readyAt then { g with readyAt := s.now } else g)

/-- Lines of a station's instruction cache (R1, R209): 512 KiB of 128 B lines. -/
def icacheLines : Nat := 4096

/-- ICACHE_LINE_FILL (R1, R32, R209): the line arrives; where the cache is full, the line that arrived first makes room
(assumption 11). -/
def execIcacheLineFill (stn ctx line : Nat) (s : State) : Result :=
  let t : State := { s with fills := s.fills.filter fun x => x.1 != stn || x.2.1 != ctx || x.2.2.1 != line }
  .next (if s.hasLine stn ctx line then t else { t with icache := keepFirst (fun x => x.1 == stn) icacheLines ((stn, ctx, line) :: s.icache) })

/-- FUTURE_POLL (R75): the group reads its words again 1,400 clk after it read them last. -/
def execFuturePoll (core gslot : Nat) (s : State) : Result :=
  .next (match s.groupAt core gslot with
    | some g =>
      match g.park with
      | some (.future _ true) => if g.readyAt + 1400 ≤ s.now then { s with agenda := .retry g.uid :: s.agenda } else s
      | _ => s
    | none => s)

/-- OPERATION_BUFFER_ADMIT (R313): a group parked on a full buffer has its command accepted where it stands, when there is room and none
has waited longer; a station in P2 wakes for it (R414). -/
def execOperationBufferAdmit (core gslot : Nat) (s : State) : Result :=
  match s.groupAt core gslot with
  | none => .next s
  | some g =>
    if g.park ≠ some .opBuffer ∨ (s.select g.uid).bufferFull 1 = true then .next s
    else
      let w := (s.select g.uid).wakeStation (stationOf core)
      match w.1.enterBuffer with
      | .next t => .next (t.ifStays g.uid fun u => u.onMe fun x => { x with readyAt := x.readyAt + w.2 })
      | r => r

/-- WAITA_DEADLINE (R78): the group finds its deadline passed, unless its condition holds now. -/
def execWaitaDeadline (core gslot : Nat) (s : State) : Result :=
  .next (match s.groupAt core gslot with
    | some g =>
      match g.park with
      | some (.waita (some d)) => if d ≤ s.now then { s with agenda := .retry g.uid :: s.agenda } else s
      | _ => s
    | none => s)

/-- ILLEGAL_OPCODE (R211, R226): the words at the PC decode to no instruction, or an operand of them is out of range; the trap
is reported at word `off` for every thread of C (R212). -/
def execIllegalOpcode (malformed : Bool) (off : Nat) (s : State) : Result :=
  .next (if s.me.uid = 0 then s
    else s.takeTrap (if malformed then cIllegalForm else cIllegalOpcode) s.me.cur 0 0 off)

end Sys2Proof.Machine
end

