-- ==== Sys2Proof/Machine/Signal.lean ====
section
/-! DEFINITION. The signal box's queues and commands (R377, R388 to R391), PRI responses (R354), PTSYNC (R362), the pool rings (R359),
the coalescers (R368) and peer traffic (R321, R366, R367). -/

namespace Sys2Proof.Machine

/-! Registers the host reaches. -/

/-- A register of PF0's BAR0 responds (R399). -/
def State.regUp (s : State) (off : Nat) : Bool :=
  !s.power.d3hot && !s.power.removed && (decide (s.sec.stage = 4) || decide (0x400000 ≤ off ∧ off < 0x403000))

/-- A host write to a register (R353, R406, R407): nothing where the block does not respond; a denial is logged. -/
def State.regEffect (s : State) (fn off : Nat) (f : State → State) : State :=
  if s.regUp off = false then s
  else if accessOk s 8 (hostMaster fn) off .write then f s
  else s.logDenial 8 (hostMaster fn) off .write

/-- The pieces, within one page each, of a host access to a target: the denied ones, which are logged, and the others (R353, R407). -/
def State.hostPieces (s : State) (target fn a n : Nat) (k : Access) : List (Nat × Nat) × State :=
  (((cutsOf a n).filter fun p => accessOk s target (hostMaster fn) p.1 k),
    ((cutsOf a n).filter fun p => !accessOk s target (hostMaster fn) p.1 k).foldl (fun (t : State) p =>
      t.logDenial target (hostMaster fn) p.1 k) s)

/-! PTSYNC (R362). -/

/-- The contexts a PTSYNC write names. -/
def ptContexts (v : Nat) : List Nat := if v.testBit 8 then List.range 64 else [v % 64]

/-- A PTSYNC write: it starts a synchronisation or joins the one in progress. -/
def State.startSync (s : State) (v : Nat) : State :=
  { s with
    ptBusy := true
    ptAll := (s.ptBusy && s.ptAll) || v.testBit 8
    ptCtxs := (if s.ptBusy then s.ptCtxs else []) ++ (ptContexts v).filter fun c => !(s.ptBusy && s.ptCtxs.contains c) }

/-- PTSYNC_WRITE (R362). -/
def execPtsyncWrite (value : BitVec 64) (s : State) : Result :=
  .next (s.regEffect 0 0x20000 fun t => t.startSync value.toNat)

/-- PTSYNC_COMPLETION (R362): the entries are read again, and pages that became device-owned enter the live grids' views (R360). -/
def execPtsyncCompletion (s : State) : Result :=
  .next (if s.ptBusy = false then s
    else
      let t := s.ptCtxs.foldl (fun (u : State) c => ((u.dropTlb c).readCtx c).syncPages c) s
      { t with ptBusy := false, ptAll := false, ptCtxs := [], ptDone := t.ptDone + 1 })

/-! The pool ring (R359). -/

/-- Farsyn has produced entries: saves that waited for pages go on (R395). -/
def State.setPpHead (s : State) (c v : Nat) : State :=
  (s.onCtx c fun x => { x with ppHead := BitVec.ofNat 32 v }).resumeSaves c

/-- PPHEAD_WRITE (R359). -/
def execPpheadWrite (ctx : Nat) (value : BitVec 64) (s : State) : Result :=
  .next (if 64 ≤ ctx then s else s.regEffect 0 (0x40000 + 16 * ctx) fun t => t.setPpHead ctx value.toNat)

/-! Coalescers (R368). -/

/-- A write to COAL: 0 stores 1 in CNT and WIN, and EN from 0 to 1 restarts the window. -/
def State.setCoal (s : State) (f v x : Nat) : State :=
  let c := s.coalOf f v
  let en := x.testBit 31
  s.putCoal { c with
    en := en, cnt := max 1 (field x 16 8), win := max 1 (field x 0 10), t0 := if en && !c.en then s.now else c.t0 }

/-- COAL_WRITE (R368). -/
def execCoalWrite (fn vector : Nat) (value : BitVec 64) (s : State) : Result :=
  .next (if 8 ≤ fn ∨ 32 ≤ vector then s
    else s.regEffect 0 (0x50000 + 16 * (32 * fn + vector)) fun t => t.setCoal fn vector value.toNat)

/-- One coalescer at a tick. -/
def State.tickCoal (s : State) (c : Coal) : State :=
  if c.en && decide (0 < c.pending) && (decide (c.cnt ≤ c.pending) || decide (c.win * clkPerUs ≤ s.now - c.t0)) then
    (s.putCoal { c with pending := 0 }).fire c.fn c.vector
  else s

/-- COALESCER_TICK (R368). -/
def execCoalescerTick (s : State) : Result := .next (s.coal.foldl (fun t c => t.tickCoal c) s)

/-! Commands of the control ring (R389). -/

/-- A held group of a context by its token. -/
def State.heldGroup (s : State) (c tk : Nat) : Option Group :=
  s.allGroups.find? fun g =>
    decide ((s.grid g.grid).ctx = c ∧ g.park = some .held) && (match g.heldItem with | some h => decide (h.token = tk) | none => false)

/-- A held operation of a context by its token. -/
def State.heldOp (s : State) (c tk : Nat) : Option Op :=
  s.ops.find? fun o => decide (o.ctx = c ∧ o.stage = .heldFault) && (match o.heldItem with | some h => decide (h.token = tk) | none => false)

/-- The private marks a replay raises in a group (R97). -/
def Group.growMarks (g : Group) : Group :=
  match g.heldItem with
  | some h => g.onAll fun _ t => h.grow.foldl (fun u x => u.grow x.1 x.2.1 x.2.2) t
  | none => g

/-- The item is held by TRAP_INSN or BREAKPOINT. -/
def Group.forResume (g : Group) : Bool := match g.heldItem with | some h => h.resumable | none => false

/-- Records of a released item that still wait for room are not written. -/
def State.dropUnrecorded (s : State) (tk : Nat) : State := { s with unrecorded := s.unrecorded.filter fun u => u.token != tk }

/-- Changes the groups of one identity. -/
def State.onGroup (s : State) (uid : Nat) (f : Group → Group) : State := s.onGroups fun g => if g.uid = uid then f g else g

/-- An operation's item released to replay. -/
def Op.replayed (o : Op) : Op :=
  { o with stage := .queued, heldItem := o.heldItem.map fun h => { h with replays := h.replays + 1, again := true } }

/-- REPLAY (R389): the outcome written back. -/
def State.doReplay (s : State) (c tk : Nat) : Nat × State :=
  match s.heldGroup c tk with
  | some g =>
    if g.forResume then (2, s) else (0, (s.onGroup g.uid fun x => x.growMarks.replayed s.now).dropUnrecorded tk)
  | none =>
    match s.heldOp c tk with
    | some o => (0, (s.putOp o.replayed).dropUnrecorded tk)
    | none => (2, s)

/-- RESUME (R305, R389). -/
def State.doResume (s : State) (c tk : Nat) : Nat × State :=
  match s.heldGroup c tk with
  | some g => if g.forResume then (0, (s.onGroup g.uid fun x => x.resumed s.now).dropUnrecorded tk) else (2, s)
  | none => (2, s)

/-- A command word (R389): what the hub writes back, and the state. -/
def State.command (s : State) (c w : Nat) : Nat × State :=
  let op := field w 60 4
  let tk := field w 32 20
  let fd := w % 64
  if field w 52 8 ≠ 0 ∨ field w 6 26 ≠ 0 then (2, s)
  else
    match op with
    | 1 => if fd ≠ 0 then (2, s) else s.doReplay c tk
    | 2 => if fd ≠ 0 then (2, s) else s.doResume c tk
    | 3 => if tk ≠ 0 then (2, s) else (0, s.teardown fd)
    | _ => (2, s)

/-- Window offset of a slot of a context's control ring. -/
def Ctx.cmdSlot (x : Ctx) (i : Nat) : Nat := x.armoff + 0x200 + 8 * (i % 64)

/-- A bit of a word set or cleared. -/
def putBit (x : BitVec 64) (i : Nat) (b : Bool) : BitVec 64 := if b then x ||| (1#64 <<< i) else x &&& ~~~(1#64 <<< i)

/-- The hub carries out the commands of a context in ring order, as far as the host has written them (R372, R389): a slot it has
written back, with 0 or with 0x2, is no command, nor is one that reads 0. -/
def State.drainCmds (s : State) (c : Nat) : Nat → State
  | 0 => s
  | n + 1 =>
    let i := (s.ctx c).cmdNext
    let off := (s.ctx c).cmdSlot i
    if (s.ctx c).cmdFull.getLsbD i = false then s
    else
      let v := s.readSlot off
      if v.1 = 0 then v.2
      else
        let r := v.2.command c v.1
        ((r.2.putSlot off r.1).onCtx c fun y =>
          { y with cmdNext := (y.cmdNext + 1) % 64, cmdFull := putBit y.cmdFull i false }).drainCmds c n

/-- Ranges of bytes meet. -/
def meets (a n b m : Nat) : Bool := decide (a < b + m) && decide (b < a + n)

/-- The slots of a context's control ring that a host write to the window touched hold commands, unless they read 0 (R389). -/
def State.markCmds (s : State) (c off n : Nat) : State :=
  s.onCtx c fun x =>
    { x with cmdFull := (List.range 64).foldl (fun m i =>
        if meets off n (x.cmdSlot i) 8 then putBit m i (decide (Memory.num s.window (x.cmdSlot i) 8 ≠ 0)) else m) x.cmdFull }

/-- A host write to the window reached the control ring of a context. -/
def State.commands (s : State) (c off n : Nat) : State :=
  if (s.ctx c).valid && meets off n ((s.ctx c).armoff + 0x200) 0x200 then (s.markCmds c off n).drainCmds c 64 else s

/-- A command word arrives in a slot: written by the context's function, or by PF0 where the slice does not hold the ring. -/
def State.commandSlot (s : State) (c slot : Nat) (w : BitVec 64) : State :=
  if s.hostUp = false then s
  else
    let x := s.ctx c
    let off := x.cmdSlot slot
    let inSlice := decide (x.woff * 65536 ≤ off ∧ off + 8 ≤ (x.woff + x.wsz) * 65536)
    (s.hostWindow (if inSlice then x.fn else 0) off (natLe w.toNat 8)).commands c off 8

/-- REPLAY, RESUME, TEARDOWN (R389): command words in a slot of the control ring. -/
def execReplay (ctx slot : Nat) (word : BitVec 64) (s : State) : Result := .next (s.commandSlot ctx slot word)
def execResume (ctx slot : Nat) (word : BitVec 64) (s : State) : Result := .next (s.commandSlot ctx slot word)
def execTeardown (ctx slot : Nat) (word : BitVec 64) (s : State) : Result := .next (s.commandSlot ctx slot word)

/-! The trap queue (R388). -/

/-- A record's bytes on a pass of the ring: PH is bit 31 of the word at 0x04. -/
def withPh (bs : List Byte) (ph : Bool) : List Byte :=
  setNth bs 7 ((nth bs 7 0 &&& 0x7F) ||| (if ph then 0x80 else 0))

/-- Writes the stored bytes of a record (R383). -/
def State.writeStored (s : State) (f : Nat) (bs : List Byte) : State :=
  let q := s.queue f
  let ph := decide (q.prod.toNat / 4096 % 2 = 0)
  let s1 := s.putAs hubMaster (q.base.getLsbD 63) (field q.base.toNat 18 38 * 2 ^ 18 + 64 * (q.prod.toNat % 4096)) (withPh bs ph)
  let s2 := { s1 with queues := setNth s1.queues f { q with prod := q.prod + 1 } }
  if q.prod = q.consumed then s2.fire f 32 else s2

/-- The waiting records of a function that fit are written, in the order in which they were held. -/
def State.retryRecords (s : State) (f : Nat) : List Unrecorded → State
  | [] => s
  | u :: r =>
    if u.fn ≠ f then s.retryRecords f r
    else
      let t := s.refreshQueue f u.records.length
      if queueFree (t.queue f) < 8 + u.records.length then t
      else
        let s1 := { t with unrecorded := t.unrecorded.filter fun x => x != u }
        (u.records.foldl (fun (t : State) b => t.writeStored f b) s1).retryRecords f r

/-- The consumer word of a queue as it stands in memory (R383). -/
def State.consumerWord (s : State) (q : TrapQueue) : Word :=
  BitVec.ofNat 32 (s.readHub (q.headVa.getLsbD 63) (field q.headVa.toNat 2 54 * 4) 4).1

/-- TRAP_QUEUE_RETRY (R383, R388): the driver writes the consumer word, where it stands in device memory if the access table of its stack
lets the function (R407), and the hub retries what it holds, for which its own count shows too few entries free. -/
def execTrapQueueRetry (fn : Nat) (consumed : BitVec 32) (s : State) : Result :=
  .next (if 8 ≤ fn then s
    else
      let q := s.queue fn
      if q.base.getLsbD 0 = false then s
      else
        let sys := q.headVa.getLsbD 63
        let a := field q.headVa.toNat 2 54 * 4
        if sys || accessOk s (a / 4096 % 8) (hostMaster fn) a .write then
          let s1 := s.putPhys sys a (natLe consumed.toNat 4)
          s1.retryRecords fn s1.unrecorded
        else s.logDenial (a / 4096 % 8) (hostMaster fn) a .write)

/-- FATALV_CLEAR (R377): a write of 1. -/
def execFatalvClear (value : BitVec 64) (s : State) : Result :=
  .next (s.regEffect 0 0x100240 fun t => if value.getLsbD 0 then { t with fatalV := false } else t)

/-! Peer traffic (R321, R366, R367). -/

/-- The port accepts inbound writes, and the context that translates them. -/
def State.peerIn (s : State) (port : Nat) : Option Nat :=
  let p := nth s.peers port ⟨0, 0, 0⟩
  if p.inn.getLsbD 31 then some (p.inn.toNat % 64) else none

/-- Bytes that a peer wrote enter memory, and each live grid of the context, as a sender of its own there, at its next launch, phase-end or
completion edge. -/
def State.peerLand (s : State) (c : Nat) (l : Loc) (bs : List Byte) : State :=
  (s.grids.filter fun g => decide (g.ctx = c) && g.isLive).foldl (fun (t : State) g =>
    let f := t.fresh
    let x : Sender := ⟨⟨f.1, 0, []⟩, Rank.lowest, List.zip (l.span bs.length) bs, [], []⟩
    f.2.onGrid g.handle fun y => { y with ended := y.ended ++ [x], arrivedPhase := y.arrivedPhase ++ [(y.phases, x)] }) (s.settle l bs)

/-- The record of a fault of an inbound transfer (R367). -/
def State.peerRec (s : State) (c : Nat) (x : Inbound) (va tk gen : Nat) : TrapRec :=
  { fd := (s.ctx c).fd, async := true, replay := true, cause := cPageFault, ctx := c, token := tk, va := va, gen := gen,
    rcnt := x.releases, unitValid := true, unit := x.port, kind := 3, time := s.now }

/-- The pieces of a transfer, within one page each, go in order; the first that faults holds what is left, a denial by the port's table
or by the memory's (R407) or the 15th release's fault refuses it, and a fault with F is recorded against the receiving context (R354,
R358, R421). -/
def State.peerPieces (s : State) (c : Nat) (x : Inbound) : List (Nat × Nat) → State
  | [] => { s with inbound := s.inbound.filter fun y => y.port != x.port }
  | p :: r =>
    let at_ := p.1 - x.va
    let bs := (x.bytes.drop at_).take p.2
    let others := s.inbound.filter fun y => y.port != x.port
    let hold (gen tk : Nat) (request : Option Nat) : Inbound := ⟨x.port, p.1, x.bytes.drop at_, x.releases, gen, tk, request⟩
    let away : State := { s with inbound := others }
    if accessOk s (10 + x.port) (136 + x.port) p.1 .write = false then away.logDenial (10 + x.port) (136 + x.port) p.1 .write
    else match translate s c (136 + x.port) p.1 .write with
    | .ok (.mem pa _) => (s.peerLand c (.mem pa) bs).peerPieces c x r
    | .ok (.sys a) => (s.peerLand c (.sys a) bs).peerPieces c x r
    | .ok (.win off) => (s.putWindow off bs).peerPieces c x r
    | .denied (some d) => away.logDenial d.1 (136 + x.port) d.2 .write
    | .denied none => away
    | .hole pa => { s with hole := some pa }
    | .pri page =>
      { s with
        inbound := others ++ [hold x.gen x.token (some s.priNext)]
        priNext := s.priNext + 1
        priWaits := s.priWaits ++ [(s.priNext, page)] }
    | .fatal => away.takeFatal (away.peerRec c x p.1 0 0)
    | .poison => away.takeFatal { away.peerRec c x p.1 0 0 with cause := cPoison }
    | .fault =>
      if x.releases = 15 then away
      else
        let gen := if x.releases ≠ 0 ∧ p.1 = x.va then x.gen + 1 else 0
        let tk := away.freshToken
        let t := { s with inbound := others ++ [hold gen tk none] }
        t.postHeld (t.ctx c).fn 0 [t.peerRec c x p.1 tk gen]

/-- A transfer of a port is tried; a port that accepts none denies it (R366). -/
def State.peerTry (s : State) (x : Inbound) : State :=
  match s.peerIn x.port with
  | some c => s.peerPieces c x (cutsOf x.va x.bytes.length)
  | none => { s with inbound := s.inbound.filter fun y => y.port != x.port }.logDenial (10 + x.port) (136 + x.port) x.va .write

/-- PEER_INBOUND_WRITE (R367): back-pressure holds a port whose transfer is held; the target's access table stands at the port. -/
def execPeerInboundWrite (port va : Nat) (bytes : List (BitVec 8)) (s : State) : Result :=
  .next (if 12 ≤ port ∨ s.inbound.any (fun x => x.port == port) = true then s
    else if 2 ^ 56 < va + bytes.length then s.logDenial (10 + port) (136 + port) va .write
    else s.wakeDies.peerTry ⟨port, va, bytes, 0, 0, 0, none⟩)

/-- A write to PEERRES releases the transfer its port holds. -/
def State.releasePeer (s : State) (port : Nat) : State :=
  match s.inbound.find? fun x => x.port == port with
  | some x => if x.request.isSome then s else s.wakeDies.peerTry { x with releases := x.releases + 1 }
  | none => s

/-- PEERRES_WRITE (R366, R367). -/
def execPeerresWrite (port : Nat) (s : State) : Result :=
  .next (if 12 ≤ port then s else s.regEffect 0 (0x60000 + 32 * port + 16) fun t => t.releasePeer port)

/-- PEER_LINK_TRAINING (R366): the link sets PEEROUT.PEER. -/
def execPeerLinkTraining (port : Nat) (hash : BitVec 16) (s : State) : Result :=
  let p := nth s.peers port ⟨0, 0, 0⟩
  .next { s with peers := setNth s.peers port { p with out := (p.out &&& 0x80000000) ||| hash.setWidth 32 } }

/-! PRI (R354). -/

/-- A waiting group after an error response: PAGE_FAULT with F. -/
def State.priFatal (s : State) (g : Group) : State :=
  let va := match g.park with | some (.pri _ v) => v | _ => 0
  s.takeFatal { g.trapRec s cPageFault with va := va }

/-- An operation that waits for a page tries again, or its fault is fatal. -/
def State.priOp (s : State) (page : Nat) (ok : Bool) (o : Op) : State :=
  if ok then s.putOp { o with stage := .queued }
  else
    let r := s.opRun o
    match r.stop with
    | some (.pri pg va) => if pg = page then r.stopped (.abort cCopyFault va none) else s
    | _ => s

/-- An inbound transfer that waits for a page tries again, or its fault has F (R354, R367). -/
def State.priInbound (s : State) (request : Nat) (ok : Bool) (x : Inbound) : State :=
  if x.request ≠ some request then s
  else if ok then s.peerTry { x with request := none }
  else
    let t : State := { s with inbound := s.inbound.filter fun y => y.port != x.port }
    match t.peerIn x.port with
    | some c => t.takeFatal (t.peerRec c x x.va 0 0)
    | none => t

/-- A write of the hub that waited is made; after an error response its fault has F (R354). -/
def State.priHub (s : State) (ok : Bool) (w : HubWait) : State :=
  if ok then (if w.exchange then s.exchangeWord w.ctx w.va (leNat w.bytes) else s.hubWrite w.ctx w.va w.bytes)
  else s.takeFatal { fd := (s.ctx w.ctx).fd, cause := cPageFault, ctx := w.ctx, va := w.va, time := s.now }

/-- The hub's own accesses that wait for a page: its writes, and the records that the next arms of the contexts `arms` name. -/
def State.priHubs (s : State) (page : Nat) (arms : List Nat) (ok : Bool) : State :=
  let t := (s.hubWaits.filter fun w => w.page == page).foldl (fun u w => u.priHub ok w)
    { s with hubWaits := s.hubWaits.filter fun w => w.page != page }
  arms.foldl (fun u c => u.armResponse ok c) t

/-- PRI_RESPONSE (R354): what waited for the page replays, uncounted; after an error it faults with F. -/
def execPriResponse (request : Nat) (ok : Bool) (s : State) : Result :=
  .next (match s.priWaits.find? fun x => x.1 == request with
    | none => s
    | some w =>
      let s1 := { s with
        priWaits := s.priWaits.filter fun x => x.1 != request
        noAts := if ok then s.noAts.filter fun p => p != w.2 else s.noAts }
      let mine (g : Group) : Bool := match g.park with | some (.pri r _) => decide (r = request) | _ => false
      let s2 := if ok then s1.onGroups fun g => if mine g then g.released s.now else g
        else (s1.allGroups.filter mine).foldl (fun t g => t.priFatal g) s1
      let s3 := (s2.ops.filter fun o => decide (o.stage = .pri)).foldl (fun t o => t.priOp w.2 ok o) s2
      (s3.inbound.foldl (fun t x => t.priInbound request ok x) s3).priHubs w.2 (s.armsFor w.2) ok)

end Sys2Proof.Machine
end

