-- ==== Sys2Proof/Machine/Power.lean ====
section
/-! DEFINITION. Power states of the stations, the dies, the clock and the host link (R414 to R416). -/

namespace Sys2Proof.Machine

/-! Stations. -/

/-- A station's change is complete (R414, R417). -/
def State.stationNow (s : State) (n cur : Nat) : State :=
  ({ s with power := { s.power with
      cur := setNth s.power.cur n cur, tgt := setNth s.power.tgt n cur, busy := setNth s.power.busy n false } } : State).fire 0 39

/-- A station's request ends without a change. -/
def State.stationStays (s : State) (n : Nat) (refused : Bool) : State :=
  { s with power := { s.power with
      tgt := setNth s.power.tgt n (nth s.power.cur n 0), busy := setNth s.power.busy n false
      refused := setNth s.power.refused n refused } }

/-- The station has no resident group and no operation (R414). -/
def State.stationIdle (s : State) (n : Nat) : Bool :=
  (s.onStation n).isEmpty && !s.ops.any fun o => decide (stationOf o.core = n)

/-- Blocks that the station still holds. -/
def State.holdsBlocks (s : State) (n : Nat) : Bool := s.blocks.any fun b => !b.saved && decide (b.station = n)

/-- Every live record of a station is pre-empted (R394). -/
def State.preemptAll (s : State) (n : Nat) : State :=
  (List.range 64).foldl (fun t i => if (t.bind n i).live then t.preempt n i else t) s

/-- Marks in registers of a station. -/
def markIn (n : Nat) (p : PoisonAt) : Bool :=
  match p with
  | .vreg c _ _ _ => decide (stationOf c = n)
  | .kreg c _ _ => decide (stationOf c = n)
  | _ => false

/-- A station without blocks is gated: its task groups and operations are saved, and every SRAM of it loses its contents (R414). -/
def State.gate (s : State) (n : Nat) : State :=
  let s1 := (s.corner.filter fun c => decide (stationOf c.core = n)).foldl (fun t c => t.writeFrame c) s
  let s2 := s1.saveWhere fun g => decide (stationOf g.core = n)
  let s3 : State := { s2 with
    ops := s2.ops.map fun o => if stationOf o.core = n ∧ o.stage = .running then { o with stage := .queued } else o
    icache := s2.icache.filter fun x => x.1 != n
    fills := s2.fills.filter fun x => x.1 != n
    tlb := s2.tlb.filter fun x => !decide (unitStation x.1 = n)
    sec := { s2.sec with trEnded := s2.sec.trEnded ||| (1#32 <<< n) }
    tsrCache := s2.tsrCache.filter fun x => x.1 != n
    kvTlb := s2.kvTlb.filter fun x => stationOf x.1 != n
    pipeBusy := s2.pipeBusy.filter fun x => stationOf x.1 != n
    poison := s2.poison.filter fun p => !markIn n p }
  (s3.releaseCores).stationNow n 3

/-- Nothing of the station runs: its groups are parked, its engines and arrays have nothing (R414). -/
def State.stationRests (s : State) (n : Nat) : Bool :=
  (s.onStation n).all (fun g => g.park.isSome) && !(s.ops.any fun o => decide (stationOf o.core = n)) &&
    !s.mmas.any fun m => decide (stationOf m.core = n)

/-- The request can be met (R414, R416): a station whose groups all wait for wake events can be in P2. -/
def State.stationCan (s : State) (n t : Nat) : Bool :=
  decide (t = 0) || (!s.sec.halt.getLsbD n && (decide (t = 3) || (decide (nth s.power.cur n 0 ≠ 3) && s.stationRests n)))

/-- STNPWR: a target other than 0, 2 and 3 is ignored. -/
def State.stationRequest (s : State) (n t : Nat) : State :=
  if ¬(t = 0 ∨ t = 2 ∨ t = 3) then s
  else if s.stationCan n t = false then
    { s with power := { s.power with refused := setNth s.power.refused n true } }
  else if nth s.power.cur n 0 = t then (s.stationStays n false).bindWaiting
  else
    let s1 : State := { s with power := { s.power with
      tgt := setNth s.power.tgt n t, busy := setNth s.power.busy n true, refused := setNth s.power.refused n false } }
    if t = 3 then (s1.preemptAll n).bindWaiting else s1

/-- STNPWR_WRITE (R414). -/
def execStnpwrWrite (stn : Nat) (value : BitVec 64) (s : State) : Result :=
  .next (if 32 ≤ stn then s else s.regEffect 0 (0x403100 + 8 * stn) fun t => t.stationRequest stn (value.toNat % 8))

/-- STATION_IDLE_P2 (R414, R411): the environment says that the station has been idle for 1,000 clk. -/
def execStationIdleP2 (stn : Nat) (s : State) : Result :=
  .next (if stn < 32 ∧ nth s.power.cur stn 0 = 0 ∧ nth s.power.busy stn false = false ∧ s.sec.halt.getLsbD stn = false ∧
      s.stationIdle stn = true then s.stationNow stn 2
    else s)

/-! Dies. -/

/-- The stations of a die. -/
def dieStations (d : Nat) : List Nat := (List.range 8).map fun i => 8 * d + i

/-- The die may enter P4 (R414). -/
def State.dieCan (s : State) (d : Nat) : Bool :=
  (dieStations d).all (fun n => decide (nth s.power.cur n 0 = 3)) && !s.grids.any fun g => g.isLive

/-- A die's state and flags. -/
def State.setDie (s : State) (d : Nat) (off busy refused : Bool) : State :=
  { s with power := { s.power with
      dieOff := setNth s.power.dieOff d off, dieBusy := setNth s.power.dieBusy d busy
      dieRefused := setNth s.power.dieRefused d refused } }

/-- DIEPWR (R414). -/
def State.dieRequest (s : State) (d : Nat) (off : Bool) : State :=
  let is := nth s.power.dieOff d false
  if off = is then s.setDie d is false false
  else if off then (if s.dieCan d then s.setDie d is true false else s.setDie d is (nth s.power.dieBusy d false) true)
  else s.setDie d is true false

/-- DIEPWR_WRITE (R414). -/
def execDiepwrWrite (die : Nat) (value : BitVec 64) (s : State) : Result :=
  .next (if 4 ≤ die then s else s.regEffect 0 (0x403200 + 8 * die) fun t => t.dieRequest die (value.getLsbD 0))

/-! The clock. -/

/-- CLKSEL (R414): issue pauses until the change is complete. -/
def State.setClock (s : State) (p1 : Bool) : State :=
  if s.power.p1 = p1 then s else { s with power := { s.power with p1 := p1, clkBusy := true } }

/-- CLKSEL_WRITE (R414). -/
def execClkselWrite (value : BitVec 64) (s : State) : Result :=
  .next (s.regEffect 0 0x403000 fun t => t.setClock (value.getLsbD 0))

/-! Completed changes. -/

/-- A station's transition: into P3 only when no block is left on it, and never while it is halted (R416); one that is to run wakes its
die. -/
def State.stationStep (s : State) (n : Nat) : State :=
  match nth s.power.tgt n 0 with
  | 3 =>
    if s.sec.halt.getLsbD n then s.stationStays n true
    else
      let t := if s.holdsBlocks n then s.preemptAll n else s
      if t.holdsBlocks n then t else t.gate n
  | 2 => if s.stationCan n 2 then s.stationNow n 2 else s.stationStays n true
  | _ =>
    let d := n / 8
    (((if nth s.power.dieOff d false then (s.setDie d false (nth s.power.dieBusy d false) false).fire 0 39 else s).stationNow n 0)).bindWaiting

/-- A die's transition. -/
def State.dieStep (s : State) (d : Nat) : State :=
  if nth s.power.dieOff d false then ((s.setDie d false false false).fire 0 39).bindWaiting
  else if s.dieCan d then (s.setDie d true false false).fire 0 39
  else s.setDie d false false true

/-- POWER_TRANSITION_COMPLETE (R414): stations 0 to 31, dies 32 to 35, the clock 36. -/
def execPowerTransitionComplete (index : Nat) (s : State) : Result :=
  .next (if index < 32 then (if nth s.power.busy index false then s.stationStep index else s)
    else if index < 36 then (if nth s.power.dieBusy (index - 32) false then s.dieStep (index - 32) else s)
    else if index = 36 ∧ s.power.clkBusy = true then
      ({ s with power := { s.power with clkBusy := false } } : State).fire 0 39
    else s)

/-! The host link. -/

/-- A station enters P3 with the link, unless it is halted or waits for pool pages (R415). -/
def State.sleepStation (s : State) (n : Nat) : State :=
  if s.sec.halt.getLsbD n || decide (nth s.power.cur n 0 = 3) then s
  else if s.holdsBlocks n then
    { s with power := { s.power with tgt := setNth s.power.tgt n 3, busy := setNth s.power.busy n true } }
  else s.gate n

/-- A die whose stations are all in P3 enters P4 with the link (R415). -/
def State.sleepDie (s : State) (d : Nat) : State :=
  if nth s.power.dieOff d false || !(dieStations d).all (fun n => decide (nth s.power.cur n 0 = 3)) then s
  else (s.setDie d true false false).fire 0 39

/-- D3HOT_ENTRY (R415). -/
def execD3hotEntry (s : State) : Result :=
  .next (if s.power.d3hot || s.power.removed then s
    else
      let s1 := (List.range 32).foldl (fun t n => t.preemptAll n) s
      let s2 := (List.range 32).foldl (fun t n => t.sleepStation n) s1
      let s3 := (List.range 4).foldl (fun t d => t.sleepDie d) s2
      { s3 with power := { s3.power with d3hot := true } })

/-- D0_RETURN (R414). -/
def execD0Return (s : State) : Result :=
  .next (if s.power.d3hot = false then s
    else ({ s with power := { s.power with d3hot := false } } : State).bindWaiting)

/-- Turns that come from outside the device's own work. -/
def Turn.outside (t : Turn) : Bool :=
  match t with
  | .event (.icacheLineFill _ _ _) => false
  | .event _ => true
  | .pipe _ _ => false
  | .retry _ => false
  | .array _ => false
  | .host _ => true

/-- What keeps its contents without power: the host's memory and its translations, the boot flash and the fuses; and what the
model has written and drawn. -/
def State.powerLost (s : State) : State :=
  { State.reset with
    agenda := s.agenda.filter Turn.outside
    draws := s.draws
    sysMem := s.sysMem
    noAts := s.noAts
    msix := s.msix
    flash := s.flash
    flashFails := s.flashFails
    sec := { Sec.reset with lock := s.sec.lock, roll := s.sec.roll } }

/-- POWER_REMOVAL (R414): D3cold. -/
def execPowerRemoval (s : State) : Result :=
  .next ({ s.powerLost with power := { Power.reset with removed := true } })

end Sys2Proof.Machine
end

