-- ==== Sys2Proof/Machine/Secure.lean ====
section
/-! DEFINITION. Boot and recovery (R400 to R402), measurements and attestation (R403 to R405), debug tokens, levels, halting and the
debug window (R409 to R413). -/

namespace Sys2Proof.Machine

/-! Measurements (R403, R404). -/

/-- ROLL: the rollback bits that are blown. -/
def Sec.rollCount (x : Sec) : Nat := ((List.range 64).filter fun i => x.roll.getLsbD i).length

/-- The state word (R404). -/
def Sec.stateWord (x : Sec) : Nat := x.sec % 4 * 2 ^ 30 + x.dmax % 4 * 2 ^ 28 + bit x.recovery * 2 ^ 27 + x.rollCount % 128

/-- Extends a measurement. -/
def Sec.extend (x : Sec) (i : Nat) (d : List Byte) : Sec :=
  { x with meas := setNth x.meas i (sha512 (nth x.meas i [] ++ d)) }

/-- The security engine records SEC and DMAX in M[1]. -/
def Sec.note (x : Sec) : Sec := x.extend 1 (natLe x.stateWord 4)

/-- Changes the security block. -/
def State.onSec (s : State) (f : Sec → Sec) : State := { s with sec := f s.sec }

/-- 64 bytes of free values: a nonce drawn. -/
def State.drawNonce (s : State) : List Byte × State :=
  (((List.range 8).map fun i => natLe (Config.freeValue (s.draws + i)).toNat 8).flatten, { s with draws := s.draws + 8 })

/-- A fresh DBGNONCE. -/
def State.newNonce (s : State) : State :=
  let r := s.drawNonce
  r.2.onSec fun x => { x with dbgNonce := r.1, nonceDrawn := true }

/-! Boot. -/

/-- Signal-box SRAM in bytes, as recovery maps it (R402). -/
def sramBytes : Nat := 0x400000

/-- The fields of an image header (R401). -/
def imgVersion (h : List Byte) : Nat := recNum h 8 8
def imgBody (h : List Byte) : Nat := recNum h 0x10 8
def imgEntry (h : List Byte) : Nat := recNum h 0x18 8
def imgKey (h : List Byte) : List Byte := (h.drop 0x60).take 132

/-- The SHA-512 of the firmware key in the fuses. -/
def fusedKeyHash : List Byte := (List.range 64).map Config.firmwareKeyHash

/-- The header does not have its fixed fields (R401, ERR 0x02). -/
def imgMalformed (h : List Byte) : Bool :=
  decide (recNum h 0 4 ≠ 0x4B494F54 ∨ recNum h 4 4 ≠ 0x200 ∨ imgBody h = 0 ∨ 0x3FFE00 < imgBody h ∨ imgEntry h % 4 ≠ 0 ∨
    imgBody h ≤ imgEntry h) || (h.drop 0x168).any fun b => b != 0

/-- The first failure of the checks of an image in memory, 0 for none (R401). -/
def imgError (m : Memory) (roll : Nat) : Nat :=
  let h := m.bytes 0 0x200
  if imgMalformed h then 0x02
  else if sha512 (imgKey h) ≠ fusedKeyHash then 0x03
  else if ecdsaOk (imgKey h) ((h.drop 0xE4).take 132) (h.take 0xE4) = false then 0x04
  else if sha512 (m.bytes 0x200 (imgBody h)) ≠ (h.drop 0x20).take 64 then 0x05
  else if imgVersion h < roll ∨ 64 < imgVersion h then 0x06
  else 0

/-- Levels as they are stored: none above DMAX. -/
def clampLevels (v dmax : Nat) : Nat → Nat
  | 0 => 0
  | n + 1 => min (v % 4) dmax + 4 * clampLevels (v / 4) dmax n

/-- SEC and DMAX take new values: every level above DMAX is lowered to it (R404, R409). -/
def Sec.grant (x : Sec) (sec dmax : Nat) : Sec :=
  { x with sec := sec, dmax := dmax, dbgLvl := BitVec.ofNat 128 (clampLevels x.dbgLvl.toNat dmax 64) }

/-- SEC and DMAX after reset (R404). -/
def Sec.fresh (x : Sec) : Sec := if x.lock then x.grant 0 0 else x.grant 2 2

/-- Steps 4 to 7 of R400 for a verified image. A debug session lasts until reset (R410). -/
def State.bootImage (s : State) (recovered : Bool) : State :=
  let h := Memory.bytes s.sbSram 0 0x200
  s.onSec fun x =>
    let y : Sec := { x with roll := BitVec.ofNat 64 (2 ^ imgVersion h - 1), version := imgVersion h, recovery := recovered }
    let z := (y.extend 0 (h.take 0xE4)).extend 0 ((h.drop 0x20).take 64)
    { z.note with stage := 3, err := 0 }

/-- Recovery with an ERR code (R402). -/
def State.recover (s : State) (e : Nat) : State := (s.onSec fun x => { x with stage := 2, err := e }).fire 0 35

/-- POWER_ON_RESET (R400, R401): the fuses and the boot flash are all that is left of the state before. -/
def execPowerOnReset (s : State) : Result :=
  let s1 : State := { s.powerLost with sbSram := s.flash.filter fun x => decide (x.1 < sramBytes) }
  let s2 := (s1.onSec fun x => x.fresh).newNonce
  let e := if s2.flashFails then 0x01 else imgError s2.sbSram s2.sec.rollCount
  .next (if e = 0 then s2.bootImage false else s2.recover e)

/-- FIRMWARE_READY (R400). -/
def execFirmwareReady (s : State) : Result :=
  .next (if s.sec.stage = 3 then s.onSec fun x => { x with stage := 4 } else s)

/-- RECGO: ignored while the ROM verifies, and outside STAGE 2. -/
def State.recgo (t : State) (length : Nat) : State :=
  if t.sec.stage = 2 ∧ t.sec.recLen = none then t.onSec fun x => { x with recLen := some (field length 0 23) } else t

/-- RECGO_WRITE (R399, R402). -/
def execRecgoWrite (length : BitVec 64) (s : State) : Result := .next (s.regEffect 0 0x400008 fun t => t.recgo length.toNat)

/-- The verdict on a recovered image of a length (R402). -/
def State.recoveryError (s : State) (len : Nat) : Nat :=
  let h := Memory.bytes s.sbSram 0 0x200
  if sramBytes < len ∨ len < 0x200 + imgBody h then 0x02 else imgError s.sbSram s.sec.rollCount

/-- RECOVERY_VERDICT (R402). -/
def execRecoveryVerdict (s : State) : Result :=
  .next (match s.sec.recLen with
    | none => s
    | some n =>
      let s1 := s.onSec fun x => { x with recLen := none }
      let e := s1.recoveryError n
      if e = 0 then s1.bootImage true else s1.recover e)

/-! Attestation (R405). -/

/-- MEXT: the extension of a measurement, which waits while a report is being built (R403). -/
def State.mext (t : State) (v : Nat) : State :=
  let i := v % 8
  if i < 2 then t
  else if t.sec.attBusy then t.onSec fun x => { x with mextPend := x.mextPend ++ [(i, x.mextd)] }
  else t.onSec fun x => x.extend i x.mextd

/-- MEXT_WRITE (R403). -/
def execMextWrite (value : BitVec 64) (s : State) : Result := .next (s.regEffect 0 0x400040 fun t => t.mext value.toNat)

/-- ATTCTL starts a report. -/
def State.attctl (t : State) : State :=
  if t.sec.attBusy then t else t.onSec fun x => { x with attBusy := true, attDone := false }

/-- ATTCTL_WRITE (R405). -/
def execAttctlWrite (s : State) : Result := .next (s.regEffect 0 0x401040 fun t => t.attctl)

/-- The signed bytes of a report (R405). -/
def State.reportBody (s : State) : List Byte :=
  natLe 0x52455041 4 ++ natLe 1 4 ++ natLe Config.serial.toNat 8 ++ natLe s.sec.stateWord 4 ++ natLe 0 4 ++ natLe s.now 8 ++
  s.sec.attNonce ++ s.sec.meas.flatten ++ natLe s.sec.version 8 ++ List.replicate 24 0 ++ (List.range 132).map Config.identityKey

/-- ATTESTATION_REPORT_READY (R405): the report, and then the extensions that waited (R403). -/
def execAttestationReportReady (s : State) : Result :=
  .next (if s.sec.attBusy = false then s
    else
      let b := s.reportBody
      let k := Config.freeValue s.draws
      let s1 : State := { s with
        draws := s.draws + 1
        sec := { s.sec with attRpt := b ++ (List.range 132).map (Config.signature b k), attBusy := false, attDone := true } }
      (s1.onSec fun x => { x.mextPend.foldl (fun (y : Sec) (d : Nat × List Byte) => y.extend d.1 d.2) x with mextPend := [] }).fire 0 36)

/-! Debug tokens (R410). -/

/-- DBGCTL: the token is verified as it was at the write. -/
def State.dbgctl (t : State) : State :=
  if t.sec.dbgBusy then t else t.onSec fun x => { x with dbgBusy := true, dbgCap := x.dbgTok }

/-- DBGCTL_WRITE (R410). -/
def execDbgctlWrite (s : State) : Result := .next (s.regEffect 0 0x401900 fun t => t.dbgctl)

/-- The token is accepted. -/
def State.tokenOk (s : State) : Bool :=
  let t := s.sec.dbgCap
  decide (s.sec.sec = 0 ∧ recNum t 0 4 = 0x544F4B4E ∧ (recNum t 4 4 = 1 ∨ recNum t 4 4 = 2) ∧ recNum t 8 8 = Config.serial.toNat ∧
    (t.drop 0x10).take 64 = s.sec.dbgNonce ∧ recNum t 0x50 8 = 0) &&
  ecdsaOk ((List.range 132).map Config.debugKey) ((t.drop 0x58).take 132) (t.take 0x58)

/-- DEBUG_TOKEN_VERDICT (R410). -/
def execDebugTokenVerdict (s : State) : Result :=
  .next (if s.sec.dbgBusy = false then s
    else
      let s1 := s.onSec fun x =>
        if s.tokenOk then { (x.grant 1 (recNum x.dbgCap 4 4)).note with dbgRes := 1, dbgBusy := false, dbgCap := [] }
        else { x with dbgRes := 2, dbgBusy := false, dbgCap := [] }
      (s1.fire 0 38).newNonce)

/-! Debug levels and halting (R409, R411). -/

/-- Writes half of DBGLVL. -/
def State.setLevels (s : State) (half v : Nat) : State :=
  let w := BitVec.ofNat 64 (clampLevels v s.sec.dmax 32)
  s.onSec fun x => { x with dbgLvl :=
    if half = 0 then (x.dbgLvl.extractLsb' 64 64) ++ w else w ++ (x.dbgLvl.extractLsb' 0 64) }

/-- DBGLVL_WRITE (R409). -/
def execDbglvlWrite (half : Nat) (value : BitVec 64) (s : State) : Result :=
  .next (if 2 ≤ half then s else s.regEffect 0 (0x401980 + 8 * half) fun t => t.setLevels half value.toNat)

/-- Every group of a station is one of a context at level 2 (R409). -/
def State.invasive (s : State) (n : Nat) : Bool :=
  !(s.resident ++ s.waiting).any fun g => decide (stationOf g.core = n) && decide (s.debugLevel (s.grid g.grid).ctx < 2)

/-- HALT has an effect on a station (R411). -/
def State.mayHalt (s : State) (n : Nat) : Bool := decide (nth s.power.cur n 0 ≠ 3) && s.invasive n

/-- Halts stations; a halted one never is in P2. -/
def State.halt (s : State) (v : Nat) : State :=
  (List.range 32).foldl (fun (t : State) n =>
    if v.testBit n && t.mayHalt n then
      let u := t.onSec fun x => { x with halt := x.halt ||| BitVec.ofNat 32 (2 ^ n) }
      if nth u.power.cur n 0 = 2 then u.stationNow n 0 else u
    else t) s

/-- HALT_WRITE (R411). -/
def execHaltWrite (value : BitVec 64) (s : State) : Result :=
  .next (s.regEffect 0 0x4019A0 fun t => t.halt value.toNat)

/-- Releases stations. -/
def State.unhalt (t : State) (v : Dword) : State := (t.onSec fun x => { x with halt := x.halt &&& ~~~(v.setWidth 32) }).bindWaiting

/-- RELEASE_WRITE (R411). -/
def execReleaseWrite (value : BitVec 64) (s : State) : Result := .next (s.regEffect 0 0x4019A8 fun t => t.unhalt value)

/-! The debug window (R413). -/

/-- The station that the window shows, while it is halted and its groups' contexts are at level 2 (R409, R413). -/
def State.shown (s : State) : Option Nat :=
  if s.sec.halt.getLsbD s.sec.dbgSel && s.invasive s.sec.dbgSel then some s.sec.dbgSel else none

/-- Where a byte of a core's pool lies (R85, R86, R93): a register of a group slot with its lane and byte, a scratchpad byte of a block,
a byte of a tile's rows, or of what an accumulator segment keeps beside its tiles. The order of the registers of a group slot and of the
tiles' counters is the model's (assumption 23). -/
inductive PoolAt where
  | vreg (gslot lane reg byte : Nat)
  | kreg (gslot reg byte : Nat)
  | spad (block off : Nat)
  | tile (block tile off : Nat)
  | tally (block tile off : Nat)
  | none
  deriving DecidableEq, Repr

/-- The block of a list whose slot of a region holds an offset, and the offset within the slot: a block's slot is an offset and a size. -/
def slotAt (slot : Block → Nat × Nat) (bs : List Block) (o : Nat) : Option (Nat × Nat) :=
  (bs.find? fun b => decide ((slot b).1 ≤ o ∧ o < (slot b).1 + (slot b).2)).map fun b => (b.uid, o - (slot b).1)

/-- Bytes of a tile's rows, of the rows of a segment, and of what the segment keeps for each tile (R93). -/
def tileBytes : Nat := 18432
def segTiles : Nat := 129024
def tallyBytes : Nat := 256

/-- The place of a pool offset on a core. -/
def State.poolAt (s : State) (core off : Nat) : PoolAt :=
  match s.wordOf core with
  | .none => .none
  | some w =>
    let v := 8 * field w.toNat 18 4
    let kn := 16 * field w.toNat 22 5
    let r := field w.toNat 0 6 * 131072
    if off < r then
      let b := groupBytes v kn
      let i := off % max b 1
      if i < 128 * v then .vreg (off / max b 1) (i % 128 / 4) (i / 128) (i % 4)
      else if i < 128 * v + 4 * kn then .kreg (off / max b 1) ((i - 128 * v) / 4) (i % 4)
      else .none
    else
      let sp := field w.toNat 6 6 * 131072
      let bs := s.homed core
      if off < r + sp then
        match slotAt (fun b => (b.spOff, b.sb)) bs (off - r) with
        | some x => .spad x.1 x.2
        | .none => .none
      else if off < r + sp + field w.toNat 12 6 * 131072 then
        let o := (off - r - sp) % 131072
        let first := 7 * ((off - r - sp) / 131072)
        let slot (i : Nat) : Option (Nat × Nat) := slotAt (fun b => (b.tileOff, b.tiles.length)) bs (first + i)
        if o < segTiles then
          match slot (o / tileBytes) with
          | some x => .tile x.1 x.2 (o % tileBytes)
          | .none => .none
        else if o - segTiles < 7 * tallyBytes then
          match slot ((o - segTiles) / tallyBytes) with
          | some x => .tally x.1 x.2 ((o - segTiles) % tallyBytes)
          | .none => .none
        else .none
      else .none

/-- A byte of a tile: a row is 64 cells of 36 bits, one after another from the lowest bit up (R93, assumption 23). -/
def Tile.byteAt (t : Tile) (o : Nat) : Byte :=
  let b := 8 * (o % 288)
  let cell (j : Nat) : Nat := (cellAt t.cells (o / 288) j).toNat
  BitVec.ofNat 8 ((cell (b / 36) + cell (b / 36 + 1) * 2 ^ 36) / 2 ^ (b % 36))

/-- What an accumulator segment keeps for a tile beside its rows: the counters, the watermark and the resume cursor (R93,
assumption 23). -/
def State.tally (s : State) (blk t : Nat) : List Byte :=
  let x := s.tile blk t
  let k := ((s.mmas.find? fun m => decide (m.blk = blk ∧ m.clears = none ∧ mmaTile m.cmd = t ∧ 0 < m.kdone)).map fun m => m.kdone).getD 0
  natLe x.ovf 4 ++ natLe x.nan 4 ++ natLe x.aln 4 ++ natLe x.water 4 ++ natLe k 4

/-- A register with a byte replaced. -/
def pokeWord (w : Word) (i : Nat) (b : Byte) : Word := w &&& ~~~((0xFF : Word) <<< (8 * i)) ||| (b.setWidth 32 <<< (8 * i))

/-- Changes the resident group of a slot. -/
def State.pokeGroup (s : State) (core gslot : Nat) (f : Group → Group) : State :=
  let one (g : Group) : Group := if g.core = core ∧ g.gslot = gslot then f g else g
  { s with me := one s.me, groups := s.groups.map one }

/-- Every view of a scratchpad byte takes a value that no edge carried. -/
def Party.poke (p : Party) (l : Loc) (b : Byte) : Party :=
  { p with view := putCell ⟨l, b, p.quantum⟩ p.view, pend := p.pend.filter fun x => x.1 != l }

/-- A word in atomic state with a byte replaced. -/
def AtomWord.poke (a : AtomWord) (l : Loc) (b : Byte) : AtomWord :=
  match a.loc, l with
  | .spad u o, .spad v x => if u = v ∧ o ≤ x ∧ x < o + 4 then { a with val := pokeWord a.val (x - o) b } else a
  | _, _ => a

/-- Changes every live thread of a grid: in its groups, in the yard and in the task bins. -/
def State.onYard (s : State) (h : Nat) (f : Thread → Thread) : State :=
  let t := s.onThreads h f
  { t with
    episodes := t.episodes.map fun e => if e.grid = h then { e with recs := e.recs.map fun r => { r with thread := f r.thread } } else e
    bins := t.bins.map fun b => if b.grid = h then { b with kids := b.kids.map fun c => { c with thread := f c.thread } } else b }

/-- A byte written through the window: registers and scratchpad change, tiles do not (R413). -/
def State.pokePool (s : State) (core off : Nat) (b : Byte) : State :=
  match s.poolAt core off with
  | .vreg gs l r i => s.pokeGroup core gs fun g =>
      g.onLanes (BitVec.ofNat 32 (2 ^ l)) fun _ t => { t with v := setNth t.v r (pokeWord (nth t.v r 0) i b) }
  | .kreg gs r i => s.pokeGroup core gs fun g => { g with k := setNth g.k r (pokeWord (nth g.k r 0) i b) }
  | .spad u o =>
    let l : Loc := .spad u o
    let s1 := s.onYard (s.block u).grid fun t => { t with party := t.party.poke l b }
    { s1 with atoms := s1.atoms.map fun a => a.poke l b }
  | .tile _ _ _ => s
  | .tally _ _ _ => s
  | .none => s

/-- Bytes of a core's pool. -/
def poolBytes : Nat := 6 * 2 ^ 20

/-- The mark that a byte of the pool lies under, if its word is poisoned (R421). -/
def PoolAt.mark (core : Nat) (p : PoolAt) : Option PoisonAt :=
  match p with
  | .vreg gs l r _ => some (.vreg core gs l (r / 2))
  | .kreg gs r _ => some (.kreg core gs (r / 2))
  | .spad b o => some (.spad b (o / 8))
  | .tile b t o => some (.row b t (o / 288) (o % 288 / 8))
  | .tally _ _ _ => Option.none
  | .none => Option.none

/-- The mark of a byte of the window of station `n`. -/
def State.windowMark (s : State) (n off : Nat) : Option PoisonAt :=
  if off < 4 * poolBytes then
    let core := 4 * n + off / poolBytes
    (s.poolAt core (off % poolBytes)).mark core
  else none

/-- A write through the window clears the marks of the words all 8 bytes of which it writes; the tiles it does not write (R413, R421). -/
def State.clearWindow (s : State) (n off len : Nat) : State :=
  if s.poison.isEmpty then s
  else
    let ms := (List.range len).map fun i => s.windowMark n (off + i)
    { s with poison := s.poison.filter fun p => (match p with | .row _ _ _ _ => true | _ => false) ||
        decide ((ms.filter fun m => m == some p).length < 8) }

/-- Registers and scratchpad of the shown station change exactly as written. -/
def State.pokeWindow (t : State) (off : Nat) (bytes : List Byte) : State :=
  match t.shown with
  | none => t
  | some n => (mapFrom (fun i b => (off + i, b)) 0 bytes).foldl (fun (u : State) (x : Nat × Byte) =>
      if x.1 < 4 * poolBytes then u.pokePool (4 * n + x.1 / poolBytes) (x.1 % poolBytes) x.2 else u) (t.clearWindow n off bytes.length)

/-- DEBUG_WINDOW_WRITE (R413): each page is checked (R407). -/
def execDebugWindowWrite (off : Nat) (bytes : List (BitVec 8)) (s : State) : Result :=
  let a := 0x2000000 + off
  .next (if s.regUp a = false then s
    else
      let x := s.hostPieces 8 0 a bytes.length .write
      x.1.foldl (fun (t : State) p => t.pokeWindow (p.1 - 0x2000000) ((bytes.drop (p.1 - a)).take p.2)) x.2)

/-- The code of a group's park reason in the window (assumption 23). -/
def Group.parkCode (g : Group) : Nat := (g.park.map Park.code).getD 0

/-- The 16 bytes of a group's control words (R413). -/
def Group.control (g : Group) : List Byte := natLe g.pc.toNat 8 ++ natLe g.cur.toNat 4 ++ natLe g.parkCode 4

/-- A byte of the window as the host reads it: all ones where its word is poisoned (R421). -/
def State.windowByte (s : State) (off : Nat) : Byte :=
  match s.shown with
  | none => 0xFF
  | some n =>
    if !s.poison.isEmpty && s.poison.any (fun p => s.windowMark n off == some p) then 0xFF
    else if off < 4 * poolBytes then
      let core := 4 * n + off / poolBytes
      let here (gs : Nat) : Option Group := s.resident.find? fun g => decide (g.core = core ∧ g.gslot = gs)
      match s.poolAt core (off % poolBytes) with
      | .vreg gs l r i => match here gs with | some g => ((nth (g.thread l).v r 0) >>> (8 * i)).setWidth 8 | none => 0
      | .kreg gs r i => match here gs with | some g => ((nth g.k r 0) >>> (8 * i)).setWidth 8 | none => 0
      | .spad u o =>
        let g := s.grid (s.block u).grid
        let ss := ((s.liveThreads g.handle).filter fun t => decide (t.blk = u)).map fun t => t.sender (Rank.thread t.rank)
        mergedByte g (mergedView (s.edge ss [])) (.spad u o)
      | .tile u t o => (s.tile u t).byteAt o
      | .tally u t o => nth (s.tally u t) o 0
      | .none => 0
    else
      let o := off - 0x1800000
      if off < 0x1800000 ∨ 4 * 65536 ≤ o then 0
      else match s.resident.find? fun g => decide (g.core = 4 * n + o / 65536 ∧ g.gslot = o / 64 % 1024) with
        | some g => nth g.control (o % 64) 0
        | none => 0

end Sys2Proof.Machine
end

