-- ==== Sys2Proof/Machine/Fleet.lean ====
section
/-! DEFINITION. Telemetry, numeric counters, soft errors, quarantine, caps and the I3C port (R418 to R425). -/

namespace Sys2Proof.Machine

/-- Changes the telemetry block. -/
def State.onFleet (s : State) (f : Fleet → Fleet) : State := { s with fleet := f s.fleet }

/-! Quarantine (R423). -/

/-- Poison on a core in what a block's image is made of: the registers of its groups there, and its scratchpad and tiles, where the core
is its home. -/
def State.blockPoison (s : State) (core : Nat) (b : Block) : Option PoisonAt :=
  s.poison.find? fun p => (decide (b.home = core) && poisonIn b.uid p) ||
    (s.onCore core).any fun g => g.inBlock b.uid && inSlot core g.gslot p

/-- Pre-empts the records that hold blocks on a core, all of them when its station has no core left, and binds their blocks anew. -/
def State.moveOff (s : State) (core : Nat) : State :=
  let stn := stationOf core
  let hit (t : State) (i : Nat) : Bool :=
    (t.bind stn i).live && (decide (t.coreMask stn = 0) || (t.blocksOn core).any fun b => decide (b.bind = some (stn, i)))
  (List.range 64).foldl (fun t i => if hit t i then (t.preempt stn i).rebind stn i else t) s

/-- The signal box quarantines a core (R423): nothing new is placed on it, a poisoned block on it stops its fault domain, the others move,
and once they have, Q is set and the event is written. -/
def State.quarantine (s : State) (core : Nat) : State :=
  if s.fleet.out core then s
  else
    let stn := stationOf core
    let bad := (s.blocksOn core).filterMap fun b => (s.blockPoison core b).map fun p => (b.grid, p)
    let s1 := bad.foldl (fun (t : State) x => if (t.grid x.1).isLive then t.restoreFatal x.1 stn x.2 else t) s
    let s2 := s1.onFleet fun f => { f with drain := core :: f.drain }
    (s2.moveOff core).endQuarantine.bindWaiting

/-- 10 s of device time. -/
def tenSeconds : Nat := 10000000 * clkPerUs

/-- CE of a core rises; 64 within 10 s quarantine it (R421 to R423). -/
def State.countCore (s : State) (c : Nat) : State :=
  let s1 := s.onFleet fun f =>
    { f with
      ce := setNth f.ce c (nth f.ce c 0 + 1)
      ceTimes := (c, s.now) :: f.ceTimes.filter fun x => decide (s.now ≤ x.2 + tenSeconds) }
  if 64 ≤ (s1.fleet.ceTimes.filter fun x => x.1 == c).length then s1.quarantine c else s1

/-- CE rises in a unit (R421): for an instruction cache it is the counter of its station's first core (assumption 82). -/
def State.countCe (s : State) (u : ErrUnit) : State :=
  match u with
  | .core c => s.countCore c
  | .other i => s.onFleet fun f => { f with eccxCe := setNth f.eccxCe i (nth f.eccxCe i 0 + 1) }
  | .icache stn _ _ => s.countCore (4 * stn)

/-- UE rises in a unit (R421, R423). -/
def State.countUe (s : State) (u : ErrUnit) : State :=
  match u with
  | .core c =>
    let s1 := s.onFleet fun f => { f with ue := setNth f.ue c (nth f.ue c 0 + 1) }
    if 2 ≤ (nth s1.fleet.ue c 0).toNat then s1.quarantine c else s1
  | .other i => s.onFleet fun f => { f with eccxUe := setNth f.eccxUe i (nth f.eccxUe i 0 + 1) }
  | .icache _ _ _ => s

/-- A parity error in an instruction cache: the line is gone, and is fetched again when it is next needed (R32, R421). -/
def State.dropLine (s : State) (u : ErrUnit) : State :=
  match u with
  | .icache stn ctx line => { s with icache := s.icache.filter fun x => x != (stn, ctx, line) }
  | _ => s

/-- SOFT_ERROR_CORRECTED (R421). -/
def execSoftErrorCorrected (u : ErrUnit) (s : State) : Result := .next ((s.dropLine u).countCe u)

/-- Stops every fault domain with a live record on a station of a list (R421): the signal box has read a poisoned word. -/
def State.stopBound (s : State) (stns : List Nat) (p : PoisonAt) : State :=
  let hs := (s.binds.filter fun x => (bindOf x.2.2).live && stns.contains x.1).map fun x => (x.1, (bindOf x.2.2).handle)
  hs.foldl (fun (t : State) x => if (t.grid x.2).isLive then t.restoreFatal x.2 x.1 p else t) s

/-- SOFT_ERROR_UNCORRECTABLE (R421): the word is marked; the signal box consumes one of its own at once. -/
def execSoftErrorUncorrectable (u : ErrUnit) (place : PoisonAt) (s : State) : Result :=
  let s1 : State := { s with poison := if s.poison.contains place then s.poison else place :: s.poison }
  let s2 := match place with
    | .sram _ => s1.stopBound (List.range 32) place
    | .bindTable n _ => s1.stopBound [n] place
    | _ => s1
  .next (s2.countUe u)

/-- LATCH_PARITY_ERROR (R421). -/
def execLatchParityError (core gslot : Nat) (s : State) : Result :=
  let one (g : Group) : Group := if g.core = core ∧ g.gslot = gslot then g.restart else g
  let s1 : State := { s with me := one s.me, groups := s.groups.map one }
  .next (s1.countCe (.core core))

/-- The HOLD bit of a core is written (R422). -/
def State.setHold (s : State) (core v : Nat) : State :=
  if v.testBit 30 then (s.onFleet fun f => { f with hold := setNth f.hold core true }).quarantine core else s

/-- ECC_HOLD_WRITE (R422, R423). -/
def execEccHoldWrite (core : Nat) (value : BitVec 64) (s : State) : Result :=
  .next (if 128 ≤ core then s else s.regEffect 0 (0x202008 + 16 * core) fun t => t.setHold core value.toNat)

/-! Numeric counters. -/

/-- NUMAGG_CLR_WRITE (R419). -/
def State.clearNumagg (s : State) (d : Nat) : State := s.onFleet fun f => { f with numagg := setNth f.numagg d (List.replicate 7 0) }

def execNumaggClrWrite (domain : Nat) (s : State) : Result :=
  .next (if 64 ≤ domain then s else s.regEffect 0 (0x200438 + 64 * domain) fun t => t.clearNumagg domain)

/-! Caps (R418, R424). -/

/-- PCAP in W, clamped. -/
def clampPcap (v : Nat) : Nat := if v = 0 then 2400 else max 300 (min 2400 v)

/-- TCAP in 1/16 °C, a signed number of 16 bits, clamped. -/
def clampTcap (v : Nat) : Nat := if 32768 ≤ v % 65536 then 1120 else max 1120 (min 1600 (v % 65536))

/-- The power cap on the reading that stands (R424): it begins above PCAP; the reading is not below 0.95 × PCAP. -/
def Fleet.powerCap (f : Fleet) (now : Nat) : Fleet :=
  let g := if f.pcap * 950 ≤ f.pwr then { f with pwrHot := now } else f
  if f.pcap * 1000 < f.pwr ∧ f.pcapA = false then { g with pcapA := true, pcapAt := now, capPwr := f.capPwr + 1 } else g

/-- A signed reading is above a bound. -/
def tempAbove (bound t : Nat) : Bool := decide (t < 32768 ∧ bound < t)

/-- The caps on one reading (R424): the dies and the hub die have TCAP, every sensor the stop. -/
def Fleet.heatCap (f : Fleet) (now sensor t : Nat) : Fleet :=
  let g := { f with
    tempHot := if sensor ≤ 4 ∧ tempAbove (f.tcap - 81) t = true then now else f.tempHot
    tstop := f.tstop || (decide (sensor < 13) && tempAbove 1760 t) }
  if sensor ≤ 4 ∧ tempAbove f.tcap t = true ∧ f.tcapA = false then { g with tcapA := true, capTemp := f.capTemp + 1 } else g

def State.setPcap (s : State) (v : Nat) : State := s.onFleet fun f => { f with pcap := clampPcap (v % 65536) }.powerCap s.now
def State.setTcap (s : State) (v : Nat) : State := s.onFleet fun f =>
  (List.range 5).foldl (fun (g : Fleet) i => g.heatCap s.now i (nth f.temp i 0)) { f with tcap := clampTcap (v % 65536) }

/-- PCAP_WRITE (R418). -/
def execPcapWrite (value : BitVec 64) (s : State) : Result := .next (s.regEffect 0 0x200098 fun t => t.setPcap value.toNat)

/-- TCAP_WRITE (R418). -/
def execTcapWrite (value : BitVec 64) (s : State) : Result := .next (s.regEffect 0 0x2000A0 fun t => t.setTcap value.toNat)

/-- POWER_OVER_CAP (R424). -/
def execPowerOverCap (mw : Nat) (s : State) : Result :=
  .next (s.onFleet fun f => { f with pwr := mw }.powerCap s.now)

/-- Clk of 10 ms. -/
def tenMs : Nat := 10000 * clkPerUs

/-- DUTY_STEP_TICK (R418, R424): a millisecond's power, a µJ for each mW, is added to ENERGY, and the duty moves by one. -/
def execDutyStepTick (mw : Nat) (s : State) : Result :=
  .next (s.onFleet fun f =>
    let g := { f with
      pwr := mw, energy := f.energy + BitVec.ofNat 64 ((f.energyRest + mw) / 1000), energyRest := (f.energyRest + mw) % 1000 }.powerCap s.now
    if f.pcap * 1000 < mw then
      (if f.pcapA = true ∧ f.pcapAt + tenMs ≤ s.now then { g with duty := max 4 (f.duty - 1) } else g)
    else if mw < f.pcap * 1000 then { g with duty := min 16 (f.duty + 1) }
    else g)

/-- POWER_CAP_END (R424): 10 ms after the last reading that was not below the bound; where that reading still stands, a free value below
the bound replaces it (assumption 24). -/
def execPowerCapEnd (s : State) : Result :=
  .next (if s.fleet.pcapA = false ∨ s.now < s.fleet.pwrHot + tenMs then s
    else
      let most := s.fleet.pcap * 950
      let s1 := s.onFleet fun f => { f with pcapA := false }
      if s.fleet.pwr < most then s1
      else { s1 with draws := s.draws + 1, fleet := { s1.fleet with pwr := (Config.freeValue s.draws).toNat % most } })

/-- A sensor's reading, 16 bits. -/
def State.setTemp (s : State) (i t : Nat) : State := s.onFleet fun f => { f with temp := setNth f.temp i (t % 65536) }

/-- A reading of a sensor, and the caps it sets (R424). -/
def State.readTemp (s : State) (sensor temp : Nat) : State :=
  (s.setTemp sensor temp).onFleet fun f => f.heatCap s.now sensor (temp % 65536)

/-- TEMP_OVER_CAP (R424). -/
def execTempOverCap (sensor temp : Nat) (s : State) : Result := .next (s.readTemp sensor temp)

/-- THERMAL_STOP (R424). -/
def execThermalStop (sensor temp : Nat) (s : State) : Result := .next (s.readTemp sensor temp)

/-- The first `n` readings that are not below a bound are replaced by free values below it (assumption 24): readings, which the end
of the temperature cap waits out. -/
def State.coolDown (s : State) (n bound : Nat) : State :=
  (List.range n).foldl (fun (t : State) i =>
    if tempAbove (bound - 1) (nth t.fleet.temp i 0) then
      let x := (Config.freeValue t.draws).toNat % bound
      { (t.setTemp i x).onFleet fun f => { f with
          tempHot := if i ≤ 4 ∧ tempAbove (f.tcap - 81) (x % 65536) = true then t.now else f.tempHot } with draws := t.draws + 1 }
    else t) s

/-- THERMAL_STOP_END (R424). -/
def execThermalStopEnd (s : State) : Result :=
  .next (if s.fleet.tstop = false then s else (s.coolDown 13 1680).onFleet fun f => { f with tstop := false })

/-- TEMP_CAP_END (R424): 10 ms after the last reading that was not below the bound. -/
def execTempCapEnd (s : State) : Result :=
  .next (if s.fleet.tcapA = false ∨ s.now < s.fleet.tempHot + tenMs then s else (s.coolDown 5 (s.fleet.tcap - 80)).onFleet fun f => { f with tcapA := false })

/-- P1 is effective (R424). -/
def State.p1Effective (s : State) : Bool := s.power.p1 || s.fleet.tcapA || s.fleet.pcapA

/-! Reading the telemetry block (R418, R419, R422). -/

/-- A numeric counter of a domain. -/
def Fleet.num (f : Fleet) (d i : Nat) : Dword := nth (nth f.numagg d []) i 0

/-- The word of the block at an offset, by registers (R418); bits above a register's field read 0 (R4, assumptions 40, 86). -/
def State.telemetry (s : State) (off : Nat) : Dword :=
  let f := s.fleet
  let w (x : Word) : Dword := x.setWidth 64
  let at_ (base n stride : Nat) : Bool := decide (base ≤ off ∧ off < base + n * stride)
  let i (base stride : Nat) : Nat := (off - base) / stride
  if at_ 0 13 8 then BitVec.ofNat 64 (nth f.temp (i 0 8) 0 % 2 ^ 16)
  else if off = 0x80 then BitVec.ofNat 64 (f.pwr % 2 ^ 32)
  else if off = 0x88 then f.energy
  else if off = 0x90 then
    BitVec.ofNat 64 (f.duty % 16 * 256 + bit f.tstop * 8 + bit f.tcapA * 4 + bit f.pcapA * 2 + bit s.p1Effective)
  else if off = 0x98 then BitVec.ofNat 64 f.pcap
  else if off = 0xA0 then BitVec.ofNat 64 f.tcap
  else if off = 0xA8 then f.capTemp ++ f.capPwr
  else if at_ 0x100 32 8 then w (nth f.slip (i 0x100 8) 0)
  else if at_ 0x200 32 8 then w (nth f.parked (i 0x200 8) 0)
  else if at_ 0x400 64 64 then f.num (i 0x400 64) (off % 64 / 8)
  else if at_ 0x2000 128 16 then
    let c := i 0x2000 16
    if off % 16 < 8 then nth f.ue c 0 ++ nth f.ce c 0
    else BitVec.ofNat 64 (bit (nth f.quar c false) * 2 ^ 31 + bit (nth f.hold c false) * 2 ^ 30)
  else if at_ 0x2800 13 16 then
    if off % 16 < 8 then nth f.eccxUe (i 0x2800 16) 0 ++ nth f.eccxCe (i 0x2800 16) 0 else 0
  else 0

/-! I3C (R425). -/

/-- The static address of the I3C target. -/
def i3cStatic : BitVec 7 := 0x4A

/-- The address at which the target answers: the dynamic one once the management controller has assigned it. -/
def Fleet.i3cAddress (f : Fleet) : BitVec 7 := f.i3c.getD i3cStatic

/-- I3C_PRIVATE_READ (R425). -/
def execI3cPrivateRead (index : Nat) (s : State) : Result :=
  let off := 8 * (index % 65536)
  let early := (off < 13 * 8) ∨ off = 0x80 ∨ off = 0x88
  let x := if s.sec.stage = 4 ∨ early then s.telemetry off else 0
  .next (if s.power.removed then s else { s with hostRead := natLe x.toNat 8 })

/-- I3C_PRIVATE_WRITE (R425): PCAP, TCAP and the HOLD words, without an access table. -/
def execI3cPrivateWrite (index : Nat) (value : BitVec 64) (s : State) : Result :=
  let off := 8 * (index % 65536)
  .next (if s.power.removed = true ∨ s.sec.stage ≠ 4 then s
    else if off = 0x98 then s.setPcap value.toNat
    else if off = 0xA0 then s.setTcap value.toNat
    else if 0x2000 ≤ off ∧ off < 0x2800 ∧ off % 16 = 8 then s.setHold ((off - 0x2000) / 16) value.toNat
    else s)

/-- DYNAMIC_ADDRESS_ASSIGNMENT (R425). -/
def execDynamicAddressAssignment (address : BitVec 7) (s : State) : Result :=
  .next (if s.power.removed then s else s.onFleet fun f => { f with i3c := some address })

end Sys2Proof.Machine
end

