-- ==== Sys2Proof/Machine/HostIf.lean ====
section
/-! DEFINITION. What the host does through its three windows: the coherent window through BAR2 (R99, R353, R402), the HBM aperture
through BAR4 (R365), and the registers of BAR0 (R355, R377, R399, R407). -/

namespace Sys2Proof.Machine

/-! BAR2. -/

/-- The hub looks at the rings that a window write touched (R372, R389): a context's entry is read when a grid of it is armed (R356). A
plain window write is taken for an arm only of contexts whose entry is valid, which is the model's choice (assumption 113). -/
def State.drainRings (s : State) (off n : Nat) : State :=
  (List.range 64).foldl (fun (t : State) c =>
    let x := (t.readCtx c).ctx c
    (if x.valid && meets off n x.armoff 0x200 then t.drainArms c 64 else t).commands c off n) s

/-- What the host has written may have made pages device-owned: they enter the views of the live grids (R360). -/
def State.syncLive (s : State) : State :=
  (List.range 64).foldl (fun (t : State) c => if t.grids.any fun g => g.isLive && decide (g.ctx = c) then t.syncPages c else t) s

/-- BAR2 shows the signal box's SRAM (R402). -/
def State.showsSram (s : State) (fn : Nat) : Bool := decide (s.sec.stage = 2 ∧ fn = 0) && !s.power.d3hot && !s.power.removed

/-- The management space as a target of accesses (R406); signal-box SRAM stands at its offsets from 0 on (assumption 97). -/
def mgmtTarget : Nat := 22

/-- PF0 writes bytes of the SRAM, whose words that are written whole are marked no longer (R402, R421). -/
def State.putSram (s : State) (a : Nat) (bs : List Byte) : State :=
  { s with
    sbSram := Memory.putBytes s.sbSram a bs
    poison := s.poison.filter fun p => match p with | .sram w => !decide (a ≤ 8 * w ∧ 8 * w + 8 ≤ a + bs.length) | _ => true }

/-- A byte of the SRAM as PF0 reads it: all ones where it is poisoned (R402, R421). -/
def State.sramByte (s : State) (a : Nat) : Byte := if s.poison.contains (.sram (a / 8)) then 0xFF else Memory.get s.sbSram a

/-- HOST_WINDOW_WRITE (R99, R353, R402, R406). -/
def execHostWindowWrite (fn off : Nat) (bytes : List (BitVec 8)) (s : State) : Result :=
  .next (if s.showsSram fn then
      let bs := bytes.take (sramBytes - off)
      let x := s.hostPieces mgmtTarget fn off bs.length .write
      x.1.foldl (fun (t : State) p => t.putSram p.1 ((bs.drop (p.1 - off)).take p.2)) x.2
    else if s.hostUp then ((s.hostWindow fn off bytes).drainRings off bytes.length).syncLive
    else s)

/-- An address lies in one of a list of pieces. -/
def inPieces (ps : List (Nat × Nat)) (a : Nat) : Bool := ps.any fun p => decide (p.1 ≤ a ∧ a < p.1 + p.2)

/-- A byte of the window as a function reads it: all ones where it is poisoned, 0 where the function does not reach (R353, R421). -/
def State.hostWinByte (s : State) (fn off : Nat) : Byte :=
  if s.ownsWindow fn off = false then 0
  else if s.poison.contains (.win (off / 8)) then 0xFF
  else Memory.get s.window off

/-- HOST_WINDOW_READ (R99, R353). -/
def execHostWindowRead (fn off len : Nat) (s : State) : Result :=
  .next (if s.showsSram fn then
      let x := s.hostPieces mgmtTarget fn off (min len (sramBytes - off)) .read
      let byte (a : Nat) : Byte := if sramBytes ≤ a then 0 else if inPieces x.1 a then s.sramByte a else 0xFF
      { x.2 with hostRead := (List.range len).map fun i => byte (off + i) }
    else if s.hostUp = false then { s with hostRead := List.replicate len 0 }
    else
      let byte (a : Nat) : Byte :=
        if s.ownsWindow fn a && !accessOk s 9 (hostMaster fn) a .read then 0xFF else s.hostWinByte fn a
      { s.winDenials fn off len .read with hostRead := (List.range len).map fun i => byte (off + i) })

/-! BAR4. -/

/-- The device memory at an aperture offset (R365). -/
def State.aperturePhys (s : State) (off : Nat) : Nat := field s.apBase.toNat 28 28 * 2 ^ 28 + off

/-- The pages that the contexts' tables make device-owned, as the tables stand (R101, R358): in system memory or not, base, bytes. -/
def State.ownedPages (s : State) : List (Bool × Nat × Nat) :=
  ((s.ctxs.filter fun x => x.valid).map fun x => s.pagesFrom 4 x.groot).flatten

/-- An address lies in a device-owned page of a list. -/
def inPages (l : List (Bool × Nat × Nat)) (sys : Bool) (a : Nat) : Bool :=
  l.any fun p => decide (p.1 = sys ∧ p.2.1 ≤ a ∧ a < p.2.1 + p.2.2)

/-- The host wrote `n` bytes from a place on: what the hub left there is no longer what a plain read finds (R117, R374). -/
def State.dropHubWordsAt (s : State) (l : Loc) (n : Nat) : State :=
  { s with hubWords := s.hubWords.filter fun x => !(x.1.span 4).any fun b => (l.span n).contains b }

/-- Bytes that the host writes to memory: memory takes them; in a device-owned page HFLUSH.inv finds them (R123), and so do the replays of
the grids that are live (R173); of another page no view sees them (R365). -/
def State.putHost (s : State) (sys owned : Bool) (a : Nat) (bs : List Byte) : State :=
  let t := (s.putPhys sys a bs).dropHubWordsAt (if sys then .sys a else .mem a) bs.length
  if owned = false then t
  else
    { t with
      hostBytes := if sys then t.hostBytes else
        (mapFrom (fun i b => (a + i, b)) 0 bs) ++ t.hostBytes.filter fun x => !decide (a ≤ x.1 ∧ x.1 < a + bs.length)
      fixes := if s.grids.any fun g => g.isLive then
          List.zip ((if sys then Loc.sys a else Loc.mem a).span bs.length) bs ++ t.fixes
        else t.fixes }

/-- Bytes that the host writes piece by piece, a piece within one page. -/
def State.putHosts (s : State) (sys : Bool) (a : Nat) (bs : List Byte) (ps : List (Nat × Nat)) : State :=
  let pages := s.ownedPages
  ps.foldl (fun (t : State) p => t.putHost sys (inPages pages sys p.1) p.1 ((bs.drop (p.1 - a)).take p.2)) s

/-- The pieces of an aperture access that their stacks' access tables allow, and the state in which the denials of the others are
logged (R353, R407). -/
def State.apPieces (s : State) (pa n : Nat) (k : Access) : List (Nat × Nat) × State :=
  let ok (p : Nat × Nat) : Bool := accessOk s (p.1 / 4096 % 8) (hostMaster 0) p.1 k
  ((cutsOf pa n).filter ok, ((cutsOf pa n).filter fun p => !ok p).foldl (fun (t : State) p =>
    t.logDenial (p.1 / 4096 % 8) (hostMaster 0) p.1 k) s)

/-- HOST_APERTURE_WRITE (R365, R421): bytes beyond the BAR are no access, and denied bytes are dropped. -/
def execHostApertureWrite (off : Nat) (bytes : List (BitVec 8)) (s : State) : Result :=
  .next (if s.hostUp = false then s
    else
      let bs := bytes.take (2 ^ s.bar4Exp - off)
      let pa := s.aperturePhys off
      if bs.isEmpty then s
      else if hbmBytes < pa + bs.length then { s with hole := some pa }
      else
        let x := s.wakeDies.apPieces pa bs.length .write
        let s1 := x.1.foldl (fun (t : State) p => t.clearMem (.glob (.mem p.1 false)) p.2) x.2
        (s1.putHosts false pa bs x.1).syncLive)

/-- A byte of the aperture as the host reads it: what a flush gave it while its page is device-owned, else memory (R123, R365, R421). -/
def State.apertureByte (s : State) (pages : List (Bool × Nat × Nat)) (pa : Nat) : Byte :=
  if s.poison.contains (.mem (pa / 8)) then 0xFF
  else match s.flushed.find? fun x => x.1 == pa && inPages pages false pa with
    | some x => x.2
    | none => Memory.get s.hbm pa

/-- HOST_APERTURE_READ (R365). -/
def execHostApertureRead (off len : Nat) (s : State) : Result :=
  .next (if s.hostUp = false then { s with hostRead := List.replicate len 0 }
    else
      let n := min len (2 ^ s.bar4Exp - off)
      let pa := s.aperturePhys off
      if n = 0 then { s with hostRead := List.replicate len 0 }
      else if hbmBytes < pa + n then { s with hole := some pa }
      else
        let x := s.wakeDies.apPieces pa n .read
        let pages := if s.flushed.isEmpty then [] else s.ownedPages
        let byte (i : Nat) : Byte :=
          if n ≤ i then 0 else if inPieces x.1 (pa + i) then s.apertureByte pages (pa + i) else 0xFF
        { x.2 with hostRead := (List.range len).map byte })

/-! BAR0: writes. -/

/-- Access-table memory (R406): its first offset and its quadwords. -/
def tableBase : Nat := 0x480000
def tableWords : Nat := 23 * 8192

/-- The defined bits of an access-table quadword. -/
def tableMask (i : Nat) : Dword := if i % 2 = 0 then 0x00FFFFFFFFFFF00F else 0x00FFFFFFFFFFF000

/-- Writes an access-table quadword (R406). -/
def State.setTable (s : State) (i : Nat) (v : Dword) : State :=
  { s with access := (i, v &&& tableMask i) :: s.access.filter fun x => x.1 != i }

/-- Writes bytes into a buffer at an offset; none beyond its end. -/
def putInto (l : List Byte) (i : Nat) (bs : List Byte) : List Byte :=
  (mapFrom (fun j b => (i + j, b)) 0 bs).foldl (fun (m : List Byte) (x : Nat × Byte) => setNth m x.1 x.2) l

/-- The byte buffers of the security block (R399): MEXTD, ATTNONCE, DBGTOK. -/
def bufferAt (off : Nat) : Option Nat :=
  if 0x400080 ≤ off ∧ off < 0x4000C0 then some 0
  else if 0x401000 ≤ off ∧ off < 0x401040 then some 1
  else if 0x401800 ≤ off ∧ off < 0x4018DC then some 2
  else none

/-- Writes bytes into one of them; ATTNONCE ignores writes while a report is being built (R405). -/
def State.putBuffer (s : State) (which off : Nat) (bs : List Byte) : State :=
  s.onSec fun x =>
    match which with
    | 0 => { x with mextd := putInto x.mextd (off - 0x400080) bs }
    | 1 => if x.attBusy then x else { x with attNonce := putInto x.attNonce (off - 0x401000) bs }
    | _ => { x with dbgTok := putInto x.dbgTok (off - 0x401800) bs }

/-- A trap queue's registers (R377). -/
def State.setQueue (s : State) (f : Nat) (g : TrapQueue → TrapQueue) : State :=
  { s with queues := setNth s.queues f (g (s.queue f)) }

/-- PEEROUT and PEERIN (R366). -/
def State.setPeer (s : State) (port : Nat) (g : Peer → Peer) : State :=
  { s with peers := setNth s.peers port (g (nth s.peers port ⟨0, 0, 0⟩)) }

/-- A register of a context page (R355): PPHEAD at 0, PRTAIL at 8, COAL and EVTOT from 0x1000 (assumption 25). -/
def State.pageWrite (s : State) (c off : Nat) (v : Dword) : State :=
  if off = 0 then s.setPpHead c v.toNat
  else if 0x1000 ≤ off ∧ off < 0x1200 ∧ off % 16 = 0 then s.setCoal (s.ctx c).fn ((off - 0x1000) / 16) v.toNat
  else s

/-- Registers of the link, the tables, the queues and the peers (R355, R362, R366, R368, R377). Within a port's 32 bytes PEEROUT stands at 0,
PEERIN at 8 and PEERRES at 16, which is the model's choice (assumption 25). -/
def State.linkWrite (s : State) (off : Nat) (v : Dword) : State :=
  let n := v.toNat
  if off = 0x10000 then { s with ctxBase := v &&& 0x00FFFFFFFFFFF001 }
  else if off = 0x20000 then s.startSync n
  else if off = 0x30000 then { s with apBase := v &&& 0x00FFFFFFF0000000 }
  else if 0x40000 ≤ off ∧ off < 0x40400 ∧ off % 16 = 0 then s.setPpHead ((off - 0x40000) / 16) n
  else if 0x50000 ≤ off ∧ off < 0x51000 ∧ off % 16 = 0 then s.setCoal ((off - 0x50000) / 512) ((off - 0x50000) / 16 % 32) n
  else if 0x60000 ≤ off ∧ off < 0x60180 then
    let p := (off - 0x60000) / 32
    match off % 32 with
    | 0 => s.setPeer p fun x => { x with out := (v.setWidth 32 &&& 0x80000000) ||| (x.out &&& 0xFFFF) }
    | 8 => s.setPeer p fun x => { x with inn := v.setWidth 32 &&& 0x8000003F }
    | 16 => s.releasePeer p
    | _ => s
  else if 0x100000 ≤ off ∧ off < 0x100200 then
    match off % 64 with
    | 0 => s.setQueue ((off - 0x100000) / 64) fun q => { q with base := v &&& 0x80FFFFFFFFFC0001 }
    | 8 => s.setQueue ((off - 0x100000) / 64) fun q => { q with headVa := v &&& 0x80FFFFFFFFFFFFFC }
    | _ => s
  else if off = 0x100240 then (if n.testBit 0 then { s with fatalV := false } else s)
  else if off = 0x100300 then { s with gangTol := max 1 (n % 65536) }
  else if off = 0x100308 then { s with slice := n % 65536 }
  else s

/-- Registers of the telemetry block that take writes (R418, R419, R422). -/
def State.fleetWrite (s : State) (off n : Nat) : State :=
  if off = 0x200098 then s.setPcap n
  else if off = 0x2000A0 then s.setTcap n
  else if 0x200400 ≤ off ∧ off < 0x201400 ∧ off % 64 = 0x38 then s.clearNumagg ((off - 0x200400) / 64)
  else if 0x202000 ≤ off ∧ off < 0x202800 ∧ off % 16 = 8 then s.setHold ((off - 0x202000) / 16) n
  else s

/-- Registers of the security, debug and power block (R399). -/
def State.secWrite (s : State) (off : Nat) (v : Dword) : State :=
  let n := v.toNat
  if off = 0x400008 then s.recgo n
  else if off = 0x400040 then s.mext n
  else if off = 0x401040 then s.attctl
  else if off = 0x401900 then s.dbgctl
  else if off = 0x401980 then s.setLevels 0 n
  else if off = 0x401988 then s.setLevels 1 n
  else if off = 0x4019A0 then s.halt n
  else if off = 0x4019A8 then s.unhalt v
  else if off = 0x4019B0 then s.onSec fun x => { x with dbgSel := n % 32 }
  else if off = 0x401A00 then s.onSec fun x => { x with trBase := v &&& 0x00FFFFFFFFFF0001 }
  else if off = 0x403000 then s.setClock (n.testBit 0)
  else if 0x403100 ≤ off ∧ off < 0x403200 then s.stationRequest ((off - 0x403100) / 8) (n % 8)
  else if 0x403200 ≤ off ∧ off < 0x403220 then s.dieRequest ((off - 0x403200) / 8) (n.testBit 0)
  else s

/-- A whole register is written (R355); PF0's offsets. -/
def State.regWrite (s : State) (off : Nat) (v : Dword) : State :=
  if off < 0x200000 then s.linkWrite off v
  else if off < 0x400000 then s.fleetWrite off v.toNat
  else if off < tableBase then s.secWrite off v
  else if off < tableBase + 8 * tableWords then s.setTable ((off - tableBase) / 8) v
  else if 0x1000000 ≤ off ∧ off < 0x1400000 then s.pageWrite ((off - 0x1000000) / 65536) (off % 65536) v
  else s

/-- Registers with bits above 31, which a 32-bit access writes in two halves (R355). -/
def wideReg (off : Nat) : Bool :=
  [0x10000, 0x20000, 0x30000, 0x401980, 0x401988, 0x401A00].contains off ||
  (decide (0x100000 ≤ off ∧ off < 0x100200) && decide (off % 64 < 16)) || decide (tableBase ≤ off ∧ off < tableBase + 8 * tableWords)

/-- A 32-bit write: the low half waits for the high half of a 64-bit register (R355); the high half of another register has no bits. -/
def State.halfWrite (s : State) (off : Nat) (v : Word) : State :=
  if off % 8 = 0 then
    (if wideReg off then { s with regLow := (off, v) :: s.regLow.filter fun x => x.1 != off } else s.regWrite off (v.setWidth 64))
  else if wideReg (off - 4) then
    match s.regLow.find? fun x => x.1 == off - 4 with
    | some x => ({ s with regLow := s.regLow.filter fun y => y.1 != off - 4 } : State).regWrite (off - 4) (v ++ x.2)
    | none => s
  else s

/-- The PF0 offset of a register of a function: a VF has the pages of its own contexts (R355). -/
def State.bar0 (s : State) (fn off : Nat) : Option Nat :=
  if fn = 0 then (if off < 0x4000000 then some off else none)
  else if off < 0x400000 ∧ (s.ctx (off / 65536)).valid = true ∧ (s.ctx (off / 65536)).fn = fn then some (0x1000000 + off)
  else none

/-- REGISTER_WRITE (R355): any register of BAR0. -/
def execRegisterWrite (fn off : Nat) (wide : Bool) (value : BitVec 64) (s : State) : Result :=
  let n := if wide then 8 else 4
  if off % n ≠ 0 then .next s
  else
    match s.bar0 fn off with
    | none => .next s
    | some a =>
      .next (s.regEffect fn a fun t =>
        if 0x2000000 ≤ a then t.pokeWindow (a - 0x2000000) (natLe value.toNat n)
        else match bufferAt a with
        | some b => t.putBuffer b a (natLe value.toNat n)
        | none => if wide then t.regWrite a value else t.halfWrite a (value.setWidth 32))

/-! BAR0: reads. -/

/-- 8 bytes of a list as a word. -/
def wordAt (l : List Byte) (off : Nat) : Dword := BitVec.ofNat 64 (recNum l off 8)

/-- Reads of the link, the tables, the queues and the peers (R355, R362, R366, R368, R377, R379, R397). A context's PRTAIL stands 8 bytes
above its PPHEAD, which is the model's choice (assumption 25). -/
def State.linkRead (s : State) (off : Nat) : Dword :=
  let w (x : Word) : Dword := x.setWidth 64
  if off = 0 then 0x4128
  else if off = 8 then 0x41280100
  else if off = 16 then Config.serial
  else if off = 0x10000 then s.ctxBase
  else if off = 0x20000 then
    BitVec.ofNat 64 (bit s.ptBusy * 2 ^ 63 + s.ptDone.toNat * 65536 + bit s.ptAll * 256 + s.ptCtxs.headD 0)
  else if off = 0x30000 then s.apBase
  else if 0x40000 ≤ off ∧ off < 0x40400 then
    let c := s.ctx ((off - 0x40000) / 16)
    w (if off % 16 = 0 then c.ppHead else c.prTail)
  else if 0x50000 ≤ off ∧ off < 0x51000 then
    let c := s.coalOf ((off - 0x50000) / 512) ((off - 0x50000) / 16 % 32)
    if off % 16 = 0 then BitVec.ofNat 64 (bit c.en * 2 ^ 31 + c.cnt * 65536 + c.win) else w c.evtot
  else if 0x60000 ≤ off ∧ off < 0x60180 then
    let p := nth s.peers ((off - 0x60000) / 32) ⟨0, 0, 0⟩
    w (match off % 32 with | 0 => p.out | 8 => p.inn | _ => 0)
  else if 0x100000 ≤ off ∧ off < 0x100200 then
    let q := s.queue ((off - 0x100000) / 64)
    match off % 64 with | 0 => q.base | 8 => q.headVa | 16 => w q.prod | _ => 0
  else if 0x100200 ≤ off ∧ off < 0x100240 then wordAt s.fatal (off - 0x100200)
  else if off = 0x100240 then BitVec.ofNat 64 (bit s.fatalV)
  else if off = 0x100300 then BitVec.ofNat 64 s.gangTol
  else if off = 0x100308 then BitVec.ofNat 64 s.slice
  else if 0x101000 ≤ off ∧ off < 0x111000 then
    wordAt (s.bind ((off - 0x101000) / 2048) ((off - 0x101000) / 32 % 64)).bytes (off % 32)
  else if 0x120000 ≤ off ∧ off < 0x124000 then
    match s.evlog.find? fun x => x.1 == (off - 0x120000) / 16 with | some x => wordAt x.2 (off % 16) | none => 0
  else if off = 0x124000 then w s.evProd
  else 0

/-- Reads of the security, debug and power block (R399, R404, R408). -/
def State.secRead (s : State) (off : Nat) : Dword :=
  let x := s.sec
  let p := s.power
  if off = 0x400000 then BitVec.ofNat 64 (x.err * 65536 + bit x.lock * 32768 + x.rollCount * 256 + x.stage)
  else if off = 0x400010 then BitVec.ofNat 64 x.stateWord
  else if 0x400080 ≤ off ∧ off < 0x4000C0 then wordAt x.mextd (off - 0x400080)
  else if 0x400800 ≤ off ∧ off < 0x400A00 then wordAt x.meas.flatten (off - 0x400800)
  else if 0x401000 ≤ off ∧ off < 0x401040 then wordAt x.attNonce (off - 0x401000)
  else if off = 0x401040 then BitVec.ofNat 64 (bit x.attBusy * 2 + bit x.attDone)
  else if 0x401100 ≤ off ∧ off < 0x401488 then wordAt x.attRpt (off - 0x401100)
  else if 0x401800 ≤ off ∧ off < 0x4018DC then wordAt x.dbgTok (off - 0x401800)
  else if off = 0x401900 then BitVec.ofNat 64 (bit x.dbgBusy * 2 ^ 31 + x.dbgRes * 2 ^ 29 + x.dmax)
  else if 0x401908 ≤ off ∧ off < 0x401948 then wordAt x.dbgNonce (off - 0x401908)
  else if off = 0x401980 then x.dbgLvl.setWidth 64
  else if off = 0x401988 then x.dbgLvl.extractLsb' 64 64
  else if off = 0x4019A0 then x.halt.setWidth 64
  else if off = 0x4019B0 then BitVec.ofNat 64 x.dbgSel
  else if off = 0x401A00 then x.trBase
  else if off = 0x401A08 then x.trProd.setWidth 64
  else if 0x402000 ≤ off ∧ off < 0x403000 then wordAt ((List.range 8).map fun i => Config.certificate (off - 0x402000 + i)) 0
  else if off = 0x403000 then BitVec.ofNat 64 (bit p.p1)
  else if 0x403100 ≤ off ∧ off < 0x403200 then
    let n := (off - 0x403100) / 8
    BitVec.ofNat 64 (bit (nth p.busy n false) * 2 ^ 31 + bit (nth p.refused n false) * 2 ^ 30 + nth p.cur n 0 * 16)
  else if 0x403200 ≤ off ∧ off < 0x403220 then
    let d := (off - 0x403200) / 8
    BitVec.ofNat 64 (bit (nth p.dieBusy d false) * 2 ^ 31 + bit (nth p.dieRefused d false) * 2 ^ 30 + bit (nth p.dieOff d false) * 16)
  else if 0x410000 ≤ off ∧ off < 0x411000 then
    let e := (off - 0x410000) / 16
    let n := x.denyLog.length
    let i := if n < 256 then e else (e + 256 - x.denyProd.toNat % 256) % 256
    wordAt (nth x.denyLog i []) (off % 16)
  else if off = 0x411000 then x.denyProd.setWidth 64
  else 0

/-- A register of PF0's BAR0 at an 8-byte offset. -/
def State.regRead (s : State) (off : Nat) : Dword :=
  if off < 0x200000 then s.linkRead off
  else if off < 0x400000 then s.telemetry (off - 0x200000)
  else if off < tableBase then s.secRead off
  else if off < tableBase + 8 * tableWords then accessWord s ((off - tableBase) / 8)
  else if 0x1000000 ≤ off ∧ off < 0x1400000 then
    let c := (off - 0x1000000) / 65536
    let o := off % 65536
    if o = 0 then s.linkRead (0x40000 + 16 * c)
    else if o = 8 then s.linkRead (0x40008 + 16 * c)
    else if 0x1000 ≤ o ∧ o < 0x1200 then s.linkRead (0x50000 + 512 * (s.ctx c).fn + (o - 0x1000))
    else 0
  else if 0x2000000 ≤ off then wordAt ((List.range 8).map fun i => s.windowByte (off - 0x2000000 + i)) 0
  else 0

/-- The state after a register was read at an offset: the next denial fires again after a read of DENYPROD (R408). -/
def State.wasRead (s : State) (off : Nat) : State :=
  if off = 0x411000 then { s with sec := { s.sec with denyArmed := true } } else s

/-- A host read of `n` bytes, 4 or 8, of a register at a PF0 offset (R353, R355, R399, R407): 0 where the block does not respond, all ones
where the registers' access table denies it. -/
def State.hostRegister (s : State) (fn a n : Nat) : State :=
  if s.regUp a = false then { s with hostRead := List.replicate n 0 }
  else if accessOk s 8 (hostMaster fn) a .read = false then
    { s.logDenial 8 (hostMaster fn) a .read with hostRead := List.replicate n 0xFF }
  else { s.wasRead a with hostRead := (natLe (s.regRead (a / 8 * 8)).toNat 8).drop (a % 8) |>.take n }

/-- DENYPROD_READ (R407, R408). -/
def execDenyprodRead (s : State) : Result := .next (s.hostRegister 0 0x411000 8)

/-! What the host and the board do besides the events of the opcode table. -/

/-- A read of BAR0 by a function (R353, R355): an access of 4 or 8 bytes at a multiple of its size; a slot that a VF does not own reads
0. -/
def State.readRegister (s : State) (fn off : Nat) (wide : Bool) : State :=
  let n := if wide then 8 else 4
  match (if off % n = 0 then s.bar0 fn off else none) with
  | none => { s with hostRead := List.replicate n 0 }
  | some a => s.hostRegister fn a n

/-- The host and the board act: a register read (R355); the vendor ID 0x1F3D and the device ID 0x4128 of a function (R353); a new size of
BAR4 (R353); a page that ATS translates no more (R354); a write to system memory; the boot flash (R400, R401). -/
def State.hostAct (s : State) (a : HostAct) : State :=
  match a with
  | .readRegister fn off wide => if s.power.removed then s else s.readRegister fn off wide
  | .readIds fn => if s.power.removed || decide (8 ≤ fn) then s else { s with hostRead := natLe 0x1F3D 2 ++ natLe 0x4128 2 }
  | .resizeAperture e => if 28 ≤ e ∧ e ≤ 39 then { s with bar4Exp := e } else s
  | .dropTranslation page => if s.noAts.contains page then s else { s with noAts := page :: s.noAts }
  | .writeMemory addr bytes => (s.putHosts true addr bytes (cutsOf addr bytes.length)).syncLive
  | .writeFlash off bytes => { s with flash := Memory.putBytes s.flash off bytes }
  | .flashState fails => { s with flashFails := fails }

end Sys2Proof.Machine
end

