-- ==== Sys2Proof/Machine/Agenda.lean ====
section
/-! DEFINITION. The turn the machine takes when none is set (assumption 1): the boot, the device's own events in the order of their
times, the tests of parked groups, and the next issue of a pipe. -/

namespace Sys2Proof.Machine

/-- A turn that may be taken: its time, its class among turns of one time, the turn. -/
abbrev Due := Nat × Nat × Turn

/-- An event at a time, at the earliest now. -/
def State.at_ (s : State) (t cls : Nat) (i : Instr) : Due := (max s.now t, cls, .event i)

/-! Operations and the array. -/

/-- The turns of an operation. -/
def State.opDue (s : State) (o : Op) : List Due :=
  match o.stage with
  | .queued =>
    let free := match o.kind with | .qfen _ => true | _ => (s.freeEngine o).isSome
    if s.opReady o && free && !s.still o.blk && decide (nth s.power.cur (stationOf o.core) 0 ≠ 3) then
      [s.at_ 0 1 (.operationStart o.id)] else []
  | .running => [s.at_ o.due 1 (.operationCompletion o.id)]
  | .publishing =>
    if (s.liveTargets o).isEmpty || (s.liveTargets o).any fun b => decide ((s.ring b (descOff o.desc.1)).tryFull o.desc.2 ≠ .wait) then
      [s.at_ 0 1 (.operationCompletion o.id)]
    else []
  | _ => []

/-- A running operation that is due completes, faults or aborts, as its run says. -/
def State.resolve (s : State) (t : Turn) : Turn :=
  match t with
  | .event (.operationCompletion id) =>
    match s.op id with
    | some o =>
      if o.stage = .running then
        match (s.opRun o).stop with
        | none => t
        | some (.fault _ _ _) => .event (.operationFault id)
        | some (.pri _ _) => .event (.operationFault id)
        | some (.abort c _ _) => .event (.operationAbort id c)
        | some (.hole _) => .event (.operationAbort id 0)
      else t
    | none => t
  | _ => t

/-- The turns of the arrays. -/
def State.mmaDue (s : State) (m : Mma) : List Due :=
  if m.writing then [s.at_ m.due 1 (.mmaWriteback m.core)]
  else if m.running then [(max s.now m.due, 1, .array m.core)]
  else if (s.nextMma m.core).isSome then [s.at_ 0 1 (.mmaStart m.core)]
  else []

/-- A KVLD of a tuple's frame (R182). -/
def Op.reads (o : Op) (t : KvTuple) : Bool :=
  let u := kvldTuple o.cmd t.pos
  let lo := kvldPos o.cmd
  o.kind == .kvld && decide ({ t with pos := 0 } = { u with pos := 0 }) && decide (0 < kvldCount o.cmd) &&
    decide (lo / 64 ≤ t.pos / 64 ∧ t.pos / 64 ≤ (lo + kvldCount o.cmd - 1) / 64)

/-- A KVLD that is queue-ordered after an append staged in a frame needs the frame (R182). -/
def State.frameNeeded (s : State) (c : Corner) : Bool :=
  c.cols.any fun x => match s.op x.2.2 with
    | some a => s.ops.any fun o => o.after.contains a.id && o.reads (kvstTuple a.cmd)
    | none => false

/-- The turn of an open frame of the corner-turn buffer. -/
def State.cornerDue (s : State) (c : Corner) : Due :=
  let mine := s.corner.filter fun x => x.core == c.core
  s.at_ (if s.frameNeeded c then 0 else c.since + 256) 1 (.cornerTurnTimeout c.core (mine.idxOf c))

/-! Placement. -/

/-- The turns of a bind record: a placement, the end of a slice, the end of a wait (R380, R381). -/
def State.bindDue (s : State) (stn slot : Nat) : List Due :=
  let b := s.bind stn slot
  let t : State := { s with now := max s.now b.start }
  if b.live = false then []
  else
    (if (t.placeable stn slot).isSome || t.placesUnfit stn slot then [s.at_ b.start (2 + (15 - b.prio)) (.blockPlacement stn slot)]
    else if (s.victim stn b.prio).isSome = true ∧ s.stalled stn ((s.victim stn b.prio).getD 0) = false ∧
        s.lacksRoom stn slot = true ∧ s.stalled stn slot = false then
      [s.at_ (s.bindTime stn slot + 100 * clkPerUs) 20 (.priorityWaitExpiry stn slot)]
    else []) ++
    (if b.stat = 1 ∧ b.slice ≠ 0 ∧ s.stalled stn slot = false then
      [s.at_ (s.bindTime stn slot + b.slice * clkPerUs) 20 (.sliceExpiry stn slot)] else []) ++
    (if b.gng = true ∧ b.stat = 0 then [s.at_ (b.start + s.gangTol * clkPerUs + 1) 20 (.gangLate b.gang)] else [])

/-- A waiting or evicted group has a place on its station, which work bound to it must first bring out of P3 (R414). -/
def State.fits (s : State) (g : Group) : Bool :=
  let t := (s.wakeStation (stationOf g.core)).1
  s.restorable g && decide (nth s.power.cur (stationOf g.core) 0 ≠ 3) && !s.power.d3hot && !(nth s.power.busy (stationOf g.core) false) && (t.choosePipe (s.grid g.grid).word (t.eligible g)).isSome

/-- The turns of groups that wait for a place (R49, R57, R392). -/
def State.waitDue (s : State) : List Due :=
  (mapFrom (fun i g =>
    if g.task then (if s.taskFirst g && s.fits g then [s.at_ g.readyAt 1 (.taskGroupPlacement i)] else [])
    else if s.fits g then [s.at_ g.readyAt 1 (.rebuiltGroupAdmission i)] else []) 0 s.waiting).flatten ++
  (mapFrom (fun i g =>
    if g.park.isNone && s.fits g then
      [s.at_ 0 19 (.rebuiltGroupAdmission i)] else []) s.waiting.length s.images).flatten

/-! Grids. -/

/-- The next sweep of the chimney (R80): every 2,100 clk. -/
def nextSweep (now : Nat) : Nat := (now / 2100 + 1) * 2100

/-- The turns of a grid: its completion, the return of its pages, a sweep. -/
def State.gridDue (s : State) (g : Grid) : List Due :=
  let c := s.ctx g.ctx
  if s.gridOver g then [s.at_ 0 1 (.gridCompletion g.handle)]
  else if (g.state = 4 ∨ g.state = 5 ∨ g.state = 6) ∧ g.privPages.isEmpty = false ∧ 0 < (releaseRoom c c.prTail.toNat 1 s).1 then [s.at_ 0 1 (.gridCompletion g.handle)]
  else if g.isLive && (s.phaseFull g || s.gridQuiet g) then [s.at_ (nextSweep s.now) 1 .chimneySweep]
  else []

/-! Parked groups. -/

/-- An evicted group is brought onto the issuing pipe for a test. -/
def State.fromImage (s : State) (g : Group) : State :=
  { s with
    me := g
    groups := (if s.me.uid = 0 then [] else [s.me]) ++ s.groups
    images := s.images.filter fun x => x.uid != g.uid }

/-- A parked group that tests what it waits for, brought onto the issuing pipe; its last test is remembered in `readyAt`. -/
def State.retryOf (s : State) (uid : Nat) : State :=
  let t := match s.images.find? fun (g : Group) => g.uid == uid with
    | some g => s.fromImage g
    | none => s.select uid
  t.onMe fun g => { g with readyAt := s.now }

/-- The group is parked on something it tests itself: no command and no response must release it. -/
def Group.canTest (g : Group) : Bool :=
  match g.park with
  | none => false
  | some .held => false
  | some (.pri _ _) => false
  | some _ => true

/-- Parked groups of a station test what they wait for, those of a halted station and of one in P2 too (R411, R414). -/
def State.stationTests (s : State) (stn : Nat) : Bool :=
  decide (nth s.power.cur stn 0 ≠ 3) && !s.power.clkBusy && !s.power.removed

/-- A parked group, resident or evicted, may test what it waits for. -/
def State.mayTest (s : State) (uid : Nat) : Bool :=
  (s.resident ++ s.images).any fun g => decide (g.uid = uid ∧ g.uid ≠ 0) && g.canTest && !g.stopAsked && s.restorable g &&
    s.stationTests (stationOf g.core)

/-- The condition of a parked WAITA holds (R78): the rule tests it each clk, so the group tests as soon as it does. -/
def State.waitaHolds (s : State) (g : Group) : Bool :=
  let t := s.retryOf g.uid
  match g.insn with
  | some (.waita w) =>
    match t.checkSpad t.anchorBlk ((kVal g w.a.toNat).toNat % 2 ^ 24) 4 .read with
    | .ok x => waitaCond (w.fn.toNat % 4) (t.waitaWord x) (kVal g w.b.toNat)
    | _ => true
  | _ => false

/-- Clk between two tests of a parked group that nothing has woken (assumption 1). -/
def testEvery : Nat := 100

/-- The turns of a group that is parked and evicted (R81, R392). -/
def State.imageDue (s : State) (g : Group) : List Due :=
  let test (t : Nat) : Due := (max s.now t, 21, .retry g.uid)
  if s.mayTest g.uid = false then []
  else match g.park with
    | some .opBuffer => if (s.retryOf g.uid).bufferFull 1 then [] else [test 0]
    | some .yard => if s.yardHolds g then [] else [test 0]
    | some (.gwaitOver _) => [test 0]
    | some (.future _ true) => [test (g.readyAt + 1400)]
    | some (.future _ false) => []
    | some (.waita d) => if s.waitaHolds g then [test 0] else (d.map test).toList
    | _ => [test (g.readyAt + testEvery)]

/-- The turns of a parked group. -/
def State.parkDue (s : State) (g : Group) : List Due :=
  let again : List Due := [(max s.now (g.readyAt + testEvery), 21, .retry g.uid)]
  let now : List Due := [(s.now, 21, .retry g.uid)]
  if s.mayTest g.uid = false then []
  else match g.park with
    | none => []
    | some .held => []
    | some (.pri _ _) => []
    | some .opBuffer => if (s.retryOf g.uid).bufferFull 1 then [] else [s.at_ 0 1 (.operationBufferAdmit g.core g.gslot)]
    | some .yard => if s.yardHolds g then [] else now
    | some (.gwaitOver _) => now
    | some (.future _ true) => [s.at_ (g.readyAt + 1400) 1 (.futurePoll g.core g.gslot)]
    | some (.future _ false) => []
    | some (.waita d) => (if s.waitaHolds g then [(s.now, 0, .retry g.uid)] else []) ++
      (match d with | some t => [s.at_ t 1 (.waitaDeadline g.core g.gslot)] | none => [])
    | _ => again

/-- The all-parked detector acts on a station (R392): work waits that an eviction makes room for, or nothing can wake it. -/
def State.detectorActs (s : State) (stn : Nat) : Bool :=
  s.allParked stn &&
    (if (s.waitingWork stn).isEmpty then !s.stationWaits stn
    else !(s.onStation stn).isEmpty && !s.allFit stn (s.wantedWork stn))

/-- The turn of the detector, once every group of the station has tested what it waits for. -/
def State.detectDue (s : State) (stn : Nat) : List Due :=
  if s.detectorActs stn then
    [s.at_ ((s.onStation stn).foldl (fun a g => max a g.parkedAt) 0 + 2 * testEvery + 1) 22 (.allParkedDetect stn)]
  else []

/-! The hub. -/

/-- The first whole µs from a time on. -/
def nextUs (t : Nat) : Nat := (t + clkPerUs - 1) / clkPerUs * clkPerUs

/-- The turn of a coalescer (R368). -/
def State.coalDue (s : State) (c : Coal) : List Due :=
  if c.en && decide (0 < c.pending) then
    [s.at_ (nextUs (max s.now (if c.cnt ≤ c.pending then s.now else c.t0 + c.win * clkPerUs))) 1 .coalescerTick]
  else []

/-- The retries of the records that wait: the consumer word has advanced in memory, or the hub has read since that there is room (R388). -/
def State.queueDue (s : State) : List Due :=
  ((List.range 8).filter fun f =>
    (s.queue f).base.getLsbD 0 && (match s.unrecorded.find? fun u => u.fn == f with
      | some u => decide (s.consumerWord (s.queue f) ≠ (s.queue f).consumed ∨ 8 + u.records.length ≤ queueFree (s.queue f))
      | none => false)).map fun f =>
      s.at_ 0 1 (.trapQueueRetry f (BitVec.ofNat 32
        (s.physNum ((s.queue f).headVa.getLsbD 63) (field (s.queue f).headVa.toNat 2 54 * 4) 4)))

/-- The turns of the power controls: into P3 when the station holds no block (R414). -/
def State.powerDue (s : State) : List Due :=
  ((List.range 32).filter fun n => nth s.power.busy n false && (decide (nth s.power.tgt n 0 ≠ 3) || !s.holdsBlocks n)).map (fun n =>
    s.at_ 0 1 (.powerTransitionComplete n)) ++
  ((List.range 4).filter fun d => nth s.power.dieBusy d false).map (fun d => s.at_ 0 1 (.powerTransitionComplete (32 + d))) ++
  (if s.power.clkBusy then [s.at_ 0 1 (.powerTransitionComplete 36)] else [])

/-- The turns of the security engine, the ROM and the synchronisation. -/
def State.hubDue (s : State) : List Due :=
  (if s.sec.attBusy then [s.at_ 0 1 .attestationReportReady] else []) ++
  (if s.sec.dbgBusy then [s.at_ 0 1 .debugTokenVerdict] else []) ++
  (if s.sec.recLen.isSome then [s.at_ 0 1 .recoveryVerdict] else []) ++
  (if s.ptBusy then [s.at_ 0 0 .ptsyncCompletion] else [])

/-- Every turn of the device's own that may come next. -/
def State.dues (s : State) : List Due :=
  (s.fills.map fun x => s.at_ x.2.2.2 0 (.icacheLineFill x.1 x.2.1 x.2.2.1)) ++ s.hubDue ++ s.powerDue ++ s.queueDue ++
  (s.ops.map s.opDue).flatten ++ (s.mmas.map s.mmaDue).flatten ++ s.corner.map s.cornerDue ++
  mapFrom (fun i (b : TaskBin) => s.at_ (((b.kids.head?.map fun c => c.at_).getD s.now) + 64) 1 (.taskBinTimeout i)) 0 s.bins ++
  (s.binds.map fun x => s.bindDue x.1 x.2.1).flatten ++ (if s.bindsNow then [s.at_ 0 18 (.blockPlacement 0 64)] else []) ++ s.waitDue ++
  ((s.blocks.filter s.blockOver).map fun b => s.at_ 0 1 (.blockRetirement b.uid)) ++
  (s.grids.map s.gridDue).flatten ++
  ((s.trackers.filter fun x => !s.outstanding x.2).map fun x => s.at_ 0 1 (.retirementTrackerDrain x.1 x.2)) ++
  (s.resident.map s.parkDue).flatten ++ (s.images.map s.imageDue).flatten ++ ((List.range 32).map s.detectDue).flatten ++ (s.coal.map s.coalDue).flatten

/-- The earliest of a list, the lower class first, then the earlier in the list. -/
def earliest : List Due → Option Due
  | [] => none
  | x :: r =>
    match earliest r with
    | some y => some (if keyLt [y.1, y.2.1] [x.1, x.2.1] then y else x)
    | none => some x

/-- The next turn before it is resolved, and the device time at which it is taken; a device with nothing to do lets a clk pass. -/
def State.nextDue (s : State) : Nat × Turn :=
  if s.power.removed then (s.now, .retry 0)
  else if s.sec.stage = 0 then (s.now, .event .powerOnReset)
  else if s.sec.stage = 3 then (s.now, .event .firmwareReady)
  else
    match earliest s.dues, s.firstOf s.canIssue with
    | some x, some g => if x.1 ≤ s.startOf g then (x.1, x.2.2) else (s.now, .pipe g.core g.pipe)
    | some x, none => (x.1, x.2.2)
    | none, some g => (s.now, .pipe g.core g.pipe)
    | none, none => (s.now + 1, .retry 0)

/-- The next turn and its time. -/
def State.nextTurn (s : State) : Nat × Turn :=
  let n := s.nextDue
  (n.1, ({ s with now := n.1 } : State).resolve n.2)

/-- The machine at the time of its next turn. -/
def State.atNextTurn (s : State) : State := { s with now := s.nextTurn.1 }

end Sys2Proof.Machine
end

