-- ==== Sys2Proof/Machine/LaneColl.lean ====
section
/-! DEFINITION. Lane collectives (R268 to R279, R188 to R190). -/

namespace Sys2Proof.Machine

/-- Lane `i`'s value of a source field: 0 for a lane with no live thread (R270). -/
def Group.coll (g : Group) (i : Nat) (x : BitVec 8) : Word := if g.live i then srcVal g (g.thread i) x else 0

/-- A collective with a 32-bit result. It consumes the sources of every live lane of the group. -/
def State.collWord (s : State) (w : LR) (srcs : List (BitVec 8 × Nat)) (f : BitVec 32 → Nat → Word) : Result :=
  s.laneRun w.lxc srcs fun act =>
    (s.onMe fun g => g.result act w.d w.n fun i _ => f act i).advance (lrLen w) (occupancy false act)

/-- A collective in which lane L reads a source field of another lane, or nothing: it consumes its own source `b` and the
word it reads (R270, R421). -/
def State.collRead (s : State) (w : LR) (other : Nat → Option (Nat × BitVec 8)) : Result :=
  let act := s.me.active w.lxc
  let val (l : Nat) : Word :=
    match other l with
    | some x => s.me.coll x.1 x.2
    | none => 0
  let bad := act &&& maskOf fun l =>
    match other l with
    | some x => s.me.live x.1 && s.poison.any (s.me.poisonedSrc x.1 x.2 1)
    | none => false
  if bad = 0 then s.collWord w [(w.b, 1)] fun _ l => val l else .next (s.takeTrap cPoison bad 0 0 0)

/-- Segment width of a shuffle (R272). -/
def segOf (w : LR) : Nat := 32 / 2 ^ (lxcExt w.lxc % 8)

/-- A shuffle: `pickLane base o b S L` names the lane that lane L reads. -/
def State.shuffle (s : State) (w : LR) (pickLane : Nat → Nat → Nat → Nat → Nat → Nat) : Result :=
  s.collRead w fun l =>
    let n := segOf w
    some (pickLane (l - l % n) (l % n) (srcVal s.me (s.me.thread l) w.b).toNat n l, w.a)

/-- SHFL, SHFLX, SHFLU, SHFLD (R272). -/
def execShfl (w : LR) (s : State) : Result := s.shuffle w fun base _ b n _ => base + b % n
def execShflx (w : LR) (s : State) : Result := s.shuffle w fun base o b n _ => base + Nat.xor o (b % n)
def execShflu (w : LR) (s : State) : Result := s.shuffle w fun _ o b _ l => if b ≤ o then l - b else l
def execShfld (w : LR) (s : State) : Result := s.shuffle w fun _ o b n l => if o + b < n then l + b else l

/-- GTHR (R273): the table of NT + 1 registers from A. -/
def execGthr (w : LR) (s : State) : Result :=
  s.collRead w fun l =>
    let x := (srcVal s.me (s.me.thread l) w.b).toNat
    if x < 32 * (lxcExt w.lxc % 8 + 1) then some (x % 32, w.a + BitVec.ofNat 8 (x / 32)) else none

/-- SCTR (R274): in ascending lane order, so that the highest lane's value stands. It writes no latch (R269). -/
def execSctr (w : LR) (s : State) : Result :=
  let nt := lxcExt w.lxc % 8
  s.laneRun w.lxc [(w.a, 1), (w.b, 1)] fun act =>
    let put (g : Group) (l : Nat) : Group :=
      let x := (srcVal s.me (s.me.thread l) w.b).toNat
      if x < 32 * (nt + 1) ∧ act.getLsbD (x % 32) then
        g.onLanes (BitVec.ofNat 32 (2 ^ (x % 32))) fun _ t => t.setV (w.d.toNat + x / 32) (srcVal s.me (s.me.thread l) w.a)
      else g
    (s.onMe fun g => (lanesOf act).foldl put g).advance (lrLen w) (occupancy false act)

/-- POLL (R275): EXT[1:0] MODE, EXT[2] NEG. -/
def execPoll (w : LR) (s : State) : Result :=
  let x := lxcExt w.lxc
  s.collWord w [] fun act l =>
    let set := act &&& maskOf fun i => (s.me.thread i).pred w.a.toNat != x.testBit 2
    match x % 4 with
    | 0 => set
    | 1 => BitVec.ofNat 32 (countLanes set)
    | 2 => BitVec.ofNat 32 ((lanesOf set).filter fun i => decide (i < l)).length
    | _ => BitVec.ofNat 32 (countLanes set * 256 + (if set = act ∨ set = 0 then 4 else 0) + (if set = 0 then 0 else 2) +
        (if set = act then 1 else 0))

/-- MATCH (R276). -/
def execMatchEq (w : LR) (s : State) : Result :=
  s.collWord w [(w.a, 1)] fun act l =>
    act &&& maskOf fun i => srcVal s.me (s.me.thread i) w.a == srcVal s.me (s.me.thread l) w.a

/-! Reductions and scans. -/

/-- The identity of an operation (R277). -/
def ropIdentity (op : Nat) : Word :=
  match op with
  | 1 => 0x7FFFFFFF
  | 2 => 0x80000000
  | 3 => 0xFFFFFFFF
  | 5 => 0xFFFFFFFF
  | 9 => 0x7F800000
  | 10 => 0xFF800000
  | _ => 0

/-- The smallest or largest operand that is no NaN, bit for bit; the canonical NaN when there is none (R277). -/
def setMinMax (big : Bool) (l : List Word) : Word × Ev :=
  let ok := l.filter fun x => !isNan (fp32.decode x.toNat)
  let nv : Ev := if l.any (fun x => isSig (fp32.decode x.toNat)) then Ev.invalid else Ev.none
  match ok with
  | [] => (0x7FC00000, nv)
  | a :: r => (r.foldl (fun m x => BitVec.ofNat 32 (fpMinMax fp32 big m.toNat x.toNat).1) a, nv)

/-- The combination of a set of operands (R277). -/
def ropValue (op : Nat) (l : List Word) : Word × Ev :=
  if l.isEmpty then (ropIdentity op, Ev.none)
  else
    match op with
    | 8 =>
      let vs := l.map fun x => fp32.decode x.toNat
      asWord (fpSum fp32 .rne (vs.any isSig) vs)
    | 9 => setMinMax false l
    | 10 => setMinMax true l
    | _ =>
      let f (a b : Word) : Word :=
        match op with
        | 0 => a + b
        | 1 => pick false false a b
        | 2 => pick false true a b
        | 3 => pick true false a b
        | 4 => pick true true a b
        | 5 => a &&& b
        | 6 => a ||| b
        | _ => a ^^^ b
      (l.foldl f (ropIdentity op), Ev.none)

/-- A reduction or scan: the operand set of lane L is that of the active lanes `keep` admits. -/
def State.reduce (s : State) (w : LR) (keep : Nat → Nat → Bool) : Result :=
  s.laneFp w false [(w.a, 1)] fun l _ =>
    ropValue (lxcExt w.lxc % 16) (((lanesOf (s.me.active w.lxc)).filter fun i => keep i l).map fun i =>
      srcVal s.me (s.me.thread i) w.a)

/-- REDX, SCANX (R277): EXT[4] EXCL. -/
def execRedx (w : LR) (s : State) : Result := s.reduce w fun _ _ => true
def execScanx (w : LR) (s : State) : Result :=
  s.reduce w fun i l => if (lxcExt w.lxc).testBit 4 then decide (i < l) else decide (i ≤ l)

/-! Top-k. -/

/-- Order of candidates (R188): a ranks above b. -/
def topBefore (a b : Word × Word) : Bool :=
  let na := isNan (fp32.decode a.1.toNat)
  let nb := isNan (fp32.decode b.1.toNat)
  if na && nb then decide (a.2.toNat < b.2.toNat)
  else if na != nb then na
  else if fpKey fp32 a.1.toNat = fpKey fp32 b.1.toNat then decide (a.2.toNat < b.2.toNat)
  else decide (fpKey fp32 b.1.toNat < fpKey fp32 a.1.toNat)

/-- Inserts a candidate into a ranked list, after the candidates it does not rank above: those that R188 leaves equal, NaNs of one
index, keep the order in which they come, the active lanes' before the running slots, each in lane order (assumption 111). -/
def topInsert (c : Word × Word) : List (Word × Word) → List (Word × Word)
  | [] => [c]
  | d :: r => if topBefore c d then c :: d :: r else d :: topInsert c r

/-- The empty marker (R188). -/
def topEmpty : Word × Word := (0xFF800000, 0xFFFFFFFF)

/-- The ranked candidates without empty markers. R279 writes them as a set; a pair that two lanes present stands twice here, which is the
model's choice (assumption 111). -/
def topRank (l : List (Word × Word)) : List (Word × Word) := (l.filter fun c => c != topEmpty).foldl (fun r c => topInsert c r) []

/-- The running slot in a lane: the pair D of its thread, the empty marker without a live thread (R279). D = 0x7F names no pair, and no
rule says what is read then: a free value of the lane and its latches (assumption 111). -/
def Group.slotOf (g : Group) (d : Nat) (i : Nat) : Word × Word :=
  if g.live i = false then topEmpty
  else if d < 0x78 then (nth (g.thread i).v d 0, nth (g.thread i).v (d + 1) 0)
  else
    let f := Config.unstated (d :: i :: (g.thread i).lat.map fun x => x.toNat)
    (f.extractLsb' 0 32, f.extractLsb' 32 32)

/-- TOPK and TOPKM (R279). The spec names no latch value for an active lane at or above k, whose pair is kept: a free value of the
lane, k and the ordered candidates (assumption 5, R8). The slots are read whatever their lanes' activity, and so is poison there
(R421). -/
def State.topK (s : State) (w : LR) (merge : Bool) : Result :=
  let k := lxcExt w.lxc % 64
  s.laneRun w.lxc [(w.a, 1), (w.b, 1)] fun act =>
    let sick := if merge then s.lanePoison (s.me.liveMask &&& maskOf fun i => decide (i < k)) [(w.d.setWidth 8, 2)] else 0
    let new := (lanesOf act).map fun i => (srcVal s.me (s.me.thread i) w.a, srcVal s.me (s.me.thread i) w.b)
    let old := if merge then (List.range k).map (s.me.slotOf w.d.toNat) else []
    let ranked := topRank (new ++ old)
    let put (i : Nat) (t : Thread) : Thread :=
      if act.getLsbD i = false then (t.shiftLatch 0).shiftLatch 0
      else if i < k then
        let c := nth ranked i topEmpty
        ((t.writePair w.d w.n (c.2 ++ c.1)).shiftLatch c.1).shiftLatch c.2
      else
        let f := Config.unstated (i :: k :: ((ranked.map fun c => [c.1.toNat, c.2.toNat]).flatten))
        (t.shiftLatch (f.extractLsb' 0 32)).shiftLatch (f.extractLsb' 32 32)
    if sick ≠ 0 then s.takeTrap cPoison sick 0 0 0
    else ((s.clearV (if w.n = 1 ∨ 0x78 ≤ w.d.toNat then 0 else act &&& maskOf fun i => decide (i < k)) w.d.toNat 2).onMe fun g =>
        g.onAll put).advance (lrLen w) (occupancy false act)

/-- TOPK, TOPKM (R279). -/
def execTopk (w : LR) (s : State) : Result := s.topK w false
def execTopkm (w : LR) (s : State) : Result := s.topK w true

end Sys2Proof.Machine
end

