-- ==== Sys2Proof/Machine/LaneInt.lean ====
section
/-! DEFINITION. Lane integer, logic, predicate and immediate instructions (R233 to R250). -/

namespace Sys2Proof.Machine

/-- IADD (R235). -/
def execIadd (w : LR) (s : State) : Result := s.lane2 w fun a b => a + b

/-- ISUB (R235). -/
def execIsub (w : LR) (s : State) : Result := s.lane2 w fun a b => a - b

/-- IADDS (R235): EXT[0] chooses unsigned. -/
def execIadds (w : LR) (s : State) : Result := s.lane2 w (addSat ((lxcExt w.lxc).testBit 0))

/-- ISUBS (R235). -/
def execIsubs (w : LR) (s : State) : Result := s.lane2 w (subSat ((lxcExt w.lxc).testBit 0))

/-- IMUL (R235). -/
def execImul (w : LR) (s : State) : Result := s.lane2 w fun a b => a * b

/-- IMULH (R235). -/
def execImulh (w : LR) (s : State) : Result := s.lane2 w (mulHigh false)

/-- IMULHN (R235). -/
def execImulhn (w : LR) (s : State) : Result := s.lane2 w (mulHigh true)

/-- IMULW (R235). -/
def execImulw (w : LR) (s : State) : Result :=
  s.lanePair w.lxc w.d w.n (lrLen w) [(w.a, 1), (w.b, 1)] fun _ t =>
    mulWide ((lxcExt w.lxc).testBit 0) (srcVal s.me t w.a) (srcVal s.me t w.b)

/-- IMAD (R235). -/
def execImad (w : LR) (s : State) : Result := s.lane3 w fun a b c => a * b + c

/-- IMIN, IMAX, NMIN, NMAX (R236). -/
def execImin (w : LR) (s : State) : Result := s.lane2 w (pick false false)
def execImax (w : LR) (s : State) : Result := s.lane2 w (pick false true)
def execNmin (w : LR) (s : State) : Result := s.lane2 w (pick true false)
def execNmax (w : LR) (s : State) : Result := s.lane2 w (pick true true)

/-- AND, OR, XOR, ANDN (R236). -/
def execLand (w : LR) (s : State) : Result := s.lane2 w fun a b => a &&& b
def execLor (w : LR) (s : State) : Result := s.lane2 w fun a b => a ||| b
def execLxor (w : LR) (s : State) : Result := s.lane2 w fun a b => a ^^^ b
def execLandn (w : LR) (s : State) : Result := s.lane2 w fun a b => a &&& ~~~b

/-- SHL, SHR, SAR, ROL (R237). -/
def execShl (w : LR) (s : State) : Result := s.lane2 w shl32
def execShr (w : LR) (s : State) : Result := s.lane2 w shr32
def execSar (w : LR) (s : State) : Result := s.lane2 w sar32
def execRol (w : LR) (s : State) : Result := s.lane2 w rol32

/-- BFE, BFI (R239). -/
def execBfe (w : LR) (s : State) : Result := s.lane2 w (bfe32 ((lxcExt w.lxc).testBit 0))
def execBfi (w : LR) (s : State) : Result := s.lane3 w bfi32

/-- POPC, CLZ, BREV, IABS (R239). -/
def execPopc (w : LR) (s : State) : Result := s.lane1 w popc32
def execClz (w : LR) (s : State) : Result := s.lane1 w clz32
def execBrev (w : LR) (s : State) : Result := s.lane1 w brev32
def execIabs (w : LR) (s : State) : Result := s.lane1 w iabs32

/-- ICMP, NCMP (R240). -/
def execIcmp (w : LR) (s : State) : Result := s.laneCmp w false
def execNcmp (w : LR) (s : State) : Result := s.laneCmp w true

/-- SEL (R241): p[EXT[2:0]] XOR EXT[3] selects a. -/
def execSel (w : LR) (s : State) : Result :=
  s.laneWord w.lxc w.d w.n (lrLen w) [(w.a, 1), (w.b, 1)] fun _ t =>
    if t.pred (lxcExt w.lxc % 8) != (lxcExt w.lxc).testBit 3 then srcVal s.me t w.a else srcVal s.me t w.b

/-- MOV (R242). -/
def execMov (w : LR) (s : State) : Result := s.lane1 w fun a => a

/-- IADD64, ISUB64 (R245). -/
def execIadd64 (w : LR) (s : State) : Result :=
  s.lanePair w.lxc w.d w.n (lrLen w) [(w.a, 2), (w.b, 2)] fun _ t => srcPair s.me t w.a + srcPair s.me t w.b
def execIsub64 (w : LR) (s : State) : Result :=
  s.lanePair w.lxc w.d w.n (lrLen w) [(w.a, 2), (w.b, 2)] fun _ t => srcPair s.me t w.a - srcPair s.me t w.b

/-- LEA (R246): EXT[3] zero-extends the index, EXT[2:0] is the shift. -/
def execLea (w : LR) (s : State) : Result :=
  s.lanePair w.lxc w.d w.n (lrLen w) [(w.a, 2), (w.b, 1)] fun _ t =>
    lea64 ((lxcExt w.lxc).testBit 3) (lxcExt w.lxc % 8) (srcPair s.me t w.a) (srcVal s.me t w.b)

/-- PLOG (R247). -/
def execPlog (w : LR) (s : State) : Result :=
  s.lanePred w.lxc (pdOf w.d) (lrLen w) [] fun _ t => plogBit (w.d.toNat % 16) (t.pred w.a.toNat) (t.pred w.b.toNat)

/-- PTOV (R248). -/
def execPtov (w : LR) (s : State) : Result :=
  s.laneWord w.lxc w.d w.n (lrLen w) [] fun _ t => (t.p.setWidth 32) ||| 0x80

/-- BTID as a thread reads it (R10): its lane, for a task thread. -/
def Thread.btidVal (t : Thread) (lane : Nat) : Nat := if t.task then lane else t.btid

/-- A special register (R249). -/
def State.special (s : State) (n lane : Nat) (t : Thread) : Word :=
  match n with
  | 0 => t.tid
  | 1 => BitVec.ofNat 32 lane
  | 2 => BitVec.ofNat 32 s.me.gslot
  | 3 => if t.task then 0xFFFFFFFF else BitVec.ofNat 32 (s.block t.blk).index
  | 4 => BitVec.ofNat 32 (t.btidVal lane)
  | 5 => BitVec.ofNat 32 s.me.core
  | 6 => BitVec.ofNat 32 (stationOf s.me.core)
  | 7 => BitVec.ofNat 32 s.me.grid
  | 8 => if t.task then 0 else BitVec.ofNat 32 (32 * (s.grid s.me.grid).groups)
  | 9 => BitVec.ofNat 32 s.now
  | 10 => t.clkHi.getD (BitVec.ofNat 32 (s.now / 2 ^ 32))
  | 11 => t.key
  | 12 => BitVec.ofNat 32 s.me.pipe
  | _ => 0

/-- SRD (R249, R250): CLKLO keeps the high word of the same sample for the thread. -/
def execSrd (w : LR) (s : State) : Result :=
  s.laneRun w.lxc [] fun act =>
    let keep (t : Thread) : Thread :=
      if w.a.toNat = 9 then { t with clkHi := some (BitVec.ofNat 32 (s.now / 2 ^ 32)) } else t
    ((s.onMe fun g => (g.result act w.d w.n fun i t => s.special w.a.toNat i t).onLanes act fun _ t => keep t)).advance
      (lrLen w) (occupancy false act)

/-- IADDI, ANDI, ORI, XORI (R244). -/
def execIaddi (w : LI) (s : State) : Result := s.laneImm w fun a b => a + b
def execAndi (w : LI) (s : State) : Result := s.laneImm w fun a b => a &&& b
def execOri (w : LI) (s : State) : Result := s.laneImm w fun a b => a ||| b
def execXori (w : LI) (s : State) : Result := s.laneImm w fun a b => a ^^^ b

/-- SHI (R238). -/
def execShi (w : LJ) (s : State) : Result :=
  s.laneWord w.lxc w.d w.n (ljLen w) [(w.a, 1)] fun _ t => shi32 w.imm (srcVal s.me t w.a)

/-- ICMPI (R240). -/
def execIcmpi (w : LI) (s : State) : Result :=
  s.lanePred w.lxc (pdOf w.d) (liLen w) [(w.a, 1)] fun _ t =>
    icmp32 false (cndOf w.d) (srcVal s.me t w.a) (liImm w.imm (w.lxi.map fun x => x.hi.toNat))

/-- MOVI (R242). -/
def execMovi (w : LI) (s : State) : Result :=
  s.laneWord w.lxc w.d w.n (liLen w) [] fun _ _ => liImm w.imm (w.lxi.map fun x => x.hi.toNat)

end Sys2Proof.Machine
end

