-- ==== Sys2Proof/Machine/UniInt.lean ====
section
/-! DEFINITION. Uniform arithmetic and the group-mask queries (R291 to R296, R303). -/

namespace Sys2Proof.Machine

/-- KADD, KSUB, KMUL, KAND, KOR, KXOR (R293). -/
def execKadd (w : UR) (s : State) : Result := s.uni2 w fun a b => a + b
def execKsub (w : UR) (s : State) : Result := s.uni2 w fun a b => a - b
def execKmul (w : UR) (s : State) : Result := s.uni2 w fun a b => a * b
def execKand (w : UR) (s : State) : Result := s.uni2 w fun a b => a &&& b
def execKor (w : UR) (s : State) : Result := s.uni2 w fun a b => a ||| b
def execKxor (w : UR) (s : State) : Result := s.uni2 w fun a b => a ^^^ b

/-- KMULH, KMIN, KMAX (R293): EXT4[0] chooses unsigned. -/
def execKmulh (w : UR) (s : State) : Result := s.uni2 w (mulHigh ((kxExt4 w.kx).testBit 0))
def execKmin (w : UR) (s : State) : Result := s.uni2 w (pick ((kxExt4 w.kx).testBit 0) false)
def execKmax (w : UR) (s : State) : Result := s.uni2 w (pick ((kxExt4 w.kx).testBit 0) true)

/-- KSHL, KSHR, KSAR (R293). -/
def execKshl (w : UR) (s : State) : Result := s.uni2 w shl32
def execKshr (w : UR) (s : State) : Result := s.uni2 w shr32
def execKsar (w : UR) (s : State) : Result := s.uni2 w sar32

/-- KCMP (R294): D[8:6] the predicate, D[5:3] CND, D[2] unsigned. -/
def execKcmp (w : UR) (s : State) : Result :=
  s.uniCalc w.kx [(w.a.toNat, 1), (w.b.toNat, 1)] fun g =>
    g.setQ (w.d.toNat / 64) (icmp32 (w.d.getLsbD 2) (w.d.toNat / 8 % 8) (kVal g w.a.toNat) (kVal g w.b.toNat))

/-- KSEL (R294): the KX names the select predicate, q0 without one. -/
def execKsel (w : UR) (s : State) : Result :=
  let sel : Bool :=
    match w.kx with
    | some x => s.me.qVal x.gq.toNat != decide (x.gn = 1)
    | none => s.me.qVal 0
  .next (if s.kPoison [(w.a.toNat, 1), (w.b.toNat, 1)] then s.takeTrap cPoison s.me.cur 0 0 0
    else (s.onMe fun g => g.setK w.d.toNat (if sel then kVal g w.a.toNat else kVal g w.b.toNat)).advance (kxLen w.kx) 1)

/-- KMOV (R293). -/
def execKmov (w : UR) (s : State) : Result :=
  s.uniCalc w.kx [(w.a.toNat, 1)] fun g => g.setK w.d.toNat (kVal g w.a.toNat)

/-- A uniform instruction with a pair result, which clears the poison marks it covers (R421). -/
def State.uniPair (s : State) (k : Option Kx) (d : Nat) (srcs : List (Nat × Nat)) (f : Group → Dword) : Result :=
  s.uniRun k srcs false (((s.clearK d 2).onMe fun g => g.setKPair d (f g)).advance (kxLen k) 1)

/-- KADD64, KLEA (R295). -/
def execKadd64 (w : UR) (s : State) : Result :=
  s.uniPair w.kx w.d.toNat [(w.a.toNat, 2), (w.b.toNat, 2)] fun g => kPair g w.a.toNat + kPair g w.b.toNat
def execKlea (w : UR) (s : State) : Result :=
  s.uniPair w.kx w.d.toNat [(w.a.toNat, 2), (w.b.toNat, 1)] fun g =>
    lea64 false (kxExt4 w.kx) (kPair g w.a.toNat) (kVal g w.b.toNat)

/-- The immediate of a UI word (R296): W takes IMMHI16:IMM16, otherwise IMM16 sign- or zero-extended. -/
def uiImm (w : UI) (sign : Bool) : Word :=
  if (kxExt4 w.kx).testBit 0 then BitVec.ofNat 32 (kxImmHi w.kx * 65536 + w.imm.toNat)
  else if sign then w.imm.signExtend 32 else w.imm.setWidth 32

/-- The source register of a UI word (R225): S names it in IMMHI16, otherwise it is D. -/
def uiSrc (w : UI) : Nat := if (kxExt4 w.kx).testBit 1 then kxImmHi w.kx % 512 else w.d.toNat

/-- A UI word of one register source. -/
def State.uniImm (s : State) (w : UI) (sign : Bool) (f : Word → Word → Word) : Result :=
  s.uniCalc w.kx [(uiSrc w, 1)] fun g => g.setK w.d.toNat (f (kVal g (uiSrc w)) (uiImm w sign))

/-- KADDI, KANDI, KORI (R296). -/
def execKaddi (w : UI) (s : State) : Result := s.uniImm w true fun a b => a + b
def execKandi (w : UI) (s : State) : Result := s.uniImm w true fun a b => a &&& b
def execKori (w : UI) (s : State) : Result := s.uniImm w false fun a b => a ||| b

/-- KMOVI (R296). -/
def execKmovi (w : UI) (s : State) : Result := s.uniCalc w.kx [] fun g => g.setK w.d.toNat (uiImm w true)

/-- KLUI (R296): IMM16 << 16, or with W the 32 bits IMMHI16:IMM16. -/
def execKlui (w : UI) (s : State) : Result :=
  s.uniCalc w.kx [] fun g =>
    g.setK w.d.toNat (if (kxExt4 w.kx).testBit 0 then uiImm w true else w.imm.setWidth 32 <<< 16)

/-- KBAL (R303): EXT4[0] negates; lanes of C. -/
def execKbal (w : UF) (s : State) : Result :=
  s.uniCalc w.kx [] fun g =>
    g.setK w.a.toNat (g.cur &&& maskOf fun i => (g.thread i).pred w.b.toNat != (kxExt4 w.kx).testBit 0)

/-- KFIRST (R303): the lowest lane of C. -/
def execKfirst (w : UF) (s : State) : Result :=
  s.uniCalc w.kx [] fun g => g.setK w.a.toNat (BitVec.ofNat 32 (lowLane g.cur))

/-- KACT (R303). -/
def execKact (w : UF) (s : State) : Result := s.uniCalc w.kx [] fun g => g.setK w.a.toNat g.cur

end Sys2Proof.Machine
end

