-- ==== Sys2Proof/Machine/Dispatch.lean ====
section
/-! DEFINITION. One arm per instruction: the direct call of its meaning. -/

namespace Sys2Proof.Machine

def exec (i : Instr) (s : State) : Host.Outcome State Fault Refusal :=
  match i with
  | .iadd w => Sys2Proof.Machine.execIadd w s
  | .isub w => Sys2Proof.Machine.execIsub w s
  | .iadds w => Sys2Proof.Machine.execIadds w s
  | .isubs w => Sys2Proof.Machine.execIsubs w s
  | .imul w => Sys2Proof.Machine.execImul w s
  | .imulh w => Sys2Proof.Machine.execImulh w s
  | .imulhn w => Sys2Proof.Machine.execImulhn w s
  | .imulw w => Sys2Proof.Machine.execImulw w s
  | .imad w => Sys2Proof.Machine.execImad w s
  | .imin w => Sys2Proof.Machine.execImin w s
  | .imax w => Sys2Proof.Machine.execImax w s
  | .nmin w => Sys2Proof.Machine.execNmin w s
  | .nmax w => Sys2Proof.Machine.execNmax w s
  | .land w => Sys2Proof.Machine.execLand w s
  | .lor w => Sys2Proof.Machine.execLor w s
  | .lxor w => Sys2Proof.Machine.execLxor w s
  | .landn w => Sys2Proof.Machine.execLandn w s
  | .shl w => Sys2Proof.Machine.execShl w s
  | .shr w => Sys2Proof.Machine.execShr w s
  | .sar w => Sys2Proof.Machine.execSar w s
  | .rol w => Sys2Proof.Machine.execRol w s
  | .bfe w => Sys2Proof.Machine.execBfe w s
  | .bfi w => Sys2Proof.Machine.execBfi w s
  | .popc w => Sys2Proof.Machine.execPopc w s
  | .clz w => Sys2Proof.Machine.execClz w s
  | .brev w => Sys2Proof.Machine.execBrev w s
  | .iabs w => Sys2Proof.Machine.execIabs w s
  | .icmp w => Sys2Proof.Machine.execIcmp w s
  | .ncmp w => Sys2Proof.Machine.execNcmp w s
  | .sel w => Sys2Proof.Machine.execSel w s
  | .mov w => Sys2Proof.Machine.execMov w s
  | .iadd64 w => Sys2Proof.Machine.execIadd64 w s
  | .isub64 w => Sys2Proof.Machine.execIsub64 w s
  | .lea w => Sys2Proof.Machine.execLea w s
  | .fadd w => Sys2Proof.Machine.execFadd w s
  | .fsub w => Sys2Proof.Machine.execFsub w s
  | .fmul w => Sys2Proof.Machine.execFmul w s
  | .ffma w => Sys2Proof.Machine.execFfma w s
  | .fmin w => Sys2Proof.Machine.execFmin w s
  | .fmax w => Sys2Proof.Machine.execFmax w s
  | .fcmp w => Sys2Proof.Machine.execFcmp w s
  | .fcmpn w => Sys2Proof.Machine.execFcmpn w s
  | .frcp w => Sys2Proof.Machine.execFrcp w s
  | .fsqrt w => Sys2Proof.Machine.execFsqrt w s
  | .frsq w => Sys2Proof.Machine.execFrsq w s
  | .fexp2 w => Sys2Proof.Machine.execFexp2 w s
  | .flog2 w => Sys2Proof.Machine.execFlog2 w s
  | .fdiv w => Sys2Proof.Machine.execFdiv w s
  | .ffrc w => Sys2Proof.Machine.execFfrc w s
  | .frnd w => Sys2Proof.Machine.execFrnd w s
  | .hadd2 w => Sys2Proof.Machine.execHadd2 w s
  | .hmul2 w => Sys2Proof.Machine.execHmul2 w s
  | .hfma2 w => Sys2Proof.Machine.execHfma2 w s
  | .hmax2 w => Sys2Proof.Machine.execHmax2 w s
  | .hmin2 w => Sys2Proof.Machine.execHmin2 w s
  | .cvt w => Sys2Proof.Machine.execCvt w s
  | .cvtp w => Sys2Proof.Machine.execCvtp w s
  | .cvtu w => Sys2Proof.Machine.execCvtu w s
  | .fsmx w => Sys2Proof.Machine.execFsmx w s
  | .dot4 w => Sys2Proof.Machine.execDot4 w s
  | .dot8 w => Sys2Proof.Machine.execDot8 w s
  | .dotf4 w => Sys2Proof.Machine.execDotf4 w s
  | .dotf8 w => Sys2Proof.Machine.execDotf8 w s
  | .shfl w => Sys2Proof.Machine.execShfl w s
  | .shflx w => Sys2Proof.Machine.execShflx w s
  | .shflu w => Sys2Proof.Machine.execShflu w s
  | .shfld w => Sys2Proof.Machine.execShfld w s
  | .gthr w => Sys2Proof.Machine.execGthr w s
  | .sctr w => Sys2Proof.Machine.execSctr w s
  | .poll w => Sys2Proof.Machine.execPoll w s
  | .matchEq w => Sys2Proof.Machine.execMatchEq w s
  | .redx w => Sys2Proof.Machine.execRedx w s
  | .scanx w => Sys2Proof.Machine.execScanx w s
  | .topk w => Sys2Proof.Machine.execTopk w s
  | .topkm w => Sys2Proof.Machine.execTopkm w s
  | .plog w => Sys2Proof.Machine.execPlog w s
  | .ptov w => Sys2Proof.Machine.execPtov w s
  | .srd w => Sys2Proof.Machine.execSrd w s
  | .iaddi w => Sys2Proof.Machine.execIaddi w s
  | .andi w => Sys2Proof.Machine.execAndi w s
  | .ori w => Sys2Proof.Machine.execOri w s
  | .xori w => Sys2Proof.Machine.execXori w s
  | .shi w => Sys2Proof.Machine.execShi w s
  | .icmpi w => Sys2Proof.Machine.execIcmpi w s
  | .movi w => Sys2Proof.Machine.execMovi w s
  | .ldg w => Sys2Proof.Machine.execLdg w s
  | .stg w => Sys2Proof.Machine.execStg w s
  | .lds w => Sys2Proof.Machine.execLds w s
  | .sts w => Sys2Proof.Machine.execSts w s
  | .ldp w => Sys2Proof.Machine.execLdp w s
  | .stp w => Sys2Proof.Machine.execStp w s
  | .atomg w => Sys2Proof.Machine.execAtomg w s
  | .atoms w => Sys2Proof.Machine.execAtoms w s
  | .kvx w => Sys2Proof.Machine.execKvx w s
  | .kvxNf w => Sys2Proof.Machine.execKvxNf w s
  | .rebinB w => Sys2Proof.Machine.execRebinB w s
  | .rebinS w => Sys2Proof.Machine.execRebinS w s
  | .spawn w => Sys2Proof.Machine.execSpawn w s
  | .await w => Sys2Proof.Machine.execAwait w s
  | .exit w => Sys2Proof.Machine.execExit w s
  | .fread w => Sys2Proof.Machine.execFread w s
  | .ffill w => Sys2Proof.Machine.execFfill w s
  | .acld w => Sys2Proof.Machine.execAcld w s
  | .acst w => Sys2Proof.Machine.execAcst w s
  | .kadd w => Sys2Proof.Machine.execKadd w s
  | .ksub w => Sys2Proof.Machine.execKsub w s
  | .kmul w => Sys2Proof.Machine.execKmul w s
  | .kmulh w => Sys2Proof.Machine.execKmulh w s
  | .kand w => Sys2Proof.Machine.execKand w s
  | .kor w => Sys2Proof.Machine.execKor w s
  | .kxor w => Sys2Proof.Machine.execKxor w s
  | .kshl w => Sys2Proof.Machine.execKshl w s
  | .kshr w => Sys2Proof.Machine.execKshr w s
  | .ksar w => Sys2Proof.Machine.execKsar w s
  | .kmin w => Sys2Proof.Machine.execKmin w s
  | .kmax w => Sys2Proof.Machine.execKmax w s
  | .kcmp w => Sys2Proof.Machine.execKcmp w s
  | .ksel w => Sys2Proof.Machine.execKsel w s
  | .kmov w => Sys2Proof.Machine.execKmov w s
  | .kadd64 w => Sys2Proof.Machine.execKadd64 w s
  | .klea w => Sys2Proof.Machine.execKlea w s
  | .kaddi w => Sys2Proof.Machine.execKaddi w s
  | .kmovi w => Sys2Proof.Machine.execKmovi w s
  | .klui w => Sys2Proof.Machine.execKlui w s
  | .kandi w => Sys2Proof.Machine.execKandi w s
  | .kori w => Sys2Proof.Machine.execKori w s
  | .bra w => Sys2Proof.Machine.execBra w s
  | .call w => Sys2Proof.Machine.execCall w s
  | .brd w => Sys2Proof.Machine.execBrd w s
  | .syn w => Sys2Proof.Machine.execSyn w s
  | .join w => Sys2Proof.Machine.execJoin w s
  | .ret w => Sys2Proof.Machine.execRet w s
  | .jmpr w => Sys2Proof.Machine.execJmpr w s
  | .callr w => Sys2Proof.Machine.execCallr w s
  | .kld w => Sys2Proof.Machine.execKld w s
  | .kst w => Sys2Proof.Machine.execKst w s
  | .klds w => Sys2Proof.Machine.execKlds w s
  | .ksts w => Sys2Proof.Machine.execKsts w s
  | .katom w => Sys2Proof.Machine.execKatom w s
  | .cpy w => Sys2Proof.Machine.execCpy w s
  | .cpym w => Sys2Proof.Machine.execCpym w s
  | .qfen w => Sys2Proof.Machine.execQfen w s
  | .mres w => Sys2Proof.Machine.execMres w s
  | .mrel w => Sys2Proof.Machine.execMrel w s
  | .mma w => Sys2Proof.Machine.execMma w s
  | .mfen w => Sys2Proof.Machine.execMfen w s
  | .mwait w => Sys2Proof.Machine.execMwait w s
  | .twm w => Sys2Proof.Machine.execTwm w s
  | .tstat w => Sys2Proof.Machine.execTstat w s
  | .tclr w => Sys2Proof.Machine.execTclr w s
  | .kvld w => Sys2Proof.Machine.execKvld w s
  | .kvst w => Sys2Proof.Machine.execKvst w s
  | .kvinv w => Sys2Proof.Machine.execKvinv w s
  | .mrg w => Sys2Proof.Machine.execMrg w s
  | .rfen w => Sys2Proof.Machine.execRfen w s
  | .bara w => Sys2Proof.Machine.execBara w s
  | .barw w => Sys2Proof.Machine.execBarw w s
  | .bars w => Sys2Proof.Machine.execBars w s
  | .slotaFree w => Sys2Proof.Machine.execSlotaFree w s
  | .slotaFull w => Sys2Proof.Machine.execSlotaFull w s
  | .slotrFull w => Sys2Proof.Machine.execSlotrFull w s
  | .slotrFree w => Sys2Proof.Machine.execSlotrFree w s
  | .slotrInit w => Sys2Proof.Machine.execSlotrInit w s
  | .waita w => Sys2Proof.Machine.execWaita w s
  | .glnch w => Sys2Proof.Machine.execGlnch w s
  | .gwait w => Sys2Proof.Machine.execGwait w s
  | .phend w => Sys2Proof.Machine.execPhend w s
  | .nop w => Sys2Proof.Machine.execNop w s
  | .yield w => Sys2Proof.Machine.execYield w s
  | .pref w => Sys2Proof.Machine.execPref w s
  | .tail w => Sys2Proof.Machine.execTail w s
  | .exitg w => Sys2Proof.Machine.execExitg w s
  | .clk w => Sys2Proof.Machine.execClk w s
  | .trap w => Sys2Proof.Machine.execTrap w s
  | .brkp w => Sys2Proof.Machine.execBrkp w s
  | .csrr w => Sys2Proof.Machine.execCsrr w s
  | .csrw w => Sys2Proof.Machine.execCsrw w s
  | .hsig w => Sys2Proof.Machine.execHsig w s
  | .hflush w => Sys2Proof.Machine.execHflush w s
  | .kbal w => Sys2Proof.Machine.execKbal w s
  | .kfirst w => Sys2Proof.Machine.execKfirst w s
  | .kact w => Sys2Proof.Machine.execKact w s
  | .illegalOpcode malformed off => Sys2Proof.Machine.execIllegalOpcode malformed off s
  | .memoryAccessReturn core gslot => Sys2Proof.Machine.execMemoryAccessReturn core gslot s
  | .icacheLineFill station ctx line => Sys2Proof.Machine.execIcacheLineFill station ctx line s
  | .blockPlacement station slot => Sys2Proof.Machine.execBlockPlacement station slot s
  | .blockRetirement block => Sys2Proof.Machine.execBlockRetirement block s
  | .gridCompletion handle => Sys2Proof.Machine.execGridCompletion handle s
  | .armSlotWrite ctx slot value => Sys2Proof.Machine.execArmSlotWrite ctx slot value s
  | .retirementTrackerDrain core entry => Sys2Proof.Machine.execRetirementTrackerDrain core entry s
  | .allParkedDetect station => Sys2Proof.Machine.execAllParkedDetect station s
  | .rebuiltGroupAdmission index => Sys2Proof.Machine.execRebuiltGroupAdmission index s
  | .taskBinTimeout index => Sys2Proof.Machine.execTaskBinTimeout index s
  | .taskGroupPlacement index => Sys2Proof.Machine.execTaskGroupPlacement index s
  | .chimneySweep => Sys2Proof.Machine.execChimneySweep s
  | .futurePoll core gslot => Sys2Proof.Machine.execFuturePoll core gslot s
  | .waitaDeadline core gslot => Sys2Proof.Machine.execWaitaDeadline core gslot s
  | .operationBufferAdmit core gslot => Sys2Proof.Machine.execOperationBufferAdmit core gslot s
  | .operationStart op => Sys2Proof.Machine.execOperationStart op s
  | .operationCompletion op => Sys2Proof.Machine.execOperationCompletion op s
  | .operationFault op => Sys2Proof.Machine.execOperationFault op s
  | .operationAbort op cause => Sys2Proof.Machine.execOperationAbort op cause s
  | .mmaStart core => Sys2Proof.Machine.execMmaStart core s
  | .mmaWriteback core => Sys2Proof.Machine.execMmaWriteback core s
  | .cornerTurnTimeout core index => Sys2Proof.Machine.execCornerTurnTimeout core index s
  | .ptsyncWrite value => Sys2Proof.Machine.execPtsyncWrite value s
  | .ptsyncCompletion => Sys2Proof.Machine.execPtsyncCompletion s
  | .ppheadWrite ctx value => Sys2Proof.Machine.execPpheadWrite ctx value s
  | .coalWrite fn vector value => Sys2Proof.Machine.execCoalWrite fn vector value s
  | .coalescerTick => Sys2Proof.Machine.execCoalescerTick s
  | .peerresWrite port => Sys2Proof.Machine.execPeerresWrite port s
  | .peerInboundWrite port va bytes => Sys2Proof.Machine.execPeerInboundWrite port va bytes s
  | .gangMessage gang start records => Sys2Proof.Machine.execGangMessage gang start records s
  | .priResponse request ok => Sys2Proof.Machine.execPriResponse request ok s
  | .replay ctx slot word => Sys2Proof.Machine.execReplay ctx slot word s
  | .resume ctx slot word => Sys2Proof.Machine.execResume ctx slot word s
  | .teardown ctx slot word => Sys2Proof.Machine.execTeardown ctx slot word s
  | .trapQueueRetry fn consumed => Sys2Proof.Machine.execTrapQueueRetry fn consumed s
  | .fatalvClear value => Sys2Proof.Machine.execFatalvClear value s
  | .sliceExpiry station slot => Sys2Proof.Machine.execSliceExpiry station slot s
  | .priorityWaitExpiry station slot => Sys2Proof.Machine.execPriorityWaitExpiry station slot s
  | .gangLate gang => Sys2Proof.Machine.execGangLate gang s
  | .watchdog station => Sys2Proof.Machine.execWatchdog station s
  | .powerOnReset => Sys2Proof.Machine.execPowerOnReset s
  | .firmwareReady => Sys2Proof.Machine.execFirmwareReady s
  | .attestationReportReady => Sys2Proof.Machine.execAttestationReportReady s
  | .debugTokenVerdict => Sys2Proof.Machine.execDebugTokenVerdict s
  | .powerTransitionComplete index => Sys2Proof.Machine.execPowerTransitionComplete index s
  | .stationIdleP2 station => Sys2Proof.Machine.execStationIdleP2 station s
  | .softErrorCorrected unit => Sys2Proof.Machine.execSoftErrorCorrected unit s
  | .softErrorUncorrectable unit place => Sys2Proof.Machine.execSoftErrorUncorrectable unit place s
  | .latchParityError core gslot => Sys2Proof.Machine.execLatchParityError core gslot s
  | .powerOverCap milliwatt => Sys2Proof.Machine.execPowerOverCap milliwatt s
  | .dutyStepTick milliwatt => Sys2Proof.Machine.execDutyStepTick milliwatt s
  | .tempOverCap sensor temp => Sys2Proof.Machine.execTempOverCap sensor temp s
  | .thermalStop sensor temp => Sys2Proof.Machine.execThermalStop sensor temp s
  | .recoveryVerdict => Sys2Proof.Machine.execRecoveryVerdict s
  | .thermalStopEnd => Sys2Proof.Machine.execThermalStopEnd s
  | .tempCapEnd => Sys2Proof.Machine.execTempCapEnd s
  | .powerCapEnd => Sys2Proof.Machine.execPowerCapEnd s
  | .hostWindowWrite fn off bytes => Sys2Proof.Machine.execHostWindowWrite fn off bytes s
  | .hostWindowRead fn off len => Sys2Proof.Machine.execHostWindowRead fn off len s
  | .hostApertureWrite off bytes => Sys2Proof.Machine.execHostApertureWrite off bytes s
  | .hostApertureRead off len => Sys2Proof.Machine.execHostApertureRead off len s
  | .recgoWrite length => Sys2Proof.Machine.execRecgoWrite length s
  | .mextWrite value => Sys2Proof.Machine.execMextWrite value s
  | .attctlWrite => Sys2Proof.Machine.execAttctlWrite s
  | .dbgctlWrite => Sys2Proof.Machine.execDbgctlWrite s
  | .dbglvlWrite half value => Sys2Proof.Machine.execDbglvlWrite half value s
  | .haltWrite value => Sys2Proof.Machine.execHaltWrite value s
  | .releaseWrite value => Sys2Proof.Machine.execReleaseWrite value s
  | .debugWindowWrite off bytes => Sys2Proof.Machine.execDebugWindowWrite off bytes s
  | .clkselWrite value => Sys2Proof.Machine.execClkselWrite value s
  | .stnpwrWrite station value => Sys2Proof.Machine.execStnpwrWrite station value s
  | .diepwrWrite die value => Sys2Proof.Machine.execDiepwrWrite die value s
  | .d3hotEntry => Sys2Proof.Machine.execD3hotEntry s
  | .d0Return => Sys2Proof.Machine.execD0Return s
  | .powerRemoval => Sys2Proof.Machine.execPowerRemoval s
  | .denyprodRead => Sys2Proof.Machine.execDenyprodRead s
  | .numaggClrWrite domain => Sys2Proof.Machine.execNumaggClrWrite domain s
  | .eccHoldWrite core value => Sys2Proof.Machine.execEccHoldWrite core value s
  | .pcapWrite value => Sys2Proof.Machine.execPcapWrite value s
  | .tcapWrite value => Sys2Proof.Machine.execTcapWrite value s
  | .i3cPrivateRead index => Sys2Proof.Machine.execI3cPrivateRead index s
  | .i3cPrivateWrite index value => Sys2Proof.Machine.execI3cPrivateWrite index value s
  | .registerWrite fn off wide value => Sys2Proof.Machine.execRegisterWrite fn off wide value s
  | .peerLinkTraining port hash => Sys2Proof.Machine.execPeerLinkTraining port hash s
  | .dynamicAddressAssignment address => Sys2Proof.Machine.execDynamicAddressAssignment address s

end Sys2Proof.Machine
end

