-- ==== Sys2Proof/Machine/Turn.lean ====
section
/-! DEFINITION. Taking a turn: an event, a pipe's next issue, a parked group's test; and the stop at an address that does not
exist. -/

namespace Sys2Proof.Machine

/-- An access reached a physical address that does not exist: the machine stops. -/
def checkHole (r : Result) : Result :=
  match r with
  | .next t =>
    match t.hole with
    | some pa => .fault (.noMemory pa)
    | none => .next t
  | x => x

/-- A restored group that has repeated its run is parked again at its parked instruction, which is traced (R22, R409); one that the yard
held had not issued it. -/
def State.rejoin (s : State) : State :=
  match s.me.resume with
  | some x =>
    if s.me.pc ≠ x.1 then s
    else if x.2.1 = .yard then s.onMe fun g => { g with resume := none }
    else (s.trace s.myCtx (stationOf s.me.core) s.me.gslot).onMe fun g => { g with park := some x.2.1, parkedAt := x.2.2, resume := none }
  | none => s

/-- The group issues an instruction: its pipe has chosen it. -/
def State.issuing (s : State) (i : Instr) : State := s.onMe fun g => { g with insn := some i, apart := false }

/-- The group on the issuing pipe issues its next instruction (R17, R48, R211). -/
def issue (s : State) : Result :=
  match s.fetchInstr 3 [] with
  | .stop t => .next t
  | .trap m off => exec (.illegalOpcode m off) s
  | .run i => if s.heldByYard i then .next (s.parkMe .yard 0) else exec i (s.rejoin.issuing i)

/-- A parked group on the issuing pipe looks at what it waits for: one that the yard held may issue again; another completes the
instruction that it has issued, if it can, without fetching it again (R31, R32, R37, R48). -/
def retest (s : State) : Result :=
  match s.me.park with
  | none => .next s
  | some .yard =>
    .next (if s.yardHolds s.me then s
      else s.onMe fun g => let h := g.unheld s.now
        if 1024 ≤ g.gslot then h.restart else h)
  | some _ => match s.me.insn with | some i => exec i s | none => .next s

/-- A group is parked. -/
def State.isParked (s : State) (uid : Nat) : Bool := s.resident.any fun g => g.uid == uid && g.park.isSome

/-- A parked group that would not park again if it tested now. -/
def State.wouldWake (s : State) (uid : Nat) : Bool :=
  s.mayTest uid &&
    match retest (s.retryOf uid) with
    | .next t => !t.isParked uid
    | _ => true

/-- After its test, an evicted group is an image again, ready from a clk on. -/
def State.tested (s u : State) (uid ready : Nat) : State :=
  let t := if u.me.uid = uid then u.onMe fun g => { g with readyAt := max g.readyAt ready } else u
  if (s.images.any fun g => g.uid == uid) && t.me.uid == uid then { t with me := Group.empty, images := t.images ++ [t.me] } else t

/-- A parked group tests what it waits for: an evicted one where its image is (R81, R392), and a station in P2 wakes for one whose
wake event has come (R414). -/
def testGroup (s : State) (uid : Nat) : Result :=
  let w := if s.wouldWake uid then s.wakeStation (stationOf (s.retryOf uid).me.core) else (s, 0)
  match retest (w.1.retryOf uid) with
  | .next u => .next (s.tested u uid (if w.2 = 0 then 0 else s.now + w.2))
  | x => x

/-- The group that an all-parked detector's finding overlooks: one of the station that can go on (R392, assumption 1). -/
def State.overlooked (s : State) (i : Instr) : Option Group :=
  match i with
  | .allParkedDetect stn => (s.onStation stn).find? fun g => s.wouldWake g.uid
  | _ => none

/-- A pipe issues the next instruction of the group that goes first; a station in P2, where a wake event has made a group ready, wakes
for it (R414). -/
def pipeTurn (s : State) (c p : Nat) : Result :=
  match s.firstOf (s.canIssue.filter fun g => g.core == c && g.pipe == p) with
  | none => .next s
  | some g =>
    if nth s.power.cur (stationOf c) 0 = 0 then issue { s.select g.uid with now := s.startOf g }
    else
      let w := s.wakeStation (stationOf c)
      .next (w.1.onGroup g.uid fun x => { x with readyAt := max x.readyAt (s.now + w.2) })

/-- A turn in which the device works on its memory (R414): an issue fetches its instruction, and the events of operations, blocks, grids,
lines, trap queues and synchronisations read or write. -/
def Turn.usesMemory (t : Turn) : Bool :=
  match t with
  | .pipe _ _ => true
  | .retry uid => decide (uid ≠ 0)
  | .array _ => true
  | .host _ => false
  | .event (.icacheLineFill _ _ _) => true
  | .event (.operationStart _) => true
  | .event (.operationCompletion _) => true
  | .event (.operationFault _) => true
  | .event (.operationAbort _ _) => true
  | .event (.mmaStart _) => true
  | .event (.mmaWriteback _) => true
  | .event (.cornerTurnTimeout _ _) => true
  | .event (.blockPlacement _ _) => true
  | .event (.blockRetirement _) => true
  | .event (.taskGroupPlacement _) => true
  | .event (.rebuiltGroupAdmission _) => true
  | .event (.gridCompletion _) => true
  | .event .ptsyncCompletion => true
  | .event (.trapQueueRetry _ _) => true
  | .event (.priResponse _ _) => true
  | .event _ => false

/-- Takes a turn. -/
def takeTurn (s : State) (t : Turn) : Result :=
  match t with
  | .event i =>
    match s.overlooked i with
    | some g => testGroup s g.uid
    | none => exec i s
  | .pipe c p => pipeTurn s c p
  | .retry uid => if s.mayTest uid then testGroup s uid else .next s
  | .array core => .next (s.arrayStep core)
  | .host a => .next (s.hostAct a)

/-- Another event reaches memory where it writes there, saves images or ends grids: a teardown, an expired slice or wait, a save that goes
on, a fatal record (R374, R394, R396). -/
def State.reaches (s : State) (t : Turn) : Bool :=
  match t with
  | .event i =>
    match exec i s with
    | .next u => u.hbm != s.hbm || u.grids != s.grids || decide (u.images.length ≠ s.images.length)
    | _ => false
  | _ => false

/-- Memory wakes the dies in P4 (R414). -/
def State.forTurn (s : State) (t : Turn) : State :=
  if s.power.dieOff.contains true && (t.usesMemory || s.reaches t) then s.wakeDies else s

end Sys2Proof.Machine
end

