-- ==== Sys2Proof/Machine/Step.lean ====
section
/-! DEFINITION. One step of the machine: the next turn of the agenda, or the turn the machine takes when none is set. -/

namespace Sys2Proof.Machine

/-- One step: a turn, and the stop at an address that does not exist. -/
def step (s : State) : Host.Outcome State Fault Refusal :=
  match s.agenda with
  | t :: r => checkHole (takeTurn (({ s with agenda := r } : State).forTurn t) t)
  | [] => checkHole (takeTurn (s.atNextTurn.forTurn s.nextTurn.2) s.nextTurn.2)

/-- The state with an instruction word where the next step fetches it: the machine of `launchGroup`, its turn next. -/
def State.withFetchWord (s : State) (nbits w : Nat) : State := { s with
  agenda := [.pipe 0 0]
  nextId := 64
  me := launchGroup
  groups := []
  hbm := launchMemory nbits w
  blocks := [launchBlock]
  grids := [launchGrid]
  icache := [(0, 0, 0)]
  ctxs := launchCtx :: s.ctxs.drop 1
  access := launchAccess
  coreWord := [(0, 0x063C4320)]
  sec := { s.sec with stage := 4 } }

end Sys2Proof.Machine
end

