-- ==== Sys2Proof/Safety.lean ====
section
/-! DEFINITION. What counts as a safe run, in the terms that statements use: what an instruction of each shape may change, and
what it leaves. -/

namespace Sys2Proof.Machine

/-! Memory. -/

/-- The memories of the device and of the host stand in their canonical form. -/
def State.memoriesWf (s : State) : Prop :=
  Memory.wf s.hbm = true ∧ Memory.wf s.sysMem = true ∧ Memory.wf s.window = true ∧ Memory.wf s.sbSram = true ∧
    Memory.wf s.flash = true

/-! Lane instructions whose results stay in the registers of the group. -/

/-- The machine after an instruction that changes the issuing group only: memory, the other groups, every special register and
every device register stand as before; the pipe is busy (R14). -/
def OnlyMe (s t : State) : Prop := t = { s with me := t.me, pipeBusy := t.pipeBusy }

/-- The group goes on `words` words further; of the rest only threads differ. -/
def GoesOn (g h : Group) (words : Nat) : Prop := h = { g with lanes := h.lanes, pc := g.pc + BitVec.ofNat 64 (4 * words) }

/-- A thread after a lane instruction: registers, predicates and latches may differ, nothing else does. -/
def Thread.RegsOnly (a b : Thread) : Prop := b = { a with v := b.v, p := b.p, lat := b.lat } ∧ b.v.length = a.v.length

/-- The result register that a 32-bit result of an instruction reaches: none with N = 1 or the discard code (R19, R215). -/
def writes32 (d : BitVec 7) (n : BitVec 1) (r : Nat) : Bool := decide (n = 0) && decide (d.toNat < 0x78) && decide (r = d.toNat)

/-- A thread after a 32-bit result `x` (none for an inactive lane): its register, its latches (R15, R18, R19, R215). -/
def Thread.Takes32 (a b : Thread) (d : BitVec 7) (n : BitVec 1) (x : Option Word) : Prop :=
  a.RegsOnly b ∧ b.p = a.p ∧ b.lat = x.getD 0 :: a.lat.take 7 ∧
    ∀ r, r < a.v.length → nth b.v r 0 = if writes32 d n r && x.isSome then x.getD 0 else nth a.v r 0

/-- A thread after a 64-bit result: an even:odd pair, and two latches with the high word in y0 (R18, R216). -/
def Thread.Takes64 (a b : Thread) (d : BitVec 7) (n : BitVec 1) (x : Option Dword) : Prop :=
  a.RegsOnly b ∧ b.p = a.p ∧
    b.lat = ((x.getD 0).extractLsb' 32 32) :: ((x.getD 0).extractLsb' 0 32) :: a.lat.take 6 ∧
    ∀ r, r < a.v.length → nth b.v r 0 =
      if x.isSome && decide (n = 0) && decide (d.toNat < 0x78) && decide (r = d.toNat) then (x.getD 0).extractLsb' 0 32
      else if x.isSome && decide (n = 0) && decide (d.toNat < 0x78) && decide (r = d.toNat + 1) then (x.getD 0).extractLsb' 32 32
      else nth a.v r 0

/-- A thread after a predicate result: that predicate alone; p7 discards (R193, R217). -/
def Thread.TakesPred (a b : Thread) (p : Nat) (x : Option Bool) : Prop :=
  b = { a with p := b.p } ∧ ∀ i, i < 7 → b.p.getLsbD i = if decide (i = p) && x.isSome then x.getD false else a.p.getLsbD i

/-- Every thread of the group is related to itself after the instruction; no lane gains or loses a thread. -/
def EachThread (g h : Group) (R : Nat → Thread → Thread → Prop) : Prop :=
  ∀ i, match g.lane i with
    | some a => ∃ b, h.lane i = some b ∧ R i a b
    | none => h.lane i = none

/-- The result of an active lane; none for an inactive one (R15). -/
def ofActive {α : Type} (act : BitVec 32) (f : Nat → Thread → α) (i : Nat) (a : Thread) : Option α :=
  if act.getLsbD i then some (f i a) else none

/-- A 32-bit lane result: each active lane's value in the destination, and the frame. -/
def Result32 (s t : State) (act : BitVec 32) (d : BitVec 7) (n : BitVec 1) (words : Nat) (f : Nat → Thread → Word) : Prop :=
  GoesOn s.me t.me words ∧ EachThread s.me t.me fun i a b => a.Takes32 b d n (ofActive act f i a)

/-- A 64-bit lane result. -/
def Result64 (s t : State) (act : BitVec 32) (d : BitVec 7) (n : BitVec 1) (words : Nat) (f : Nat → Thread → Dword) : Prop :=
  GoesOn s.me t.me words ∧ EachThread s.me t.me fun i a b => a.Takes64 b d n (ofActive act f i a)

/-- The machine whose poison marks a write of `k` registers from D in the lanes `act` has cleared (R421): none with N = 1 or the
discard code. -/
def State.marksCleared (s : State) (act : BitVec 32) (d : BitVec 7) (n : BitVec 1) (k : Nat) : State :=
  s.clearV (if n = 1 ∨ 0x78 ≤ d.toNat then 0 else act) d.toNat k

/-- A predicate result. -/
def ResultPred (s t : State) (act : BitVec 32) (p words : Nat) (f : Nat → Thread → Bool) : Prop :=
  GoesOn s.me t.me words ∧ EachThread s.me t.me fun i a b => a.TakesPred b p (ofActive act f i a)

/-- The FSTAT words and the numeric counters after the events of the active lanes, in ascending order (R151, R419), which a part of
a run that a restart repeats has counted already (R22, assumption 105); nothing else of the machine differs. -/
def State.withEvents (s : State) (act : BitVec 32) (e : Nat → Thread → Ev) : State :=
  (lanesOf act).foldl (fun t i => t.addEv s.me.grid (s.me.thread i).blk (stationOf s.me.core)
    (if s.me.repeats then Ev.none else e i (s.me.thread i))) s

/-! The instructions of one shape. -/

/-- An LR instruction of one 32-bit source completes with `f` of it. -/
def LaneOp1 (c : LR → Instr) (f : LR → Word → Word) : Prop :=
  ∀ (w : LR) (s : State), s.lanePoison (s.me.active w.lxc) [(w.a, 1)] = 0 →
    ∃ t, exec (c w) s = .next t ∧ OnlyMe s t ∧
      Result32 s t (s.me.active w.lxc) w.d w.n (lrLen w) fun _ a => f w (srcVal s.me a w.a)

/-- An LR instruction of two 32-bit sources completes with `f` of them. -/
def LaneOp2 (c : LR → Instr) (f : LR → Word → Word → Word) : Prop :=
  ∀ (w : LR) (s : State), s.lanePoison (s.me.active w.lxc) [(w.a, 1), (w.b, 1)] = 0 →
    ∃ t, exec (c w) s = .next t ∧ OnlyMe s t ∧
      Result32 s t (s.me.active w.lxc) w.d w.n (lrLen w) fun _ a => f w (srcVal s.me a w.a) (srcVal s.me a w.b)

/-- An LR instruction of three 32-bit sources completes with `f` of them. -/
def LaneOp3 (c : LR → Instr) (f : LR → Word → Word → Word → Word) : Prop :=
  ∀ (w : LR) (s : State), s.lanePoison (s.me.active w.lxc) [(w.a, 1), (w.b, 1), (lxcC w.lxc, 1)] = 0 →
    ∃ t, exec (c w) s = .next t ∧ OnlyMe s t ∧
      Result32 s t (s.me.active w.lxc) w.d w.n (lrLen w) fun _ a =>
        f w (srcVal s.me a w.a) (srcVal s.me a w.b) (srcVal s.me a (lxcC w.lxc))

/-- An LI instruction of one source and the immediate of R243 completes with `f` of them. -/
def LaneOpImm (c : LI → Instr) (f : Word → Word → Word) : Prop :=
  ∀ (w : LI) (s : State), s.lanePoison (s.me.active w.lxc) [(w.a, 1)] = 0 →
    ∃ t, exec (c w) s = .next t ∧ OnlyMe s t ∧
      Result32 s t (s.me.active w.lxc) w.d w.n (liLen w) fun _ a =>
        f (srcVal s.me a w.a) (liImm w.imm (w.lxi.map fun x => x.hi.toNat))

/-- What a lane instruction with FSTAT events does: `f` gives each active lane's value and its events (R151, R253). -/
def LaneFpResult (i : Instr) (s : State) (w : LR) (f : Nat → Thread → Word × Ev) : Prop :=
  ∃ t, exec i s = .next t ∧ OnlyMe (s.withEvents (s.me.active w.lxc) fun i a => (f i a).2) t ∧
    Result32 s t (s.me.active w.lxc) w.d w.n (lrLen w) fun i a => (f i a).1

/-- An FP32 instruction of one source under the mode of R133 completes with `f` of it. -/
def FpOp1 (c : LR → Instr) (f : Rnd → Nat → Nat × Ev) : Prop :=
  ∀ (w : LR) (s : State), s.lanePoison (s.me.active w.lxc) [(w.a, 1)] = 0 →
    LaneFpResult (c w) s w fun _ a => asWord (f (arithMode s.me (lxcExt w.lxc)) (srcVal s.me a w.a).toNat)

/-- The same with two sources. -/
def FpOp2 (c : LR → Instr) (f : Rnd → Nat → Nat → Nat × Ev) : Prop :=
  ∀ (w : LR) (s : State), s.lanePoison (s.me.active w.lxc) [(w.a, 1), (w.b, 1)] = 0 →
    LaneFpResult (c w) s w fun _ a =>
      asWord (f (arithMode s.me (lxcExt w.lxc)) (srcVal s.me a w.a).toNat (srcVal s.me a w.b).toNat)

/-- The pipe's generator after a conversion of `m` elements per lane: advanced `m` times under SR, unmoved under any other mode
(R144). -/
def State.genAfter (s : State) (w : LR) (m : Nat) : State :=
  if modeCode s.me (lxcExt w.lxc) = 5 then
    s.setGen s.me.core s.me.pipe ((advances (s.genState s.me.core s.me.pipe) m).getLastD 0)
  else s

/-- The rounding of element `e` of lane `l` in a conversion of `m` elements per lane, as the generator and the dither stand when
the instruction starts (R133, R144, R145, R147). -/
def State.roundingOf (s : State) (w : LR) (m l e : Nat) : Rnd :=
  convRnd s.me (lxcExt w.lxc) m (advances (s.genState s.me.core s.me.pipe) m) l e

/-- What a conversion of `m` elements per lane does: `f` is given the rounding of each element. -/
def ConvResult (i : Instr) (s : State) (w : LR) (m : Nat) (f : (Nat → Rnd) → Thread → Word × Ev) : Prop :=
  ∃ t, exec i s = .next t ∧
    OnlyMe ((s.genAfter w m).withEvents (s.me.active w.lxc) fun l a => (f (s.roundingOf w m l) a).2) t ∧
    Result32 s t (s.me.active w.lxc) w.d w.n (lrLen w) fun l a => (f (s.roundingOf w m l) a).1

/-- What an FP32 compare does: one predicate, and events (R217, R257). -/
def FpCompareResult (i : Instr) (s : State) (w : LR) (quiet : Bool) : Prop :=
  ∃ t, exec i s = .next t ∧
    OnlyMe (s.withEvents (s.me.active w.lxc) fun _ a =>
      (fpCompare fp32 quiet (cndOf w.d) (srcVal s.me a w.a).toNat (srcVal s.me a w.b).toNat).2) t ∧
    ResultPred s t (s.me.active w.lxc) (pdOf w.d) (lrLen w) fun _ a =>
      (fpCompare fp32 quiet (cndOf w.d) (srcVal s.me a w.a).toNat (srcVal s.me a w.b).toNat).1

/-- A packed-half instruction of two sources (R261): EXT[4] names BF16. -/
def HalfOp2 (c : LR → Instr) (f : FloatFmt → Rnd → Nat → Nat → Nat × Ev) : Prop :=
  ∀ (w : LR) (s : State), s.lanePoison (s.me.active w.lxc) [(w.a, 1), (w.b, 1)] = 0 →
    LaneFpResult (c w) s w fun _ a =>
      packed2 (fun x y _ => f (halfFmt ((lxcExt w.lxc).testBit 4)) (arithMode s.me (lxcExt w.lxc)) x y) (srcVal s.me a w.a)
        (srcVal s.me a w.b) 0

/-! Uniform instructions. -/

/-- What an instruction of the uniform form may change when it ends no run: the group's uniform registers and its pc; the pipe is
busy (R14, R292). -/
def UniFrame (s t : State) (words : Nat) : Prop :=
  OnlyMe s t ∧ t.me = { s.me with k := t.me.k, pc := s.me.pc + BitVec.ofNat 64 (4 * words) } ∧ t.me.k.length = s.me.k.length

/-- A 32-bit uniform result: register D takes it, 511 discards it, every other register stands (R224). -/
def UniResult (s t : State) (words d : Nat) (x : Word) : Prop :=
  UniFrame s t words ∧ ∀ r, r < s.me.k.length → nth t.me.k r 0 = if r = d ∧ d ≠ 511 then x else nth s.me.k r 0

/-- A 64-bit uniform result: the pair from D takes it, and the poison marks it covers are cleared (R224, R421). -/
def UniPairResult (s t : State) (words d : Nat) (x : Dword) : Prop :=
  UniFrame (s.clearK d 2) t words ∧
    ∀ r, r < s.me.k.length → nth t.me.k r 0 =
      if d = 511 then nth s.me.k r 0 else if r = d then x.extractLsb' 0 32
      else if r = d + 1 ∧ r ≠ 511 then x.extractLsb' 32 32 else nth s.me.k r 0

/-- A UR instruction of two registers completes with `f` of them under a true guard. -/
def UniOp2 (c : UR → Instr) (f : UR → Word → Word → Word) : Prop :=
  ∀ (w : UR) (s : State), kxPass s.me w.kx = true → s.kPoison [(w.a.toNat, 1), (w.b.toNat, 1)] = false →
    ∃ t, exec (c w) s = .next t ∧ UniResult s t (kxLen w.kx) w.d.toNat (f w (kVal s.me w.a.toNat) (kVal s.me w.b.toNat))

/-- A UI instruction of one register and the immediate of R296 completes with `f` of them under a true guard. -/
def UniOpImm (c : UI → Instr) (sign : Bool) (f : Word → Word → Word) : Prop :=
  ∀ (w : UI) (s : State), kxPass s.me w.kx = true → s.kPoison [(uiSrc w, 1)] = false →
    ∃ t, exec (c w) s = .next t ∧ UniResult s t (kxLen w.kx) w.d.toNat (f (kVal s.me (uiSrc w)) (uiImm w sign))

/-! Switch points. -/

/-- A group whose run has ended and which goes on at `pc`, its threads as `R` relates them: it is parked no longer, and everything
else of it stands (R16, R20, R22). -/
def SwitchedBy (g h : Group) (pc : Dword) (R : Nat → Thread → Thread → Prop) : Prop :=
  h = { g with
    lanes := h.lanes, pc := pc, runPc := pc, readyAt := h.readyAt, park := none, heldItem := none, resume := none, counted := 0 } ∧
    EachThread g h R

/-- The same where of the threads only latches and kept CLK words are gone (R20, R250). -/
def Switched (g h : Group) (pc : Dword) : Prop := SwitchedBy g h pc fun _ a b => b = { a with lat := b.lat, clkHi := none }

/-- An instruction that does nothing but end the run, and goes on at `pc`. -/
def OnlySwitches (i : Instr) (s : State) (pc : Dword) : Prop :=
  ∃ t, exec i s = .next t ∧ OnlyMe s t ∧ Switched s.me t.me pc

/-- The address after an instruction of the uniform form. -/
def pastUni (s : State) (k : Option Kx) : Dword := s.me.pc + BitVec.ofNat 64 (4 * kxLen k)

/-! Memory instructions. -/

/-- A thread after a switch point that wrote the words `ws` to consecutive registers from `d` (R283). -/
def Thread.Loads (a b : Thread) (d : Nat) (ws : List Word) : Prop :=
  b = { a with v := b.v, lat := b.lat, clkHi := none } ∧ b.v.length = a.v.length ∧
    ∀ r, r < a.v.length → nth b.v r 0 = if d ≤ r ∧ r < d + ws.length then nth ws (r - d) 0 else nth a.v r 0

/-- A thread after a result of one lane that ended no run: of its registers, the words `ws` stand from D, unless N = 1 or D is the discard
code (R19, R215, R216); its party may differ. -/
def Thread.TakesWords (a b : Thread) (d : BitVec 7) (n : BitVec 1) (ws : List Word) : Prop :=
  b = { a with v := b.v, party := b.party } ∧ b.v.length = a.v.length ∧
    ∀ r, r < a.v.length → nth b.v r 0 =
      if n = 0 ∧ d.toNat < 0x78 ∧ d.toNat ≤ r ∧ r < d.toNat + ws.length then nth ws (r - d.toNat) 0 else nth a.v r 0

/-- The two words of a doubleword, the low one first. -/
def dwordWords (x : Dword) : List Word := [x.extractLsb' 0 32, x.extractLsb' 32 32]

/-- The memories of the device and of the host are the same. -/
def SameMemory (s t : State) : Prop :=
  t.hbm = s.hbm ∧ t.sysMem = s.sysMem ∧ t.window = s.window ∧ t.sbSram = s.sbSram ∧ t.flash = s.flash

/-- The `bs` stand from address `a` up, and every other byte is the same. -/
def StoredAt (m n : Memory) (a : Nat) (bs : List Byte) : Prop :=
  (∀ j, j < bs.length → n.get (a + j) = nth bs j 0) ∧ ∀ x, x < a ∨ a + bs.length ≤ x → n.get x = m.get x

/-- The `bs` are pending in a party from a place up, and it reads every other place as before; its view and its quantum stand
(R104, R105). -/
def PendingAt (p q : Party) (l : Loc) (bs : List Byte) : Prop :=
  q = { p with pend := q.pend } ∧
    (∀ j, j < bs.length → q.read? (nth (l.span bs.length) j l) = some (nth bs j 0)) ∧
    ∀ x, x ∉ l.span bs.length → q.read? x = p.read? x

/-- The outcomes of the lanes of an atomic instruction, in ascending order, and the state after them (R285). -/
def State.atomLanes (s : State) (w : LR) (glob : Bool) (act : BitVec 32) : List (Nat × Check) × State :=
  (lanesOf act).foldl (fun (acc : List (Nat × Check) × State) i =>
    let o := acc.2.atomLane w glob i
    (acc.1 ++ [(i, o.1)], o.2)) ([], s)

/-- The sources of an atomic instruction, which a compare and swap has one more of (R284). -/
def atomSrcs (w : LR) (glob : Bool) : List (BitVec 8 × Nat) :=
  let n := if (lxcExt w.lxc).testBit 7 then 2 else 1
  [(w.a, if glob then 2 else 1), (w.b, n)] ++ (if lxcExt w.lxc % 16 = 10 then [(lxcC w.lxc, n)] else [])

/-- A thread after a 64-bit result that ended the run: the pair from D, unless N = 1 or D is the discard code (R19, R216). -/
def Thread.LoadsPair (a b : Thread) (d : BitVec 7) (n : BitVec 1) (x : Dword) : Prop :=
  a.Loads b d.toNat (if n = 0 ∧ d.toNat < 0x78 then [x.extractLsb' 0 32, x.extractLsb' 32 32] else [])

/-- A doubleword stands in atomic state at its home, in two words (R74, R119). -/
def HomeDword (t : State) (l : Loc) (v : Dword) : Prop :=
  ∃ l2 x y, atomWords l 8 = [l, l2] ∧ findAtom l t.atoms = some x ∧ findAtom l2 t.atoms = some y ∧ x.val = v.extractLsb' 0 32 ∧
    y.val = v.extractLsb' 32 32 ∧ x.holder = .home ∧ y.holder = .home

/-! Commands of groups that end the run. -/

/-- The address after an instruction of `words` words of the group. -/
def State.past (s : State) (words : Nat) : Dword := s.me.pc + BitVec.ofNat 64 (4 * words)

/-- An instruction that changes the machine to `u` and then ends the run after itself; a group that was parked is ready 4 clk later
(R208). -/
def Completes (i : Instr) (s u : State) (words : Nat) : Prop :=
  ∃ occ ready, exec i s = .next (u.switchAt (u.past words) occ ready)

/-- The same, of an atomic: groups in a WAITA then test their words (R78). -/
def CompletesAtomic (i : Instr) (s u : State) (words : Nat) : Prop :=
  ∃ occ ready, exec i s = .next (u.switchAt (u.past words) occ ready).wakeWaita

/-! Events. -/

/-- An event that changes groups only, each resident one by `f`. -/
def OnlyGroups (s t : State) (f : Group → Group) : Prop :=
  t = { s with me := t.me, groups := t.groups, waiting := t.waiting, images := t.images } ∧ t.resident = s.resident.map f

/-- A write of a register of BAR0 reaches it: its block responds, and the access table of the hub's registers lets the function
write (R399, R406). -/
def State.takesWrite (s : State) (fn off : Nat) : Prop := s.regUp off = true ∧ accessOk s 8 (hostMaster fn) off .write = true

/-- The bytes `bs` stand from `a` up where `ok` lets them, and every other byte is the same. -/
def PutWhere (m n : Memory) (a : Nat) (bs : List Byte) (ok : Nat → Prop) : Prop :=
  ∀ x, (a ≤ x → x < a + bs.length → ok x → n.get x = nth bs (x - a) 0) ∧
    (¬(a ≤ x ∧ x < a + bs.length ∧ ok x) → n.get x = m.get x)

end Sys2Proof.Machine
end

