-- ==== Sys2Proof/Certificates/Slice0/Obligations.lean ====
section
/-! DEFINITION. The statements about the machine that are put to the provers, as propositions. Each docstring names the rules of
spec/ that the statement formalises. -/

open Sys2Proof Sys2Proof.Machine

/-! Lane instructions whose results stay in registers. -/

/-- R235 to R239, R244, R266: the integer arithmetic, logic, shifts, bit fields, counts and integer dot products of lanes, with N, the
discard code, the latches and the frame. -/
def Obligations.LaneIntegers : Prop :=
  (LaneOp2 .iadd (fun _ a b => a + b) ∧ LaneOp2 .isub (fun _ a b => a - b) ∧
  LaneOp2 .iadds (fun w => addSat ((lxcExt w.lxc).testBit 0)) ∧ LaneOp2 .isubs (fun w => subSat ((lxcExt w.lxc).testBit 0)) ∧
  LaneOp2 .imul (fun _ a b => a * b) ∧ LaneOp2 .imulh (fun _ => mulHigh false) ∧ LaneOp2 .imulhn (fun _ => mulHigh true) ∧
  LaneOp3 .imad (fun _ a b c => a * b + c) ∧
  LaneOp3 .dot4 (fun w => dotInt 4 ((lxcExt w.lxc).testBit 0) ((lxcExt w.lxc).testBit 1) ((lxcExt w.lxc).testBit 2)) ∧
  LaneOp3 .dot8 (fun w => dotInt 8 ((lxcExt w.lxc).testBit 0) ((lxcExt w.lxc).testBit 1) ((lxcExt w.lxc).testBit 2)) ∧
  LaneOpImm .iaddi (fun a b => a + b)) ∧
  (LaneOp2 .imin (fun _ => pick false false) ∧ LaneOp2 .imax (fun _ => pick false true) ∧
  LaneOp2 .nmin (fun _ => pick true false) ∧ LaneOp2 .nmax (fun _ => pick true true) ∧
  LaneOp2 .land (fun _ a b => a &&& b) ∧ LaneOp2 .lor (fun _ a b => a ||| b) ∧ LaneOp2 .lxor (fun _ a b => a ^^^ b) ∧
  LaneOp2 .landn (fun _ a b => a &&& ~~~b) ∧
  LaneOp2 .shl (fun _ => shl32) ∧ LaneOp2 .shr (fun _ => shr32) ∧ LaneOp2 .sar (fun _ => sar32) ∧ LaneOp2 .rol (fun _ => rol32) ∧
  LaneOp2 .bfe (fun w => bfe32 ((lxcExt w.lxc).testBit 0)) ∧ LaneOp3 .bfi (fun _ => bfi32) ∧
  LaneOp1 .popc (fun _ => popc32) ∧ LaneOp1 .clz (fun _ => clz32) ∧ LaneOp1 .brev (fun _ => brev32) ∧
  LaneOp1 .iabs (fun _ => iabs32) ∧
  LaneOpImm .andi (fun a b => a &&& b) ∧ LaneOpImm .ori (fun a b => a ||| b) ∧ LaneOpImm .xori (fun a b => a ^^^ b) ∧
  ∀ (w : LJ) (s : State), s.lanePoison (s.me.active w.lxc) [(w.a, 1)] = 0 →
    ∃ t, exec (.shi w) s = .next t ∧ OnlyMe s t ∧
      Result32 s t (s.me.active w.lxc) w.d w.n (ljLen w) fun _ a => shi32 w.imm (srcVal s.me a w.a))

/-- R217, R240 to R242, R247, R248: selects and moves of lanes (SEL takes a where the predicate EXT[2:0] differs from EXT[3], else
b; PTOV gives p0 to p6 and a true p7), and the compares and predicate logic, which write the one predicate they name in active
lanes. -/
def Obligations.LaneMovesAndPredicates : Prop :=
  (LaneOp1 .mov (fun _ a => a) ∧
  (∀ (w : LR) (s : State), s.lanePoison (s.me.active w.lxc) [(w.a, 1), (w.b, 1)] = 0 →
    ∃ t, exec (.sel w) s = .next t ∧ OnlyMe s t ∧
      Result32 s t (s.me.active w.lxc) w.d w.n (lrLen w) fun _ a =>
        if a.pred (lxcExt w.lxc % 8) != (lxcExt w.lxc).testBit 3 then srcVal s.me a w.a else srcVal s.me a w.b) ∧
  (∀ (w : LR) (s : State),
    ∃ t, exec (.ptov w) s = .next t ∧ OnlyMe s t ∧
      Result32 s t (s.me.active w.lxc) w.d w.n (lrLen w) fun _ a => (1 : BitVec 1) ++ a.p |>.setWidth 32) ∧
  ∀ (w : LI) (s : State),
    ∃ t, exec (.movi w) s = .next t ∧ OnlyMe s t ∧
      Result32 s t (s.me.active w.lxc) w.d w.n (liLen w) fun _ _ => liImm w.imm (w.lxi.map fun x => x.hi.toNat)) ∧
  ((∀ (w : LR) (s : State), s.lanePoison (s.me.active w.lxc) [(w.a, 1), (w.b, 1)] = 0 →
    (∃ t, exec (.icmp w) s = .next t ∧ OnlyMe s t ∧
      ResultPred s t (s.me.active w.lxc) (pdOf w.d) (lrLen w) fun _ a =>
        icmp32 false (cndOf w.d) (srcVal s.me a w.a) (srcVal s.me a w.b)) ∧
    ∃ t, exec (.ncmp w) s = .next t ∧ OnlyMe s t ∧
      ResultPred s t (s.me.active w.lxc) (pdOf w.d) (lrLen w) fun _ a =>
        icmp32 true (cndOf w.d) (srcVal s.me a w.a) (srcVal s.me a w.b)) ∧
  (∀ (w : LI) (s : State), s.lanePoison (s.me.active w.lxc) [(w.a, 1)] = 0 →
    ∃ t, exec (.icmpi w) s = .next t ∧ OnlyMe s t ∧
      ResultPred s t (s.me.active w.lxc) (pdOf w.d) (liLen w) fun _ a =>
        icmp32 false (cndOf w.d) (srcVal s.me a w.a) (liImm w.imm (w.lxi.map fun x => x.hi.toNat))) ∧
  ∀ (w : LR) (s : State),
    ∃ t, exec (.plog w) s = .next t ∧ OnlyMe s t ∧
      ResultPred s t (s.me.active w.lxc) (pdOf w.d) (lrLen w) fun _ a =>
        (w.d.toNat % 16).testBit (2 * (a.pred w.a.toNat).toNat + (a.pred w.b.toNat).toNat))

/-- R235, R245, R246: the 64-bit results of lanes. The poison marks that the pair covers are cleared (R421); every other mark stays.
-/
def Obligations.LanePairs : Prop :=
  ∀ (w : LR) (s : State),
    (s.lanePoison (s.me.active w.lxc) [(w.a, 1), (w.b, 1)] = 0 →
      ∃ t, exec (.imulw w) s = .next t ∧ OnlyMe (s.marksCleared (s.me.active w.lxc) w.d w.n 2) t ∧
        Result64 s t (s.me.active w.lxc) w.d w.n (lrLen w) fun _ a =>
          mulWide ((lxcExt w.lxc).testBit 0) (srcVal s.me a w.a) (srcVal s.me a w.b)) ∧
    (s.lanePoison (s.me.active w.lxc) [(w.a, 2), (w.b, 2)] = 0 →
      (∃ t, exec (.iadd64 w) s = .next t ∧ OnlyMe (s.marksCleared (s.me.active w.lxc) w.d w.n 2) t ∧
        Result64 s t (s.me.active w.lxc) w.d w.n (lrLen w) fun _ a => srcPair s.me a w.a + srcPair s.me a w.b) ∧
      ∃ t, exec (.isub64 w) s = .next t ∧ OnlyMe (s.marksCleared (s.me.active w.lxc) w.d w.n 2) t ∧
        Result64 s t (s.me.active w.lxc) w.d w.n (lrLen w) fun _ a => srcPair s.me a w.a - srcPair s.me a w.b) ∧
    (s.lanePoison (s.me.active w.lxc) [(w.a, 2), (w.b, 1)] = 0 →
      ∃ t, exec (.lea w) s = .next t ∧ OnlyMe (s.marksCleared (s.me.active w.lxc) w.d w.n 2) t ∧
        Result64 s t (s.me.active w.lxc) w.d w.n (lrLen w) fun _ a =>
          let b := srcVal s.me a w.b
          let x : Int := if (lxcExt w.lxc).testBit 3 then (b.toNat : Int) else b.toInt
          srcPair s.me a w.a + BitVec.ofInt 64 (x * 2 ^ (lxcExt w.lxc % 8)))

/-- R255, R256, R258 to R261, R267: FP32 arithmetic, packed halves and float dot products of lanes, their results and their FSTAT
events. -/
def Obligations.LaneFloats : Prop :=
  (FpOp2 .fadd (fpAdd fp32) ∧ FpOp2 .fsub (fpSub fp32) ∧ FpOp2 .fmul (fpMul fp32) ∧ FpOp2 .fdiv (fpDiv fp32) ∧
  FpOp2 .fmin (fun _ => fpMinMax fp32 false) ∧ FpOp2 .fmax (fun _ => fpMinMax fp32 true) ∧ FpOp2 .fsmx (fpSmx fp32) ∧
  FpOp1 .frcp (fpRcp fp32) ∧ FpOp1 .fsqrt (fun r a => finish fp32 r (sqrtVal (fp32.decode a))) ∧
  FpOp1 .frsq (fun r a => finish fp32 r (rsqVal (fp32.decode a))) ∧
  FpOp1 .fexp2 (fpExp2 fp32) ∧ FpOp1 .flog2 (fpLog2 fp32) ∧ FpOp1 .ffrc (fun _ => fpFrc fp32) ∧ FpOp1 .frnd (fpRnd fp32) ∧
  ∀ (w : LR) (s : State), s.lanePoison (s.me.active w.lxc) [(w.a, 1), (w.b, 1), (lxcC w.lxc, 1)] = 0 →
    LaneFpResult (.ffma w) s w fun _ a =>
      asWord (fpFma fp32 (arithMode s.me (lxcExt w.lxc)) (srcVal s.me a w.a).toNat (srcVal s.me a w.b).toNat
        (srcVal s.me a (lxcC w.lxc)).toNat)) ∧
  (HalfOp2 .hadd2 fpAdd ∧ HalfOp2 .hmul2 fpMul ∧ HalfOp2 .hmax2 (fun f _ => fpMinMax f true) ∧
  HalfOp2 .hmin2 (fun f _ => fpMinMax f false) ∧
  ∀ (w : LR) (s : State), s.lanePoison (s.me.active w.lxc) [(w.a, 1), (w.b, 1), (lxcC w.lxc, 1)] = 0 →
    (LaneFpResult (.hfma2 w) s w fun _ a =>
      packed2 (fpFma (halfFmt ((lxcExt w.lxc).testBit 4)) (arithMode s.me (lxcExt w.lxc))) (srcVal s.me a w.a)
        (srcVal s.me a w.b) (srcVal s.me a (lxcC w.lxc))) ∧
    (LaneFpResult (.dotf4 w) s w fun _ a =>
      dotFloat 4 e2m1 e2m1 (arithMode s.me (lxcExt w.lxc)) (srcVal s.me a w.a) (srcVal s.me a w.b) (srcVal s.me a (lxcC w.lxc))) ∧
    LaneFpResult (.dotf8 w) s w fun _ a =>
      dotFloat 8 (if (lxcExt w.lxc).testBit 4 then e5m2 else e4m3) (if (lxcExt w.lxc).testBit 5 then e5m2 else e4m3)
        (arithMode s.me (lxcExt w.lxc)) (srcVal s.me a w.a) (srcVal s.me a w.b) (srcVal s.me a (lxcC w.lxc)))

/-- R217, R257, R133, R144, R145, R147, R263 to R265: the FP32 compares write one predicate in active lanes and add their events to FSTAT.
The conversions of lanes run under the group's mode. Under SR the pipe's generator has advanced once per element of a lane, whether or not
a lane is active; under any other mode it stands. -/
def Obligations.LaneComparesAndConversions : Prop :=
  (∀ (w : LR) (s : State), s.lanePoison (s.me.active w.lxc) [(w.a, 1), (w.b, 1)] = 0 →
    FpCompareResult (.fcmp w) s w false ∧ FpCompareResult (.fcmpn w) s w true) ∧
  (∀ (w : LR) (s : State),
    (s.lanePoison (s.me.active w.lxc) [(w.a, 1)] = 0 →
      (ConvResult (.cvt w) s w 1 fun r a =>
        asWord (convert w.b.toNat (lxcExt w.lxc / 16) (r 0) (e4sat s.me) (srcVal s.me a w.a).toNat)) ∧
      ConvResult (.cvtu w) s w 1 fun r a => cvtu32 (lxcExt w.lxc / 16 % 4) (r 0) (srcVal s.me a w.a)) ∧
    (s.lanePoison (s.me.active w.lxc) [(w.a, 1), (w.b, 1), (lxcC w.lxc, 1)] = 0 →
      ConvResult (.cvtp w) s w 2 fun r a =>
        cvtp32 (lxcExt w.lxc / 16 % 64) (lxcExt w.lxc / 1024) (e4sat s.me) (r 0) (r 1) (srcVal s.me a w.a) (srcVal s.me a w.b)
          (srcVal s.me a (lxcC w.lxc))))

/-! Lane collectives. -/

/-- R269, R270, R272 to R274: in a shuffle or a gather each active lane takes the source word of the lane it names, 0 where that
lane holds no live thread or, in GTHR, where the index is beyond the table; no word that is read is poisoned. In SCTR register D + x
/ 32 of active lane x % 32 takes the word of the highest active lane that names it; no latch moves. -/
def Obligations.LaneShufflesAndScatter : Prop :=
  (∀ (w : LR) (s : State), s.lanePoison (s.me.active w.lxc) [(w.b, 1)] = 0 →
    let seg := 32 / 2 ^ (lxcExt w.lxc % 8)
    let b (l : Nat) : Nat := (srcVal s.me (s.me.thread l) w.b).toNat
    let reads (i : Instr) (from_ : Nat → Nat) : Prop :=
      ∃ t, exec i s = .next t ∧ OnlyMe s t ∧
        Result32 s t (s.me.active w.lxc) w.d w.n (lrLen w) fun l _ => s.me.coll (from_ l) w.a
    ((∀ i p, p ∈ s.poison → s.me.poisonedSrc i w.a 1 p = false) →
      reads (.shfl w) (fun l => l - l % seg + b l % seg) ∧
      reads (.shflx w) (fun l => l - l % seg + Nat.xor (l % seg) (b l % seg)) ∧
      reads (.shflu w) (fun l => if b l ≤ l % seg then l - b l else l) ∧
      reads (.shfld w) (fun l => if l % seg + b l < seg then l + b l else l)) ∧
    ((∀ i k p, p ∈ s.poison → s.me.poisonedSrc i (w.a + BitVec.ofNat 8 k) 1 p = false) →
      ∃ t, exec (.gthr w) s = .next t ∧ OnlyMe s t ∧
        Result32 s t (s.me.active w.lxc) w.d w.n (lrLen w) fun l _ =>
          if b l < 32 * (lxcExt w.lxc % 8 + 1) then s.me.coll (b l % 32) (w.a + BitVec.ofNat 8 (b l / 32)) else 0)) ∧
  (∀ (w : LR) (s : State), s.lanePoison (s.me.active w.lxc) [(w.a, 1), (w.b, 1)] = 0 →
    let act := s.me.active w.lxc
    let x (l : Nat) : Nat := (srcVal s.me (s.me.thread l) w.b).toNat
    ∃ t, exec (.sctr w) s = .next t ∧ OnlyMe s t ∧ GoesOn s.me t.me (lrLen w) ∧
      EachThread s.me t.me fun i a b =>
        b = { a with v := b.v } ∧ b.v.length = a.v.length ∧
          ∀ r, r < a.v.length → nth b.v r 0 =
            match ((lanesOf act).filter fun l =>
              act.getLsbD i && decide (x l < 32 * (lxcExt w.lxc % 8 + 1) ∧ x l % 32 = i ∧ w.d.toNat + x l / 32 = r)).getLast? with
            | some l => srcVal s.me (s.me.thread l) w.a
            | none => nth a.v r 0)

/-- R275 to R277: votes, matches, reductions and scans over the active lanes. -/
def Obligations.LaneVotesAndReductions : Prop :=
  ∀ (w : LR) (s : State),
    let x := lxcExt w.lxc
    let act := s.me.active w.lxc
    let set := act &&& maskOf fun i => (s.me.thread i).pred w.a.toNat != x.testBit 2
    (∃ t, exec (.poll w) s = .next t ∧ OnlyMe s t ∧
      Result32 s t act w.d w.n (lrLen w) fun l _ =>
        if x % 4 = 0 then set
        else if x % 4 = 1 then BitVec.ofNat 32 (countLanes set)
        else if x % 4 = 2 then BitVec.ofNat 32 ((lanesOf set).filter fun i => decide (i < l)).length
        else BitVec.ofNat 32 (countLanes set * 256 + (if set = act ∨ set = 0 then 4 else 0) + (if set = 0 then 0 else 2) +
          (if set = act then 1 else 0))) ∧
    (s.lanePoison act [(w.a, 1)] = 0 →
      (∃ t, exec (.matchEq w) s = .next t ∧ OnlyMe s t ∧
        Result32 s t act w.d w.n (lrLen w) fun l _ =>
          act &&& maskOf fun i => srcVal s.me (s.me.thread i) w.a == srcVal s.me (s.me.thread l) w.a) ∧
      (LaneFpResult (.redx w) s w fun _ _ =>
        ropValue (x % 16) ((lanesOf act).map fun i => srcVal s.me (s.me.thread i) w.a)) ∧
      LaneFpResult (.scanx w) s w fun l _ =>
        ropValue (x % 16) (((lanesOf act).filter fun i => if x.testBit 4 then decide (i < l) else decide (i ≤ l)).map fun i =>
          srcVal s.me (s.me.thread i) w.a))

/-- R188, R279: TOPK and TOPKM deliver rank i of the ordered candidates to active lane i below k; an active lane at or above k keeps
its registers, and of its latches two take free values (assumption 5). What stands for running slots that D names none of, and the order and
number of equal candidates, is assumption 111. -/
def Obligations.LaneTopK : Prop :=
  ∀ (w : LR) (s : State) (merge : Bool),
    let k := lxcExt w.lxc % 64
    s.lanePoison (s.me.active w.lxc) [(w.a, 1), (w.b, 1)] = 0 →
    (merge = true → s.lanePoison (s.me.liveMask &&& maskOf fun i => decide (i < k)) [(w.d.setWidth 8, 2)] = 0) →
    let act := s.me.active w.lxc
    let ranked := topRank (((lanesOf act).map fun i => (srcVal s.me (s.me.thread i) w.a, srcVal s.me (s.me.thread i) w.b)) ++
      if merge then (List.range k).map (s.me.slotOf w.d.toNat) else [])
    ∃ t, exec (if merge then .topkm w else .topk w) s = .next t ∧
      OnlyMe (s.marksCleared (act &&& maskOf fun i => decide (i < k)) w.d w.n 2) t ∧ GoesOn s.me t.me (lrLen w) ∧
      EachThread s.me t.me fun i a b =>
        if act.getLsbD i = false then a.Takes64 b w.d w.n none
        else if i < k then a.Takes64 b w.d w.n (some ((nth ranked i topEmpty).2 ++ (nth ranked i topEmpty).1))
        else ∃ hi lo, b = { a with lat := hi :: lo :: a.lat.take 6 }

/-- R10, R249, R250: SRD gives the special register that A names; CLKLO keeps the high word of its sample for the thread. -/
def Obligations.LaneSpecialRegisters : Prop :=
  ∀ (w : LR) (s : State),
    (∃ t, exec (.srd w) s = .next t ∧ OnlyMe s t ∧ GoesOn s.me t.me (lrLen w) ∧
      EachThread s.me t.me fun i a b =>
        let kept := if (s.me.active w.lxc).getLsbD i && decide (w.a.toNat = 9) then some (BitVec.ofNat 32 (s.now / 2 ^ 32))
          else a.clkHi
        ({ a with clkHi := kept } : Thread).Takes32 b w.d w.n
          (ofActive (s.me.active w.lxc) (fun l c => s.special w.a.toNat l c) i a)) ∧
    ∀ (i : Nat) (a : Thread),
      s.special 0 i a = a.tid ∧ s.special 1 i a = BitVec.ofNat 32 i ∧ s.special 2 i a = BitVec.ofNat 32 s.me.gslot ∧
      s.special 3 i a = (if a.task then 0xFFFFFFFF else BitVec.ofNat 32 (s.block a.blk).index) ∧
      s.special 4 i a = BitVec.ofNat 32 (if a.task then i else a.btid) ∧ s.special 5 i a = BitVec.ofNat 32 s.me.core ∧
      s.special 6 i a = BitVec.ofNat 32 (s.me.core / 4) ∧ s.special 7 i a = BitVec.ofNat 32 s.me.grid ∧
      s.special 8 i a = (if a.task then 0 else BitVec.ofNat 32 (32 * (s.grid s.me.grid).groups)) ∧
      s.special 9 i a = BitVec.ofNat 32 s.now ∧ s.special 10 i a = a.clkHi.getD (BitVec.ofNat 32 (s.now / 2 ^ 32)) ∧
      s.special 11 i a = a.key ∧ s.special 12 i a = BitVec.ofNat 32 s.me.pipe

/-! Uniform instructions. -/

/-- R293, R294: the uniform arithmetic of registers and immediates, with the discarded register 511 and the frame; KCMP writes the
one predicate D[8:6] by the comparison D[5:3], D[2]. -/
def Obligations.UniformArithmetic : Prop :=
  (UniOp2 .kadd (fun _ a b => a + b) ∧ UniOp2 .ksub (fun _ a b => a - b) ∧ UniOp2 .kmul (fun _ a b => a * b) ∧
  UniOp2 .kand (fun _ a b => a &&& b) ∧ UniOp2 .kor (fun _ a b => a ||| b) ∧ UniOp2 .kxor (fun _ a b => a ^^^ b) ∧
  UniOp2 .kmulh (fun w => mulHigh ((kxExt4 w.kx).testBit 0)) ∧ UniOp2 .kmin (fun w => pick ((kxExt4 w.kx).testBit 0) false) ∧
  UniOp2 .kmax (fun w => pick ((kxExt4 w.kx).testBit 0) true) ∧ UniOp2 .kshl (fun _ => shl32) ∧ UniOp2 .kshr (fun _ => shr32) ∧
  UniOp2 .ksar (fun _ => sar32) ∧ UniOpImm .kaddi true (fun a b => a + b) ∧ UniOpImm .kandi true (fun a b => a &&& b) ∧
  UniOpImm .kori false (fun a b => a ||| b)) ∧
  (∀ (w : UR) (s : State), kxPass s.me w.kx = true → s.kPoison [(w.a.toNat, 1), (w.b.toNat, 1)] = false →
    ∃ t, exec (.kcmp w) s = .next t ∧ OnlyMe s t ∧
      t.me = { s.me with q := t.me.q, pc := pastUni s w.kx } ∧
      ∀ i, i < 7 → t.me.q.getLsbD i =
        if i = w.d.toNat / 64 then
          icmp32 (w.d.getLsbD 2) (w.d.toNat / 8 % 8) (kVal s.me w.a.toNat) (kVal s.me w.b.toNat)
        else s.me.q.getLsbD i)

/-- R250, R292 to R296, R303, R304, R307: uniform moves, selects, immediates, group masks and CSRR, and the pairs that KADD64, KLEA
and CLK write. KSEL has no guard: its KX names the predicate it selects by, q0 without one. -/
def Obligations.UniformMovesAndPairs : Prop :=
  (∀ (s : State),
    (∀ (w : UR), s.kPoison [(w.a.toNat, 1), (w.b.toNat, 1)] = false →
      let sel := match w.kx with
        | some x => s.me.qVal x.gq.toNat != decide (x.gn = 1)
        | none => s.me.qVal 0
      ∃ t, exec (.ksel w) s = .next t ∧
        UniResult s t (kxLen w.kx) w.d.toNat (if sel then kVal s.me w.a.toNat else kVal s.me w.b.toNat)) ∧
    (∀ (w : UR), kxPass s.me w.kx = true → s.kPoison [(w.a.toNat, 1)] = false →
      ∃ t, exec (.kmov w) s = .next t ∧ UniResult s t (kxLen w.kx) w.d.toNat (kVal s.me w.a.toNat)) ∧
    (∀ (w : UI), kxPass s.me w.kx = true →
      (∃ t, exec (.kmovi w) s = .next t ∧ UniResult s t (kxLen w.kx) w.d.toNat (uiImm w true)) ∧
      ∃ t, exec (.klui w) s = .next t ∧ UniResult s t (kxLen w.kx) w.d.toNat
        (if (kxExt4 w.kx).testBit 0 then uiImm w true else w.imm ++ (0 : BitVec 16))) ∧
    ∀ (w : UF), kxPass s.me w.kx = true →
      (∃ t, exec (.kbal w) s = .next t ∧ UniResult s t (kxLen w.kx) w.a.toNat
        (s.me.cur &&& maskOf fun i => (s.me.thread i).pred w.b.toNat != (kxExt4 w.kx).testBit 0)) ∧
      (∃ t, exec (.kfirst w) s = .next t ∧ UniResult s t (kxLen w.kx) w.a.toNat (BitVec.ofNat 32 (lowLane s.me.cur))) ∧
      (∃ t, exec (.kact w) s = .next t ∧ UniResult s t (kxLen w.kx) w.a.toNat s.me.cur) ∧
      ∃ t, exec (.csrr w) s = .next t ∧ UniResult s t (kxLen w.kx) w.a.toNat (s.csr w.b.toNat)) ∧
  (∀ (s : State),
    (∀ (w : UR), kxPass s.me w.kx = true → s.kPoison [(w.a.toNat, 2), (w.b.toNat, 2)] = false →
      ∃ t, exec (.kadd64 w) s = .next t ∧
        UniPairResult s t (kxLen w.kx) w.d.toNat (kPair s.me w.a.toNat + kPair s.me w.b.toNat)) ∧
    (∀ (w : UR), kxPass s.me w.kx = true → s.kPoison [(w.a.toNat, 2), (w.b.toNat, 1)] = false →
      ∃ t, exec (.klea w) s = .next t ∧
        UniPairResult s t (kxLen w.kx) w.d.toNat
          (kPair s.me w.a.toNat + BitVec.ofInt 64 ((kVal s.me w.b.toNat).toInt * 2 ^ kxExt4 w.kx))) ∧
    ∀ (w : UF), kxPass s.me w.kx = true →
      ∃ t, exec (.clk w) s = .next t ∧ UniPairResult s t (kxLen w.kx) w.a.toNat (BitVec.ofNat 64 s.now))

/-- R78, R225, R230, R313, R326: a false guard makes a uniform instruction do nothing but go on, and one that is a switch point end the
run: the commands of the engines, the array, KV space, barriers, rings, grids and timed waits among them. KSEL has no guard. -/
def Obligations.FalseGuards : Prop :=
  ∀ (s : State),
    (∀ (w : UR), kxPass s.me w.kx = false →
      ∀ i, i ∈ [Instr.kadd w, .ksub w, .kmul w, .kmulh w, .kand w, .kor w, .kxor w, .kshl w, .kshr w, .ksar w, .kmin w,
          .kmax w, .kcmp w, .kmov w, .kadd64 w, .klea w] →
        ∃ t, exec i s = .next t ∧ OnlyMe s t ∧ t.me = { s.me with pc := pastUni s w.kx }) ∧
    (∀ (w : UI), kxPass s.me w.kx = false → ∀ i, i ∈ [Instr.kaddi w, .kmovi w, .klui w, .kandi w, .kori w] →
      ∃ t, exec i s = .next t ∧ OnlyMe s t ∧ t.me = { s.me with pc := pastUni s w.kx }) ∧
    (∀ (w : UF), kxPass s.me w.kx = false →
      (∀ i, i ∈ [Instr.nop w, .pref w, .clk w, .csrr w, .kbal w, .kfirst w, .kact w] →
        ∃ t, exec i s = .next t ∧ OnlyMe s t ∧ t.me = { s.me with pc := pastUni s w.kx }) ∧
      ∀ i, i ∈ [Instr.yield w, .tail w, .exitg w, .trap w, .brkp w, .csrw w, .hsig w, .hflush w,
          .glnch w, .gwait w, .phend w, .twm w, .tstat w, .tclr w] →
        OnlySwitches i s (pastUni s w.kx)) ∧
    (∀ (w : US), kxPass s.me w.kx = false →
      ∀ i, i ∈ [Instr.slotaFree w, .slotaFull w, .slotrFull w, .slotrFree w, .slotrInit w] → OnlySwitches i s (pastUni s w.kx)) ∧
    (∀ (w : UM), kxPass s.me w.kx = false → ∀ i, i ∈ [Instr.kld w, .kst w, .klds w, .ksts w] →
      OnlySwitches i s (pastUni s w.kx)) ∧
    ∀ (w : UC), kxPass s.me w.kx = false →
      ∀ i, i ∈ [Instr.join w, .ret w, .jmpr w, .callr w, .katom w, .bara w, .barw w, .bars w, .cpy w, .cpym w, .qfen w, .mres w,
          .mrel w, .mma w, .mfen w, .mwait w, .kvld w, .kvst w, .kvinv w, .mrg w, .rfen w, .waita w] →
        OnlySwitches i s (pastUni s w.kx)

/-! Control flow. -/

/-- R25, R96, R97, R297, R298, R300: BRA and a CALL whose guard is false write no register; the target is the word address PC + 4 OFF. A
SYN whose guard holds pushes the entry of its target and C, while fewer than 32 entries are resident; with 32 resident the oldest goes to
thread 0's save area first (64 bytes in the layout of assumption 87), which may need a page: PRIVATE_GROW then, replayable unless the
growth cannot be granted. RET, JMPR and CALLR go to the pair A,
which CALLR reads before k0:k1 takes the return address; a target beyond the address space is ACCESS_DENIED and one that is no
multiple of 4 is MISALIGNED, for every thread of C. -/
def Obligations.BranchesAndSyn : Prop :=
  ((∀ (w : UB) (s : State),
    let target := s.me.pc + w.off.signExtend 64 * 4
    OnlySwitches (.bra w) s (if ubGuard s.me w then target else s.me.pc + 4) ∧
    (ubGuard s.me w = false → OnlySwitches (.call w) s (s.me.pc + 4) ∧ OnlySwitches (.syn w) s (s.me.pc + 4)) ∧
    (ubGuard s.me w = true →
      ∃ t, exec (.call w) s = .next t ∧ OnlyMe (s.clearK 0 2) t ∧
        Switched { s.me with k := t.me.k } t.me target ∧ t.me.k.length = s.me.k.length ∧
        ∀ r, r < s.me.k.length → nth t.me.k r 0 =
          if r = 0 then (s.me.pc + 4).extractLsb' 0 32 else if r = 1 then (s.me.pc + 4).extractLsb' 32 32 else nth s.me.k r 0)) ∧
  (∀ (w : UB) (s : State), ubGuard s.me w = true → s.me.stack.length - s.me.spilled < 32 →
    ∃ t, exec (.syn w) s = .next t ∧ OnlyMe s t ∧
      Switched { s.me with stack := ⟨s.me.pc + w.off.signExtend 64 * 4, s.me.cur, [], none, 0⟩ :: s.me.stack } t.me (s.me.pc + 4)) ∧
  (∀ (w : UB) (s : State) (old : DivEntry), ubGuard s.me w = true → s.me.spilled + 32 ≤ s.me.stack.length →
    let i := s.me.stack.length - s.me.spilled - 1
    let off := 2 ^ 24 - (s.me.thread 0).saved - 64
    let r := s.saveBytes s.me.grid (s.me.thread 0) off old.image
    s.me.stack[i]? = some old →
    (∀ p, r.1 = .ok p → ∃ t, exec (.syn w) s = .next t ∧ OnlyMe r.2 t ∧
      SwitchedBy { s.me with
        stack := ⟨s.me.pc + w.off.signExtend 64 * 4, s.me.cur, [], none, 0⟩ :: setNth s.me.stack i { old with spill := off }
        spilled := s.me.spilled + 1 } t.me (s.me.pc + 4) fun l a b =>
          b = { a with lat := b.lat, clkHi := none, saves := if l = 0 then (off, 64) :: a.saves else a.saves }) ∧
    (r.1 = .fault → exec (.syn w) s =
      .next ((s.occupy 1).takeReplayable [(0x06, off, 0, s.me.cur)] [((s.me.thread 0).tid.toNat, true, off)])) ∧
    (r.1 = .fatal → exec (.syn w) s = .next (s.takeFatal { s.me.trapRec s 0x06 with
      va := off, tid := (s.me.thread (lowLane s.me.cur)).tid.toNat })))) ∧
  (∀ (w : UC) (s : State), kxPass s.me w.kx = true → s.kPoison [(w.a.toNat, 2)] = false →
    let goal := kPair s.me w.a.toNat
    (goal.toNat < 2 ^ 56 → goal.toNat % 4 = 0 →
      OnlySwitches (.ret w) s goal ∧ OnlySwitches (.jmpr w) s goal ∧
      ∃ t, exec (.callr w) s = .next t ∧ OnlyMe (s.clearK 0 2) t ∧ Switched { s.me with k := t.me.k } t.me goal ∧
        t.me.k.length = s.me.k.length ∧
        ∀ r, r < s.me.k.length → nth t.me.k r 0 =
          if r = 0 then (pastUni s w.kx).extractLsb' 0 32 else if r = 1 then (pastUni s w.kx).extractLsb' 32 32
          else nth s.me.k r 0) ∧
    ∀ i, i ∈ [Instr.ret w, .jmpr w, .callr w] →
      (2 ^ 56 ≤ goal.toNat → exec i s = .next (s.takeTrap 0x07 s.me.cur goal.toNat 0 0)) ∧
      (goal.toNat < 2 ^ 56 → goal.toNat % 4 ≠ 0 → exec i s = .next (s.takeTrap 0x03 s.me.cur goal.toNat 0 0)))

/-- R297, R298, R299: BRD follows the one side that all threads of C take; where they part, the taken side is deferred on the top level,
and the other goes on. JOIN runs the top level's oldest deferred path, and with none pops the entry and goes on with its threads. Below every
entry, the threads wait and the deferred paths run first. A spilled entry that a JOIN makes the top comes back from thread 0's save area,
which shrinks (R25, R97). -/
def Obligations.DivergenceAndJoins : Prop :=
  (∀ (w : UB) (s : State),
    let target := s.me.pc + w.off.signExtend 64 * 4
    let taken := s.me.cur &&& maskOf fun i => (s.me.thread i).pred w.cq.toNat != decide (w.cn = 1)
    (taken = s.me.cur → OnlySwitches (.brd w) s target) ∧
    (taken = 0 → s.me.cur ≠ 0 → OnlySwitches (.brd w) s (s.me.pc + 4)) ∧
    (taken ≠ 0 → taken ≠ s.me.cur →
      ∃ t, exec (.brd w) s = .next t ∧ OnlyMe s t ∧
        Switched { s.me with path := s.me.cur &&& ~~~taken, stack := t.me.stack, base := t.me.base } t.me (s.me.pc + 4) ∧
        match s.me.stack with
        | [] => t.me.stack = [] ∧ t.me.base = { s.me.base with q := s.me.base.q ++ [(target, taken)] }
        | e :: r => t.me.base = s.me.base ∧ t.me.stack = { e with q := e.q ++ [(target, taken)] } :: r)) ∧
  (∀ (w : UC) (s : State) (e x : DivEntry) (rest : List DivEntry), kxPass s.me w.kx = true → s.me.stack = e :: x :: rest →
    e.q = [] → s.me.spilled = rest.length + 1 →
    let u := s.onMe fun g => { g with stack := x :: rest, path := e.f, pc := pastUni s w.kx }
    let r := u.savedBytes s.me.grid (s.me.thread 0) x.spill 64
    ∀ p, r.1 = .ok p → ∃ t, exec (.join w) s = .next t ∧ OnlyMe r.2.2 t ∧
      SwitchedBy { u.me with stack := x.restored r.2.1 :: rest, spilled := rest.length } t.me (pastUni s w.kx) fun l a b =>
        b = { a with lat := b.lat, clkHi := none, saves := if l = 0 then a.saves.filter fun y => y.1 != x.spill else a.saves }) ∧
  (∀ (w : UC) (s : State), kxPass s.me w.kx = true → s.me.spilled = 0 →
    ∃ t, exec (.join w) s = .next t ∧ OnlyMe s t ∧
      match s.me.stack with
      | e :: r =>
        match e.q with
        | (pc, m) :: q => Switched { s.me with stack := { e with q := q } :: r, path := m } t.me pc
        | [] => Switched { s.me with stack := r, path := e.f } t.me (pastUni s w.kx)
      | [] =>
        match s.me.base.q with
        | (pc, m) :: q =>
          Switched { s.me with path := m, base := ⟨q, s.me.base.wb ||| s.me.cur,
            if s.me.base.wb &&& s.me.liveMask = 0 then pastUni s w.kx else s.me.base.wpc⟩ } t.me pc
        | [] => Switched { s.me with path := s.me.cur ||| s.me.base.wb, base := { s.me.base with wb := 0 } } t.me (pastUni s w.kx))

/-! Lane memory instructions. -/

/-- R280 to R283: loads whose lanes all pass their checks. Each active lane takes the bytes at its address into its registers from
D, unless N = 1 or D is the discard code; no other lane, no memory and no view changes. An access to global space or scratchpad
binds nothing while it is checked; the pair or quad written clears its poison marks, beyond the scratchpad a load also records itself in
its context, and the core's TLB takes the translations of a global one. -/
def Obligations.LaneLoads : Prop :=
  ∀ (w : LM) (s : State) (sp : Space) (tg : Nat → Target),
    let act := s.me.active w.lxc
    let c := s.checkLanes sp w .read act
    s.lanePoison act [(w.a, if sp = .spad then 1 else 2)] = 0 → c.1 = (lanesOf act).map (fun i => (i, .ok (tg i))) →
    (sp ≠ .priv → c.2 = s) ∧
    ∃ t, exec (match sp with | .glob => .ldg w | .spad => .lds w | .priv => .ldp w) s = .next t ∧
      OnlyMe (((c.2.marksCleared act w.d w.n (szRegs w.sz)).recordBeyond false c.1).fillLanes
        (fun i => lmAddress s.me (s.me.thread i) sp w) c.1) t ∧
      ((∀ i, act.getLsbD i = true → ∀ b off, tg i ≠ .beyond b off) → t.ctxs = c.2.ctxs) ∧
      SwitchedBy c.2.me t.me (c.2.me.pc + BitVec.ofNat 64 (4 * lmLen w)) fun i a b =>
        a.Loads b w.d.toNat (if act.getLsbD i && decide (w.n = 0) && decide (w.d.toNat < 0x78) then
          szWords w.sz (c.2.loadBytes c.2.me.grid a.party (tg i) (szBytes w.sz)) else [])

/-- R88, R99, R104, R280 to R283, R391: stores whose lanes all pass their checks, with room in the version log for those that write to it
(device and system memory, not the window), complete: each active lane
stores in ascending order, and the group goes on after its run. Of one lane's store: a store to the window or to private memory stands in
memory at once; to device memory, system memory and scratchpad it is pending in its thread and changes no memory; beyond the scratchpad it
does nothing. No other thread and no register changes. -/
def Obligations.LaneStores : Prop :=
  (∀ (w : LM) (s : State) (sp : Space) (tg : Nat → Target),
    let act := s.me.active w.lxc
    let c := s.checkLanes sp w .write act
    let room : Check × State :=
      if (lanesOf act).any fun i => (Check.ok (tg i)).logged then
        c.2.vlogRoom s.me.grid (lmAddress s.me (s.me.thread (lowLane act)) sp w)
      else (.ok (.beyond 0 0), c.2)
    s.lanePoison act [(w.a, if sp = .spad then 1 else 2), (w.d.setWidth 8, szRegs w.sz)] = 0 → room.1.isOk = true →
    c.1 = (lanesOf act).map (fun i => (i, .ok (tg i))) →
    Completes (match sp with | .glob => .stg w | .spad => .sts w | .priv => .stp w) s
      ((((lanesOf act).foldl (fun t i => t.storeLane w i (tg i)) room.2).recordBeyond true c.1).fillLanes
        (fun i => lmAddress s.me (s.me.thread i) sp w) c.1) (lmLen w)) ∧
  (∀ (w : LM) (s : State) (i : Nat) (tg : Target) (a : Thread), s.memoriesWf → i < 32 → s.me.lane i = some a →
    let bs := szStore w.sz (fun r => nth a.v r 0) w.d.toNat
    let t := s.storeLane w i tg
    (∀ j, j ≠ i → t.me.lane j = s.me.lane j) ∧ t.sysMem = s.sysMem ∧ t.groups = s.groups ∧ t.atoms = s.atoms ∧
    match tg with
    | .glob (.win off) => t.me.lane i = some a ∧ t.hbm = s.hbm ∧ StoredAt s.window t.window off bs
    | .priv pa => t.me.lane i = some a ∧ t.window = s.window ∧ StoredAt s.hbm t.hbm pa bs
    | .beyond _ _ => t.me.lane i = some a ∧ SameMemory s t
    | _ => SameMemory s t ∧ ∃ b l, t.me.lane i = some b ∧ tg.loc = some l ∧ b = { a with party := b.party } ∧
        PendingAt a.party b.party l bs)

/-- R281, R282, R385: the checks of a lane's access, in their order: a global address beyond 2^56, then alignment to the size of the
access; a scratchpad access is checked for alignment only, and one that ends beyond the block's bytes reaches no byte of it. A
misaligned global load of one lane loads nothing: it has occupied its pipe (R14), and the machine is what the shared trap operation
leaves. -/
def Obligations.AccessChecks : Prop :=
  (∀ (s : State) (va off n blk : Nat) (k : Access),
    (2 ^ 56 ≤ va → s.checkGlobal va n k = .stop 0x07 va none) ∧
    (va < 2 ^ 56 → va % n ≠ 0 → s.checkGlobal va n k = .stop 0x03 va none) ∧
    (off % n ≠ 0 → s.checkSpad blk off n k = .stop 0x03 off none) ∧
    (off % n = 0 → (s.block blk).sb < off + n → s.checkSpad blk off n k = .ok (.beyond blk off)) ∧
    (off % n = 0 → off + n ≤ (s.block blk).sb → s.poison = [] → s.checkSpad blk off n k = .ok (.spad blk off))) ∧
  (∀ (w : LM) (s : State) (i : Nat),
    let act := s.me.active w.lxc
    s.lanePoison act [(w.a, 2)] = 0 → lanesOf act = [i] →
    lmAddress s.me (s.me.thread i) .glob w < 2 ^ 56 → lmAddress s.me (s.me.thread i) .glob w % szBytes w.sz ≠ 0 →
    exec (.ldg w) s = .next ((s.occupy 8).takeFatal { s.me.trapRec s 0x03 with
      va := lmAddress s.me (s.me.thread i) .glob w, tid := (s.me.thread i).tid.toNat, mask := 0 }))

/-- R284, R285: a lane atomic none of whose lanes fails takes its effect lane by lane in ascending order, and ends the run. Of one lane: it
makes the atomic of its form at its address, D takes the value found, and a word held in another domain is DOMAIN_CONFLICT. What the
integer atomics leave in 4-byte and 8-byte words, with no events. -/
def Obligations.LaneAtomics : Prop :=
  (∀ (w : LR) (s : State) (glob : Bool),
    let act := s.me.active w.lxc
    let r := s.atomLanes w glob act
    s.lanePoison act (atomSrcs w glob) = 0 → r.1.all (fun x => x.2.isOk) = true →
    CompletesAtomic (if glob then .atomg w else .atoms w) s
      ((r.2.recordBeyond true r.1).fillLanes (fun i => (srcPair s.me (s.me.thread i) w.a).toNat) r.1) (lrLen w)) ∧
  ((∀ a b c : Word,
    let at_ (aop : Nat) : Word × Ev := ((atomNew aop 4 (a.setWidth 64) (b.setWidth 64) (c.setWidth 64)).1.setWidth 32,
      (atomNew aop 4 (a.setWidth 64) (b.setWidth 64) (c.setWidth 64)).2)
    at_ 0 = (a + b, Ev.none) ∧ at_ 2 = (if b.toInt < a.toInt then b else a, Ev.none) ∧
    at_ 3 = (if a.toInt < b.toInt then b else a, Ev.none) ∧ at_ 4 = (if b < a then b else a, Ev.none) ∧
    at_ 5 = (if a < b then b else a, Ev.none) ∧ at_ 6 = (a &&& b, Ev.none) ∧ at_ 7 = (a ||| b, Ev.none) ∧
    at_ 8 = (a ^^^ b, Ev.none) ∧ at_ 9 = (b, Ev.none) ∧ at_ 10 = (if a = c then b else a, Ev.none)) ∧
  ∀ a b c : Dword,
    atomNew 0 8 a b c = (a + b, Ev.none) ∧ atomNew 2 8 a b c = (if b.toInt < a.toInt then b else a, Ev.none) ∧
    atomNew 3 8 a b c = (if a.toInt < b.toInt then b else a, Ev.none) ∧ atomNew 4 8 a b c = (if b < a then b else a, Ev.none) ∧
    atomNew 5 8 a b c = (if a < b then b else a, Ev.none) ∧ atomNew 6 8 a b c = (a &&& b, Ev.none) ∧
    atomNew 7 8 a b c = (a ||| b, Ev.none) ∧ atomNew 8 8 a b c = (a ^^^ b, Ev.none) ∧ atomNew 9 8 a b c = (b, Ev.none) ∧
    atomNew 10 8 a b c = (if a = c then b else a, Ev.none)) ∧
  ∀ (w : LR) (s : State) (glob : Bool) (i : Nat) (a : Thread) (tg : Target), i < 32 → s.me.lane i = some a →
    let x := lxcExt w.lxc
    let size := if x.testBit 7 then 8 else 4
    let val (f : BitVec 8) : Dword := if x.testBit 7 then srcPair s.me a f else (srcVal s.me a f).setWidth 64
    let va := if glob then (srcPair s.me a w.a).toNat else (srcVal s.me a w.a).toNat
    let done := s.atomicAt i (x % 16) size (x / 16 % 8) tg (val w.b) (val (lxcC w.lxc)) (decide (w.d ≠ 0x7F))
    (if glob then s.checkGlobal va size .atomic else s.checkSpad a.blk va size .atomic) = .ok tg → spadConflict (x / 16 % 8) tg = false →
    (done = .conflict → s.atomLane w glob i = (.stop 0x08 va none, s)) ∧
    ∀ v e u y, done = .old v e u → u.me.lane i = some y →
      let r := s.atomLane w glob i
      r.1 = .ok tg ∧
      r.2 = { u.addEv u.me.grid a.blk (stationOf u.me.core) e with me := r.2.me, poison := r.2.poison } ∧
      ∃ b, r.2.me.lane i = some b ∧ y.TakesWords b w.d w.n (if x.testBit 7 then dwordWords v else [v.extractLsb' 0 32])

/-- R114, R117 to R119, R285: an atomic on a word that no other holder holds finds its atomic value, leaves the new one there under
the holder of its domain, and changes no memory; one that returns the value found then observes the completions whose value it found (of a
doubleword, those of both its words: assumption 89, the model's choice), of which none changes an atomic word that no completed operation
named. On a word held elsewhere it is a conflict. In the window it changes the bytes at once. -/
def Obligations.AtomicEffect : Prop :=
  ∀ (s : State) (i aop size dom : Nat) (b c : Dword) (returns : Bool), size = 4 ∨ size = 8 →
    let t := s.me.thread i
    (∀ (tg : Target) (l : Loc), tg.loc = some l → (∀ off, tg ≠ .glob (.win off)) → dom ≠ 4 →
      let d := match tg with | .spad b _ => Holder.block b | _ => holderOf dom t.blk s.me.grid s.me.core
      let old := s.atomRead s.me.grid t.party l size
      let new := (atomNew aop size old b c).1
      ((∃ x, x ∈ atomWords l size ∧ s.conflict x d = true) → s.atomicAt i aop size dom tg b c returns = .conflict) ∧
      ((∀ x, x ∈ atomWords l size → s.conflict x d = false) →
        let found := List.zip (atomWords l size) [old.extractLsb' 0 32, old.extractLsb' 32 32]
        ∃ u v : State, s.atomicAt i aop size dom tg b c returns = .old old (atomNew aop size old b c).2 u ∧ SameMemory s u ∧
          (let seen := if returns then v.observeAll found (BitVec.ofNat 32 (2 ^ i)) else v
          u = if new = old then seen else seen.forgetWord l) ∧ v.doneOps = s.doneOps ∧
          ((∀ x, x ∈ found → s.completions x.1 x.2 = []) → u.atoms = v.atoms) ∧
          (∃ a, findAtom l v.atoms = some a ∧ a.val = new.extractLsb' 0 32 ∧ a.holder = d) ∧
          (size = 8 → ∃ l2 a, atomWords l size = [l, l2] ∧ findAtom l2 v.atoms = some a ∧ a.val = new.extractLsb' 32 32 ∧
            a.holder = d) ∧
          ∀ x, x ∉ atomWords l size → findAtom x v.atoms = findAtom x s.atoms)) ∧
    ∀ off : Nat,
      (dom ≠ 4 → s.atomicAt i aop size dom (.glob (.win off)) b c returns = .conflict) ∧
      (dom = 4 → Memory.wf s.window = true →
        let old := BitVec.ofNat 64 (Memory.num s.window off size)
        ∃ u : State, s.atomicAt i aop size dom (.glob (.win off)) b c returns = .old old (atomNew aop size old b c).2 u ∧
          StoredAt s.window u.window off (natLe (atomNew aop size old b c).1.toNat size) ∧ u.hbm = s.hbm ∧
          u.sysMem = s.sysMem ∧
          ((∀ x, x ∈ List.zip (atomWords (winLoc off) size) [old.extractLsb' 0 32, old.extractLsb' 32 32] →
            s.completions x.1 x.2 = []) → u.atoms = s.atoms))

/-! Uniform memory instructions. -/

/-- R44, R112, R301, R302: a uniform load that passes its check reads through the lowest active lane's thread, writes the registers
from D and changes no memory; a uniform store is a store of that thread, and KATOM its atomic, of which A takes the value found. -/
def Obligations.UniformMemory : Prop :=
  (∀ (w : UM) (s : State) (glob : Bool) (tg : Target), kxPass s.me w.kx = true →
    s.kPoison [(w.a.toNat, if glob then 2 else 1)] = false →
    (if glob then s.checkGlobal (umAddress s.me w true) (szBytes w.sz) .read
      else s.checkSpad s.anchorBlk (umAddress s.me w false) (szBytes w.sz) .read) = .ok tg →
    let ws := szWords w.sz (s.loadBytes s.me.grid (s.me.thread (lowLane s.me.cur)).party tg (szBytes w.sz))
    ∃ t, exec (if glob then .kld w else .klds w) s = .next t ∧
      OnlyMe (((s.recordUni false tg).fillUni tg (umAddress s.me w glob)).clearK w.d.toNat (szRegs w.sz)) t ∧
      ((∀ b off, tg ≠ .beyond b off) → t.ctxs = s.ctxs) ∧ Switched { s.me with k := t.me.k } t.me (pastUni s w.kx) ∧
      t.me.k.length = s.me.k.length ∧
      ∀ r, r < s.me.k.length → nth t.me.k r 0 =
        if w.d.toNat ≤ r ∧ r < w.d.toNat + ws.length ∧ (r < 511 ∨ 511 < w.d.toNat) then nth ws (r - w.d.toNat) 0
        else nth s.me.k r 0) ∧
  (∀ (w : UM) (s : State) (glob : Bool) (tg : Target), kxPass s.me w.kx = true →
    s.kPoison [(w.a.toNat, if glob then 2 else 1), (w.d.toNat, szRegs w.sz)] = false →
    (if glob then s.checkGlobal (umAddress s.me w true) (szBytes w.sz) .write
      else s.checkSpad s.anchorBlk (umAddress s.me w false) (szBytes w.sz) .write) = .ok tg →
    let room : Check × State :=
      if (Check.ok tg).logged then s.vlogRoom s.me.grid (umAddress s.me w glob) else (.ok (.beyond 0 0), s)
    let u := (room.2.recordUni true tg).fillUni tg (umAddress s.me w glob)
    let i := lowLane u.me.cur
    let bs := szStore w.sz (fun x => kVal u.me (if w.d.toNat = 511 then 511 else x)) w.d.toNat
    room.1.isOk = true →
    Completes (if glob then .kst w else .ksts w) s
      ((u.storeBytes u.me.grid (u.me.thread i).party tg bs).2.setParty i (u.storeBytes u.me.grid (u.me.thread i).party tg bs).1)
      (kxLen w.kx)) ∧
  (∀ (w : UC) (s u : State) (tg : Target) (v : Dword) (e : Ev), kxPass s.me w.kx = true →
    let hi := kxImmHi w.kx
    let wide := hi.testBit 12
    let sp := hi.testBit 11
    let n := if wide then 2 else 1
    let val (x : Nat) : Dword := if wide then kPair s.me x else (kVal s.me x).setWidth 64
    s.kPoison ([(w.b.toNat, if sp then 1 else 2), (w.fn.toNat, n)] ++ (if kxExt4 w.kx = 10 then [(hi % 128, n)] else [])) = false →
    (if sp then s.checkSpad s.anchorBlk (kVal s.me w.b.toNat).toNat (if wide then 8 else 4) .atomic
      else s.checkGlobal (kPair s.me w.b.toNat).toNat (if wide then 8 else 4) .atomic) = .ok tg →
    spadConflict (hi / 8192) tg = false →
    s.atomicAt (lowLane s.me.cur) (kxExt4 w.kx) (if wide then 8 else 4) (hi / 8192) tg (val w.fn.toNat) (val (hi % 128))
      (decide (w.a ≠ 511)) = .old v e u →
    let va := if sp then (kVal s.me w.b.toNat).toNat else (kPair s.me w.b.toNat).toNat
    let t := ((u.recordUni true tg).fillUni tg va).addEv u.me.grid s.anchorBlk (stationOf u.me.core) e
    CompletesAtomic (.katom w) s
      (if wide then (t.clearK w.a.toNat 2).onMe fun g => g.setKPair w.a.toNat v
        else t.onMe fun g => g.setK w.a.toNat (v.extractLsb' 0 32)) (kxLen w.kx))

/-! The KV cache and the accumulators, lane by lane. -/

/-- R174, R175, R178, R179, R286, R334: when every active lane's walk finds its element, KVX gives each its address, and the core's KV TLB
takes what was walked. KVX.nf gives each lane whose walk finds its element that address and sets its predicate EXT[2:0]; where a walk
faults it clears that predicate and goes on. A KVX of one lane whose walk finds no entry is held by KV_FAULT with its tuple and reason, one
whose page is missing by PAGE_FAULT, and a tuple out of the root's range, or a grid without a root, is ACCESS_DENIED in either form. KVINV
empties the KV TLBs of its context. -/
def Obligations.KvTranslations : Prop :=
  (∀ (w : LR) (s : State) (r : List Byte) (fg va : Nat → Nat) (found : Nat → Bool),
    let act := s.me.active w.lxc
    let past := s.me.pc + BitVec.ofNat 64 (4 * lrLen w)
    s.lanePoison act [(w.a, 1), (w.b, 1), (lxcC w.lxc, 1)] = 0 → (s.grid s.me.grid).kvRoot = some r →
    (∀ i, act.getLsbD i = true → if found i then s.kvxLane w r act i = .addr (fg i) (va i)
      else (s.kvxLane w r act i).check.isWait = true) →
    let u (nf : Bool) : State :=
      (lanesOf act).foldl (fun (t : State) i => t.kvxWrite w nf (kvxTuple s.me w i) i (s.kvxLane w r act i)) s
    (∀ nf, u nf = { s with
      me := (u nf).me, kvTlb := (u nf).kvTlb, tlb := (u nf).tlb, atsCache := (u nf).atsCache
      poison := (s.marksCleared (act &&& maskOf found) w.d w.n 2).poison }) ∧
    (∀ i, (lanesOf act).getLast? = some i → found i = true → ∀ nf,
      ((u nf).tlbFind s.me.core s.myCtx (kvxTuple s.me w i)).isSome = true) ∧
    ((∀ i, act.getLsbD i = true → found i = true) →
      ∃ t, exec (.kvx w) s = .next t ∧ OnlyMe (u false) t ∧
        SwitchedBy s.me t.me past fun i a b =>
          if act.getLsbD i then a.LoadsPair b w.d w.n (BitVec.ofNat 64 (va i)) else b = { a with lat := b.lat, clkHi := none }) ∧
    ∃ t, exec (.kvxNf w) s = .next t ∧ OnlyMe (u true) t ∧
      SwitchedBy s.me t.me past fun i a b =>
        if act.getLsbD i = false then b = { a with lat := b.lat, clkHi := none }
        else a.TakesPred { a with p := b.p } (lxcExt w.lxc % 8) (some (found i)) ∧
          if found i then ({ a with p := b.p } : Thread).LoadsPair b w.d w.n (BitVec.ofNat 64 (va i))
          else b = { a with p := b.p, lat := b.lat, clkHi := none }) ∧
  (∀ (w : LR) (s : State) (i : Nat), i < 32 →
    let act := s.me.active w.lxc
    let t := kvxTuple s.me w i
    let denied (x : Result) : Prop := ∃ (u : State) (r : TrapRec), x = .next (u.takeFatal r) ∧ r.cause = 0x07 ∧ u.me = s.me
    s.lanePoison act [(w.a, 1), (w.b, 1), (lxcC w.lxc, 1)] = 0 → lanesOf act = [i] →
    ((s.grid s.me.grid).kvRoot = none → denied (exec (.kvx w) s) ∧ denied (exec (.kvxNf w) s)) ∧
    ∀ r, (s.grid s.me.grid).kvRoot = some r →
      (kvNseq r ≤ t.seq ∨ kvNlay r < t.layer ∨ kvNhead r < t.head ∨ 2 ^ 24 ≤ t.pos →
        denied (exec (.kvx w) s) ∧ denied (exec (.kvxNf w) s)) ∧
      (∀ reason va, s.kvxLane w r act i = .stop (.kv reason va) →
        exec (.kvx w) s = .next ((s.occupy 8).takeReplayable [(0x05, va, t.word reason, BitVec.ofNat 32 (2 ^ i))] [])) ∧
      ∀ va, s.kvxLane w r act i = .stop (.xlat .fault va) →
        exec (.kvx w) s = .next ((s.occupy 8).takeReplayable [(0x04, va, 0, BitVec.ofNat 32 (2 ^ i))] [])) ∧
  ∀ (w : UC) (s : State), kxPass s.me w.kx = true →
    ∃ t, exec (.kvinv w) s = .next t ∧ OnlyMe { s with kvTlb := t.kvTlb } t ∧ Switched s.me t.me (pastUni s w.kx) ∧
      ∀ e, e ∈ t.kvTlb ↔ e ∈ s.kvTlb ∧ e.2.1 ≠ s.myCtx

/-- R163, R167, R287, R288: when every active lane's tile exists and its row has been written, and no cell it reads is poisoned, ACLD and
ACST take their effect lane by lane in ascending order; while a row has not been written, the group is parked. Where a lane's tile number is
not below the tile count of its block, the other lanes wait and take their effect as before, and then the lanes of no tile trap MATRIX_FORM.
Of one lane: ACLD takes
the row-final edge where an MMA has written the row, and D takes the cell as its thread sees it then, converted by KIND and the tile's tag;
ACST leaves b, converted, in the cell and in its thread's quantum, with the tag of its format, and the group's other lanes see the cell
where they have not written it themselves (the other lanes' part is DEDUCED: assumption 44). -/
def Obligations.AccumulatorCells : Prop :=
  (∀ (w : LR) (s : State), (∀ m, s.me.park = some (.tile m) → m = 0) →
    let act := s.me.active w.lxc
    let sel (i : Nat) : Nat × Nat × Nat := cellSel (srcVal s.me (s.me.thread i) w.a)
    (∀ i, act.getLsbD i = true → (sel i).1 < (s.block (s.me.thread i).blk).tiles.length) →
    ((∀ i, act.getLsbD i = true → (sel i).2.1 < (s.tile (s.me.thread i).blk (sel i).1).water) →
      (s.poison = [] → Completes (.acld w) s ((lanesOf act).foldl (fun t i => t.acldLane w i) s) (lrLen w)) ∧
      (s.lanePoison act [(w.a, 1), (w.b, if lxcExt w.lxc / 16 = 2 then 2 else 1)] = 0 →
        Completes (.acst w) s ((lanesOf act).foldl (fun t i => t.acstLane w i) s) (lrLen w))) ∧
    (s.poison = [] → (∃ i, act.getLsbD i = true ∧ (s.tile (s.me.thread i).blk (sel i).1).water ≤ (sel i).2.1) →
      exec (.acld w) s = .next (s.parkMe (.tile 0) (occupancy false act)) ∧
      (s.lanePoison act [(w.a, 1), (w.b, if lxcExt w.lxc / 16 = 2 then 2 else 1)] = 0 →
        exec (.acst w) s = .next (s.parkMe (.tile 0) (occupancy false act))))) ∧
  (∀ (w : LR) (s : State), (∀ m, s.me.park ≠ some (.tile m)) → s.poison = [] →
    let act := s.me.active w.lxc
    let sel (i : Nat) : Nat × Nat × Nat := cellSel (srcVal s.me (s.me.thread i) w.a)
    let bad := act &&& maskOf fun i => decide ((s.block (s.me.thread i).blk).tiles.length ≤ (sel i).1)
    let good := act &&& ~~~bad
    bad ≠ 0 →
    ((∃ i, good.getLsbD i = true ∧ (s.tile (s.me.thread i).blk (sel i).1).water ≤ (sel i).2.1) →
      exec (.acld w) s = .next (s.parkMe (.tile bad) (occupancy false act)) ∧
      exec (.acst w) s = .next (s.parkMe (.tile bad) (occupancy false act))) ∧
    ((∀ i, good.getLsbD i = true → (sel i).2.1 < (s.tile (s.me.thread i).blk (sel i).1).water) →
      exec (.acld w) s = .next (((lanesOf good).foldl (fun t i => t.acldLane w i) s).takeTrap 0x0D bad 0 0 0) ∧
      exec (.acst w) s = .next (((lanesOf good).foldl (fun t i => t.acstLane w i) s).takeTrap 0x0D bad 0 0 0))) ∧
  (∀ (w : LR) (s : State) (i : Nat) (a : Thread), i < 32 → s.me.lane i = some a →
    let c := cellSel (srcVal s.me a w.a)
    let kind := lxcExt w.lxc / 16
    (∀ y, (s.receiveRow i a.blk c.1 c.2.1).me.lane i = some y →
      let u := s.receiveRow i a.blk c.1 c.2.1
      let v := acldValue kind (u.tile a.blk c.1).tag (arithMode u.me (lxcExt w.lxc))
        (viewCell (u.grid u.me.grid) y.party a.blk c.1 c.2.1 c.2.2)
      let t := s.acldLane w i
      (s.rowSenders a.blk c.1 c.2.1 = [] → u = s) ∧
      t = { u.addEv u.me.grid a.blk (stationOf u.me.core) v.2 with me := t.me, poison := t.poison } ∧
      ∃ b, t.me.lane i = some b ∧ y.TakesWords b w.d w.n (if kind = 2 then dwordWords v.1 else [v.1.setWidth 32])) ∧
    (c.1 < (s.block a.blk).tiles.length →
      let old := s.tile a.blk c.1
      let v := acstValue kind old.tag (if kind = 2 then srcPair s.me a w.b else (srcVal s.me a w.b).setWidth 64)
      let at_ := Loc.acc a.blk c.1 c.2.1 c.2.2 0
      let t := s.acstLane w i
      SameMemory s t ∧ t.tile a.blk c.1 = { old with cells := putCellAt old.cells c.2.1 c.2.2 v.1, tag := v.2.1 } ∧
      (∃ b, t.me.lane i = some b ∧ b = { a with party := b.party } ∧ PendingAt a.party b.party at_ (cellBytes v.1)) ∧
      ∀ j y, j < 32 → j ≠ i → s.me.lane j = some y → ∃ b, t.me.lane j = some b ∧ b = { y with party := b.party } ∧
        ∀ k, k < 5 → findByte (nth (at_.span 5) k at_) y.party.pend = none →
          b.party.read? (nth (at_.span 5) k at_) = some (nth (cellBytes v.1) k 0))) ∧
  (∀ (tag : Nat) (r : Rnd) (c : BitVec 36) (x : Dword),
    acldValue 2 tag r c = (c.setWidth 64, Ev.none) ∧
    (-2 ^ 31 ≤ c.toInt → c.toInt < 2 ^ 31 → (acldValue 1 2 r c).1 = BitVec.ofNat 64 (BitVec.ofInt 32 c.toInt).toNat) ∧
    (tag ≠ 2 → (acldValue 0 tag r c).1 = BitVec.ofNat 64 (roundTo fp32 r false (fp36.decode c.toNat)).1) ∧
    acstValue 2 tag x = (x.setWidth 36, tag, Ev.none) ∧ acstValue 1 tag x = ((x.setWidth 32).signExtend 36, 2, Ev.none) ∧
    (acstValue 0 tag x).2.1 = 1 ∧ (acstValue 0 tag x).1 = BitVec.ofNat 36 (roundTo fp36 .rne false (fp32.decode (x.toNat % 2 ^ 32))).1)

/-! Futures. -/

/-- R14, R73 to R76: an FREAD whose words are all full gives each lane its word's value and ends the run; while some are empty, the group
is parked on them. An FFILL whose words are all empty fills them and ends the run; an FFILL of one lane whose word is full is
DOUBLE_FILL. Of one lane's FREAD: its word enters atomic state with the value found (unless the edge that it receives carries plain writes
of the word), D takes that value where bit 63 is set, and the lane is one of those left where it is not. Of one lane's FFILL on an empty word: the word is 1 << 63 with the payload's bits 62 to 0, the word is
recorded as filled by the lane's thread, whose quantum ends, and no memory changes but a word in the window; on a full word there is no
fill. A park takes an entry of the station's wait table for each word outside the window while the 1,024 suffice for them all (that it takes
none where they do not is assumption 110), and polls where they do not or a word lies in the window. -/
def Obligations.Futures : Prop :=
  (∀ (w : LR) (s : State) (tg : Nat → Target),
    let act := s.me.active w.lxc
    let va (i : Nat) : Nat := (srcPair s.me (s.me.thread i) w.a).toNat
    let lanes := lanesOf (s.freadLanes act)
    let r := lanes.foldl (fun (a : BitVec 32 × State) i => (a.1 ||| (a.2.freadOne w i (tg i)).1, (a.2.freadOne w i (tg i)).2)) (0, s)
    (s.lanePoison act [(w.a, 2)] = 0 → (∀ i, i ∈ lanes → s.futureCheck (va i) = .ok (tg i)) →
      let u := r.2.fillLanes va (lanes.map fun i => (i, .ok (tg i)))
      (r.1 = 0 → Completes (.fread w) s
        ((u.clearV (if w.n = 1 ∨ 0x78 ≤ w.d.toNat then 0 else s.freadLanes act) w.d.toNat 2).dropWaits s.me.uid) (lrLen w)) ∧
      (r.1 ≠ 0 → exec (.fread w) s =
        .next (u.freadPark r.1 (lanes.map fun i => (i, va i, tg i)) (occupancy false (s.freadLanes act))))) ∧
    (s.lanePoison act [(w.a, 2), (w.b, 2)] = 0 → (∀ i, act.getLsbD i = true → s.futureCheck (va i) = .ok (tg i)) →
      (∀ u, (lanesOf act).foldlM (fun (t : State) i => t.ffillOne i (va i) (tg i) (srcPair s.me (s.me.thread i) w.b)) s = some u →
        Completes (.ffill w) s (u.fillLanes va ((lanesOf act).map fun i => (i, .ok (tg i)))) (lrLen w)) ∧
      ∀ i, lanesOf act = [i] → (s.futureWord (s.me.thread i).party (tg i)).getLsbD 63 = true →
        exec (.ffill w) s = .next ((s.occupy 8).takeFatal { s.me.trapRec s 0x09 with
          va := va i, tid := (s.me.thread i).tid.toNat, mask := 0 }))) ∧
  (∀ (w : LR) (s : State) (i : Nat) (a : Thread) (tg : Target), i < 32 → s.me.lane i = some a →
    let v := s.futureWord a.party tg
    let r := s.freadOne w i tg
    SameMemory s r.2 ∧ (∀ j, j ≠ i → r.2.me.lane j = s.me.lane j) ∧
    r.1 = (if v.getLsbD 63 then 0 else BitVec.ofNat 32 (2 ^ i)) ∧
    (∃ b, r.2.me.lane i = some b ∧ a.TakesWords b w.d w.n (if v.getLsbD 63 then dwordWords v else [])) ∧
    ∀ l, tg.future = some (l, 3) → s.futureConflict tg = false →
      (v.getLsbD 63 = true → ∀ f x y, f ∈ s.futures → f.1 = l → x ∈ f.2.2.senders → y ∈ x.writes → y.1 ∉ l.span 8) →
      HomeDword r.2 l v) ∧
  (∀ (s : State) (i va : Nat) (a : Thread) (tg : Target) (payload : Dword), i < 32 → s.me.lane i = some a →
    let new : Dword := 0x8000000000000000#64 ||| (payload &&& 0x7FFFFFFFFFFFFFFF#64)
    ((s.futureWord a.party tg).getLsbD 63 = true → s.ffillOne i va tg payload = none) ∧
    ((s.futureWord a.party tg).getLsbD 63 = false → ∃ t, s.ffillOne i va tg payload = some t ∧
      t.hbm = s.hbm ∧ t.sysMem = s.sysMem ∧ (∀ j, j ≠ i → t.me.lane j = s.me.lane j) ∧
      (∃ b, t.me.lane i = some b ∧ b = { a with party := b.party } ∧ b.party.view = a.party.fold.view ∧ b.party.pend = []) ∧
      (∀ l, tg.future = some (l, 3) → s.futureConflict tg = false → HomeDword t l new ∧ t.window = s.window) ∧
      (∀ off, tg = .glob (.win off) → Memory.wf s.window = true → StoredAt s.window t.window off (natLe new.toNat 8)) ∧
      ∀ l d, tg.future = some (l, d) → t.futures.head? = some (l, s.me.grid, ⟨s.me.laneSenders (BitVec.ofNat 32 (2 ^ i)), [], none⟩))) ∧
  ∀ (s : State) (left : BitVec 32) (outs : List (Nat × Nat × Target)) (occ : Nat),
    let mine := outs.filter fun x => left.getLsbD x.1
    let t := s.freadPark left outs occ
    let inWindow (x : Nat × Nat × Target) : Bool := match x.2.2 with | .glob (.win _) => true | _ => false
    let addrs := waitKeys (mine.filter fun x => !inWindow x)
    let others := s.waits.filter fun x => x.1 % 2 ^ 32 != s.me.uid
    let full := decide (1024 < (others.filter fun x => decide (x.1 / 2 ^ 32 = stationOf s.me.core)).length + addrs.length)
    (∀ va, va ∈ addrs ↔ ∃ i tg, (i, va, tg) ∈ mine ∧ inWindow (i, va, tg) = false) ∧ addrs.Nodup ∧
    t.me.park = some (.future left (mine.any inWindow || full)) ∧ t.me.pc = s.me.pc ∧ t.me.lanes = s.me.lanes ∧
    t.waits = (if full then others
      else others ++ addrs.map fun va => (stationOf s.me.core * 2 ^ 32 + s.me.uid, s.myCtx, va))

/-! Tasks, the yard and the ends of groups. -/

/-- R54 to R57, R60, R79, R386: a SPAWN of aligned entries in a grid that has tasks, with a free frame for every active lane, gives each lane
its child in ascending order and ends the run; one of more than 8 arguments, or in a grid without tasks, is YARD_MISUSE, and one whose
entry is no multiple of 4 is MISALIGNED. Of one lane's child: the parent's frame counts one more, the parent's next child comes after it,
the grid has sent one more, and no memory changes. The lanes that find no frame run their children inline, once their registers, unless
poisoned, are saved: the group goes on at the entry of the first of them, the others and the rest of the group wait on an entry after the
SPAWN, and where a save does not reach its place the instruction traps. Of one such lane: its registers are saved, its arguments stand in v0
and up and its other registers are 0, its TID and block stay, its rank is that of the child, and no frame is taken and nothing counted. -/
def Obligations.SpawnCommand : Prop :=
  ((∀ (w : LC) (s : State),
    let act := s.me.active w.lxc
    let r := (lanesOf act).foldl (fun (a : BitVec 32 × State) i =>
      if a.2.hasRoom i then (a.1, a.2.spawnOne w i) else (a.1 ||| BitVec.ofNat 32 (2 ^ i), a.2)) (0, s)
    s.lanePoison act ((w.a, 2) :: if w.cnt = 0 then [] else [(w.b, w.cnt.toNat)]) = 0 → (act ≠ 0 → s.spawnMisuse w = false) →
    (∀ i, act.getLsbD i = true → (srcPair s.me (s.me.thread i) w.a).toNat % 4 = 0 ∧ s.counterFull i = false) → r.1 = 0 →
    Completes (.spawn w) s r.2 (lcLen w)) ∧
  (∀ (w : LC) (s : State),
    let act := s.me.active w.lxc
    let r := (lanesOf act).foldl (fun (a : BitVec 32 × State) i =>
      if a.2.hasRoom i then (a.1, a.2.spawnOne w i) else (a.1 ||| BitVec.ofNat 32 (2 ^ i), a.2)) (0, s)
    let c := r.2.inlineCall w r.1
    s.lanePoison act ((w.a, 2) :: if w.cnt = 0 then [] else [(w.b, w.cnt.toNat)]) = 0 → (act ≠ 0 → s.spawnMisuse w = false) →
    (∀ i, act.getLsbD i = true → (srcPair s.me (s.me.thread i) w.a).toNat % 4 = 0 ∧ s.counterFull i = false) → r.1 ≠ 0 →
    (r.2.savePoison r.1 ≠ 0 → exec (.spawn w) s = .next (r.2.takeTrap 0x11 (r.2.savePoison r.1) 0 0 0)) ∧
    (r.2.savePoison r.1 = 0 →
      (c.1 = [] → ∃ occ ready, exec (.spawn w) s = .next (c.2.switchAt c.2.me.pc occ ready)) ∧
      (c.1 ≠ [] → exec (.spawn w) s = .next ((r.2.occupy (occupancy false act)).inlineFail r.1 c.1)))) ∧
  (∀ (w : LC) (s : State),
    let act := s.me.active w.lxc
    s.lanePoison act ((w.a, 2) :: if w.cnt = 0 then [] else [(w.b, w.cnt.toNat)]) = 0 → act ≠ 0 →
    (8 < w.cnt.toNat ∨ (s.grid s.me.grid).flags.getLsbD 1 = false →
      exec (.spawn w) s = .next (s.takeTrap 0x0B act 0 0 0)) ∧
    (s.spawnMisuse w = false → (∃ i, act.getLsbD i = true ∧ (srcPair s.me (s.me.thread i) w.a).toNat % 4 ≠ 0) →
      exec (.spawn w) s = .next (s.takeTrap 0x03 act 0 0 0)))) ∧
  (∀ (w : LC) (s : State) (i : Nat) (a : Thread), i < 32 → s.me.lane i = some a →
    let t := s.spawnOne w i
    let before := match s.frameOf a with | some f => f.count | none => 0
    SameMemory s t ∧
    (∃ b, t.me.lane i = some b ∧ b = { a with party := a.party.fold, hasFrame := true, spawnOrder := a.spawnOrder + 1 }) ∧
    (∃ f, t.frameOf { a with party := a.party.fold } = some f ∧ f.count = before + 1) ∧
    t.grids.map (fun g => g.sent) = s.grids.map fun g => if g.handle = s.me.grid then g.sent + 1 else g.sent) ∧
  (∀ (w : LC) (s : State) (m : BitVec 32), m ≠ 0 → (s.inlineCall w m).1 = [] →
    let g := (s.inlineCall w m).2.me
    ∃ entry lanes rest off, inlinePaths s.me w.a m = (entry, lanes) :: rest ∧ g.pc = entry ∧ g.path = lanes ∧
      g.stack.head? = some ⟨s.past (lcLen w), s.me.cur, rest, some (m, off), 0⟩ ∧ g.k = s.me.k ∧ g.q = s.me.q) ∧
  ∀ (w : LC) (s : State) (failed : List SaveFail) (i : Nat) (a : Thread), i < 32 → s.me.lane i = some a →
    let off := 2 ^ 24 - a.saved - a.saveImage.length
    let x := s.saveBytes s.me.grid a off a.saveImage
    let r := s.inlineOne w failed i
    (∀ p, x.1 = .ok p →
      r.1 = failed ∧ SameMemory x.2 r.2 ∧ r.2.frames = x.2.frames ∧ r.2.grids = x.2.grids ∧ (∀ j, j ≠ i → r.2.me.lane j = s.me.lane j) ∧
      ∃ b, r.2.me.lane i = some b ∧
        b = { a with
          v := (((a.v.drop w.b.toNat).take w.cnt.toNat) ++ List.replicate a.v.length 0).take a.v.length
          party := b.party
          rank := a.rank ++ [a.spawnOrder]
          spawnOrder := 0
          hasFrame := false
          inl := ⟨a.party.fold, a.rank, a.spawnOrder, off⟩ :: a.inl
          saves := (off, a.saveImage.length) :: a.saves }) ∧
    ((∀ p, x.1 ≠ .ok p) → r.1 = failed ++ [⟨BitVec.ofNat 32 (2 ^ i), off, a.tid.toNat, x.1⟩])

/-- R14, R29, R59, R62, R63, R374: AWAIT with no child of an active lane left receives the join edges and goes on, perhaps stolen by another
pipe; with children left it parks. EXIT without active lanes only ends the run; with some whose children have ended, the active threads
end in ascending order (the group stays unless the return of an inline child has trapped); with children left it parks. A thread that ends is no live thread, keeps its registers, is a sender of its grid's
completion, and counts as received when it is a task; its parent's frame counts one less. -/
def Obligations.AwaitAndExit : Prop :=
  (∀ (w : LR) (s : State),
    let act := s.me.active w.lxc
    (s.framesOpen act = false →
      let u := (s.joinAll act).steal.2
      ∃ t, exec (.await w) s = .next t ∧ OnlyMe u t ∧ Switched u.me t.me (u.past (lrLen w))) ∧
    (s.framesOpen act = true → exec (.await w) s = .next (s.parkMe .await (occupancy false act))) ∧
    (act = 0 → Completes (.exit w) s s (lrLen w)) ∧
    (act ≠ 0 → s.framesOpen act = false →
      let u := (lanesOf act).foldl (fun t i => t.exitOne i) (s.joinAll act)
      exec (.exit w) s = .next (if u.me.uid = s.me.uid then u.exitDone (lrLen w) (occupancy false act) else u)) ∧
    (act ≠ 0 → s.framesOpen act = true → exec (.exit w) s = .next (s.parkMe .await (occupancy false act)))) ∧
  (∀ (s : State) (i : Nat) (a : Thread), i < 32 → s.me.lane i = some a →
    let t := s.endThread i
    SameMemory s t ∧ (∃ b, t.me.lane i = some b ∧ b = { a with party := a.party.fold, exited := true }) ∧
    t.me.live i = false ∧ (∀ j, j ≠ i → t.me.lane j = s.me.lane j) ∧
    t.grids.map (fun g => g.received) =
      s.grids.map (fun g => if g.handle = s.me.grid ∧ a.task = true then g.received + 1 else g.received) ∧
    t.grids.map (fun g => g.ended) =
      s.grids.map (fun g => if g.handle = s.me.grid then g.ended ++ [a.party.sender (Rank.thread a.rank)] else g.ended) ∧
    ∀ f, f ∈ s.frames → (∃ h, h ∈ t.frames ∧ h.holder = f.holder ∧
      h.count = if a.parent = some f.holder then f.count - 1 else f.count))

/-- R34, R37, R42, R51: a REBIN with an earlier episode of a thread open waits, and occupies no pipe; with none, a misuse of R34 traps, and
otherwise every active thread enters the yard in ascending order, its record landing when the group's records have crossed the turntable
(assumption 109), and the group is gone from its pipe. A thread enters the yard with its payload
registers; its other registers are 0, its predicates are false, its kept CLK word is gone, and its key is the 16 bits given. -/
def Obligations.RebinEntersYard : Prop :=
  (∀ (w : LB) (s : State) (station : Bool),
    let act := s.me.active none
    let i : Instr := if station then .rebinS w else .rebinB w
    let held := s.me.liveThreads.any fun t => (s.epBefore s.me.grid station t).isSome
    let x := (s.occupy (occupancy false act)).cross s.me.core false s.now (countLanes act * (w.cnt.toNat + 4))
    (held = true → exec i s = .next (s.parkMe .yard 0)) ∧
    (held = false → s.lanePoison act ((w.a, 1) :: if w.cnt = 0 then [] else [(w.b, w.cnt.toNat)]) = 0 →
      (s.rebinMisuse w station = true → exec i s = .next (s.takeTrap 0x0B s.me.cur 0 0 0)) ∧
      (s.rebinMisuse w station = false →
        exec i s = .next ((((((lanesOf act).foldl (fun t i => if t.me.uid = s.me.uid then t.enterOne w station x.1 i else t)
          x.2).dropMe).checkEpisodes s.me.grid).pruneBarriers s.me.grid).releaseCores)))) ∧
  (∀ (t : Thread) (b cnt key : Nat),
    let u := t.enter b cnt key
    u.v.length = t.v.length ∧ u.p = 0 ∧ u.clkHi = none ∧ u.tid = t.tid ∧ u.blk = t.blk ∧ u.btid = t.btid ∧
    u.key = BitVec.ofNat 32 key ∧ u.exited = t.exited ∧
    ∀ r, r < t.v.length → nth u.v r 0 = if b ≤ r ∧ r < b + cnt then nth t.v r 0 else 0)

/-- R29, R30, R290: EXITG and TAIL end every live thread of the group once none has children left, and the group retires (unless the
return of an inline child has trapped, and the group is gone already); a TAIL with operations outstanding takes a tracker entry of its
core, or waits for one. -/
def Obligations.GroupEnds : Prop :=
  ∀ (w : UF) (s : State), kxPass s.me w.kx = true →
    let u := (s.exitGroup.afterExits s.exitGroup.me.grid).occupy 1
    let drain (t : State) : State :=
      if (t.outstanding t.me.uid) = false then t.retireMe
      else if (t.trackers.filter fun x => x.1 == t.me.core).length < 16 then
        { t with trackers := t.trackers ++ [(t.me.core, t.me.uid)] }.retireMe
      else t.parkMe .tracker
    (s.framesOpen s.me.liveMask = false → s.exitGroup.me.uid = s.me.uid →
      exec (.exitg w) s = .next u.retireMe ∧ (s.me.park ≠ some .tracker → exec (.tail w) s = .next (drain u))) ∧
    (s.framesOpen s.me.liveMask = true →
      exec (.exitg w) s = .next (s.parkMe .await) ∧
      (s.me.park ≠ some .tracker → exec (.tail w) s = .next (s.parkMe .await))) ∧
    (s.me.park = some .tracker → exec (.tail w) s = .next (drain s)) ∧
    ∀ t : State, t.retireMe.me = Group.empty ∧ SameMemory t t.retireMe

/-! Engine commands. -/

/-- R79, R102, R115, R230, R313, R317, R328 to R330, R332, R333, R335, R337: an engine command that no check of R230 stops, with room in
its station's operation buffer, puts its operation into the queue it names, a CPYM and a KVLD with a follow-on MMA also that MMA, and ends
the run. Those two need two places free, and park with one (assumption 58). RFEN empties the record caches of its context. An operation that is issued is the newest of the machine, holds what it captured,
follows every earlier operation of its queue, and counts as sent by its grid; no memory changes, and no earlier operation does. -/
def Obligations.EngineCommandsIssue : Prop :=
  (∀ (w : UC) (s : State), kxPass s.me w.kx = true →
    let g := s.me
    let issued (s1 : State) (kind : OpKind) (queue : Nat) (cmd : List Word) (rec : List Byte) (slot : Option Resv)
        (mma : Option (List Word)) : State :=
      let r := s1.issueOp kind queue cmd rec slot
      match mma with | some c => r.2.follow r.1 c | none => r.2
    let copy (mma : Bool) (i : Instr) : Prop :=
      let c := g.blockWords w.a.toNat (if mma then 12 else 8)
      let kind := w.fn.toNat % 8
      let mc := w.fn.getLsbD 3
      let slot := if cpyPs c || decide (kind = 5) then nth g.slots (cpySlot c) none else none
      s.kPoison [(w.a.toNat, if mma then 12 else 8)] = false → cpyForm kind mc mma c = false →
      recordAddr (cpyTsr c) 64 = none → ∀ (rec : List Byte) (miss : Bool) (s1 : State), s.readTsr (cpyTsr c) = .ok (rec, miss, s1) →
        cpyTrap g (s.block s.anchorBlk) kind mc mma c rec = none →
        (s1.bufferFull (if mma then 2 else 1) = false → Completes i s
          (issued s1 (.cpy kind mc) w.b.toNat c rec slot (if mma then some (c.drop 8) else none)) (kxLen w.kx)) ∧
        (s1.bufferFull (if mma then 2 else 1) = true → exec i s = .next (s1.parkMe .opBuffer))
    copy false (.cpy w) ∧ copy true (.cpym w) ∧
    (s.kPoison [(w.a.toNat, 1)] = false → s.bufferFull 1 = false → Completes (.qfen w) s
      (issued s (.qfen ((kVal g w.a.toNat).toNat % 65536)) w.b.toNat [] [] none none) (kxLen w.kx)) ∧
    (let mma := w.fn.getLsbD 0
    let c := g.blockWords w.a.toNat (if mma then 12 else 8)
    s.kPoison [(w.a.toNat, if mma then 12 else 8)] = false →
      kvldTrap g (s.block s.anchorBlk) (s.grid g.grid).kvRoot mma c = none → s.bufferFull (if mma then 2 else 1) = false →
      Completes (.kvld w) s (issued s .kvld w.b.toNat c [] (if kvldPs c then nth g.slots (kvldSlot c) none else none)
        (if mma then some (c.drop 8) else none)) (kxLen w.kx)) ∧
    (let c := [kVal g w.a.toNat, kVal g (w.a.toNat + 1), kVal g w.b.toNat]
    s.kPoison [(w.a.toNat, 2), (w.b.toNat, 1)] = false → s.kvstTrap c = none → s.bufferFull 1 = false →
      Completes (.kvst w) s (issued s (.kvst (w.fn.getLsbD 4)) (w.fn.toNat % 16) c [] none none) (kxLen w.kx)) ∧
    (let c := g.blockWords w.a.toNat 4
    s.kPoison [(w.a.toNat, 4)] = false → descForm (nth c 2 0) = false → recordAddr (cpyTsr c) 32 = none →
      ∀ rec, s.readRecord (g.thread (lowLane g.cur)).party (cpyTsr c) 96 = .ok rec → mrgInvalid rec = false →
        descMisaligned (nth c 2 0) = false → s.bufferFull 1 = false →
        Completes (.mrg w) s (issued s (.mrg (w.fn.getLsbD 1) (w.fn.getLsbD 0)) w.b.toNat c rec none none) (kxLen w.kx)) ∧
    ∃ t, exec (.rfen w) s = .next t ∧ OnlyMe { s with tsrCache := t.tsrCache } t ∧ Switched s.me t.me (pastUni s w.kx) ∧
      ∀ e, e ∈ t.tsrCache ↔ e ∈ s.tsrCache ∧ e.2.1 ≠ s.myCtx) ∧
  (∀ (s : State) (kind : OpKind) (queue : Nat) (cmd : List Word) (rec : List Byte) (slot : Option Resv),
    (∀ m, kind ≠ .qfen m) →
    let r := s.issueOp kind queue cmd rec slot
    SameMemory s r.2 ∧ r.1 = s.nextId ∧
    (∃ o, r.2.ops = s.ops ++ [o] ∧ o.id = r.1 ∧ o.kind = kind ∧ o.queue = queue ∧ o.cmd = cmd ∧ o.record = rec ∧ o.slot = slot ∧
      o.grid = s.me.grid ∧ o.blk = s.anchorBlk ∧ o.pc = s.me.pc ∧ o.cvc = s.me.cvc ∧ o.stage = .queued ∧
      ∀ x, x ∈ s.ops → x.grid = s.me.grid → x.queue = queue →
        queueBlock x.grid x.blk x.core = queueBlock s.me.grid s.anchorBlk s.me.core → x.id ∈ o.after) ∧
    r.2.grids.map (fun g => g.sent) = s.grids.map fun g => if g.handle = s.me.grid then g.sent + 1 else g.sent)

/-! The matrix array. -/

/-- R157, R166, R168, R330, R331: matrix commands that their checks let pass. MRES fills and MREL empties the slot FN[2:0]; MMA
joins the group's queue; MFEN gives the open batch's number and opens the next; MWAIT goes on when no MMA of the batches it waits
for is left, and parks while one is; TWM and TSTAT read the tile's watermark and counters; TCLR joins the queue as a marker, and
behind no MMA of its group clears the three counters of its tile at once. -/
def Obligations.MatrixCommands : Prop :=
  ((∀ (w : UC) (s : State), kxPass s.me w.kx = true →
    let g := s.me
    let slot := w.fn.toNat % 8
    let r := mresOf (kVal g w.a.toNat) (kVal g (w.a.toNat + 1)) (kVal g w.b.toNat) (kVal g (w.b.toNat + 1))
    let set (i : Instr) (x : Option Resv) : Prop :=
      ∃ t, exec i s = .next t ∧ OnlyMe s t ∧ Switched { g with slots := setNth g.slots slot x } t.me (pastUni s w.kx)
    (s.kPoison [(w.a.toNat, 2), (w.b.toNat, 2)] = false →
      mresBad (s.block s.anchorBlk).sb r (kVal g w.b.toNat) = false →
      ((nth g.slots slot none).isSome && s.slotBusy g.uid slot) = false → set (.mres w) (some r)) ∧
    (((nth g.slots slot none).isSome && s.slotBusy g.uid slot) = false → set (.mrel w) none) ∧
    (((nth g.slots slot none).isSome && s.slotBusy g.uid slot) = true → exec (.mrel w) s = .next (s.parkMe .resv)) ∧
    (s.kPoison [(w.a.toNat, 4)] = false → mmaBad g (s.block s.anchorBlk) (g.blockWords w.a.toNat 4) = false →
      s.bufferFull 1 = false →
      let e := s.sendLanes g.cur
      Completes (.mma w) s (e.2.fresh.2.pushMma (g.blockWords w.a.toNat 4) none (Party.fresh e.2.fresh.1 e.1) e.2.fresh.1)
        (kxLen w.kx)) ∧
    (s.kPoison [(w.a.toNat, 4)] = false → mmaBad g (s.block s.anchorBlk) (g.blockWords w.a.toNat 4) = true →
      exec (.mma w) s = .next (s.takeTrap 0x0D g.cur 0 0 0)) ∧
    (∃ t, exec (.mfen w) s = .next t ∧ OnlyMe s t ∧
      Switched { g with k := t.me.k, openBatch := g.openBatch + 1 } t.me (pastUni s w.kx) ∧
      ∀ i, i < g.k.length → nth t.me.k i 0 =
        if i = w.a.toNat ∧ w.a.toNat ≠ 511 then BitVec.ofNat 32 (g.openBatch % 65536) else nth g.k i 0) ∧
    (s.kPoison [(w.a.toNat, 1)] = false →
      let d := g.batchAge ((kVal g w.a.toNat).toNat % 65536)
      let left := (s.queueOf g.uid).any fun m => m.clears.isNone && g.waitedFor d m.batch
      let ss := (s.doneMmas.filter fun m => m.group == g.uid && g.waitedFor d m.batch).map fun m => m.sender
      (d = 0 ∨ 32768 ≤ d → exec (.mwait w) s = .next (s.takeTrap 0x0D g.cur 0 0 0)) ∧
      (0 < d → d < 32768 → left = true → exec (.mwait w) s = .next (s.parkMe .mwait)) ∧
      (0 < d → d < 32768 → left = false →
        Completes (.mwait w) s ((s.receiveLanes g.cur ⟨ss, [], none⟩).foldSent ss) (kxLen w.kx)))) ∧
  ∀ (w : UF) (s : State), kxPass s.me w.kx = true →
    let g := s.me
    let b := s.block s.anchorBlk
    let t0 := s.tile b.uid w.b.toNat
    (b.tiles.length ≤ w.b.toNat → ∀ i, i ∈ [Instr.twm w, .tstat w, .tclr w] →
      exec i s = .next (s.takeTrap 0x0D g.cur 0 0 0)) ∧
    (w.b.toNat < b.tiles.length →
      (∃ t, exec (.twm w) s = .next t ∧ OnlyMe s t ∧ Switched { g with k := t.me.k } t.me (pastUni s w.kx) ∧
        ∀ i, i < g.k.length → nth t.me.k i 0 =
          if i = w.a.toNat ∧ w.a.toNat ≠ 511 then BitVec.ofNat 32 t0.water else nth g.k i 0) ∧
      ((s.queueOf g.uid) ≠ [] → exec (.tstat w) s = .next (s.parkMe .queuePoint)) ∧
      ((s.queueOf g.uid) = [] → Completes (.tstat w) s
        ((s.clearK w.a.toNat 2).onMe fun g => g.setKs w.a.toNat [BitVec.ofNat 32 (t0.ovf + 65536 * t0.nan), BitVec.ofNat 32 t0.aln])
        (kxLen w.kx)) ∧
      ∃ m, m.group = g.uid ∧ m.blk = b.uid ∧ m.clears = some w.b.toNat ∧ m.id = s.nextId ∧
        Completes (.tclr w) s ({ s.fresh.2 with mmas := s.mmas ++ [m] }.settleQueue g.uid) (kxLen w.kx))) ∧
  (∀ (w : UF) (s : State) (b : Block), kxPass s.me w.kx = true → s.blocks = [b] → s.anchorBlk = b.uid →
    w.b.toNat < b.tiles.length → s.queueOf s.me.uid = [] → (∀ m, m ∈ s.mmas → m.id ≠ s.nextId) →
    let old := nth b.tiles w.b.toNat Tile.fresh
    ∃ t c, exec (.tclr w) s = .next t ∧ t.blocks = [c] ∧ t.mmas = s.mmas ∧
      c = { b with tiles := setNth b.tiles w.b.toNat { old with ovf := 0, nan := 0, aln := 0 } })

/-! Barriers, rings and grids. -/

/-- R45, R64 to R67, R107, R110: BARA arrives for every active thread and goes on; BARW goes on when no active thread's phase is open, each
thread receiving its edge, and parks while one is; BARS arrives once and then waits like BARW. Each misuse of R67 traps, and an arrival that
is open is one for BARA and BARS only. An arrival of one thread adds it as a sender, in the rank of the level, to the open phase of the
barrier of its own group, block, station or grid, and ends its quantum. A phase completes when every live member has arrived in it (of a
grid barrier, with every block placed): its number rises and its edge is that of its arrivers; a thread that waits receives the edge of
the phase it arrived in (with the present values of the words it performed atomics on: assumption 89); atomic state takes a direct write
that it chooses, where no earlier receiver has chosen it (R109). -/
def Obligations.BarrierCommands : Prop :=
  (∀ (w : UC) (s : State), kxPass s.me w.kx = true →
    let level := w.fn.toNat / 32
    let num := w.fn.toNat % 16
    let opens (t : State) : Bool := (lanesOf t.me.cur).any fun i => t.arrivalOpen level num i
    let past (t : State) : State :=
      let u := (lanesOf t.me.cur).foldl (fun u i => u.receiveBarrier level num i) t
      u.pruneBarriers u.me.grid
    (s.barMisuse level num true = false → Completes (.bara w) s (s.arriveAll level num) (kxLen w.kx)) ∧
    (s.barMisuse level num true = true → exec (.bara w) s = .next (s.takeTrap 0x0A s.me.cur 0 0 0)) ∧
    (s.barMisuse level num false = false →
      (opens s = false → Completes (.barw w) s (past s) (kxLen w.kx)) ∧
      (opens s = true → exec (.barw w) s = .next (s.parkMe (.barrier level num)))) ∧
    (s.me.park ≠ some (.barrier level num) → s.barMisuse level num true = false →
      (opens (s.arriveAll level num) = false → Completes (.bars w) s (past (s.arriveAll level num)) (kxLen w.kx)) ∧
      (opens (s.arriveAll level num) = true → exec (.bars w) s = .next ((s.arriveAll level num).parkMe (.barrier level num)))) ∧
    (s.me.park = some (.barrier level num) →
      (opens s = false → Completes (.bars w) s (past s) (kxLen w.kx)) ∧
      (opens s = true → exec (.bars w) s = .next (s.parkMe (.barrier level num)))) ∧
    (s.barMisuse level num false = true → exec (.barw w) s = .next (s.takeTrap 0x0A s.me.cur 0 0 0)) ∧
    (s.me.park ≠ some (.barrier level num) → s.barMisuse level num true = true →
      exec (.bars w) s = .next (s.takeTrap 0x0A s.me.cur 0 0 0)) ∧
    ∀ arrives, s.barMisuse level num arrives = true ↔
      (level = 0 ∧ 3 < num) ∨ (level = 1 ∧ s.me.task = true) ∨ (level = 2 ∧ 7 < num) ∨
        (level = 3 ∧ (3 < num ∨ (s.grid s.me.grid).flags.getLsbD 0 = false)) ∨
        (arrives = true ∧ ∃ i, i < 32 ∧ s.me.cur.getLsbD i = true ∧ ∃ a r,
          ((s.me.thread i).arrivals.filter fun x => decide (x.level = level ∧ x.num = num)) = a :: r ∧
            (s.barrier s.me.grid level a.owner num).phase ≤ a.phase)) ∧
  (∀ (s : State) (level num i : Nat) (a : Thread), i < 32 → s.me.lane i = some a →
    let own := match level with
      | 0 => s.me.uid
      | 1 => a.blk
      | 2 => if a.task then stationOf s.me.core else (s.block a.blk).station
      | _ => 0
    let rank := match level with
      | 0 => Rank.thread [i]
      | 1 => Rank.thread [a.btid]
      | _ => Rank.thread a.rank
    let b := s.barrier s.me.grid level own num
    let t := s.arriveOne level num i
    t = { s with me := t.me, barriers := t.barriers } ∧ (∀ j, j ≠ i → t.me.lane j = s.me.lane j) ∧
    (∃ c, t.me.lane i = some c ∧ c = { a with party := a.party.fold, arrivals := ⟨level, own, num, b.phase⟩ :: a.arrivals }) ∧
    t.barrier s.me.grid level own num = { b with arrived := b.arrived ++ [a.party.sender rank] } ∧
    ∀ x, x ∈ s.barriers → ¬(x.grid = s.me.grid ∧ x.level = level ∧ x.owner = own ∧ x.num = num) → x ∈ t.barriers) ∧
  (∀ (s : State) (b : Barrier), s.barrier b.grid b.level b.owner b.num = b →
    let arrived (x : Thread) : Prop := ⟨b.level, b.owner, b.num, b.phase⟩ ∈ x.arrivals
    let g := s.grid b.grid
    let ended := b.arrived ≠ [] ∧ (b.level = 3 → g.placed = g.dims.1 * g.dims.2.1 * g.dims.2.2) ∧
      match b.level with
      | 0 => ∀ y, y ∈ s.allGroups → y.uid = b.owner → ∀ x, x ∈ y.liveThreads → arrived x
      | 1 => ∀ x, x ∈ s.liveThreads b.grid → x.task = false → x.blk = b.owner → arrived x
      | 2 => ∀ x, x ∈ s.liveThreads b.grid → x.task = false → (s.block x.blk).station = b.owner → arrived x
      | _ => ∀ x, x ∈ s.liveThreads b.grid → x.task = false → arrived x
    let t := s.checkBarrier b
    (¬ended → t = s) ∧
    (ended → t = { s with barriers := t.barriers, agenda := t.agenda } ∧
      t.barrier b.grid b.level b.owner b.num =
        { b with phase := b.phase + 1, arrived := [], edges := (b.phase, s.edge b.arrived []) :: b.edges } ∧
      ∀ y, y ∈ s.resident → y.grid = b.grid → y.park = some (.barrier b.level b.num) → .retry y.uid ∈ t.agenda)) ∧
  ∀ (s : State) (level num i : Nat) (a : Thread), i < 32 → s.me.lane i = some a →
    let mine := a.arrivals.filter fun x => decide (x.level = level ∧ x.num = num)
    let rest := a.arrivals.filter fun x => !decide (x.level = level ∧ x.num = num)
    let t := s.receiveBarrier level num i
    t = { s with me := t.me, atoms := t.atoms, barriers := t.barriers } ∧ (∀ j, j ≠ i → t.me.lane j = s.me.lane j) ∧
    (mine = [] → t = { s with me := t.me } ∧ t.me.lane i = some { a with arrivals := rest }) ∧
    ∀ x e, mine = [x] → ((s.barrier s.me.grid level x.owner num).edges.find? fun y => y.1 == x.phase) = some (x.phase, e) →
      let e1 := s.offer e [a.party]
      t.me.lane i = some { a with arrivals := rest, party := a.party.receive e1 } ∧
      t.atoms = s.atoms.map (settleWord e1 fun l => e.untaken l && (e1.own a.party l).isNone) ∧
      ((t.barrier s.me.grid level x.owner num).edges.find? fun y => y.1 == x.phase) = some (x.phase, e.takenBy [a.party])

/-- R69 to R72: the slot commands on ring RING of the anchor's block. SLOTA.free takes index AP while AP differs from F of the other
side, and SLOTA.full index AC; SLOTR publishes and returns an index with the edge of the active threads; where nothing can be taken
or the window is full, the command waits. An unset ring, and an index that is not outstanding, are SLOT_MISUSE; SLOTR.init sets an
idle ring anew, with no publication pending (assumption 14), and a ring that is not idle is SLOT_MISUSE. Publishing the index that the full counter stands at, with nothing else published, moves the counter past it; an
index further on leaves the counter where it is. SLOTR.full of an index that is outstanding and not published succeeds below F + 64 and waits
from there, SLOTR.free likewise below and from Fr - N + 64; a publication stands in the window of its side, and the counter of that side moves
over those that are set from it up. -/
def Obligations.SlotCommands : Prop :=
  (∀ (w : US) (s : State), kxPass s.me w.kx = true →
    let b := s.anchorBlk
    let x := s.ring b w.ring.toNat
    let i := kVal s.me w.a.toNat
    let trap : Result := .next (s.takeTrap 0x0C s.me.cur 0 0 0)
    let took (u : State) (pubs : List (Word × Edge)) (edge index : Word) (y : Ring) : Result :=
      .next (((((u.receivePub pubs edge).putRing b w.ring.toNat y).onMe fun g => g.setK w.a.toNat index).slotDone w true).wakeRing b
        w.ring.toNat)
    let gave (y : Edge → Ring) : Result :=
      .next ((((s.publishLanes s.me.cur).2.putRing b w.ring.toNat (y (s.publishLanes s.me.cur).1)).slotDone w true).wakeRing b
        w.ring.toNat)
    (x.n = 0 → exec (.slotaFree w) s = trap ∧ exec (.slotaFull w) s = trap) ∧
    (x.n ≠ 0 →
      (x.ap = x.free → exec (.slotaFree w) s = .next (s.slotWait w)) ∧
      (x.ap ≠ x.free → exec (.slotaFree w) s = took s x.pubFree (x.ap - x.n) x.ap
        { x with ap := x.ap + 1, pubFree := x.pubFree.filter fun p => p.1 != x.ap - x.n }) ∧
      (x.ac = x.full → exec (.slotaFull w) s = .next (s.slotWait w)) ∧
      (x.ac ≠ x.full → exec (.slotaFull w) s = took s x.pubFull x.ac x.ac
        { x with ac := x.ac + 1, pubFull := x.pubFull.filter fun p => p.1 != x.ac })) ∧
    (s.kPoison [(w.a.toNat, 1)] = false →
      (x.tryFull i = .go → exec (.slotrFull w) s = gave (x.publish i)) ∧
      (x.tryFull i = .wait → exec (.slotrFull w) s = .next (s.slotWait w)) ∧
      (x.tryFull i = .misuse → exec (.slotrFull w) s = trap) ∧
      (x.tryFree i = .go → exec (.slotrFree w) s = gave (x.giveBack i)) ∧
      (x.tryFree i = .wait → exec (.slotrFree w) s = .next (s.slotWait w)) ∧
      (x.tryFree i = .misuse → exec (.slotrFree w) s = trap) ∧
      (i ≠ 0 → i.toNat ≤ 65536 → (s.block b).rings ≠ [] → x.ap = x.full → x.full = x.ac → x.ac = x.free - x.n →
        exec (.slotrInit w) s =
          .next (((s.putRing b w.ring.toNat { Ring.fresh with n := i, free := i }).switch (kxLen w.kx) 1 s.ringLatency).wakeRing b
            w.ring.toNat)) ∧
      (i = 0 ∨ 65536 < i.toNat ∨ x.ap ≠ x.full ∨ x.full ≠ x.ac ∨ x.ac ≠ x.free - x.n → exec (.slotrInit w) s = trap))) ∧
  (∀ (x : Ring) (i : Word) (e : Edge), x.pubFull = [] →
    (x.publish i e).pubFull = [(i, e)] ∧ (x.publish i e).full = (if i = x.full then x.full + 1 else x.full) ∧
    (x.publish i e).n = x.n ∧ (x.publish i e).ap = x.ap ∧ (x.publish i e).ac = x.ac ∧ (x.publish i e).free = x.free) ∧
  (∀ (x : Ring) (i : Word),
    let ge (a b : Word) : Prop := (a - b).toNat < 2 ^ 31
    let isSet (first : Word) (pubs : List (Word × Edge)) : Prop := ∃ p, p ∈ pubs ∧ ge p.1 first ∧ p.1.toNat % 64 = i.toNat % 64
    let wrongFull := x.n = 0 ∨ ¬(ge i x.full ∧ ¬ge i x.ap) ∨ isSet x.full x.pubFull
    let wrongFree := x.n = 0 ∨ ¬(ge i (x.free - x.n) ∧ ¬ge i x.ac) ∨ isSet (x.free - x.n) x.pubFree
    (x.tryFull i = .misuse ↔ wrongFull) ∧ (x.tryFull i = .wait ↔ ¬wrongFull ∧ ge i (x.full + 64)) ∧
    (x.tryFull i = .go ↔ ¬wrongFull ∧ ¬ge i (x.full + 64)) ∧
    (x.tryFree i = .misuse ↔ wrongFree) ∧ (x.tryFree i = .wait ↔ ¬wrongFree ∧ ge i (x.free - x.n + 64)) ∧
    (x.tryFree i = .go ↔ ¬wrongFree ∧ ¬ge i (x.free - x.n + 64))) ∧
  ∀ (x : Ring) (i : Word) (e : Edge),
    let moves (pubs : List (Word × Edge)) (old new : Word) : Prop := ∃ k, k ≤ 65 ∧ new = old + BitVec.ofNat 32 k ∧
      (∀ j, j < k → ∃ p, p ∈ pubs ∧ p.1 = old + BitVec.ofNat 32 j) ∧ (k < 65 → ∀ p, p ∈ pubs → p.1 ≠ new)
    x.publish i e = { x with pubFull := x.pubFull ++ [(i, e)], full := (x.publish i e).full } ∧
    moves (x.pubFull ++ [(i, e)]) x.full (x.publish i e).full ∧
    x.giveBack i e = { x with pubFree := x.pubFree ++ [(i, e)], free := (x.giveBack i e).free } ∧
    moves (x.pubFree ++ [(i, e)]) (x.free - x.n) ((x.giveBack i e).free - x.n)

/-- R77, R78: a WAITA whose word meets its condition writes its predicate true, having observed the word; one whose deadline has
passed writes it false; another parks until then. -/
def Obligations.TimedWaits : Prop :=
  ∀ (w : UC) (s : State) (tg : Target), kxPass s.me w.kx = true →
    s.kPoison [(w.a.toNat, 1), (w.b.toNat, 2)] = false →
    s.checkSpad s.anchorBlk ((kVal s.me w.a.toNat).toNat % 2 ^ 24) 4 .read = .ok tg → (∀ b off, tg ≠ .beyond b off) →
    let v := s.waitaWord tg
    let seen := match tg.loc with | some l => s.observe l v s.me.cur | none => s
    let set (u : State) (x : Bool) : State := u.onMe fun g => g.setQ (w.fn.toNat / 4 % 8) x
    (waitaCond (w.fn.toNat % 4) v (kVal s.me w.b.toNat) = true → Completes (.waita w) s (set seen true) (kxLen w.kx)) ∧
    (waitaCond (w.fn.toNat % 4) v (kVal s.me w.b.toNat) = false →
      (∀ d, s.waitaDeadlineOf w = some d → d ≤ s.now → Completes (.waita w) s (set s false) (kxLen w.kx)) ∧
      (∀ d, s.waitaDeadlineOf w = some d → s.now < d → exec (.waita w) s = .next (s.parkMe (.waita (some d)))) ∧
      (s.waitaDeadlineOf w = none → exec (.waita w) s = .next (s.parkMe (.waita none)))) ∧
    ∀ a b : Word, waitaCond 0 a b = decide (a = b) ∧ waitaCond 1 a b = decide (a ≠ b) ∧
      waitaCond 2 a b = decide ((a - b).toNat < 2 ^ 31)

/-- R338, R339, R340, R375: GWAIT on no grid of its context writes q[B] false, on a completed one true with that grid's edge, on a
live one whose wait is not over it parks; a grid whose parent has completed is named only while it runs, and by those who waited for it
already, and a group whose grid ended while it waited takes what that left for it, whatever its handle names by then; PHEND arrives once for every active thread and goes on when its phase has ended; GLNCH of an aligned record that
no live grid has launches a child under a free handle and gives the handle, or 0 where the record is live or no handle is free; where
the hub would wait for a page of a link, the group waits (R354). The record and the KV root are read through the merged view of the active
threads alone (R427). -/
def Obligations.GridCommands : Prop :=
  ∀ (w : UF) (s : State), kxPass s.me w.kx = true →
    let h := (kVal s.me w.a.toNat).toNat
    let found := s.grids.find? fun g =>
      decide (g.handle = h ∧ g.ctx = s.myCtx ∧ g.handle ≠ 0) && (g.named || decide (s.me.park = some .gwait))
    let q (u : State) (x : Bool) : State := u.onMe fun g => if w.b = 511 then g else g.setQ w.b.toNat x
    let ph := (kxExt4 w.kx).testBit 0
    let va := (kPair s.me w.a.toNat).toNat
    let given (u : State) (x : Nat) : State := u.onMe fun g => g.setK w.b.toNat (BitVec.ofNat 32 x)
    (s.kPoison [(w.a.toNat, if ph then 2 else 1)] = false → s.me.park = some (.gwaitOver none) →
      Completes (.gwait w) s (q s false) (kxLen w.kx)) ∧
    (∀ e, s.kPoison [(w.a.toNat, if ph then 2 else 1)] = false → s.me.park = some (.gwaitOver (some e)) →
      Completes (.gwait w) s (q (s.receiveShared s.me.cur e).2 true) (kxLen w.kx)) ∧
    (s.kPoison [(w.a.toNat, if ph then 2 else 1)] = false → (∀ e, s.me.park ≠ some (.gwaitOver e)) →
      (found = none → Completes (.gwait w) s (q s false) (kxLen w.kx)) ∧
      ∀ g, found = some g →
        (ph = false → g.isLive = true → exec (.gwait w) s = .next (s.parkMe .gwait)) ∧
        (ph = false → g.state = 4 → Completes (.gwait w) s (q (s.receiveEnd h) true) (kxLen w.kx)) ∧
        (ph = false → g.isLive = false → g.state ≠ 4 → Completes (.gwait w) s (q s false) (kxLen w.kx)) ∧
        (ph = true → wrapGe (BitVec.ofNat 32 g.phases) (kVal s.me (w.a.toNat + 1)) = true →
          Completes (.gwait w) s (q (s.receivePhase h (kVal s.me (w.a.toNat + 1)).toNat) true) (kxLen w.kx)) ∧
        (ph = true → wrapGe (BitVec.ofNat 32 g.phases) (kVal s.me (w.a.toNat + 1)) = false →
          (g.isLive = true → exec (.gwait w) s = .next (s.parkMe .gwait)) ∧
          (g.isLive = false → Completes (.gwait w) s (q s false) (kxLen w.kx)))) ∧
    (∀ n, s.me.park = some (.phend n) →
      (n ≤ (s.grid s.me.grid).phases → Completes (.phend w) s (s.receivePhase s.me.grid n) (kxLen w.kx)) ∧
      ((s.grid s.me.grid).phases < n → exec (.phend w) s = .next (s.parkMe (.phend n)))) ∧
    ((∀ n, s.me.park ≠ some (.phend n)) →
      (s.phendMisuse = true → exec (.phend w) s = .next (s.takeTrap 0x0A s.me.cur 0 0 0)) ∧
      (s.phendMisuse = false → exec (.phend w) s =
        .next (((lanesOf s.me.cur).foldl (fun t i => t.arrivePhase i) s).parkMe (.phend (s.grid s.me.grid).openPhase)))) ∧
    (s.kPoison [(w.a.toNat, 2)] = false → recordAddr va 256 = none →
      let c := s.myCtx
      let g := s.grid s.me.grid
      let e := s.edge (s.me.laneSenders s.me.cur) []
      ∀ r, s.readRecord { Party.empty 0 with view := mergedView e } va 256 = .ok r →
        (s.rcbLive (s.placeKey c va) = true ∨ s.freeHandle = none → Completes (.glnch w) s (given s 0) (kxLen w.kx)) ∧
        ∀ x, s.rcbLive (s.placeKey c va) = false → s.freeHandle = some x →
          let kva := recNum r 0x60 8
          let kv : Option (Except Check (List Byte)) := if kva = 0 ∨ 2 ^ 56 ≤ kva ∨ kva % 64 ≠ 0 then none
            else some (s.readRecord { Party.empty 0 with view := mergedView e } kva 64)
          (∀ page a, s.glnchWaits c g.rcbVa va va kv = some (.pri page a) →
            exec (.glnch w) s = .next ((s.occupy 1).waitPri page s.me.cur a)) ∧
          (s.glnchWaits c g.rcbVa va va kv = none →
            ∃ child, child.handle = x ∧ child.ctx = c ∧ child.rcbVa = va ∧ child.parent = g.handle ∧ child.cvc = s.me.cvc ∧
              child.srseed = s.me.srseed ∧ child.dphase = s.me.dphase ∧
              Completes (.glnch w) s
                (given ((((((s.readCtx c).settleEdge e).onMe fun y =>
                  y.onLanes y.cur fun _ t => t.fold).linkGlnch c g.rcbVa va).accept child
                    (kvRootOf kva fun _ => kv.bind fun y => y.toOption).2 (rcbWithCtx r c))) x) (kxLen w.kx)))

/-! System functions. -/

/-- R150, R304, R306 to R310: NOP only goes on, and so does a PREF whose line is present, on its way or not to be fetched (one that
would read poison among them, the model's choice, assumption 88), for it never traps; a PREF of another line starts its fill; YIELD only ends the run; CSRW sets the register and ends the run; HSIG counts an event for the vector k[A] mod 32; HFLUSH of
no bytes (k511 among them) only ends the run, another one flushes or invalidates the aperture bytes of its range, a range beyond the address
space is ACCESS_DENIED, and a poisoned entry of the tables that its walk reads is POISON. Of what a CSR reads after CSRW has set it: CVC and DPHASE keep 5 bits, SRSEED all 32, FSTAT of a placed block its defined
bits; a write to SPSTAT or SPBLK clears both, one to CPSTAT clears it, and one to ID or CAP changes nothing. -/
def Obligations.SystemFunctions : Prop :=
  (∀ (w : UF) (s : State), kxPass s.me w.kx = true →
    let goes (i : Instr) : Prop := ∃ t, exec i s = .next t ∧ OnlyMe s t ∧ t.me = { s.me with pc := pastUni s w.kx }
    goes (.nop w) ∧ OnlySwitches (.yield w) s (pastUni s w.kx) ∧
    (let va := s.prefTarget w
      let stn := stationOf s.me.core
      let bad := s.kPoison (if w.a = 511 then [] else [(w.a.toNat, 2)])
      (bad = true ∨ s.hasLine stn s.myCtx (lineOf va) = true ∨ (s.fillDue stn s.myCtx (lineOf va)).isSome = true ∨ 2 ^ 56 ≤ va ∨
        (∀ p, translate s s.myCtx (s.master s.me.grid) va .fetch ≠ .ok p) → goes (.pref w)) ∧
      ∀ p, bad = false → s.hasLine stn s.myCtx (lineOf va) = false → s.fillDue stn s.myCtx (lineOf va) = none → va < 2 ^ 56 →
        translate s s.myCtx (s.master s.me.grid) va .fetch = .ok p →
        ∃ t, exec (.pref w) s = .next t ∧ OnlyMe { s with fills := s.fills ++ [(stn, s.myCtx, lineOf va, s.now + 160)] } t ∧
          t.me = { s.me with pc := pastUni s w.kx }) ∧
    (s.kPoison [(w.a.toNat, 1)] = false →
      Completes (.csrw w) s (s.setCsr w.b.toNat (kVal s.me w.a.toNat)) (kxLen w.kx) ∧
      Completes (.hsig w) s (s.coalEvent (s.ctx s.myCtx).fn ((kVal s.me w.a.toNat).toNat % 32)) (kxLen w.kx)) ∧
    (s.kPoison [(w.a.toNat, 2), (w.b.toNat, 1)] = false →
      let base := (kPair s.me w.a.toNat).toNat
      let len := (kVal s.me w.b.toNat).toNat
      (len = 0 → OnlySwitches (.hflush w) s (pastUni s w.kx)) ∧
      (len ≠ 0 → 2 ^ 56 ≤ base ∨ 2 ^ 56 < base + len →
        exec (.hflush w) s = .next (s.takeTrap 0x07 s.me.cur base 0 0)) ∧
      (∀ va, len ≠ 0 → base < 2 ^ 56 → base + len ≤ 2 ^ 56 → s.flushPoison base len = some va →
        exec (.hflush w) s = .next (s.takeTrap 0x11 s.me.cur va 0 0)) ∧
      (len ≠ 0 → base < 2 ^ 56 → base + len ≤ 2 ^ 56 → s.flushPoison base len = none →
        Completes (.hflush w) s (if (kxExt4 w.kx).testBit 0 then s.invalidate (s.flushPieces base len)
          else s.flushRange (s.flushPieces base len)) (kxLen w.kx)))) ∧
  (∀ (s : State) (x : Word),
    (s.setCsr 1 x).csr 1 = x &&& 0x1F ∧ (s.setCsr 2 x).csr 2 = x ∧ (s.setCsr 3 x).csr 3 = x &&& 0x1F ∧
    (s.anchorBlk ≠ 0 → (∃ b, b ∈ s.blocks ∧ b.uid = s.anchorBlk) → (s.setCsr 4 x).csr 4 = x &&& 0xFFFFFF0F) ∧
    (s.myCtx < s.ctxs.length →
      (s.setCsr 5 x).csr 5 = 0 ∧ (s.setCsr 5 x).csr 6 = 0 ∧ (s.setCsr 6 x).csr 5 = 0 ∧ (s.setCsr 6 x).csr 6 = 0 ∧
      (s.setCsr 7 x).csr 7 = 0) ∧
    s.setCsr 0 x = s ∧ s.setCsr 8 x = s ∧ s.csr 0 = 0x41280100)

/-! Traps and the return from them. -/

/-- R305, R385, R409: TRAP completes and is then held for RESUME, recorded with the address of the TRAP and its operand; BRKP does
the same in a context at debug level 2, and only ends the run in any other. The record is neither fatal nor replayable. -/
def Obligations.TrapInstructions : Prop :=
  ∀ (w : UF) (s : State), kxPass s.me w.kx = true →
    let past := s.switch (kxLen w.kx) 1 0
    exec (.trap w) s = .next (past.takeResumable 0x13 s.me.pc.toNat w.b.toNat) ∧
    (s.debugLevel s.myCtx = 2 → exec (.brkp w) s = .next (past.takeResumable 0x14 s.me.pc.toNat w.b.toNat)) ∧
    (s.debugLevel s.myCtx ≠ 2 → OnlySwitches (.brkp w) s (pastUni s w.kx)) ∧
    ∀ cause pc code, ∃ h, (s.takeResumable cause pc code).me = { s.me with park := some .held, parkedAt := s.now, heldItem := some h } ∧
      h.resumable = true ∧ h.faults = [(cause, code, 0)] ∧ h.token = s.freshToken ∧ h.replays = 0

/-- R281, R282, R383 to R385, R387 to R390: taking a replayable trap whose function's queue is enabled in device memory that the
hub may write, and has room. The group is held under a token with the trapped lanes as its replay mask, the record stands at the head of the ring with the
cause, the token, the address and the lanes, the producer count rises, and every other byte of memory stands. An item that traps again
keeps its token and its replays, and its GEN is one higher for the same cause and address; after 15 replays it is REPLAY_LIMIT. -/
def Obligations.ReplayableTrap : Prop :=
  (∀ (s : State) (cause va kv : Nat) (lanes : BitVec 32), replayable cause = true → s.me.heldItem = none →
    let c := s.myCtx
    let f := (s.ctx c).fn
    let q := s.queue f
    let at_ := field q.base.toNat 18 38 * 2 ^ 18 + 64 * (q.prod.toNat % 4096)
    let tk := s.freshToken
    f < s.queues.length → q.base.getLsbD 0 = true → q.base.getLsbD 63 = false → 9 ≤ queueFree q → s.unrecorded = [] →
    accessOk s (at_ / 4096 % 8) hubMaster at_ .write = true → s.sec.trBase.getLsbD 0 = false → Memory.wf s.hbm = true →
    let t := s.takeTrap cause lanes va kv 0
    let entry : TrapRec := { s.me.trapRec s cause with
      replay := true, token := tk, va := va, kv := kv, mask := lanes.toNat, tid := (s.me.thread (lowLane lanes)).tid.toNat }
    t.me = { s.me with park := some .held, parkedAt := s.now, heldItem := some ⟨tk, false, [(cause, va, 0)], lanes, 0, false, []⟩ } ∧
    StoredAt s.hbm t.hbm at_ (entry.bytes (decide (q.prod.toNat / 4096 % 2 = 0))) ∧ t.sysMem = s.sysMem ∧ t.window = s.window ∧
    (t.queue f).prod = q.prod + 1 ∧ t.groups = s.groups ∧ t.grids = s.grids ∧ t.blocks = s.blocks ∧ t.unrecorded = []) ∧
  ∀ (s : State) (cause va kv : Nat) (lanes : BitVec 32) (h : Held), replayable cause = true → s.me.heldItem = some h →
    (h.replays = 15 → s.takeTrap cause lanes va kv 0 = s.takeFatal { s.me.trapRec s cause with
      cause := 0x10, va := va, mask := lanes.toNat, tid := (s.me.thread (lowLane lanes)).tid.toNat }) ∧
    (h.replays ≠ 15 → ∃ n, (s.takeTrap cause lanes va kv 0).me = { s.me with
        park := some .held, parkedAt := s.now, heldItem := some ⟨h.token, false, [(cause, va, n)], lanes, h.replays, false, []⟩ } ∧
      (∀ m, h.faults = [(cause, va, m)] → n = m + 1) ∧
      ((∀ m, (cause, va, m) ∉ h.faults) → n = 0))

/-- R370, R383, R385, R386, R388, R396: every cause that is neither replayable nor resumable is fatal, taken with the pc of the word at
which it is reported. Its record goes into its function's queue while one entry is free, of the 8 in reserve too; else into FATAL where
FATALV is 0; else it is lost, which a FATAL_LOST event says. The hub reads the consumer word first where fewer than 9 entries are free by
its own count. A fatal trap discards every group, block, episode, operation and MMA of the grids of its fault domain, leaves those of
every other grid as they were, but that a group that waits for the end of one of the grids learns that it has none (R339), and no grid of
the domain is live after it. -/
def Obligations.FatalTrap : Prop :=
  (∀ (s : State) (r : TrapRec),
    let t := s.takeFatal r
    let dead := s.gridsOf r.fd
    let told (g : Group) : Group := match g.gwaits with
      | some (h, ph) =>
        if dead.contains h && decide ((s.grid g.grid).ctx = (s.grid h).ctx) then
          match (s.grid h).badEnd ph with
          | some e => { g with park := some (.gwaitOver e) }
          | none => g
        else g
      | none => g
    t.me = (if dead.contains s.me.grid then Group.empty else told s.me) ∧
    t.groups = (s.groups.filter fun g => !dead.contains g.grid).map told ∧
    t.waiting = (s.waiting.filter fun g => !dead.contains g.grid).map told ∧
    t.images = (s.images.filter fun g => !dead.contains g.grid).map told ∧ t.blocks = s.blocks.filter (fun b => !dead.contains b.grid) ∧
    t.episodes = s.episodes.filter (fun e => !dead.contains e.grid) ∧ t.ops = s.ops.filter (fun o => !dead.contains o.grid) ∧
    t.mmas = s.mmas.filter (fun m => !dead.contains m.grid)) ∧
  (∀ (s : State) (r : TrapRec), (s.takeFatal r).gridsOf r.fd = []) ∧
  (∀ (s : State) (r : TrapRec), s.takeFatal r = ((s.trace r.ctx r.stn r.gslot).postFatal (s.ctx r.ctx).fn
      { r with fatal := true, replay := false, token := 0 }).teardown r.fd ∧
    ∀ d, (s.teardown d).fatal = s.fatal ∧ (s.teardown d).fatalV = s.fatalV ∧ (s.teardown d).queues = s.queues) ∧
  (∀ (s : State) (f : Nat) (r : TrapRec),
    let u := s.refreshQueue f 1
    let q := u.queue f
    let at_ := field q.base.toNat 18 38 * 2 ^ 18 + 64 * (q.prod.toNat % 4096)
    let t := s.postFatal f r
    (9 ≤ queueFree (s.queue f) → u = s) ∧
    (0 < queueFree q → f < s.queues.length → q.base.getLsbD 63 = false → accessOk u (at_ / 4096 % 8) hubMaster at_ .write = true →
      Memory.wf s.hbm = true →
      StoredAt s.hbm t.hbm at_ (r.bytes (decide (q.prod.toNat / 4096 % 2 = 0))) ∧ (t.queue f).prod = q.prod + 1 ∧
        t.fatal = s.fatal ∧ t.fatalV = s.fatalV) ∧
    (queueFree q = 0 → s.fatalV = false →
      t.fatal = r.bytes true ∧ t.fatalV = true ∧ t.queues = u.queues ∧ t.evProd = s.evProd ∧ SameMemory s t) ∧
    (queueFree q = 0 → s.fatalV = true → t = u.logEvent 4 r.ctx r.fd r.stn r.cause ∧ t.fatal = s.fatal)) ∧
  (∀ (s : State) (cause va kv off : Nat) (lanes : BitVec 32),
    cause ∈ [0x01, 0x02, 0x03, 0x07, 0x08, 0x09, 0x0A, 0x0B, 0x0C, 0x0D, 0x0E, 0x10, 0x11, 0x12, 0x15] →
    s.takeTrap cause lanes va kv off = s.takeFatal { s.me.trapRec s cause with
      pc := s.me.pc.toNat + 4 * off, va := va, kv := kv, tid := (s.me.thread (lowLane lanes)).tid.toNat })

/-- R22, R282, R305, R323, R389: REPLAY of a held operation queues it again with its replay count one higher, to go on from where it
stopped; no RESUME applies to it. REPLAY of a held group makes it re-execute its masked lanes with its replay count one higher; RESUME of a
group held by TRAP_INSN or BREAKPOINT lets it go on; each is invalid for the other kind and for a token that names nothing. What the
group issues then begins a run (R20): its latches are invalid and no CLK word is kept; it is ready 4 clk later (R208, assumption 7). -/
def Obligations.ReplayAndResume : Prop :=
  ∀ (s : State) (c tk : Nat),
    (∀ g, s.heldGroup c tk = some g →
      (g.forResume = false → (s.doReplay c tk).1 = 0 ∧ (s.doResume c tk).1 = 2 ∧ (s.doResume c tk).2 = s ∧
        (s.doReplay c tk).2 = (s.onGroup g.uid fun x => x.growMarks.replayed s.now).dropUnrecorded tk) ∧
      (g.forResume = true → (s.doResume c tk).1 = 0 ∧ (s.doReplay c tk).1 = 2 ∧ (s.doReplay c tk).2 = s ∧
        (s.doResume c tk).2 = (s.onGroup g.uid fun x => x.resumed s.now).dropUnrecorded tk)) ∧
    (s.heldGroup c tk = none → s.heldOp c tk = none → s.doReplay c tk = (2, s) ∧ s.doResume c tk = (2, s)) ∧
    (∀ o, s.heldGroup c tk = none → s.heldOp c tk = some o →
      let t := (s.doReplay c tk).2
      (s.doReplay c tk).1 = 0 ∧ s.doResume c tk = (2, s) ∧
      t = { s with ops := t.ops, unrecorded := s.unrecorded.filter fun u => u.token != tk } ∧
      t.op o.id = some { o with
        stage := .queued, heldItem := o.heldItem.map fun h => { h with replays := h.replays + 1, again := true } } ∧
      ∀ x, x.id ≠ o.id → (x ∈ t.ops ↔ x ∈ s.ops)) ∧
    ∀ (g : Group) (h : Held) (now : Nat), g.heldItem = some h →
      (g.replayed now).park = none ∧ (g.replayed now).heldItem = some { h with replays := h.replays + 1, again := true } ∧
      (g.replayed now).active none = g.cur &&& h.mask ∧
      (g.resumed now).park = none ∧ (g.resumed now).heldItem = none ∧ (g.resumed now).active none = g.cur ∧
      ∀ x, x ∈ [g.replayed now, g.resumed now] → x.pc = g.pc ∧ x.runPc = g.pc ∧ x.readyAt = max g.readyAt (now + 4) ∧
        ∀ i, x.lane i = (g.lane i).map fun a => { a with lat := List.replicate 8 0, clkHi := none }

/-! Events of groups that wait. -/

/-- R1, R30, R32, R49, R51, R57, R75, R78, R208, R209, R211, R226, R313, R392: the events of groups that wait. An access that returns makes its
group ready; a line that arrives is in its station's instruction cache; a poll and a deadline let the group test again; a tracker
entry frees once nothing of its group is outstanding; room in the operation buffer, where no command has waited longer for it, lets the
command of the group enter there and then; a bin whose oldest child has
waited 64 clk becomes a task group of its children; a waiting group takes the chosen core and pipe, ready when its words have crossed the
turntable, and so does an evicted one whose wake event has come (that REBUILT_GROUP_ADMISSION admits it is assumption 19); words that
decode to no instruction are a fatal trap. -/
def Obligations.WaitingGroupEvents : Prop :=
  (∀ (s : State) (core gslot : Nat),
    (∃ t, exec (.memoryAccessReturn core gslot) s = .next t ∧ OnlyGroups s t fun g =>
      if g.core = core ∧ g.gslot = gslot ∧ g.park = none then { g with readyAt := min g.readyAt s.now } else g) ∧
    (s.groupAt core gslot = none → exec (.operationBufferAdmit core gslot) s = .next s) ∧
    ∀ g, s.groupAt core gslot = some g →
      (g.park ≠ some .opBuffer ∨ (s.select g.uid).bufferFull 1 = true → exec (.operationBufferAdmit core gslot) s = .next s) ∧
      (g.park = some .opBuffer → (s.select g.uid).bufferFull 1 = false → nth s.power.cur (stationOf core) 0 = 0 →
        nth s.power.dieOff (stationOf core / 8) false = false → (s.select g.uid).me = g →
        ∀ i w x, g.insn = some i → i ∈ [Instr.cpy w, .cpym w, .qfen w, .kvld w, .kvst w, .mrg w, .mma x] →
          exec (.operationBufferAdmit core gslot) s = exec i (s.select g.uid)) ∧
      (∀ left, g.park = some (.future left true) → g.readyAt + 1400 ≤ s.now →
        exec (.futurePoll core gslot) s = .next { s with agenda := .retry g.uid :: s.agenda }) ∧
      ∀ d, g.park = some (.waita (some d)) → d ≤ s.now →
        exec (.waitaDeadline core gslot) s = .next { s with agenda := .retry g.uid :: s.agenda }) ∧
  (∀ (s : State) (stn ctx line : Nat), ∃ t, exec (.icacheLineFill stn ctx line) s = .next t ∧
    t = { s with icache := t.icache, fills := t.fills } ∧
    (∀ x, x ∈ t.fills ↔ x ∈ s.fills ∧ ¬(x.1 = stn ∧ x.2.1 = ctx ∧ x.2.2.1 = line)) ∧
    (s.hasLine stn ctx line = true → t.icache = s.icache) ∧ t.hasLine stn ctx line = true ∧
    (∀ x, x ∈ t.icache → x = (stn, ctx, line) ∨ x ∈ s.icache) ∧ (∀ x, x ∈ s.icache → x.1 ≠ stn → x ∈ t.icache) ∧
    ((s.icache.filter fun x => x.1 == stn).length < 4096 → ∀ x, x ∈ s.icache → x ∈ t.icache)) ∧
  (∀ (s : State) (core uid : Nat), (core, uid) ∈ s.trackers → (∀ o, o ∈ s.ops → o.group ≠ uid) →
    ∃ t, exec (.retirementTrackerDrain core uid) s = .next t ∧ t = { s with trackers := t.trackers, agenda := t.agenda } ∧
      (∀ x, x ∈ t.trackers ↔ x ∈ s.trackers ∧ x ≠ (core, uid)) ∧
      ∀ g, g ∈ s.resident → g.core = core → g.park = some .tracker → .retry g.uid ∈ t.agenda) ∧
  (∀ (s : State) (i : Nat) (b : TaskBin) (c : Child), s.bins[i]? = some b → b.kids.head? = some c → c.at_ + 64 ≤ s.now →
    ∃ t g, exec (.taskBinTimeout i) s = .next t ∧ t = { s with nextId := s.nextId + 1, bins := t.bins, waiting := s.waiting ++ [g] } ∧
      (∀ x, x ∈ t.bins ↔ x ∈ s.bins ∧ x.is b.station b.grid b.entry b.cls = false) ∧
      g.task = true ∧ g.grid = b.grid ∧ g.pc = b.entry ∧ g.cls = b.cls ∧ stationOf g.core = b.station ∧ g.cvc = c.cvc ∧
      g.srseed = c.srseed ∧ g.dphase = c.dphase ∧ g.born = c.at_ ∧ g.k = List.replicate (s.grid b.grid).kn 0 ∧
      ∀ l, l < 32 → g.lane l = (b.kids[l]?).map fun k => { k.thread with btid := l }) ∧
  (∀ (s : State) (i : Nat) (g : Group) (c p : Nat), s.choosePipe (s.grid g.grid).word (s.eligible g) = some (c, p) →
    nth s.power.cur (stationOf g.core) 0 = 0 → nth s.power.dieOff (stationOf g.core / 8) false = false → s.restorable g = true →
    (s.waiting[i]? = some g →
      let x := s.cross c true s.now g.words
      let t := { x.2 with waiting := x.2.waiting.eraseIdx i }.install g c p x.1
      exec (.rebuiltGroupAdmission i) s = .next t ∧
      (g.task = true → s.taskFirst g = true → exec (.taskGroupPlacement i) s = .next t)) ∧
    (s.images[i]? = some g → g.park = none → s.imagePoison g = false →
      exec (.rebuiltGroupAdmission (s.waiting.length + i)) s =
        .next ({ s with images := s.images.eraseIdx i }.install g c p s.now)) ∧
    ∀ ready, let t := s.install g c p ready
      t = { s with groups := t.groups, poison := t.poison, coreWord := t.coreWord } ∧
      t.groups = s.groups ++ [{ g with core := c, pipe := p, gslot := s.freeGslot c, readyAt := max ready g.readyAt }]) ∧
  (∀ (s : State) (malformed : Bool) (off : Nat), s.me.uid ≠ 0 →
    exec (.illegalOpcode malformed off) s = .next (s.takeFatal { s.me.trapRec s (if malformed then 0x02 else 0x01) with
      pc := s.me.pc.toNat + 4 * off, va := 0, kv := 0, tid := (s.me.thread (lowLane s.me.cur)).tid.toNat }))

/-- R31, R52, R392, R393: on a station all of whose groups are parked with nothing in flight, the detector counts; where waiting
work lacks room it evicts; where the station waits for something outside, it does nothing more; else the fault domain of what the
station holds, when it is one, stops with DEADLOCK. The watchdog stops it with WATCHDOG where a pre-emption asked for 100 µs ago has
not quiesced the station, and does nothing where none has. What counts as waiting outside is assumption 75; the watchdog's clock and
the domains that it stops are assumption 37. -/
def Obligations.StationDetectors : Prop :=
  ∀ (s : State) (stn d : Nat),
    let u : State := { s with fleet := { s.fleet with parked := setNth s.fleet.parked stn (nth s.fleet.parked stn 0 + 1) } }
    (s.allParked stn = true →
      (u.waitingWork stn ≠ [] → ∃ t r, exec (.allParkedDetect stn) s = .next t ∧
        u.evictSome stn (u.wantedWork stn) [] (u.onStation stn).length = r ∧ t.resident = r.2.resident ∧ t.images = r.2.images ∧
        t.fleet = u.fleet ∧ t.evProd = s.evProd + BitVec.ofNat 32 r.1.length) ∧
      (u.waitingWork stn = [] → u.stationWaits stn = true → exec (.allParkedDetect stn) s = .next u) ∧
      (u.waitingWork stn = [] → u.stationWaits stn = false → (∀ g, g ∈ u.stationGroups stn → s.fdOf g.grid = d) →
        ∃ r, exec (.allParkedDetect stn) s = .next (u.takeFatal r) ∧ r.cause = 0x15 ∧ r.fd = d ∧ r.stn = stn)) ∧
    (s.allParked stn = false → exec (.allParkedDetect stn) s = .next s) ∧
    ((∃ slot at_, (stn, slot, at_) ∈ s.asked ∧ at_ + 140000 ≤ s.now ∧ s.unquiet stn slot = true) →
      s.stationGroups stn ++ (s.engineGroups stn ++ s.binGroups stn) ≠ [] →
      (∀ g, g ∈ s.stationGroups stn ++ (s.engineGroups stn ++ s.binGroups stn) → s.fdOf g.grid = d) →
      ∃ r, exec (.watchdog stn) s = .next (s.takeFatal r) ∧ r.cause = 0x12 ∧ r.fd = d ∧ r.stn = stn) ∧
    ((∀ slot at_, (stn, slot, at_) ∈ s.asked → s.unquiet stn slot = true → s.now < at_ + 140000) →
      exec (.watchdog stn) s = .next s) ∧
    ∀ g, g ∈ s.resident → g.uid ≠ 0 → ((s.resident ++ s.waiting).map fun x => x.uid).Nodup →
      (s.evict g).images = s.images ++ [g.toImage] ∧ ∀ x, x ∈ (s.evict g).resident ↔ x ∈ s.resident ∧ x ≠ g

/-! Blocks, grids and their time on the device. -/

/-- R12, R85, R86, R135, R202, R373, R380, R416: the next block of the bind record that dispatch serves is placed, and the grids that
wait are bound (assumption 16); a co-resident grid whose blocks do not all fit is rejected instead, also where not even one has room: that it is
rejected there too is the model's choice (assumption 77). Of a block placed, a new one stands with its resources at their start values in the
slots that are free on its home core, the lowest ones, which is the model's choice (assumption 95), and its groups wait or are resident with 32 threads each, in the order of their TIDs, their registers at the values of R202;
a saved one is restored; the station's trace goes on. -/
def Obligations.BlockPlacement : Prop :=
  (∀ (s : State) (stn slot : Nat), s.placeable stn slot = none →
    let b := s.bind stn slot
    let g := s.grid b.handle
    let first := b.live = true ∧ b.start ≤ s.now ∧ s.bindable stn = true ∧ (s.nextOf b).isSome = true ∧ g.state = 2 ∧
      g.flags.getLsbD 0 = true ∧ s.fitsAtOnce g = false
    (first → exec (.blockPlacement stn slot) s = .next (s.rejectLate b.handle)) ∧
    (¬first → exec (.blockPlacement stn slot) s = .next s.bindWaiting)) ∧
  (∀ (s : State) (stn slot idx home : Nat) (cores : List Nat), s.placeable stn slot = some (idx, home, cores) →
    s.serves stn slot = true →
    let b := s.bind stn slot
    let g := s.grid b.handle
    let unfit := g.state = 2 ∧ g.flags.getLsbD 0 = true ∧ s.fitsAtOnce g = false
    (unfit → exec (.blockPlacement stn slot) s = .next (s.rejectLate g.handle)) ∧
    (¬unfit → exec (.blockPlacement stn slot) s = .next (s.placeBlock stn slot idx home cores).bindWaiting) ∧
    (nth s.power.cur stn 0 = 0 → nth s.power.dieOff (stn / 8) false = false →
      let s1 := if b.stat = 0 then (s.putBind stn slot { b with stat := 1 }).stampBind stn slot else s
      let s2 : State := { s1 with sec := { s1.sec with trEnded := s1.sec.trEnded &&& ~~~(1#32 <<< stn) } }
      let u := (s2.markRunning g.handle).trace g.ctx stn 0
      (u.blockAt g.handle idx = none →
        s.placeBlock stn slot idx home cores = u.newBlock (u.grid g.handle) stn slot idx home cores s.now) ∧
      ∀ old, u.blockAt g.handle idx = some old →
        s.placeBlock stn slot idx home cores = u.restoreBlock old stn slot home cores s.now)) ∧
  ∀ (s : State) (g : Grid) (stn slot idx home ready : Nat) (cores : List Nat),
    let t := s.newBlock g stn slot idx home cores ready
    SameMemory s t ∧ t.me = s.me ∧
    (∃ b, t.blocks = s.blocks ++ [b] ∧ b.uid = s.nextId ∧ b.grid = g.handle ∧ b.index = idx ∧ b.station = stn ∧ b.home = home ∧
      b.cores = cores ∧ b.groups = g.groups ∧ b.tiles = List.replicate g.ntiles Tile.fresh ∧
      b.rings = List.replicate 16 Ring.fresh ∧ b.fstat = 0 ∧ b.saved = false ∧ (∀ o, s.freeSpad g home = some o → b.spOff = o) ∧
      ∀ o, s.freeTiles g home = some o → b.tileOff = o) ∧
    ∃ gs ws, t.groups = s.groups ++ gs ∧ t.waiting = s.waiting ++ ws ∧ ∀ i, i < g.groups → ∃ x, x ∈ gs ++ ws ∧ x.grid = g.handle ∧ x.blk = s.nextId ∧
      x.pc = g.entry ∧ x.path = BitVec.allOnes 32 ∧ x.cvc = g.cvc ∧ x.srseed = g.srseed ∧ x.dphase = g.dphase ∧
      (6 ≤ g.kn → x.k.length = g.kn ∧ ∀ r, nth x.k r 0 =
        if r = 4 then g.param.extractLsb' 0 32 else if r = 5 then g.param.extractLsb' 32 32 else 0) ∧
      ∀ l, l < 32 → ∃ a, x.lane l = some a ∧ a.btid = 32 * i + l ∧ a.exited = false ∧ a.v = List.replicate g.v 0 ∧ a.p = 0 ∧
        a.tid = BitVec.ofNat 32 (idx * (32 * g.groups) + 32 * i + l)

/-- R29, R80, R339, R340, R374: a block that has nothing left to do leaves, with its words, and its grid counts it; a sweep that
finds a phase full, twice where the grid needs it, ends the phase, and else notes the totals it read; a grid that is over is DONE
and keeps its completion edge, and the groups of its context that wait for it are given that edge and test at once. -/
def Obligations.RetirementAndSweeps : Prop :=
  (∀ (s : State) (uid : Nat) (b : Block), s.blocks.find? (fun x => x.uid == uid) = some b → s.blockOver b = true →
    ∃ t, exec (.blockRetirement uid) s = .next t ∧ t.me = s.me ∧ t.groups = s.groups ∧ t.waiting = s.waiting ∧
      t.blocks = s.blocks.filter (fun x => x.uid != uid) ∧ t.ops = s.ops ∧
      (∀ a, a ∈ t.atoms ↔ a ∈ s.atoms ∧ (∀ off, a.loc ≠ .spad uid off) ∧ ∀ tile i j k, a.loc ≠ .acc uid tile i j k) ∧
      t.grids.map (fun g => g.doneBlocks) =
        s.grids.map fun g => if g.handle = b.grid then b.index :: g.doneBlocks else g.doneBlocks) ∧
  (∀ (s : State) (g : Grid), s.grids = [g] → g.isLive = true →
    let same := decide (g.lastSweep = some (g.sent, g.received)) && decide (g.sent = g.received)
    let full := s.phaseFull g && (!s.twoSweeps g || same)
    (full = false →
      exec .chimneySweep s = .next { s with grids := [{ g with lastSweep := some (g.sent, g.received), swept := same }] }) ∧
    (full = true → ∃ t x, exec .chimneySweep s = .next t ∧ t.grids = [x] ∧ x.handle = g.handle ∧ x.phases = g.phases + 1 ∧
      x.state = g.state ∧ x.arrivedPhase = [] ∧ x.lastSweep = none ∧ (x.phaseEdges.map fun e => e.1) =
        (g.phases + 1) :: g.phaseEdges.map (fun e => e.1) ∧
      ∀ y, y ∈ s.resident → (y.park = some .gwait ∨ ∃ n, y.park = some (.phend n)) → .retry y.uid ∈ t.agenda)) ∧
  ∀ (s : State) (g : Grid), s.grids.find? (fun x => x.handle == g.handle) = some g → s.gridOver g = true →
    ∃ t, exec (.gridCompletion g.handle) s = .next t ∧
      (∀ x, x ∈ t.grids → x.handle = g.handle → x.state = 4 ∧ x.endEdge.isSome = true) ∧
      ∀ y, y ∈ s.resident → y.gwaits = some (g.handle, none) → (s.grid y.grid).ctx = g.ctx →
        .retry y.uid ∈ t.agenda ∧ ∃ e, { y with park := some (.gwaitOver (some e)) } ∈ t.resident

/-- R380 to R382, R394, R395: a record whose slice is over is pre-empted and its blocks are named anew (assumption 16); one that has
waited 100 µs for room, part placed or not, takes it from the running record of the lowest priority below its own, and for one that has
room or nothing to place, or waits for its START or for its region's budget, the event changes nothing; the members' message of a START at least 100 µs ahead makes pending records a gang,
and an earlier one is ignored (assumption 18); when a member is late, every record of the gang with blocks left, pre-empted ones
among them, has the new START, which is the model's 100 µs ahead (assumption 18), and the event is logged. After a
pre-emption with pool pages for its images, which quiescing has not stopped with its fault domain, no group of the record's blocks is resident, every such block is saved, and the record's
STAT is 3. -/
def Obligations.SlicesAndGangs : Prop :=
  (∀ (s : State) (stn slot : Nat),
    let b := s.bind stn slot
    (b.live = true → b.stat = 1 → b.slice ≠ 0 → s.bindTime stn slot + b.slice * 1400 ≤ s.now →
      exec (.sliceExpiry stn slot) s = .next ((s.preempt stn slot).rebind stn slot)) ∧
    ((s.placeable stn slot).isSome = true ∨ s.nextOf b = none → exec (.priorityWaitExpiry stn slot) s = .next s) ∧
    (s.now < b.start ∨ (∀ i, s.nextOf b = some i → s.withinBudget (s.grid b.handle) (s.groupsOf (s.grid b.handle) i) = false) →
      exec (.priorityWaitExpiry stn slot) s = .next s) ∧
    (∀ idx, b.live = true → b.start ≤ s.now → s.placeable stn slot = none → s.nextOf b = some idx →
      s.withinBudget (s.grid b.handle) (s.groupsOf (s.grid b.handle) idx) = true → s.bindTime stn slot + 140000 ≤ s.now →
      (s.victim stn b.prio = none → exec (.priorityWaitExpiry stn slot) s = .next s) ∧
      ∀ i, s.victim stn b.prio = some i →
        exec (.priorityWaitExpiry stn slot) s = .next (((s.preempt stn i).rebind stn i).makeRoom stn slot 63)) ∧
    (let bs := s.blocks.filter fun x => !x.saved && decide (x.bind = some (stn, slot))
    let g := s.grid b.handle
    ((s.quiesce stn g (bs.map fun x => x.uid)).bind stn slot).live = true →
    imagePages g bs ≤ ((s.quiesce stn g (bs.map fun x => x.uid)).ctx g.ctx).poolLeft →
      let t := s.preempt stn slot
      (t.bind stn slot).stat = 3 ∧ (∀ x y, x ∈ t.resident ++ t.waiting → y ∈ bs → x.inBlock y.uid = false) ∧
      ∀ x y, x ∈ t.blocks → y ∈ bs → x.uid = y.uid → x.saved = true)) ∧
  (∀ (s : State) (gang start : Nat) (rs : List (Nat × Nat)), rs.Nodup → gang < 65536 → start < 2 ^ 64 →
    (∀ r, r ∈ rs → (s.bind r.1 r.2).live = true ∧ (s.bind r.1 r.2).stat = 0) →
    (start < s.now + 140000 → exec (.gangMessage gang start rs) s = .next s) ∧
    (s.now + 140000 ≤ start →
      ∃ t, exec (.gangMessage gang start rs) s = .next t ∧ t = { s with binds := t.binds } ∧ ∀ n i, t.bind n i =
        if (n, i) ∈ rs then { s.bind n i with cmask := (s.bind n i).cmask &&& s.coreMask n, gng := true, gang := gang, start := start }
        else s.bind n i)) ∧
  ∀ (s : State) (gang : Nat) (x : Nat × Nat), x ∈ s.gangRecords gang →
    (s.bind x.1 x.2).start + s.gangTol * 1400 < s.now →
    ∃ (u : State) (c f n : Nat), exec (.gangLate gang) s = .next (u.logEvent 1 c f n gang) ∧
      ∀ y, y ∈ u.gangAll gang → (u.bind y.1 y.2).start = (s.now + 140000) % 2 ^ 64

/-! Operations and MMAs. -/

/-- R113, R116, R182, R322 to R324, R341, R354, R390, R421: the events of operations. One that all its predecessors have left and that
finds an engine starts on it, its end due 56 clk later (assumption 7), and one that had begun goes on with what it has and receives no
edge again (assumption 46); one whose record is poisoned stops its fault domain; a marker completes; the end of an operation's run
without a stop lets its follow-on MMA start and performs its completion; a fault holds it under a token; an abort is taken with its cause. An operation without a completion value leaves the list when it ends. -/
def Obligations.OperationEvents : Prop :=
  (∀ (s : State) (o : Op), s.op o.id = some o →
    (o.stage = .queued → s.opReady o = true → s.still o.blk = false → nth s.power.cur (stationOf o.core) 0 ≠ 3 →
      (∀ m, o.kind = .qfen m → exec (.operationStart o.id) s =
        .next { s with ops := s.ops.filter (fun x => x.id != o.id), doneOps := s.doneOps ++ [o.markerDone] }) ∧
      ((∀ m, o.kind ≠ .qfen m) → ∀ e, s.freeEngine o = some e →
        ((∃ i, .engineRec o.id i ∈ s.poison) → exec (.operationStart o.id) s = .next (s.abortOp o 0x11 0 none)) ∧
        (o.began = true → (∀ i, .engineRec o.id i ∉ s.poison) → exec (.operationStart o.id) s =
          .next (s.putOp { o with stage := .running, engine := e, due := s.now + 56 })) ∧
        (o.began = false → (∀ i, .engineRec o.id i ∉ s.poison) → ∃ t x, exec (.operationStart o.id) s = .next t ∧ t.op o.id = some x ∧ SameMemory s t ∧
          x = { o with
            stage := .running, began := true, engine := e, targets := s.opTargets o, due := s.now + 56, party := x.party }))) ∧
    (o.stage = .running →
      let r := s.opRun o
      (r.stop = none → (∀ c, r.o.kind ≠ .kvst c) → exec (.operationCompletion o.id) s = .next (r.s.landOp r.o)) ∧
      (∀ c va kv, r.stop = some (.fault c va kv) → exec (.operationFault o.id) s = .next ((r.s.putOp r.o).faultOp r.o c va kv)) ∧
      (∀ page va, r.stop = some (.pri page va) → exec (.operationFault o.id) s = .next
        { r.s.putOp { r.o with stage := .pri } with
          priNext := r.s.priNext + 1, priWaits := r.s.priWaits ++ [(r.s.priNext, page)] }) ∧
      ∀ c va log, r.stop = some (.abort c va log) →
        exec (.operationAbort o.id c) s = .next ((r.s.putOp r.o).abortOp r.o c va log)) ∧
    (o.stage = .publishing → exec (.operationCompletion o.id) s = .next (s.finishOp o))) ∧
  (∀ (s : State) (o : Op), (descP o.desc.1 = false → descZ o.desc.1 = true → ∀ x, x ∈ (s.finishOp o).ops ↔ x ∈ s.ops ∧ x.id ≠ o.id) ∧
    ((∀ m, m ∈ s.mmas → m.follows ≠ some o.id) → s.landOp o = s.finishOp o) ∧
    (s.op o.id = some o → (∀ h, o.heldItem = some h → h.replays ≠ 15) → ∀ c va kv, ∃ h n,
      (s.faultOp o c va kv).op o.id = some { o with stage := .heldFault, heldItem := some h } ∧ h.faults = [(c, va, n)] ∧
        h.resumable = false)) ∧
  ∀ (s : State) (core i : Nat) (c : Corner), (s.corner.filter fun x => decide (x.core = core))[i]? = some c →
    exec (.cornerTurnTimeout core i) s = .next
      (c.cols.foldl (fun t x => match t.op x.2.2 with | some o => t.finishOp o | none => t)
        { s with corner := s.corner.filter fun x => !decide (x.core = c.core ∧ x.frame = c.frame ∧ x.grid = c.grid) })

/-- R162, R164, R165, R167, R170, R421: an array that takes an MMA starts from the tile's cells; it makes the steps one by one, each in
the clk of its formats; of an MMA that has made its steps it writes up to 8 rows back, and after the last row it leaves the queue;
poison that it reads, in the tile or in what a step reads of its operands, stops its fault domain. That MMA_WRITEBACK of an MMA that
lacks steps makes all of them at once is the model's choice (assumption 43). -/
def Obligations.MmaEvents : Prop :=
  (∀ (s : State) (core : Nat) (m : Mma), s.nextMma core = some m → s.cellPoison m = true →
    ∃ r, r.cause = 0x11 ∧ r.fd = s.fdOf m.grid ∧ r.core = m.core ∧ exec (.mmaStart core) s = .next (s.takeFatal r)) ∧
  (∀ (s : State) (core : Nat) (m : Mma), s.nextMma core = some m → s.cellPoison m = false →
    ∃ t, exec (.mmaStart core) s = .next t ∧ SameMemory s t ∧ t.lastServed core = s.mmaSlot m ∧ t.blocks = s.blocks ∧
      ∃ x, x ∈ t.mmas ∧ x = { m with
        running := true, party := x.party, acc := (s.tile m.blk (mmaTile m.cmd)).cells,
        due := s.now + if m.kdone < mmaKb m.cmd then m.clk else 1 }) ∧
  (∀ (s : State) (core : Nat) (m : Mma),
    (s.stepping core = some m →
      (let fatal (r : TrapRec) (va : Nat) : Prop := r.cause = 0x11 ∧ r.fd = s.fdOf m.grid ∧ r.va = va ∧ r.core = m.core
      let left := mmaKb m.cmd - m.kdone
      (∀ va, s.stepPoison m m.kdone = some va → ∃ r, fatal r va ∧ s.arrayStep core = s.takeFatal r) ∧
      (s.stepPoison m m.kdone = none → let r := s.mmaAdvance m (m.kdone + 1) 1
        s.arrayStep core =
          r.2.putMma { r.1 with due := if r.1.kdone < mmaKb m.cmd then s.now + m.clk else s.writeFrom core + 1 }) ∧
      (s.firstWriteback core = none →
        (∀ va, s.mmaPoison m left = some va → ∃ r, fatal r va ∧ exec (.mmaWriteback core) s = .next (s.takeFatal r)) ∧
        ((∀ i, i < left → s.stepPoison m (m.kdone + i) = none) → let r := s.mmaAdvance m (mmaKb m.cmd) (mmaKb m.cmd)
          exec (.mmaWriteback core) s = .next (r.2.writeRows r.1))))) ∧
    (s.firstWriteback core = some m → exec (.mmaWriteback core) s = .next (s.writeRows m))) ∧
  ∀ (s : State) (m : Mma), m ∈ s.mmas → m.clears = none → m.rows < mmaM m.cmd →
    let t := s.writeRows m
    SameMemory s t ∧
    (m.rows + 8 < mmaM m.cmd → ∃ x, x ∈ t.mmas ∧ x.id = m.id ∧ x.rows = m.rows + 8) ∧
    (mmaM m.cmd ≤ m.rows + 8 → (∀ x, x ∈ t.mmas → x.id ≠ m.id) ∧ ∃ d, d ∈ t.doneMmas ∧ d.id = m.id ∧ d.rows = mmaM m.cmd)

/-! The hub: rings, registers, peers. -/

/-- R353, R354, R356, R371 to R373, R389: an arm word or a command word that the host writes reaches its slot in the window, and the
hub takes the slots of the ring in order: of an armed slot or a command it writes the outcome back and goes to the next, and an arm whose
record it must page in waits (assumption 29). A slot that the host has written with anything but 0 is a command until the hub has taken it
(assumption 30). The hub reads and writes a slot where the window's access table lets it, and reads 0 where it does not (R407). The words of
REPLAY, RESUME and TEARDOWN, and what an arm of a valid record gives: its launch value is memory as it stands before the hub links the
record (R106). -/
def Obligations.RingCommands : Prop :=
  (∀ (s : State) (ctx slot : Nat) (v : BitVec 64), s.hostUp = true →
    let x := s.ctx ctx
    let off := x.armoff + 0x200 + 8 * (slot % 64)
    let inSlice := decide (x.woff * 65536 ≤ off ∧ off + 8 ≤ (x.woff + x.wsz) * 65536)
    let y := (s.readCtx ctx).ctx ctx
    exec (.armSlotWrite ctx slot v) s =
      .next ((s.hostWindow y.fn (y.armoff + 8 * (slot % 64)) (natLe v.toNat 8)).drainArms ctx 64) ∧
    ∀ i, i ∈ [Instr.replay ctx slot v, .resume ctx slot v, .teardown ctx slot v] →
      let t := s.hostWindow (if inSlice then x.fn else 0) off (natLe v.toNat 8)
      (x.valid = true → exec i s = .next ((t.markCmds ctx off 8).drainCmds ctx 64)) ∧ (x.valid = false → exec i s = .next t)) ∧
  (∀ (s : State) (c n : Nat),
    let x := (s.readCtx c).ctx c
    let arm := x.armoff + 8 * x.armNext
    let v := s.readSlot arm
    (v.1 % 2 = 0 → s.drainArms c (n + 1) = v.2) ∧
    (v.1 % 2 = 1 →
      (∀ page, v.2.armBlocked c v.1 = some page → s.drainArms c (n + 1) = v.2.askPage page) ∧
      (v.2.armBlocked c v.1 = none → let r := v.2.wakeDies.arm c v.1
        s.drainArms c (n + 1) =
          ((r.2.putSlot arm r.1).onCtx c fun y => { y with armNext := (y.armNext + 1) % 64 }).drainArms c n))) ∧
  (∀ (s : State) (c n : Nat),
    let x := s.ctx c
    let cmd := x.armoff + 0x200 + 8 * (x.cmdNext % 64)
    let left (m : BitVec 64) : BitVec 64 := m &&& ~~~(1#64 <<< x.cmdNext)
    (x.cmdFull.getLsbD x.cmdNext = false → s.drainCmds c n = s) ∧
    (x.cmdFull.getLsbD x.cmdNext = true →
      let v := s.readSlot cmd
      (v.1 = 0 → s.drainCmds c (n + 1) = v.2) ∧
      (v.1 ≠ 0 → let r := v.2.command c v.1
        s.drainCmds c (n + 1) = ((r.2.putSlot cmd r.1).onCtx c fun y =>
          { y with cmdNext := (y.cmdNext + 1) % 64, cmdFull := left y.cmdFull }).drainCmds c n)) ∧
    (c < s.ctxs.length → ∀ i j, i < 64 → j < 64 →
      let off := x.armoff + 0x200 + 8 * i
      ((s.markCmds c off 8).ctx c).cmdFull.getLsbD j =
        if j = i then decide (Memory.num s.window off 8 ≠ 0) else x.cmdFull.getLsbD j)) ∧
  (∀ (s : State) (off v : Nat),
    (accessOk s 9 148 off .read = true → s.readSlot off = (Memory.num s.window off 8, s)) ∧
    (accessOk s 9 148 off .read = false → s.readSlot off = (0, s.logDenial 9 148 off .read)) ∧
    (accessOk s 9 148 off .write = true → s.putSlot off v = s.putWin off (natLe v 8)) ∧
    (accessOk s 9 148 off .write = false → s.putSlot off v = s.logDenial 9 148 off .write)) ∧
  (∀ (s : State) (c tk fd : Nat), tk < 2 ^ 20 → fd < 64 →
    s.command c (1 * 2 ^ 60 + tk * 2 ^ 32) = s.doReplay c tk ∧ s.command c (2 * 2 ^ 60 + tk * 2 ^ 32) = s.doResume c tk ∧
    s.command c (3 * 2 ^ 60 + fd) = (0, s.teardown fd) ∧ (tk ≠ 0 → s.command c (3 * 2 ^ 60 + tk * 2 ^ 32 + fd) = (2, s))) ∧
  (∀ (s0 : State) (c va : Nat), va % 256 = 0 →
    let s := (s0.readCtx c).syncPages c
    (2 ^ 56 ≤ va ∨ (s.ctx c).valid = false → s0.arm c (va + 1) = (2, s)) ∧
    (va < 2 ^ 56 → (s.ctx c).valid = true → ∀ r t, s.hubRead c va 256 = (some r, t) →
      (t.rcbLive (t.placeKey c va) = true → s0.arm c (va + 1) = (4, t)) ∧
      (t.rcbLive (t.placeKey c va) = false → t.freeHandle = none → s0.arm c (va + 1) = (6, t)) ∧
      (t.rcbLive (t.placeKey c va) = false → ∀ h, t.freeHandle = some h →
        let kva := recNum r 0x60 8
        let rd := if kva = 0 ∨ 2 ^ 56 ≤ kva ∨ kva % 64 ≠ 0 then t else (t.hubRead c kva 64).2
        let rg := (rd.linkHost c va r).region c r
        ∃ g kv, s0.arm c (va + 1) = (0, rg.2.accept g kv r) ∧ g.handle = h ∧ g.ctx = c ∧ g.rcbVa = va ∧ g.region = rg.1 ∧
          g.snapMem = t.hbm ∧ g.snapSys = t.sysMem)))

/-- R100, R354, R359, R360, R362, R366, R368, R377: writes of the hub's registers through their blocks, and the hub's own turns. A PTSYNC starts
a synchronisation or joins the one in progress, whose end counts, drops the translations of its contexts and reads their entries; PPHEAD takes the producer's count; COAL sets a coalescer, and a
tick fires those that are due; a write of 1 clears FATALV; training sets the peer of a port. -/
def Obligations.HubRegisters : Prop :=
  (∀ (s : State) (v : BitVec 64),
    (s.takesWrite 0 0x20000 → ∃ t, exec (.ptsyncWrite v) s = .next t ∧
      t = { s with ptBusy := true, ptAll := s.ptBusy && s.ptAll || v.getLsbD 8, ptCtxs := t.ptCtxs } ∧
      ∀ c, c ∈ t.ptCtxs ↔ (s.ptBusy = true ∧ c ∈ s.ptCtxs) ∨ if v.getLsbD 8 then c < 64 else c = v.toNat % 64) ∧
    (s.ptBusy = true → ∃ t, exec .ptsyncCompletion s = .next t ∧ SameMemory s t ∧ t.ptBusy = false ∧ t.ptCtxs = [] ∧
      t.ptDone = s.ptDone + 1 ∧ (∀ c, s.ptCtxs = [c] → t.ctxs = (((s.dropTlb c).readCtx c).syncPages c).ctxs ∧
        (∀ x, x ∈ t.tlb → x.2.1 ≠ c) ∧ ∀ x, x ∈ t.atsCache → x.1 ≠ c)) ∧
    (∀ c, c < 64 → s.takesWrite 0 (0x40000 + 16 * c) →
      let u := s.onCtx c fun x => { x with ppHead := v.setWidth 32 }
      exec (.ppheadWrite c v) s = .next (u.resumeSaves c) ∧
      ((∀ x, x ∈ s.asked → (s.bind x.1 x.2.1).ctx ≠ c) → exec (.ppheadWrite c v) s = .next u)) ∧
    (∀ f n, f < 8 → n < 32 → s.takesWrite 0 (0x50000 + 512 * f + 16 * n) →
      ∃ t, exec (.coalWrite f n v) s = .next t ∧ t = { s with coal := t.coal } ∧
        (∀ g m, ¬(g = f ∧ m = n) → t.coalOf g m = s.coalOf g m) ∧
        t.coalOf f n = { s.coalOf f n with
          en := v.getLsbD 31, cnt := max 1 (field v.toNat 16 8), win := max 1 (field v.toNat 0 10),
          t0 := if v.getLsbD 31 && !(s.coalOf f n).en then s.now else (s.coalOf f n).t0 }) ∧
    (s.takesWrite 0 0x100240 → exec (.fatalvClear v) s = .next { s with fatalV := s.fatalV && !v.getLsbD 0 })) ∧
  (∀ s : State,
    let due := s.coal.filter fun c => c.en && decide (0 < c.pending) && (decide (c.cnt ≤ c.pending) ||
      decide (c.win * 1400 ≤ s.now - c.t0))
    ∃ t, exec .coalescerTick s = .next t ∧ t = { s with coal := t.coal, msix := s.msix ++ due.map fun c => (c.fn, c.vector) } ∧
      ∀ c, c ∈ due → (t.coalOf c.fn c.vector).pending = 0) ∧
  ∀ (s : State) (port : Nat) (h : BitVec 16), port < s.peers.length → ∃ t, exec (.peerLinkTraining port h) s = .next t ∧
    t = { s with peers := t.peers } ∧ (∀ q, q ≠ port → nth t.peers q ⟨0, 0, 0⟩ = nth s.peers q ⟨0, 0, 0⟩) ∧
    nth t.peers port ⟨0, 0, 0⟩ =
      { nth s.peers port ⟨0, 0, 0⟩ with out := ((nth s.peers port ⟨0, 0, 0⟩).out &&& 0x80000000) ||| h.setWidth 32 }

/-- R354, R366, R367, R383, R388: a peer's write through a port that takes it stands in memory where it translates, and where it
does not it holds the port; a write to PEERRES tries the transfer held by a fault again; the driver's consumer word, which the hub reads where its own count shows
too little room, lets the records that wait be written; a PRI response that answers lets what waited for the page try again, and one that
fails is fatal for the group; the hub's own accesses to the page go on too, where there are any, and the arms that waited for it are taken, or
written back with 2. The driver's word is written only where the access table of its stack lets the function (R407). That n records wait until 8 + n entries
are free is assumption 84, when the hub reads the consumer word 31, what a PRI response releases 29, the transfer that a port holds 28. -/
def Obligations.PeersQueuesAndPri : Prop :=
  (∀ (s : State) (port va c : Nat) (bs : List Byte), port < 12 → s.inbound = [] → s.peerIn port = some c → bs ≠ [] →
    s.power.dieOff = List.replicate 4 false → va + bs.length < 2 ^ 56 → va % 4096 + bs.length ≤ 4096 →
    accessOk s (10 + port) (136 + port) va .write = true → Memory.wf s.hbm = true →
    (∀ pa o, translate s c (136 + port) va .write = .ok (.mem pa o) → ∃ t, exec (.peerInboundWrite port va bs) s = .next t ∧
      StoredAt s.hbm t.hbm pa bs ∧ t.sysMem = s.sysMem ∧ t.window = s.window ∧ t.inbound = [] ∧ t.me = s.me ∧ t.groups = s.groups) ∧
    (translate s c (136 + port) va .write = .fault → ∃ t x, exec (.peerInboundWrite port va bs) s = .next t ∧
      t.inbound = [x] ∧ x.port = port ∧ x.va = va ∧ x.bytes = bs ∧ x.releases = 0)) ∧
  (∀ (s : State) (port : Nat) (x : Inbound), port < 12 → s.takesWrite 0 (0x60000 + 32 * port + 16) →
    s.inbound.find? (fun y => y.port == port) = some x → x.request = none →
    exec (.peerresWrite port) s = .next (s.peerTry { x with releases := x.releases + 1 })) ∧
  (∀ (s : State) (f : Nat) (v : BitVec 32), f < 8 → s.queues.length = 8 →
    let q := s.queue f
    let at_ := field q.headVa.toNat 2 54 * 4
    q.base.getLsbD 0 = true → Memory.wf s.hbm = true → Memory.wf s.sysMem = true →
    q.headVa.getLsbD 63 = true ∨ accessOk s (at_ / 4096 % 8) hubMaster at_ .read = true →
    q.headVa.getLsbD 63 = true ∨ accessOk s (at_ / 4096 % 8) (hostMaster f) at_ .write = true →
    ∃ t, exec (.trapQueueRetry f v) s = .next t ∧ t.me = s.me ∧ t.groups = s.groups ∧
      (s.unrecorded = [] → t.queue f = q ∧
        StoredAt (if q.headVa.getLsbD 63 then s.sysMem else s.hbm) (if q.headVa.getLsbD 63 then t.sysMem else t.hbm) at_
          (natLe v.toNat 4)) ∧
      ∀ u, s.unrecorded = [u] → u.fn = f →
        let n := u.records.length
        let known : Word := if 8 + n ≤ 4096 - (q.prod - q.consumed).toNat then q.consumed else v
        (8 + n ≤ 4096 - (q.prod - known).toNat →
          t.unrecorded = [] ∧ t.queue f = { q with prod := q.prod + BitVec.ofNat 32 n, consumed := known }) ∧
        (4096 - (q.prod - known).toNat < 8 + n → t.unrecorded = [u] ∧ t.queue f = { q with consumed := known })) ∧
  (∀ (s : State) (request page : Nat), s.priWaits.find? (fun x => x.1 == request) = some (request, page) → s.inbound = [] →
    let waits (g : Group) : Bool := match g.park with | some (.pri r _) => decide (r = request) | _ => false
    (∃ t, exec (.priResponse request true) s = .next (t.priHubs page (s.armsFor page) true) ∧ SameMemory s t ∧
      (∀ x, x ∈ t.priWaits ↔ x ∈ s.priWaits ∧ x.1 ≠ request) ∧ (∀ p, p ∈ t.noAts ↔ p ∈ s.noAts ∧ p ≠ page) ∧
      (t.resident = s.resident.map fun g => if waits g then g.released s.now else g) ∧ ∀ o, o ∈ t.ops → o.stage ≠ .pri) ∧
    ∀ g va, s.allGroups.filter waits = [g] → g.park = some (.pri request va) → (∀ o, o ∈ s.ops → o.stage ≠ .pri) →
      ∃ r, exec (.priResponse request false) s = .next
        ((({ s with priWaits := s.priWaits.filter fun x => x.1 != request } : State).takeFatal r).priHubs page (s.armsFor page) false) ∧
        r.cause = 0x04 ∧ r.fd = s.fdOf g.grid ∧ r.handle = g.grid ∧ r.va = va) ∧
  (∀ (s : State) (f : Nat) (v : BitVec 32), f < 8 →
    let q := s.queue f
    let at_ := field q.headVa.toNat 2 54 * 4
    q.base.getLsbD 0 = true → q.headVa.getLsbD 63 = false → accessOk s (at_ / 4096 % 8) (hostMaster f) at_ .write = false →
    exec (.trapQueueRetry f v) s = .next (s.logDenial (at_ / 4096 % 8) (hostMaster f) at_ .write)) ∧
  (∀ (s : State) (page : Nat) (ok : Bool), (∀ w, w ∈ s.hubWaits → w.page ≠ page) → s.priHubs page [] ok = s) ∧
  ∀ (s : State) (page c : Nat),
    let x := (s.readCtx c).ctx c
    let v := (s.readSlot (x.armoff + 8 * x.armNext)).1
    (c ∈ s.armsFor page ↔ c < 64 ∧ v % 2 = 1 ∧ s.armBlocked c v = some page) ∧
    s.armResponse true c = s.drainArms c 64 ∧
    s.armResponse false c = ((s.putSlot (x.armoff + 8 * x.armNext) 2).onCtx c fun y => { y with armNext := (y.armNext + 1) % 64 }).drainArms c 64

/-! What the host does through its windows and registers. -/

/-- R99, R123, R353, R365, R402, R407, R408, R413: host accesses. In recovery BAR2 shows the signal box's memory to PF0; otherwise a write
reaches the bytes of the coherent window that the function may write, and a read gives those it may read, all ones where a table denies
it or the word is poisoned (R421). An allowed aperture access reaches device memory, and what HFLUSH.inv finds of device-owned pages. A
byte of the debug window of a halted station reaches the uniform register it names. DENYPROD reads the count and arms the interrupt again.
The places of the SRAM in target 22 are assumption 97, those of the debug window 23 (the model's choices); that denials go page by page
is assumption 85. -/
def Obligations.HostWindows : Prop :=
  (∀ (s : State) (fn off len : Nat) (bs : List Byte),
    (s.showsSram fn = true → Memory.wf s.sbSram = true →
      let may (k : Access) (a : Nat) : Bool := accessOk s 22 (128 + fn) a k
      (∃ t, exec (.hostWindowWrite fn off bs) s = .next t ∧
        t = { (s.hostPieces 22 fn off (bs.take (0x400000 - off)).length .write).2 with sbSram := t.sbSram, poison := t.poison } ∧
        (∀ p, p ∈ t.poison → p ∈ s.poison) ∧
        PutWhere s.sbSram t.sbSram off bs fun a => a < 0x400000 ∧ may .write a = true) ∧
      exec (.hostWindowRead fn off len) s = .next { (s.hostPieces 22 fn off (min len (0x400000 - off)) .read).2 with
        hostRead := (List.range len).map fun i =>
          if 0x400000 ≤ off + i then 0
          else if may .read (off + i) = false ∨ s.poison.contains (.sram ((off + i) / 8)) = true then 0xFF
          else Memory.get s.sbSram (off + i) }) ∧
    (s.showsSram fn = false → s.hostUp = true →
      exec (.hostWindowWrite fn off bs) s = .next ((s.hostWindow fn off bs).drainRings off bs.length).syncLive ∧
      (Memory.wf s.window = true → PutWhere s.window (s.hostWindow fn off bs).window off bs fun a => s.winWritable fn a = true) ∧
      exec (.hostWindowRead fn off len) s = .next { s.winDenials fn off len .read with
        hostRead := (List.range len).map fun i =>
          if s.ownsWindow fn (off + i) = false then 0
          else if accessOk s 9 (128 + fn) (off + i) .read = false ∨ s.poison.contains (.win ((off + i) / 8)) = true then 0xFF
          else Memory.get s.window (off + i) } ∧
      ((∀ i, i < len → s.ownsWindow fn (off + i) = true → accessOk s 9 (128 + fn) (off + i) .read = true) →
        s.winDenials fn off len .read = s))) ∧
  (∀ (s : State) (off len : Nat) (bs : List Byte), s.hostUp = true → s.power.dieOff = List.replicate 4 false →
    let pa := field s.apBase.toNat 28 28 * 2 ^ 28 + off
    (bs ≠ [] → off + bs.length ≤ 2 ^ s.bar4Exp → pa + bs.length ≤ hbmBytes → Memory.wf s.hbm = true →
      (∀ i, i < bs.length → accessOk s ((pa + i) / 4096 % 8) 128 (pa + i) .write = true) →
      ∃ t, exec (.hostApertureWrite off bs) s = .next t ∧ StoredAt s.hbm t.hbm pa bs ∧
        t = { s with
          hbm := t.hbm, flushed := t.flushed, hostBytes := t.hostBytes, fixes := t.fixes, poison := t.poison, ctxs := t.ctxs,
          grids := t.grids, hubWords := t.hubWords } ∧
        ∀ x b, (x, b) ∈ t.hostBytes → pa ≤ x → x < pa + bs.length →
          if inPages s.ownedPages false x then b = nth bs (x - pa) 0 else (x, b) ∈ s.hostBytes) ∧
    (len ≠ 0 → off + len ≤ 2 ^ s.bar4Exp → pa + len ≤ hbmBytes →
      (∀ i, i < len → accessOk s ((pa + i) / 4096 % 8) 128 (pa + i) .read = true) →
      exec (.hostApertureRead off len) s = .next { s with
        hostRead := (List.range len).map fun i =>
          if s.poison.contains (.mem ((pa + i) / 8)) then 0xFF
          else match s.flushed.find? fun x => x.1 == pa + i && inPages s.ownedPages false (pa + i) with
            | some x => x.2
            | none => Memory.get s.hbm (pa + i) })) ∧
  (∀ (s : State) (off n core gs r i : Nat) (b : Byte), s.takesWrite 0 (0x2000000 + off) → s.shown = some n →
    off < 4 * (6 * 2 ^ 20) → core = 4 * n + off / (6 * 2 ^ 20) → s.poolAt core (off % (6 * 2 ^ 20)) = .kreg gs r i →
    ∃ t, exec (.debugWindowWrite off [b]) s = .next t ∧ t = { s with me := t.me, groups := t.groups } ∧
      t.resident = s.resident.map fun g =>
        if g.core = core ∧ g.gslot = gs then { g with k := setNth g.k r (pokeWord (nth g.k r 0) i b) } else g) ∧
  (∀ (w : Word) (i : Nat) (b : Byte), i < 4 → ∀ j, j < 4 →
    (pokeWord w i b).extractLsb' (8 * j) 8 = if j = i then b else w.extractLsb' (8 * j) 8) ∧
  ∀ s : State, s.regUp 0x411000 = true → accessOk s 8 128 0x411000 .read = true →
    exec .denyprodRead s = .next { s with
      hostRead := natLe s.sec.denyProd.toNat 8, sec := { s.sec with denyArmed := true } }

/-- R353, R355, R356, R362, R365, R366, R377, R382, R406, R409, R413: what a write of a whole register of BAR0 does to the plain
registers, with the bits they define; a low half of a 64-bit register waits, and the high half then writes both; a virtual function
reaches the pages of its own contexts, where PPHEAD stands at offset 0 (a place that is the model's, assumption 25), and its access is
checked at PF0's offset (assumption 33). A write to a register that the access table denies does nothing but log the denial. The host's
reads are turns of the model (assumption 102). A read gives a register of 64 bits whole or by halves, 0 in a slot
that a virtual function does not own, and every function has the vendor ID 0x1F3D and the device ID 0x4128. -/
def Obligations.RegisterWrites : Prop :=
  (∀ (s : State) (v : BitVec 64),
    let writes (off : Nat) (u : State) : Prop := s.takesWrite 0 off → exec (.registerWrite 0 off true v) s = .next u
    writes 0x10000 { s with ctxBase := v &&& 0x00FFFFFFFFFFF001 } ∧
    writes 0x30000 { s with apBase := v &&& 0x00FFFFFFF0000000 } ∧
    writes 0x100300 { s with gangTol := max 1 (v.toNat % 65536) } ∧
    writes 0x100308 { s with slice := v.toNat % 65536 } ∧
    writes 0x4019B0 { s with sec := { s.sec with dbgSel := v.toNat % 32 } } ∧
    writes 0x401A00 { s with sec := { s.sec with trBase := v &&& 0x00FFFFFFFFFF0001 } } ∧
    (∀ f, f < 8 → writes (0x100000 + 64 * f) (s.setQueue f fun q => { q with base := v &&& 0x80FFFFFFFFFC0001 }) ∧
      writes (0x100008 + 64 * f) (s.setQueue f fun q => { q with headVa := v &&& 0x80FFFFFFFFFFFFFC })) ∧
    (∀ i, i < 23 * 8192 → s.takesWrite 0 (0x480000 + 8 * i) → ∃ t, exec (.registerWrite 0 (0x480000 + 8 * i) true v) s = .next t ∧
      t = { s with access := t.access } ∧ (∀ j, j ≠ i → accessWord t j = accessWord s j) ∧
      accessWord t i = v &&& (if i % 2 = 0 then 0x00FFFFFFFFFFF00F else 0x00FFFFFFFFFFF000)) ∧
    (∀ off, s.takesWrite 0 off → off ∈ [0x10000, 0x30000, 0x401A00] →
      exec (.registerWrite 0 off false v) s =
        .next { s with regLow := (off, v.setWidth 32) :: s.regLow.filter fun x => x.1 != off }) ∧
    (∀ off lo, off ∈ [0x10000, 0x30000, 0x401A00] → s.takesWrite 0 (off + 4) → s.regLow.find? (fun x => x.1 == off) = some (off, lo) →
      exec (.registerWrite 0 (off + 4) false v) s =
        .next (({ s with regLow := s.regLow.filter fun y => y.1 != off } : State).regWrite off (v.setWidth 32 ++ lo))) ∧
    ∀ c fn, 0 < fn → c < 64 → (s.ctx c).valid = true → (s.ctx c).fn = fn → s.takesWrite fn (0x1000000 + 65536 * c) →
      exec (.registerWrite fn (65536 * c) true v) s = .next (s.setPpHead c v.toNat)) ∧
  (∀ (s : State) (off : Nat) (wide : Bool) (v : BitVec 64), off < 0x4000000 → off % 8 = 0 → s.regUp off = true →
    accessOk s 8 128 off .write = false → exec (.registerWrite 0 off wide v) s = .next (s.logDenial 8 128 off .write)) ∧
  ∀ (s : State) (fn off : Nat), s.power.removed = false →
    (off < 0x4000000 → off % 8 = 0 → s.regUp off = true → off ≠ 0x411000 → accessOk s 8 128 off .read = true →
      s.hostAct (.readRegister 0 off true) = { s with hostRead := natLe (s.regRead off).toNat 8 } ∧
      s.hostAct (.readRegister 0 off false) = { s with hostRead := (natLe (s.regRead off).toNat 8).take 4 } ∧
      (accessOk s 8 128 (off + 4) .read = true →
        s.hostAct (.readRegister 0 (off + 4) false) = { s with hostRead := (natLe (s.regRead off).toNat 8).drop 4 })) ∧
    (0 < fn → (s.ctx (off / 65536)).fn ≠ fn → s.hostAct (.readRegister fn off true) = { s with hostRead := List.replicate 8 0 }) ∧
    (fn < 8 → s.hostAct (.readIds fn) = { s with hostRead := [0x3D, 0x1F, 0x28, 0x41] })

/-! Boot, security, debug. -/

/-- R399, R400 to R405, R409 to R411: power-on, recovery, measurements (a MEXT of index 0 or 1 changes nothing), reports, tokens, levels and halting. Reset keeps the boot
flash, the fuses and the host's memory, and boots an image that the checks accept, else it enters recovery with the code of the
first failure. What reset keeps is assumption 38, that empty memory lists nothing 4, the token captured and the report built at its
completion 34. -/
def Obligations.BootAndSecurity : Prop :=
  (∀ s : State,
    let img : Memory := s.flash.filter fun x => decide (x.1 < 0x400000)
    let e := if s.flashFails then 0x01 else imgError img s.sec.rollCount
    ∃ t, exec .powerOnReset s = .next t ∧ t.flash = s.flash ∧ t.sysMem = s.sysMem ∧ t.sbSram = img ∧ t.hbm = [] ∧ t.window = [] ∧
      t.me = Group.empty ∧ t.groups = [] ∧ t.grids = [] ∧ t.ops = [] ∧ t.sec.lock = s.sec.lock ∧
      t.sec.sec = (if s.sec.lock then 0 else 2) ∧ t.sec.dmax = (if s.sec.lock then 0 else 2) ∧ t.sec.halt = 0 ∧ t.sec.dbgLvl = 0 ∧
      (e ≠ 0 → t.sec.stage = 2 ∧ t.sec.err = e ∧ t.sec.roll = s.sec.roll ∧ t.msix = s.msix ++ [(0, 35)]) ∧
      (e = 0 → t.sec.stage = 3 ∧ t.sec.err = 0 ∧ t.sec.recovery = false ∧
        t.sec.roll = BitVec.ofNat 64 (2 ^ recNum (Memory.bytes img 0 0x200) 8 8 - 1))) ∧
  (∀ s : State, s.sec.stage = 3 → exec .firmwareReady s = .next { s with sec := { s.sec with stage := 4 } }) ∧
  (∀ (s : State) (len : BitVec 64), s.takesWrite 0 0x400008 → s.sec.stage = 2 → s.sec.recLen = none →
    exec (.recgoWrite len) s = .next { s with sec := { s.sec with recLen := some (len.toNat % 2 ^ 23) } }) ∧
  (∀ (s : State) (n : Nat), s.sec.recLen = some n → ∃ t, exec .recoveryVerdict s = .next t ∧ t = { s with sec := t.sec, msix := t.msix } ∧
    t.sec.recLen = none ∧
    (s.recoveryError n ≠ 0 → t.sec.stage = 2 ∧ t.sec.err = s.recoveryError n ∧ t.msix = s.msix ++ [(0, 35)]) ∧
    (s.recoveryError n = 0 → t.sec.stage = 3 ∧ t.sec.err = 0 ∧ t.sec.recovery = true ∧ t.msix = s.msix)) ∧
  (∀ (s : State) (v : BitVec 64),
    (s.takesWrite 0 0x400040 → v.toNat % 8 < 2 → exec (.mextWrite v) s = .next s) ∧
    (s.takesWrite 0 0x400040 → 2 ≤ v.toNat % 8 →
      (s.sec.attBusy = false → exec (.mextWrite v) s = .next { s with sec := { s.sec with
        meas := setNth s.sec.meas (v.toNat % 8) (sha512 (nth s.sec.meas (v.toNat % 8) [] ++ s.sec.mextd)) } }) ∧
      (s.sec.attBusy = true → exec (.mextWrite v) s = .next { s with sec := { s.sec with
        mextPend := s.sec.mextPend ++ [(v.toNat % 8, s.sec.mextd)] } })) ∧
    (s.takesWrite 0 0x401040 → s.sec.attBusy = false →
      exec .attctlWrite s = .next { s with sec := { s.sec with attBusy := true, attDone := false } }) ∧
    (s.takesWrite 0 0x401900 → s.sec.dbgBusy = false →
      exec .dbgctlWrite s = .next { s with sec := { s.sec with dbgBusy := true, dbgCap := s.sec.dbgTok } }) ∧
    (∀ half, half < 2 → s.takesWrite 0 (0x401980 + 8 * half) → ∃ t, exec (.dbglvlWrite half v) s = .next t ∧
      t = { s with sec := { s.sec with dbgLvl := t.sec.dbgLvl } } ∧ ∀ c, c < 64 → field t.sec.dbgLvl.toNat (2 * c) 2 =
        if c / 32 = half then min (field v.toNat (2 * (c % 32)) 2) s.sec.dmax else field s.sec.dbgLvl.toNat (2 * c) 2) ∧
    (s.takesWrite 0 0x4019A0 → ∃ t, exec (.haltWrite v) s = .next t ∧ t.me = s.me ∧ t.groups = s.groups ∧
      ∀ n, n < 32 → t.sec.halt.getLsbD n = (s.sec.halt.getLsbD n || (v.getLsbD n && s.mayHalt n))) ∧
    (s.takesWrite 0 0x4019A8 → ∃ t, exec (.releaseWrite v) s = .next t ∧ t.me = s.me ∧
      t.sec.halt = s.sec.halt &&& ~~~(v.setWidth 32))) ∧
  (∀ s : State, s.sec.attBusy = true → ∃ t sig, exec .attestationReportReady s = .next t ∧ t.sec.attRpt = s.reportBody ++ sig ∧
    sig.length = 132 ∧ t.sec.attBusy = false ∧ t.sec.attDone = true ∧ t.sec.mextPend = [] ∧ t.msix = s.msix ++ [(0, 36)] ∧
    t = { s with sec := t.sec, msix := t.msix, draws := s.draws + 1 } ∧ (s.sec.mextPend = [] → t.sec.meas = s.sec.meas)) ∧
  ∀ s : State, s.sec.dbgBusy = true → ∃ t, exec .debugTokenVerdict s = .next t ∧ t.sec.dbgBusy = false ∧
    t.sec.dbgNonce.length = 64 ∧ t.msix = s.msix ++ [(0, 38)] ∧ t = { s with sec := t.sec, msix := t.msix, draws := s.draws + 8 } ∧
    (s.tokenOk = true → t.sec.sec = 1 ∧ t.sec.dmax = recNum s.sec.dbgCap 4 4 ∧ t.sec.dbgRes = 1) ∧
    (s.tokenOk = false → t.sec.sec = s.sec.sec ∧ t.sec.dmax = s.sec.dmax ∧ t.sec.dbgRes = 2)

/-! Power. -/

/-- R411, R414 to R417: power states. CLKSEL and the station and die controls start changes that their conditions let start, and
refuse the others; the end of a change sets the state and fires the entry; entering D3hot where no block or record is left, and losing
power. Requests for the present state and the refusals of P2 are assumption 36, what power removal keeps and clears 38 and 4. -/
def Obligations.PowerChanges : Prop :=
  (∀ (s : State) (v : BitVec 64), s.takesWrite 0 0x403000 → exec (.clkselWrite v) s = .next
    (if s.power.p1 = v.getLsbD 0 then s else { s with power := { s.power with p1 := v.getLsbD 0, clkBusy := true } })) ∧
  (∀ (s : State) (n : Nat) (v : BitVec 64), n < 32 → s.takesWrite 0 (0x403100 + 8 * n) →
    let t := v.toNat % 8
    (t = 0 ∨ t = 2 ∨ t = 3 → s.stationCan n t = false →
      exec (.stnpwrWrite n v) s = .next { s with power := { s.power with refused := setNth s.power.refused n true } }) ∧
    (t = 0 ∨ t = 2 → s.stationCan n t = true → nth s.power.cur n 0 ≠ t → exec (.stnpwrWrite n v) s = .next { s with power := { s.power with
      tgt := setNth s.power.tgt n t, busy := setNth s.power.busy n true, refused := setNth s.power.refused n false } }) ∧
    (t = 3 → s.sec.halt.getLsbD n = true → exec (.stnpwrWrite n v) s =
      .next { s with power := { s.power with refused := setNth s.power.refused n true } }) ∧
    (t = 3 → s.sec.halt.getLsbD n = false → nth s.power.cur n 0 ≠ 3 → exec (.stnpwrWrite n v) s = .next
      ((({ s with power := { s.power with tgt := setNth s.power.tgt n 3, busy := setNth s.power.busy n true,
                                            refused := setNth s.power.refused n false } } : State).preemptAll n).bindWaiting)) ∧
    (t = 1 ∨ 4 ≤ t → exec (.stnpwrWrite n v) s = .next s)) ∧
  (∀ (s : State) (n : Nat), n < 32 →
    let now (u : State) (x : Nat) : State :=
      { u with power := { u.power with cur := setNth u.power.cur n x, tgt := setNth u.power.tgt n x, busy := setNth u.power.busy n false },
               msix := u.msix ++ [(0, 39)] }
    (nth s.power.cur n 0 = 0 → nth s.power.busy n false = false → s.sec.halt.getLsbD n = false → s.stationIdle n = true →
      exec (.stationIdleP2 n) s = .next (now s 2)) ∧
    (nth s.power.busy n false = true →
      (nth s.power.tgt n 0 = 2 → s.stationCan n 2 = true → exec (.powerTransitionComplete n) s = .next (now s 2)) ∧
      (nth s.power.tgt n 0 = 0 → let d := n / 8
        exec (.powerTransitionComplete n) s = .next (now (if nth s.power.dieOff d false then
          (s.setDie d false (nth s.power.dieBusy d false) false).fire 0 39 else s) 0).bindWaiting) ∧
      (nth s.power.tgt n 0 = 3 → s.sec.halt.getLsbD n = false → s.holdsBlocks n = false → s.corner = [] → n < s.power.cur.length →
        ∃ t, exec (.powerTransitionComplete n) s = .next t ∧ nth t.power.cur n 0 = 3 ∧ SameMemory s t ∧ t.onStation n = [] ∧
          (∀ x, x ∈ t.icache ↔ x ∈ s.icache ∧ x.1 ≠ n) ∧ ∀ o, o ∈ t.ops → stationOf o.core = n → o.stage ≠ .running))) ∧
  (∀ (s : State) (d : Nat) (v : BitVec 64), d < 4 → s.takesWrite 0 (0x403200 + 8 * d) →
    (nth s.power.dieOff d false = v.getLsbD 0 → exec (.diepwrWrite d v) s = .next (s.setDie d (v.getLsbD 0) false false)) ∧
    (nth s.power.dieOff d false = false → v.getLsbD 0 = true → s.dieCan d = true →
      exec (.diepwrWrite d v) s = .next (s.setDie d false true false)) ∧
    (nth s.power.dieOff d false = false → v.getLsbD 0 = true → s.dieCan d = false →
      exec (.diepwrWrite d v) s = .next (s.setDie d false (nth s.power.dieBusy d false) true)) ∧
    (nth s.power.dieOff d false = true → v.getLsbD 0 = false → exec (.diepwrWrite d v) s = .next (s.setDie d true true false))) ∧
  (∀ (s : State) (d : Nat), d < 4 → nth s.power.dieBusy d false = true →
    (nth s.power.dieOff d false = false → s.dieCan d = true →
      exec (.powerTransitionComplete (32 + d)) s = .next ((s.setDie d true false false).fire 0 39)) ∧
    (nth s.power.dieOff d false = true →
      exec (.powerTransitionComplete (32 + d)) s = .next ((s.setDie d false false false).fire 0 39).bindWaiting)) ∧
  (∀ s : State, s.power.clkBusy = true → exec (.powerTransitionComplete 36) s =
    .next { s with power := { s.power with clkBusy := false }, msix := s.msix ++ [(0, 39)] }) ∧
  (∀ s : State, s.power.d3hot = false → s.power.removed = false → s.blocks = [] → s.binds = [] → s.corner = [] →
    ∃ t, exec .d3hotEntry s = .next t ∧ t.power.d3hot = true ∧ SameMemory s t ∧
      ∀ n, n < 32 → n < s.power.cur.length → s.sec.halt.getLsbD n = false → nth t.power.cur n 0 = 3) ∧
  (∀ s : State, s.power.d3hot = true → ∃ t, exec .d0Return s = .next t ∧ t.power = { s.power with d3hot := false } ∧ t.me = s.me ∧
    t.groups = s.groups ∧ t.blocks = s.blocks) ∧
  ∀ s : State, ∃ t, exec .powerRemoval s = .next t ∧ t.power.removed = true ∧ t.hbm = [] ∧ t.window = [] ∧ t.sbSram = [] ∧
    t.me = Group.empty ∧ t.groups = [] ∧ t.grids = [] ∧ t.flash = s.flash ∧ t.sysMem = s.sysMem ∧ t.sec.lock = s.sec.lock ∧
    t.sec.roll = s.sec.roll

/-! The fleet. -/

/-- R22, R418 to R425: telemetry. Errors count in their unit, an uncorrectable one marks its word, and the 64th corrected one in 10
s and the second uncorrectable one quarantine a core; HOLD quarantines it; caps and the thermal stop begin and end at their bounds;
the duty moves by one; PCAP and TCAP are clamped, and every reading and every new bound sets the caps that it passes; a cap ends 10 ms
after the last reading that was not below its bound; the I3C port reads and writes at 0x4A, or at the address it was given. The carried
microjoules are assumption 39, the readings that a cap's end replaces 24, the time of the ends 37; that a corrected parity error of an
instruction cache is counted at the station's first core is the model's choice (assumption 82). -/
def Obligations.FleetEvents : Prop :=
  let powered (now : Nat) (f : Fleet) : Fleet :=
    let begins := decide (f.pcap * 1000 < f.pwr) && !f.pcapA
    { f with pwrHot := if f.pcap * 950 ≤ f.pwr then now else f.pwrHot, pcapA := f.pcapA || begins,
             pcapAt := if begins then now else f.pcapAt, capPwr := if begins then f.capPwr + 1 else f.capPwr }
  let heated (now n t : Nat) (f : Fleet) : Fleet :=
    let above (x : Nat) : Bool := decide (t < 32768 ∧ x < t)
    let begins := decide (n ≤ 4) && above f.tcap && !f.tcapA
    { f with tempHot := if n ≤ 4 ∧ above (f.tcap - 81) = true then now else f.tempHot, tstop := f.tstop || (decide (n < 13) && above 1760),
             tcapA := f.tcapA || begins, capTemp := if begins then f.capTemp + 1 else f.capTemp }
  (∀ (s : State) (c : Nat), c < s.fleet.ce.length → c < s.fleet.ue.length →
    let times := (c, s.now) :: s.fleet.ceTimes.filter fun x => decide (s.now ≤ x.2 + 14000000000)
    let counted : State := { s with fleet := { s.fleet with ce := setNth s.fleet.ce c (nth s.fleet.ce c 0 + 1), ceTimes := times } }
    ((times.filter fun x => x.1 == c).length < 64 → exec (.softErrorCorrected (.core c)) s = .next counted) ∧
    (64 ≤ (times.filter fun x => x.1 == c).length → exec (.softErrorCorrected (.core c)) s = .next (counted.quarantine c)) ∧
    (∀ stn ctx line, c = 4 * stn → (times.filter fun x => x.1 == c).length < 64 →
      ∃ t, exec (.softErrorCorrected (.icache stn ctx line)) s = .next t ∧ t = { counted with icache := t.icache } ∧
        ∀ x, x ∈ t.icache ↔ x ∈ s.icache ∧ x ≠ (stn, ctx, line)) ∧
    (∀ core gslot, core = c → (times.filter fun x => x.1 == c).length < 64 → ∃ t, exec (.latchParityError core gslot) s = .next t ∧
      t = { counted with me := t.me, groups := t.groups } ∧
      t.resident = s.resident.map fun g => if g.core = core ∧ g.gslot = gslot then g.restart else g) ∧
    ∀ place, (∀ w, place ≠ .sram w) → (∀ n w, place ≠ .bindTable n w) →
      ∃ u, exec (.softErrorUncorrectable (.core c) place) s = .next (if nth s.fleet.ue c 0 + 1 < 2 then u else u.quarantine c) ∧
        u = { s with poison := u.poison, fleet := { s.fleet with ue := setNth s.fleet.ue c (nth s.fleet.ue c 0 + 1) } } ∧
        ∀ p, p ∈ u.poison ↔ p ∈ s.poison ∨ p = place) ∧
  (∀ g : Group, g.park = none → (g.restart).pc = g.runPc ∧ (g.restart).k = g.k ∧ ∀ i, (g.restart).lane i =
    (g.lane i).map fun a => { a with lat := List.replicate 8 0, clkHi := none }) ∧
  (∀ (s : State) (i : Nat) (place : PoisonAt), (∀ w, place ≠ .sram w) → (∀ n w, place ≠ .bindTable n w) →
    (exec (.softErrorCorrected (.other i)) s =
      .next { s with fleet := { s.fleet with eccxCe := setNth s.fleet.eccxCe i (nth s.fleet.eccxCe i 0 + 1) } }) ∧
    ∃ t, exec (.softErrorUncorrectable (.other i) place) s = .next t ∧
      t = { s with poison := t.poison, fleet := { s.fleet with eccxUe := setNth s.fleet.eccxUe i (nth s.fleet.eccxUe i 0 + 1) } } ∧
      ∀ p, p ∈ t.poison ↔ p ∈ s.poison ∨ p = place) ∧
  (∀ (s : State) (v : BitVec 64),
    (∀ c, c < 128 → c < s.fleet.quar.length → s.blocks = [] → s.binds = [] → s.fleet.drain = [] → v.getLsbD 30 = true →
      s.takesWrite 0 (0x202008 + 16 * c) → ∃ t, exec (.eccHoldWrite c v) s = .next t ∧ nth t.fleet.quar c false = true ∧
        t.fleet.hold = setNth s.fleet.hold c true ∧ t.me = s.me) ∧
    (∀ d, d < 64 → s.takesWrite 0 (0x200438 + 64 * d) → exec (.numaggClrWrite d) s =
      .next { s with fleet := { s.fleet with numagg := setNth s.fleet.numagg d (List.replicate 7 0) } }) ∧
    (s.takesWrite 0 0x200098 → exec (.pcapWrite v) s = .next { s with fleet := powered s.now { s.fleet with
      pcap := if v.toNat % 65536 = 0 then 2400 else max 300 (min 2400 (v.toNat % 65536)) } }) ∧
    (s.takesWrite 0 0x2000A0 →
      let f : Fleet := { s.fleet with
        tcap := if 32768 ≤ v.toNat % 65536 then 1120 else max 1120 (min 1600 (v.toNat % 65536)) }
      exec (.tcapWrite v) s = .next { s with
        fleet := (List.range 5).foldl (fun f i => heated s.now i (nth s.fleet.temp i 0) f) f })) ∧
  (∀ (s : State) (mw : Nat),
    let f := s.fleet
    exec (.powerOverCap mw) s = .next { s with fleet := powered s.now { f with pwr := mw } } ∧
    (let g := powered s.now { f with
      pwr := mw, energy := f.energy + BitVec.ofNat 64 ((f.energyRest + mw) / 1000), energyRest := (f.energyRest + mw) % 1000 }
    exec (.dutyStepTick mw) s = .next { s with fleet := { g with
      duty := if f.pcap * 1000 < mw then (if f.pcapA = true ∧ f.pcapAt + 14000000 ≤ s.now then max 4 (f.duty - 1) else f.duty)
        else if mw < f.pcap * 1000 then min 16 (f.duty + 1) else f.duty } }) ∧
    (f.pcapA = false ∨ s.now < f.pwrHot + 14000000 → exec .powerCapEnd s = .next s) ∧
    (f.pcapA = true → f.pwrHot + 14000000 ≤ s.now → ∃ t, exec .powerCapEnd s = .next t ∧ t.fleet.pcapA = false ∧
      t = { s with draws := t.draws, fleet := { f with pcapA := false, pwr := t.fleet.pwr } } ∧
      (f.pwr < f.pcap * 950 → t.fleet.pwr = f.pwr) ∧ (0 < f.pcap → t.fleet.pwr < f.pcap * 950))) ∧
  (∀ (s : State) (n temp : Nat) (i : Instr), i ∈ [Instr.tempOverCap n temp, .thermalStop n temp] → exec i s =
    .next { s with fleet := heated s.now n (temp % 65536) { s.fleet with temp := setNth s.fleet.temp n (temp % 65536) } }) ∧
  (∀ s : State,
    (s.fleet.tstop = true → ∃ t, exec .thermalStopEnd s = .next t ∧ t.fleet.tstop = false ∧
      t = { s with draws := t.draws, fleet := { s.fleet with tstop := false, temp := t.fleet.temp, tempHot := t.fleet.tempHot } } ∧
      (let hot (i : Nat) : Prop := i ≤ 4 ∧ 1680 ≤ nth s.fleet.temp i 0 ∧ nth s.fleet.temp i 0 < 32768 ∧
          s.fleet.tcap - 81 < nth t.fleet.temp i 0
      ((∃ i, hot i) → t.fleet.tempHot = s.now) ∧ ((∀ i, ¬hot i) → t.fleet.tempHot = s.fleet.tempHot)) ∧
      ∀ i, i < 13 → nth s.fleet.temp i 0 < 1680 ∨ 32768 ≤ nth s.fleet.temp i 0 → nth t.fleet.temp i 0 = nth s.fleet.temp i 0) ∧
    (s.fleet.tcapA = false ∨ s.now < s.fleet.tempHot + 14000000 → exec .tempCapEnd s = .next s) ∧
    (s.fleet.tcapA = true → s.fleet.tempHot + 14000000 ≤ s.now → ∃ t, exec .tempCapEnd s = .next t ∧ t.fleet.tcapA = false ∧
      t = { s with draws := t.draws, fleet := { s.fleet with tcapA := false, temp := t.fleet.temp, tempHot := t.fleet.tempHot } } ∧
      (80 < s.fleet.tcap → t.fleet.tempHot = s.fleet.tempHot) ∧
      ∀ i, 5 ≤ i → nth t.fleet.temp i 0 = nth s.fleet.temp i 0)) ∧
  ∀ (s : State), s.power.removed = false →
    (∀ i, i < 65536 → s.sec.stage = 4 → exec (.i3cPrivateRead i) s = .next { s with hostRead := natLe (s.telemetry (8 * i)).toNat 8 }) ∧
    (∀ v : BitVec 64, s.sec.stage = 4 →
      exec (.i3cPrivateWrite 0x13 v) s = .next (s.setPcap v.toNat) ∧ exec (.i3cPrivateWrite 0x14 v) s = .next (s.setTcap v.toNat) ∧
      ∀ c, c < 128 → exec (.i3cPrivateWrite (0x401 + 2 * c) v) s = .next (s.setHold c v.toNat)) ∧
    (s.fleet.i3c = none → s.fleet.i3cAddress = 0x4A) ∧
    ∀ a, exec (.dynamicAddressAssignment a) s = .next { s with fleet := { s.fleet with i3c := some a } } ∧
      Fleet.i3cAddress { s.fleet with i3c := some a } = a

/-! The results of the lane integers in the spec's own terms, reset, memory, decoding, stepping. -/

/-- R236 to R239: minimum, maximum and logic, shifts and rotates, bit fields, counts and the absolute value, each by the
formula of its rule, for all sources, with N, the discard code, the latches and the frame of LaneOp. SHI with bits [6:5] of its
immediate set, and BFI without its third source, are ILLEGAL_FORM at their own word, and an LXI before SHI is at the LXI. -/
def Obligations.IntegerResults : Prop :=
  (LaneOp2 .imin (fun _ a b => if a.toInt ≤ b.toInt then a else b) ∧ LaneOp2 .imax (fun _ a b => if b.toInt ≤ a.toInt then a else b) ∧
  LaneOp2 .nmin (fun _ a b => if a.toNat ≤ b.toNat then a else b) ∧ LaneOp2 .nmax (fun _ a b => if b.toNat ≤ a.toNat then a else b) ∧
  LaneOp2 .land (fun _ a b => a &&& b) ∧ LaneOp2 .lor (fun _ a b => a ||| b) ∧ LaneOp2 .lxor (fun _ a b => a ^^^ b) ∧
  LaneOp2 .landn (fun _ a b => a &&& ~~~b)) ∧
  (∃ shl shr sar rol : Word → Nat → Word,
    LaneOp2 .shl (fun _ a b => shl a (b.toNat % 64)) ∧ LaneOp2 .shr (fun _ a b => shr a (b.toNat % 64)) ∧
    LaneOp2 .sar (fun _ a b => sar a (b.toNat % 64)) ∧ LaneOp2 .rol (fun _ a b => rol a (b.toNat % 32)) ∧
    (∀ a n, n < 32 → shl a n = BitVec.ofNat 32 (a.toNat * 2 ^ n) ∧ (shr a n).toNat = a.toNat / 2 ^ n ∧
      sar a n = BitVec.ofInt 32 (a.toInt / 2 ^ n) ∧ rol a n = BitVec.ofNat 32 (a.toNat * 2 ^ n ||| a.toNat / 2 ^ (32 - n))) ∧
    (∀ a n, 32 ≤ n → n < 64 → shl a n = 0 ∧ shr a n = 0 ∧ sar a n = if a.getLsbD 31 then 0xFFFFFFFF else 0) ∧
    ∀ (w : LJ) (s : State), s.lanePoison (s.me.active w.lxc) [(w.a, 1)] = 0 →
      let n := w.imm.toNat % 32
      ∃ t, exec (.shi w) s = .next t ∧ OnlyMe s t ∧ Result32 s t (s.me.active w.lxc) w.d w.n (ljLen w) fun _ a =>
        if w.imm.toNat / 128 = 0 then shl (srcVal s.me a w.a) n else if w.imm.toNat / 128 = 1 then shr (srcVal s.me a w.a) n
        else if w.imm.toNat / 128 = 2 then sar (srcVal s.me a w.a) n else rol (srcVal s.me a w.a) n) ∧
  (∀ (v kn : Nat) (w : LJ), w.imm.toNat / 32 % 4 ≠ 0 → fieldError v kn (.shi w) = some 0) ∧
  (∀ (v kn : Nat) (w : LR), w.lxc = none → fieldError v kn (.bfi w) = some 0) ∧
  (∀ (w : LJ) (x : Lxi), w.lxc = none → decodeWords (lxiWords (some x) ++ encode (.shi w)) = .badForm 0) ∧
  (∃ (bfe : Bool → Word → Word → Word) (bfi : Word → Word → Word → Word) (popc clz brev iabs : Word → Word),
    LaneOp2 .bfe (fun w => bfe ((lxcExt w.lxc).testBit 0)) ∧ LaneOp3 .bfi (fun _ => bfi) ∧ LaneOp1 .popc (fun _ => popc) ∧
    LaneOp1 .clz (fun _ => clz) ∧ LaneOp1 .brev (fun _ => brev) ∧ LaneOp1 .iabs (fun _ => iabs) ∧
    ∀ a b c : Word,
      (let pos := b.toNat % 32
      let l := min (b.toNat / 256 % 64) (32 - pos)
      let f := a.toNat / 2 ^ pos % 2 ^ l
      (bfe false a b).toNat = f ∧
      bfe true a b = BitVec.ofInt 32 (if 0 < l ∧ f.testBit (l - 1) = true then (f : Int) - 2 ^ l else f) ∧
      ∀ i, i < 32 → (bfi a b c).getLsbD i = if pos ≤ i ∧ i < pos + l then a.getLsbD (i - pos) else c.getLsbD i) ∧
      (popc a).toNat = ((List.range 32).filter fun i => a.getLsbD i).length ∧
      (a = 0 → clz a = 32) ∧
      (a ≠ 0 → (clz a).toNat < 32 ∧ a.getLsbD (31 - (clz a).toNat) = true ∧ ∀ i, 31 - (clz a).toNat < i → a.getLsbD i = false) ∧
      (∀ i, i < 32 → (brev a).getLsbD i = a.getLsbD (31 - i)) ∧ iabs a = BitVec.ofNat 32 a.toInt.natAbs)

/-- R93, R144, R368, R377, R400, R403, R404, R406, R407, R418, R421: what reset leaves. The values that the spec gives: measurements, the
security state, the tolerance and the slice, the caps, the coalescers, the generators; only masters 128 and 148 reach anything; no
group, grid, block, operation, event or poison. That memory lists nothing, and reads 0, is the model's choice (assumption 4), and so are
SEC and DMAX of 2, which LOCK = 0 gives (assumption 8). -/
def Obligations.ResetState : Prop :=
  let s := State.reset
  (s.gangTol = 50 ∧ s.slice = 2000 ∧ s.fleet.pcap = 2400 ∧ s.fleet.tcap = 1520 ∧ s.fleet.energy = 0 ∧ s.fatalV = false ∧
    s.sec.stage = 0 ∧ s.sec.sec = 2 ∧ s.sec.dmax = 2 ∧ (∀ i, i < 8 → nth s.sec.meas i [] = List.replicate 64 0) ∧
    s.fleet.i3cAddress = 0x4A ∧ (∀ c, nth s.fleet.quar c false = false ∧ nth s.fleet.ue c 0 = 0)) ∧
  (s.resident = [] ∧ s.waiting = [] ∧ s.images = [] ∧ s.grids = [] ∧ s.blocks = [] ∧ s.ops = [] ∧ s.mmas = [] ∧ s.agenda = [] ∧
    s.poison = [] ∧ s.unrecorded = [] ∧ s.msix = []) ∧
  (∀ f v, (s.coalOf f v).en = true ∧ (s.coalOf f v).cnt = 16 ∧ (s.coalOf f v).win = 20 ∧ (s.coalOf f v).evtot = 0) ∧
  (∀ c p, c < 128 → p < 128 → s.genState c p =
    if c = 0 ∧ p = 0 then 0x1D872B41 else BitVec.ofNat 32 (c * 2 ^ 16 + p)) ∧
  (∀ target master addr k, target < 23 → addr < 2 ^ 56 → (accessOk s target master addr k = true ↔ master = 128 ∨ master = 148)) ∧
  (s.memoriesWf ∧ ∀ a, Memory.get s.hbm a = 0) ∧
  ∀ r t : State, exec .powerOnReset r = .next t →
    t.gangTol = 50 ∧ t.slice = 2000 ∧ t.fleet = s.fleet ∧ t.coal = [] ∧ t.gens = [] ∧ t.access = [] ∧ t.resident = [] ∧ t.grids = []

/-- R82, R105 (the canonical form is the model's own, assumption 4): a step that answers a next state keeps every memory of the device and
of the host in its canonical form, so that equal memories are equal data. -/
def Obligations.MemoryStaysCanonical : Prop := ∀ s t : State, s.memoriesWf → step s = .next t → t.memoriesWf

/-- R210, R211, R213, R220 to R223, R225 to R228: decoding the words of a well-formed instruction gives it back with all its operands, and
nothing shorter does; and words that decode to an instruction are the words of that instruction, so that no bit of an encoding is
dropped. -/
def Obligations.DecodeEncode : Prop :=
  (∀ (i : Instr) (v kn : Nat), wellFormed v kn i = true → encode i ≠ [] →
    decodeWords (encode i) = .ok i (encode i).length ∧ ∀ n, n < (encode i).length → decodeWords ((encode i).take n) = .needMore) ∧
  ∀ (ws : List Word) (i : Instr) (n : Nat), decodeWords ws = .ok i n → n ≤ ws.length ∧ encode i = ws.take n

/-- R210, R213, R220, R223 to R228, R233, R251, R268, R291, R312: words written out from the field tables decode to the instructions they
stand for, little-endian bytes first; an unassigned opcode and a prefix before a word that takes none are refused. -/
def Obligations.DecodeWords : Prop :=
  decode [0x0C, 0x0A, 0x08, 0x00] = .ok (.iadd ⟨2, 0, 5, 6, none⟩) 1 ∧
  decode [0x01, 0x00, 0x00, 0x7E, 0x0C, 0x0A, 0x08, 0x02] = .ok (.iadds ⟨2, 0, 5, 6, some ⟨0, 0, 0, 0, 1⟩⟩) 2 ∧
  decode [0x01, 0x00, 0x00, 0x7E] = .needMore ∧
  (∀ d n a b, decodeWords [packLR 0x12 0 ⟨d, n, a, b, none⟩] = .ok (.fadd ⟨d, n, a, b, none⟩) 1) ∧
  (∀ k : Kx, decodeWords (kxWords (some k) ++ encode (.bra ⟨0, 0, 0⟩)) = .badForm 0) ∧
  decode [0x01, 0x00, 0x00, 0x08] = .badOpcode

/-- R17, R48, R211, R212, R222: a turn of a pipe fetches the words at the PC of the group that issues first; when they decode to an
instruction whose fields are valid, the step is that instruction's effect, which the group is said to have issued (the group waits instead
where the yard holds it; a group that a restore brought back to its parked instruction is parked there again, R22; a parked group that tests
completes the instruction that it has issued, without a fetch), and a stop only where an access reached memory that
does not exist. A word is the four bytes at the address its context translates to, in little-endian order, as memory stands (assumption
11). The dies that a turn wakes are assumption 101. Where no turn is set, the machine sets its next one (assumption 1). -/
def Obligations.StepRunsDecoded : Prop :=
  (∀ (s : State) (r : List Turn) (c p : Nat) (g : Group) (ws : List Word) (i : Instr), s.agenda = .pipe c p :: r →
    let s1 : State := ({ s with agenda := r } : State).wakeDies
    s1.firstOf (s1.canIssue.filter fun x => x.core == c && x.pipe == p) = some g → nth s.power.cur (stationOf c) 0 = 0 →
    let u : State := { s1.select g.uid with now := s1.startOf g }
    decodeWords ws = .ok i ws.length → ws.length ≤ 3 →
    (∀ j x, ws[j]? = some x → u.fetchWord (u.me.pc.toNat + 4 * j) = .word x) →
    fieldError (u.grid u.me.grid).v (u.grid u.me.grid).kn i = none →
    step s = checkHole (if u.heldByYard i then .next (u.parkMe .yard 0)
      else exec i { u.rejoin with me := { u.rejoin.me with insn := some i, apart := false } })) ∧
  (∀ s : State, (s.me.resume = none → s.rejoin = s) ∧ ∀ pc why t, s.me.resume = some (pc, why, t) →
    (s.me.pc ≠ pc → s.rejoin = s) ∧
    (s.me.pc = pc → why = .yard → s.rejoin = { s with me := { s.me with resume := none } }) ∧
    (s.me.pc = pc → why ≠ .yard →
      let u := s.trace s.myCtx (stationOf s.me.core) s.me.gslot
      s.rejoin = { u with me := { u.me with park := some why, parkedAt := t, resume := none } })) ∧
  (∀ (s : State) (why : Park), s.me.park = some why →
    (why ≠ .yard → retest s = (match s.me.insn with | some i => exec i s | none => .next s)) ∧
    (why = .yard → s.yardHolds s.me = true → retest s = .next s)) ∧
  (∀ (s : State) (va pa : Nat) (a : Bool), s.hasLine (stationOf s.me.core) s.myCtx (va / 128) = true → va < 2 ^ 56 →
    translate s s.myCtx (s.master s.me.grid) va .fetch = .ok (.mem pa a) →
    s.fetchWord va = .word (Memory.get s.hbm (pa + 3) ++ Memory.get s.hbm (pa + 2) ++ Memory.get s.hbm (pa + 1) ++ Memory.get s.hbm pa)) ∧
  (∀ (s : State) (r : List Turn) (i : Instr), s.agenda = .event i :: r →
    let s1 : State := ({ s with agenda := r } : State).forTurn (.event i)
    s1.overlooked i = none → step s = checkHole (exec i s1)) ∧
  (∀ (s : State) (t : Turn), (t.usesMemory = false → s.reaches t = false → s.forTurn t = s) ∧
    ∃ u, s.forTurn t = u ∧ u = { s with power := u.power, msix := u.msix } ∧ u.power = { s.power with dieOff := u.power.dieOff }) ∧
  (∀ s : State, s.agenda = [] → step s = step { s with now := s.nextTurn.1, agenda := [s.nextTurn.2] }) ∧
  ∀ s : State, checkHole (.next s) = match s.hole with | some pa => .fault (.noMemory pa) | none => .next s

/-- R1, R211: nothing is refused. Every instruction and every event answers a next state in every state, and a step stops only where an
access reached device memory beyond the 512 GiB that R1 gives it (assumption 13). -/
def Obligations.NothingIsRefused : Prop :=
  (∀ (i : Instr) (s : State), ∃ t, exec i s = .next t) ∧
  ∀ s : State, (∃ t, step s = .next t ∧ t.hole = none) ∨ ∃ pa, step s = .fault (.noMemory pa)
end

