-- ==== Sys2Proof/Laws/Memory.lean ====
section
/-! SUPPORT. The laws of memory: every operation keeps the canonical form, a read after a write gives the bytes written, and a
write leaves every other address alone. -/

namespace Sys2Proof.Machine

theorem Memory.wfFrom_mono {m : Memory} {lo lo' : Nat} (h : Memory.wfFrom lo m = true) (hl : lo' ≤ lo) :
    Memory.wfFrom lo' m = true := by
  cases m with
  | nil => rfl
  | cons c r => simp only [Memory.wfFrom, Bool.and_eq_true, decide_eq_true_eq] at h ⊢; exact ⟨⟨by omega, h.1.2⟩, h.2⟩

theorem Memory.consByte_wfFrom {m : Memory} {x lo : Nat} {v : Byte} (h : Memory.wfFrom (x + 1) m = true) (hx : lo ≤ x) :
    Memory.wfFrom lo (Memory.consByte x v m) = true := by
  unfold Memory.consByte
  split
  · exact Memory.wfFrom_mono h (by omega)
  · simp_all [Memory.wfFrom]

theorem Memory.put_wfFrom {m : Memory} {lo x : Nat} {v : Byte} (h : Memory.wfFrom lo m = true) (hx : lo ≤ x) :
    Memory.wfFrom lo (Memory.put m x v) = true := by
  induction m generalizing lo with
  | nil => exact Memory.consByte_wfFrom rfl hx
  | cons c r ih =>
    simp only [Memory.wfFrom, Bool.and_eq_true, decide_eq_true_eq] at h
    simp only [Memory.put]
    split
    · exact Memory.consByte_wfFrom (by simp only [Memory.wfFrom, Bool.and_eq_true, decide_eq_true_eq]; exact ⟨⟨by omega, h.1.2⟩, h.2⟩) hx
    · split
      · subst x; exact Memory.consByte_wfFrom h.2 h.1.1
      · simp only [Memory.wfFrom, Bool.and_eq_true, decide_eq_true_eq]
        exact ⟨h.1, ih h.2 (by omega)⟩

/-- A write of a byte keeps the canonical form. -/
theorem Memory.put_wf {m : Memory} {x : Nat} {v : Byte} (h : Memory.wf m = true) : Memory.wf (Memory.put m x v) = true :=
  Memory.put_wfFrom h (Nat.zero_le x)

/-- A write of a list of bytes keeps the canonical form. -/
theorem Memory.putBytes_wf {m : Memory} {x : Nat} {bs : List Byte} (h : Memory.wf m = true) :
    Memory.wf (Memory.putBytes m x bs) = true := by
  induction bs generalizing m x with
  | nil => exact h
  | cons b r ih => exact ih (Memory.put_wf h)

/-- A list of cells with some left out keeps the canonical form. -/
theorem Memory.filter_wf {m : Memory} {p : Host.Cell → Bool} (h : Memory.wf m = true) : Memory.wf (m.filter p) = true := by
  suffices ∀ lo, Memory.wfFrom lo m = true → Memory.wfFrom lo (m.filter p) = true from this 0 h
  clear h
  induction m with
  | nil => intro lo h; exact h
  | cons c r ih =>
    intro lo h
    simp only [Memory.wfFrom, Bool.and_eq_true, decide_eq_true_eq] at h
    rw [List.filter_cons]
    split
    · simp only [Memory.wfFrom, Bool.and_eq_true, decide_eq_true_eq]; exact ⟨h.1, ih _ h.2⟩
    · exact Memory.wfFrom_mono (ih _ h.2) (by omega)

theorem Memory.get_below {m : Memory} {lo x : Nat} (h : Memory.wfFrom lo m = true) (hx : x < lo) :
    Memory.get m x = Memory.unlisted := by
  cases m with
  | nil => rfl
  | cons c r =>
    simp only [Memory.wfFrom, Bool.and_eq_true, decide_eq_true_eq] at h
    simp only [Memory.get]; rw [if_pos (by omega)]

theorem Memory.get_consByte {m : Memory} {x y lo : Nat} {v : Byte} (h : Memory.wfFrom lo m = true) (hx : x < lo) :
    Memory.get (Memory.consByte x v m) y = if y = x then v else Memory.get m y := by
  unfold Memory.consByte
  split
  · rename_i hv
    split
    · subst y; rw [hv]; exact Memory.get_below h hx
    · rfl
  · simp only [Memory.get]
    split
    · rw [if_neg (by omega)]; exact (Memory.get_below h (by omega)).symm
    · split
      · rw [if_pos (by omega)]
      · rw [if_neg (by omega)]

/-- What reads after a write of one byte: the byte there, and what was read before everywhere else. -/
theorem Memory.get_put {m : Memory} {x y : Nat} {v : Byte} (h : Memory.wf m = true) :
    Memory.get (Memory.put m x v) y = if y = x then v else Memory.get m y := by
  suffices ∀ lo, Memory.wfFrom lo m = true → Memory.get (Memory.put m x v) y = if y = x then v else Memory.get m y from this 0 h
  clear h
  induction m with
  | nil => intro lo _; exact Memory.get_consByte (lo := x + 1) rfl (by omega)
  | cons c r ih =>
    intro lo h
    simp only [Memory.wfFrom, Bool.and_eq_true, decide_eq_true_eq] at h
    simp only [Memory.put]
    split
    · rename_i hl
      refine Memory.get_consByte (lo := c.1) ?_ hl
      simp only [Memory.wfFrom, Bool.and_eq_true, decide_eq_true_eq]; exact ⟨⟨by omega, h.1.2⟩, h.2⟩
    · split
      · rename_i hl he
        rw [Memory.get_consByte (lo := c.1 + 1) h.2 (by omega)]
        simp only [Memory.get]
        split
        · rfl
        · split
          · exact Memory.get_below h.2 (by omega)
          · rw [if_neg (by omega)]
      · rename_i hl he
        simp only [Memory.get]
        split
        · rw [if_neg (by omega)]
        · split
          · rw [if_neg (by omega)]
          · exact ih _ h.2

/-- A write leaves the addresses outside its bytes alone. -/
theorem Memory.get_putBytes_out {m : Memory} {x y : Nat} {bs : List Byte} (h : Memory.wf m = true)
    (hy : y < x ∨ x + bs.length ≤ y) : Memory.get (Memory.putBytes m x bs) y = Memory.get m y := by
  induction bs generalizing m x with
  | nil => rfl
  | cons b r ih =>
    simp only [List.length_cons] at hy
    rw [Memory.putBytes, ih (Memory.put_wf h) (by omega), Memory.get_put h, if_neg (by omega)]

/-- A read of the bytes written gives them. -/
theorem Memory.get_putBytes_in {m : Memory} {x i : Nat} {bs : List Byte} (h : Memory.wf m = true) (hi : i < bs.length) :
    Memory.get (Memory.putBytes m x bs) (x + i) = bs[i] := by
  induction bs generalizing m x i with
  | nil => simp at hi
  | cons b r ih =>
    rw [Memory.putBytes]
    cases i with
    | zero => rw [Memory.get_putBytes_out (Memory.put_wf h) (by omega), Memory.get_put h]; simp
    | succ i =>
      have := ih (m := m.put x b) (x := x + 1) (i := i) (Memory.put_wf h) (by simpa using hi)
      rw [show x + (i + 1) = x + 1 + i by omega, this]; rfl

theorem Memory.bytes_length (m : Memory) (a n : Nat) : (Memory.bytes m a n).length = n := by
  induction n generalizing a with
  | zero => rfl
  | succ n ih => simp [Memory.bytes, ih]

theorem Memory.bytes_congr {m m' : Memory} {a n : Nat} (h : ∀ x, a ≤ x → x < a + n → Memory.get m x = Memory.get m' x) :
    Memory.bytes m a n = Memory.bytes m' a n := by
  induction n generalizing a with
  | zero => rfl
  | succ n ih =>
    simp only [Memory.bytes]
    rw [h a (by omega) (by omega), ih fun x h1 h2 => h x (by omega) (by omega)]

/-- A wider read of the bytes written gives them. -/
theorem Memory.bytes_putBytes {m : Memory} {x : Nat} {bs : List Byte} (h : Memory.wf m = true) :
    Memory.bytes (Memory.putBytes m x bs) x bs.length = bs := by
  induction bs generalizing m x with
  | nil => rfl
  | cons b r ih =>
    rw [List.length_cons, Memory.bytes, Memory.putBytes, ih (Memory.put_wf h),
      Memory.get_putBytes_out (Memory.put_wf h) (by omega), Memory.get_put h, if_pos rfl]

/-! Elements of lists by number. -/

theorem nth_eq_getD {α : Type} (l : List α) (i : Nat) (d : α) : nth l i d = l[i]?.getD d := by
  induction l generalizing i with
  | nil => cases i <;> rfl
  | cons a r ih => cases i with
    | zero => rfl
    | succ i => simp [nth, ih]

theorem setNth_length {α : Type} (l : List α) (i : Nat) (x : α) : (setNth l i x).length = l.length := by
  induction l generalizing i with
  | nil => cases i <;> rfl
  | cons a r ih => cases i <;> simp [setNth, ih]

/-- What an element reads as after one is replaced. -/
theorem nth_setNth {α : Type} (l : List α) (i j : Nat) (x d : α) :
    nth (setNth l i x) j d = if j = i ∧ i < l.length then x else nth l j d := by
  induction l generalizing i j with
  | nil => cases i <;> cases j <;> simp [setNth, nth]
  | cons a r ih =>
    cases i with
    | zero => cases j <;> simp [setNth, nth]
    | succ i => cases j with
      | zero => simp [setNth, nth]
      | succ j => simp only [setNth, nth, ih]; simp

theorem natLe_length (x n : Nat) : (natLe x n).length = n := by
  induction n generalizing x with
  | zero => rfl
  | succ n ih => simp [natLe, ih]

/-- A number written in little-endian bytes is read back. -/
theorem leNat_natLe (x n : Nat) : leNat (natLe x n) = x % 2 ^ (8 * n) := by
  induction n generalizing x with
  | zero => simp [natLe, leNat, Nat.mod_one]
  | succ n ih =>
    simp only [natLe, leNat, ih, BitVec.toNat_ofNat]
    rw [show 8 * (n + 1) = 8 + 8 * n by omega, Nat.pow_add, Nat.mod_mul]

end Sys2Proof.Machine
end

