-- ==== Sys2Proof/Laws/State.lean ====
section
/-! SUPPORT. What the shared updates of the state leave and set, field by field: `onMe`, `occupy`, `advance`, `switchAt`,
`switchTo` and `switch`, by which every instruction of a group ends. -/

namespace Sys2Proof.Machine

@[simp] theorem State.onMe_now (s : State) (f : Group → Group) : (s.onMe f).now = s.now := rfl
@[simp] theorem State.onMe_agenda (s : State) (f : Group → Group) : (s.onMe f).agenda = s.agenda := rfl
@[simp] theorem State.onMe_draws (s : State) (f : Group → Group) : (s.onMe f).draws = s.draws := rfl
@[simp] theorem State.onMe_nextId (s : State) (f : Group → Group) : (s.onMe f).nextId = s.nextId := rfl
@[simp] theorem State.onMe_me (s : State) (f : Group → Group) : (s.onMe f).me = f s.me := rfl
@[simp] theorem State.onMe_groups (s : State) (f : Group → Group) : (s.onMe f).groups = s.groups := rfl
@[simp] theorem State.onMe_waiting (s : State) (f : Group → Group) : (s.onMe f).waiting = s.waiting := rfl
@[simp] theorem State.onMe_images (s : State) (f : Group → Group) : (s.onMe f).images = s.images := rfl
@[simp] theorem State.onMe_hbm (s : State) (f : Group → Group) : (s.onMe f).hbm = s.hbm := rfl
@[simp] theorem State.onMe_sysMem (s : State) (f : Group → Group) : (s.onMe f).sysMem = s.sysMem := rfl
@[simp] theorem State.onMe_window (s : State) (f : Group → Group) : (s.onMe f).window = s.window := rfl
@[simp] theorem State.onMe_poison (s : State) (f : Group → Group) : (s.onMe f).poison = s.poison := rfl
@[simp] theorem State.onMe_hostBytes (s : State) (f : Group → Group) : (s.onMe f).hostBytes = s.hostBytes := rfl
@[simp] theorem State.onMe_fixes (s : State) (f : Group → Group) : (s.onMe f).fixes = s.fixes := rfl
@[simp] theorem State.onMe_flushed (s : State) (f : Group → Group) : (s.onMe f).flushed = s.flushed := rfl
@[simp] theorem State.onMe_hostRead (s : State) (f : Group → Group) : (s.onMe f).hostRead = s.hostRead := rfl
@[simp] theorem State.onMe_atoms (s : State) (f : Group → Group) : (s.onMe f).atoms = s.atoms := rfl
@[simp] theorem State.onMe_blocks (s : State) (f : Group → Group) : (s.onMe f).blocks = s.blocks := rfl
@[simp] theorem State.onMe_grids (s : State) (f : Group → Group) : (s.onMe f).grids = s.grids := rfl
@[simp] theorem State.onMe_frames (s : State) (f : Group → Group) : (s.onMe f).frames = s.frames := rfl
@[simp] theorem State.onMe_barriers (s : State) (f : Group → Group) : (s.onMe f).barriers = s.barriers := rfl
@[simp] theorem State.onMe_hubWords (s : State) (f : Group → Group) : (s.onMe f).hubWords = s.hubWords := rfl
@[simp] theorem State.onMe_futures (s : State) (f : Group → Group) : (s.onMe f).futures = s.futures := rfl
@[simp] theorem State.onMe_waits (s : State) (f : Group → Group) : (s.onMe f).waits = s.waits := rfl
@[simp] theorem State.onMe_ops (s : State) (f : Group → Group) : (s.onMe f).ops = s.ops := rfl
@[simp] theorem State.onMe_doneOps (s : State) (f : Group → Group) : (s.onMe f).doneOps = s.doneOps := rfl
@[simp] theorem State.onMe_mmas (s : State) (f : Group → Group) : (s.onMe f).mmas = s.mmas := rfl
@[simp] theorem State.onMe_doneMmas (s : State) (f : Group → Group) : (s.onMe f).doneMmas = s.doneMmas := rfl
@[simp] theorem State.onMe_arrays (s : State) (f : Group → Group) : (s.onMe f).arrays = s.arrays := rfl
@[simp] theorem State.onMe_corner (s : State) (f : Group → Group) : (s.onMe f).corner = s.corner := rfl
@[simp] theorem State.onMe_episodes (s : State) (f : Group → Group) : (s.onMe f).episodes = s.episodes := rfl
@[simp] theorem State.onMe_bins (s : State) (f : Group → Group) : (s.onMe f).bins = s.bins := rfl
@[simp] theorem State.onMe_tsrCache (s : State) (f : Group → Group) : (s.onMe f).tsrCache = s.tsrCache := rfl
@[simp] theorem State.onMe_kvTlb (s : State) (f : Group → Group) : (s.onMe f).kvTlb = s.kvTlb := rfl
@[simp] theorem State.onMe_coreWord (s : State) (f : Group → Group) : (s.onMe f).coreWord = s.coreWord := rfl
@[simp] theorem State.onMe_trackers (s : State) (f : Group → Group) : (s.onMe f).trackers = s.trackers := rfl
@[simp] theorem State.onMe_gens (s : State) (f : Group → Group) : (s.onMe f).gens = s.gens := rfl
@[simp] theorem State.onMe_pipeBusy (s : State) (f : Group → Group) : (s.onMe f).pipeBusy = s.pipeBusy := rfl
@[simp] theorem State.onMe_ports (s : State) (f : Group → Group) : (s.onMe f).ports = s.ports := rfl
@[simp] theorem State.onMe_icache (s : State) (f : Group → Group) : (s.onMe f).icache = s.icache := rfl
@[simp] theorem State.onMe_fills (s : State) (f : Group → Group) : (s.onMe f).fills = s.fills := rfl
@[simp] theorem State.onMe_tlb (s : State) (f : Group → Group) : (s.onMe f).tlb = s.tlb := rfl
@[simp] theorem State.onMe_atsCache (s : State) (f : Group → Group) : (s.onMe f).atsCache = s.atsCache := rfl
@[simp] theorem State.onMe_ctxs (s : State) (f : Group → Group) : (s.onMe f).ctxs = s.ctxs := rfl
@[simp] theorem State.onMe_ctxBase (s : State) (f : Group → Group) : (s.onMe f).ctxBase = s.ctxBase := rfl
@[simp] theorem State.onMe_apBase (s : State) (f : Group → Group) : (s.onMe f).apBase = s.apBase := rfl
@[simp] theorem State.onMe_bar4Exp (s : State) (f : Group → Group) : (s.onMe f).bar4Exp = s.bar4Exp := rfl
@[simp] theorem State.onMe_ptBusy (s : State) (f : Group → Group) : (s.onMe f).ptBusy = s.ptBusy := rfl
@[simp] theorem State.onMe_ptDone (s : State) (f : Group → Group) : (s.onMe f).ptDone = s.ptDone := rfl
@[simp] theorem State.onMe_ptAll (s : State) (f : Group → Group) : (s.onMe f).ptAll = s.ptAll := rfl
@[simp] theorem State.onMe_ptCtxs (s : State) (f : Group → Group) : (s.onMe f).ptCtxs = s.ptCtxs := rfl
@[simp] theorem State.onMe_coal (s : State) (f : Group → Group) : (s.onMe f).coal = s.coal := rfl
@[simp] theorem State.onMe_peers (s : State) (f : Group → Group) : (s.onMe f).peers = s.peers := rfl
@[simp] theorem State.onMe_inbound (s : State) (f : Group → Group) : (s.onMe f).inbound = s.inbound := rfl
@[simp] theorem State.onMe_priNext (s : State) (f : Group → Group) : (s.onMe f).priNext = s.priNext := rfl
@[simp] theorem State.onMe_priWaits (s : State) (f : Group → Group) : (s.onMe f).priWaits = s.priWaits := rfl
@[simp] theorem State.onMe_noAts (s : State) (f : Group → Group) : (s.onMe f).noAts = s.noAts := rfl
@[simp] theorem State.onMe_hubWaits (s : State) (f : Group → Group) : (s.onMe f).hubWaits = s.hubWaits := rfl
@[simp] theorem State.onMe_queues (s : State) (f : Group → Group) : (s.onMe f).queues = s.queues := rfl
@[simp] theorem State.onMe_unrecorded (s : State) (f : Group → Group) : (s.onMe f).unrecorded = s.unrecorded := rfl
@[simp] theorem State.onMe_fatal (s : State) (f : Group → Group) : (s.onMe f).fatal = s.fatal := rfl
@[simp] theorem State.onMe_fatalV (s : State) (f : Group → Group) : (s.onMe f).fatalV = s.fatalV := rfl
@[simp] theorem State.onMe_gangTol (s : State) (f : Group → Group) : (s.onMe f).gangTol = s.gangTol := rfl
@[simp] theorem State.onMe_slice (s : State) (f : Group → Group) : (s.onMe f).slice = s.slice := rfl
@[simp] theorem State.onMe_binds (s : State) (f : Group → Group) : (s.onMe f).binds = s.binds := rfl
@[simp] theorem State.onMe_bindTimes (s : State) (f : Group → Group) : (s.onMe f).bindTimes = s.bindTimes := rfl
@[simp] theorem State.onMe_asked (s : State) (f : Group → Group) : (s.onMe f).asked = s.asked := rfl
@[simp] theorem State.onMe_pagesTaken (s : State) (f : Group → Group) : (s.onMe f).pagesTaken = s.pagesTaken := rfl
@[simp] theorem State.onMe_evlog (s : State) (f : Group → Group) : (s.onMe f).evlog = s.evlog := rfl
@[simp] theorem State.onMe_evProd (s : State) (f : Group → Group) : (s.onMe f).evProd = s.evProd := rfl
@[simp] theorem State.onMe_msix (s : State) (f : Group → Group) : (s.onMe f).msix = s.msix := rfl
@[simp] theorem State.onMe_regLow (s : State) (f : Group → Group) : (s.onMe f).regLow = s.regLow := rfl
@[simp] theorem State.onMe_sbSram (s : State) (f : Group → Group) : (s.onMe f).sbSram = s.sbSram := rfl
@[simp] theorem State.onMe_flash (s : State) (f : Group → Group) : (s.onMe f).flash = s.flash := rfl
@[simp] theorem State.onMe_flashFails (s : State) (f : Group → Group) : (s.onMe f).flashFails = s.flashFails := rfl
@[simp] theorem State.onMe_access (s : State) (f : Group → Group) : (s.onMe f).access = s.access := rfl
@[simp] theorem State.onMe_hole (s : State) (f : Group → Group) : (s.onMe f).hole = s.hole := rfl
@[simp] theorem State.onMe_sec (s : State) (f : Group → Group) : (s.onMe f).sec = s.sec := rfl
@[simp] theorem State.onMe_power (s : State) (f : Group → Group) : (s.onMe f).power = s.power := rfl
@[simp] theorem State.onMe_fleet (s : State) (f : Group → Group) : (s.onMe f).fleet = s.fleet := rfl

@[simp] theorem State.occupy_now (s : State) (n : Nat) : (s.occupy n).now = s.now := rfl
@[simp] theorem State.occupy_agenda (s : State) (n : Nat) : (s.occupy n).agenda = s.agenda := rfl
@[simp] theorem State.occupy_draws (s : State) (n : Nat) : (s.occupy n).draws = s.draws := rfl
@[simp] theorem State.occupy_nextId (s : State) (n : Nat) : (s.occupy n).nextId = s.nextId := rfl
@[simp] theorem State.occupy_me (s : State) (n : Nat) : (s.occupy n).me = s.me := rfl
@[simp] theorem State.occupy_groups (s : State) (n : Nat) : (s.occupy n).groups = s.groups := rfl
@[simp] theorem State.occupy_waiting (s : State) (n : Nat) : (s.occupy n).waiting = s.waiting := rfl
@[simp] theorem State.occupy_images (s : State) (n : Nat) : (s.occupy n).images = s.images := rfl
@[simp] theorem State.occupy_hbm (s : State) (n : Nat) : (s.occupy n).hbm = s.hbm := rfl
@[simp] theorem State.occupy_sysMem (s : State) (n : Nat) : (s.occupy n).sysMem = s.sysMem := rfl
@[simp] theorem State.occupy_window (s : State) (n : Nat) : (s.occupy n).window = s.window := rfl
@[simp] theorem State.occupy_poison (s : State) (n : Nat) : (s.occupy n).poison = s.poison := rfl
@[simp] theorem State.occupy_hostBytes (s : State) (n : Nat) : (s.occupy n).hostBytes = s.hostBytes := rfl
@[simp] theorem State.occupy_fixes (s : State) (n : Nat) : (s.occupy n).fixes = s.fixes := rfl
@[simp] theorem State.occupy_flushed (s : State) (n : Nat) : (s.occupy n).flushed = s.flushed := rfl
@[simp] theorem State.occupy_hostRead (s : State) (n : Nat) : (s.occupy n).hostRead = s.hostRead := rfl
@[simp] theorem State.occupy_atoms (s : State) (n : Nat) : (s.occupy n).atoms = s.atoms := rfl
@[simp] theorem State.occupy_blocks (s : State) (n : Nat) : (s.occupy n).blocks = s.blocks := rfl
@[simp] theorem State.occupy_grids (s : State) (n : Nat) : (s.occupy n).grids = s.grids := rfl
@[simp] theorem State.occupy_frames (s : State) (n : Nat) : (s.occupy n).frames = s.frames := rfl
@[simp] theorem State.occupy_barriers (s : State) (n : Nat) : (s.occupy n).barriers = s.barriers := rfl
@[simp] theorem State.occupy_hubWords (s : State) (n : Nat) : (s.occupy n).hubWords = s.hubWords := rfl
@[simp] theorem State.occupy_futures (s : State) (n : Nat) : (s.occupy n).futures = s.futures := rfl
@[simp] theorem State.occupy_waits (s : State) (n : Nat) : (s.occupy n).waits = s.waits := rfl
@[simp] theorem State.occupy_ops (s : State) (n : Nat) : (s.occupy n).ops = s.ops := rfl
@[simp] theorem State.occupy_doneOps (s : State) (n : Nat) : (s.occupy n).doneOps = s.doneOps := rfl
@[simp] theorem State.occupy_mmas (s : State) (n : Nat) : (s.occupy n).mmas = s.mmas := rfl
@[simp] theorem State.occupy_doneMmas (s : State) (n : Nat) : (s.occupy n).doneMmas = s.doneMmas := rfl
@[simp] theorem State.occupy_arrays (s : State) (n : Nat) : (s.occupy n).arrays = s.arrays := rfl
@[simp] theorem State.occupy_corner (s : State) (n : Nat) : (s.occupy n).corner = s.corner := rfl
@[simp] theorem State.occupy_episodes (s : State) (n : Nat) : (s.occupy n).episodes = s.episodes := rfl
@[simp] theorem State.occupy_bins (s : State) (n : Nat) : (s.occupy n).bins = s.bins := rfl
@[simp] theorem State.occupy_tsrCache (s : State) (n : Nat) : (s.occupy n).tsrCache = s.tsrCache := rfl
@[simp] theorem State.occupy_kvTlb (s : State) (n : Nat) : (s.occupy n).kvTlb = s.kvTlb := rfl
@[simp] theorem State.occupy_coreWord (s : State) (n : Nat) : (s.occupy n).coreWord = s.coreWord := rfl
@[simp] theorem State.occupy_trackers (s : State) (n : Nat) : (s.occupy n).trackers = s.trackers := rfl
@[simp] theorem State.occupy_gens (s : State) (n : Nat) : (s.occupy n).gens = s.gens := rfl
@[simp] theorem State.occupy_pipeBusy (s : State) (n : Nat) : (s.occupy n).pipeBusy = if s.me.park.isSome then s.pipeBusy else setBusy s.me.core s.me.pipe (max (busyOf s.me.core s.me.pipe s.pipeBusy) (s.now + n)) s.pipeBusy := rfl
@[simp] theorem State.occupy_ports (s : State) (n : Nat) : (s.occupy n).ports = s.ports := rfl
@[simp] theorem State.occupy_icache (s : State) (n : Nat) : (s.occupy n).icache = s.icache := rfl
@[simp] theorem State.occupy_fills (s : State) (n : Nat) : (s.occupy n).fills = s.fills := rfl
@[simp] theorem State.occupy_tlb (s : State) (n : Nat) : (s.occupy n).tlb = s.tlb := rfl
@[simp] theorem State.occupy_atsCache (s : State) (n : Nat) : (s.occupy n).atsCache = s.atsCache := rfl
@[simp] theorem State.occupy_ctxs (s : State) (n : Nat) : (s.occupy n).ctxs = s.ctxs := rfl
@[simp] theorem State.occupy_ctxBase (s : State) (n : Nat) : (s.occupy n).ctxBase = s.ctxBase := rfl
@[simp] theorem State.occupy_apBase (s : State) (n : Nat) : (s.occupy n).apBase = s.apBase := rfl
@[simp] theorem State.occupy_bar4Exp (s : State) (n : Nat) : (s.occupy n).bar4Exp = s.bar4Exp := rfl
@[simp] theorem State.occupy_ptBusy (s : State) (n : Nat) : (s.occupy n).ptBusy = s.ptBusy := rfl
@[simp] theorem State.occupy_ptDone (s : State) (n : Nat) : (s.occupy n).ptDone = s.ptDone := rfl
@[simp] theorem State.occupy_ptAll (s : State) (n : Nat) : (s.occupy n).ptAll = s.ptAll := rfl
@[simp] theorem State.occupy_ptCtxs (s : State) (n : Nat) : (s.occupy n).ptCtxs = s.ptCtxs := rfl
@[simp] theorem State.occupy_coal (s : State) (n : Nat) : (s.occupy n).coal = s.coal := rfl
@[simp] theorem State.occupy_peers (s : State) (n : Nat) : (s.occupy n).peers = s.peers := rfl
@[simp] theorem State.occupy_inbound (s : State) (n : Nat) : (s.occupy n).inbound = s.inbound := rfl
@[simp] theorem State.occupy_priNext (s : State) (n : Nat) : (s.occupy n).priNext = s.priNext := rfl
@[simp] theorem State.occupy_priWaits (s : State) (n : Nat) : (s.occupy n).priWaits = s.priWaits := rfl
@[simp] theorem State.occupy_noAts (s : State) (n : Nat) : (s.occupy n).noAts = s.noAts := rfl
@[simp] theorem State.occupy_hubWaits (s : State) (n : Nat) : (s.occupy n).hubWaits = s.hubWaits := rfl
@[simp] theorem State.occupy_queues (s : State) (n : Nat) : (s.occupy n).queues = s.queues := rfl
@[simp] theorem State.occupy_unrecorded (s : State) (n : Nat) : (s.occupy n).unrecorded = s.unrecorded := rfl
@[simp] theorem State.occupy_fatal (s : State) (n : Nat) : (s.occupy n).fatal = s.fatal := rfl
@[simp] theorem State.occupy_fatalV (s : State) (n : Nat) : (s.occupy n).fatalV = s.fatalV := rfl
@[simp] theorem State.occupy_gangTol (s : State) (n : Nat) : (s.occupy n).gangTol = s.gangTol := rfl
@[simp] theorem State.occupy_slice (s : State) (n : Nat) : (s.occupy n).slice = s.slice := rfl
@[simp] theorem State.occupy_binds (s : State) (n : Nat) : (s.occupy n).binds = s.binds := rfl
@[simp] theorem State.occupy_bindTimes (s : State) (n : Nat) : (s.occupy n).bindTimes = s.bindTimes := rfl
@[simp] theorem State.occupy_asked (s : State) (n : Nat) : (s.occupy n).asked = s.asked := rfl
@[simp] theorem State.occupy_pagesTaken (s : State) (n : Nat) : (s.occupy n).pagesTaken = s.pagesTaken := rfl
@[simp] theorem State.occupy_evlog (s : State) (n : Nat) : (s.occupy n).evlog = s.evlog := rfl
@[simp] theorem State.occupy_evProd (s : State) (n : Nat) : (s.occupy n).evProd = s.evProd := rfl
@[simp] theorem State.occupy_msix (s : State) (n : Nat) : (s.occupy n).msix = s.msix := rfl
@[simp] theorem State.occupy_regLow (s : State) (n : Nat) : (s.occupy n).regLow = s.regLow := rfl
@[simp] theorem State.occupy_sbSram (s : State) (n : Nat) : (s.occupy n).sbSram = s.sbSram := rfl
@[simp] theorem State.occupy_flash (s : State) (n : Nat) : (s.occupy n).flash = s.flash := rfl
@[simp] theorem State.occupy_flashFails (s : State) (n : Nat) : (s.occupy n).flashFails = s.flashFails := rfl
@[simp] theorem State.occupy_access (s : State) (n : Nat) : (s.occupy n).access = s.access := rfl
@[simp] theorem State.occupy_hole (s : State) (n : Nat) : (s.occupy n).hole = s.hole := rfl
@[simp] theorem State.occupy_sec (s : State) (n : Nat) : (s.occupy n).sec = s.sec := rfl
@[simp] theorem State.occupy_power (s : State) (n : Nat) : (s.occupy n).power = s.power := rfl
@[simp] theorem State.occupy_fleet (s : State) (n : Nat) : (s.occupy n).fleet = s.fleet := rfl

@[simp] theorem State.advance_now (s : State) (n o : Nat) : (s.advance n o).now = s.now := rfl
@[simp] theorem State.advance_agenda (s : State) (n o : Nat) : (s.advance n o).agenda = s.agenda := rfl
@[simp] theorem State.advance_draws (s : State) (n o : Nat) : (s.advance n o).draws = s.draws := rfl
@[simp] theorem State.advance_nextId (s : State) (n o : Nat) : (s.advance n o).nextId = s.nextId := rfl
@[simp] theorem State.advance_me (s : State) (n o : Nat) : (s.advance n o).me = { s.me with pc := s.me.pc + BitVec.ofNat 64 (4 * n) } := rfl
@[simp] theorem State.advance_groups (s : State) (n o : Nat) : (s.advance n o).groups = s.groups := rfl
@[simp] theorem State.advance_waiting (s : State) (n o : Nat) : (s.advance n o).waiting = s.waiting := rfl
@[simp] theorem State.advance_images (s : State) (n o : Nat) : (s.advance n o).images = s.images := rfl
@[simp] theorem State.advance_hbm (s : State) (n o : Nat) : (s.advance n o).hbm = s.hbm := rfl
@[simp] theorem State.advance_sysMem (s : State) (n o : Nat) : (s.advance n o).sysMem = s.sysMem := rfl
@[simp] theorem State.advance_window (s : State) (n o : Nat) : (s.advance n o).window = s.window := rfl
@[simp] theorem State.advance_poison (s : State) (n o : Nat) : (s.advance n o).poison = s.poison := rfl
@[simp] theorem State.advance_hostBytes (s : State) (n o : Nat) : (s.advance n o).hostBytes = s.hostBytes := rfl
@[simp] theorem State.advance_fixes (s : State) (n o : Nat) : (s.advance n o).fixes = s.fixes := rfl
@[simp] theorem State.advance_flushed (s : State) (n o : Nat) : (s.advance n o).flushed = s.flushed := rfl
@[simp] theorem State.advance_hostRead (s : State) (n o : Nat) : (s.advance n o).hostRead = s.hostRead := rfl
@[simp] theorem State.advance_atoms (s : State) (n o : Nat) : (s.advance n o).atoms = s.atoms := rfl
@[simp] theorem State.advance_blocks (s : State) (n o : Nat) : (s.advance n o).blocks = s.blocks := rfl
@[simp] theorem State.advance_grids (s : State) (n o : Nat) : (s.advance n o).grids = s.grids := rfl
@[simp] theorem State.advance_frames (s : State) (n o : Nat) : (s.advance n o).frames = s.frames := rfl
@[simp] theorem State.advance_barriers (s : State) (n o : Nat) : (s.advance n o).barriers = s.barriers := rfl
@[simp] theorem State.advance_hubWords (s : State) (n o : Nat) : (s.advance n o).hubWords = s.hubWords := rfl
@[simp] theorem State.advance_futures (s : State) (n o : Nat) : (s.advance n o).futures = s.futures := rfl
@[simp] theorem State.advance_waits (s : State) (n o : Nat) : (s.advance n o).waits = s.waits := rfl
@[simp] theorem State.advance_ops (s : State) (n o : Nat) : (s.advance n o).ops = s.ops := rfl
@[simp] theorem State.advance_doneOps (s : State) (n o : Nat) : (s.advance n o).doneOps = s.doneOps := rfl
@[simp] theorem State.advance_mmas (s : State) (n o : Nat) : (s.advance n o).mmas = s.mmas := rfl
@[simp] theorem State.advance_doneMmas (s : State) (n o : Nat) : (s.advance n o).doneMmas = s.doneMmas := rfl
@[simp] theorem State.advance_arrays (s : State) (n o : Nat) : (s.advance n o).arrays = s.arrays := rfl
@[simp] theorem State.advance_corner (s : State) (n o : Nat) : (s.advance n o).corner = s.corner := rfl
@[simp] theorem State.advance_episodes (s : State) (n o : Nat) : (s.advance n o).episodes = s.episodes := rfl
@[simp] theorem State.advance_bins (s : State) (n o : Nat) : (s.advance n o).bins = s.bins := rfl
@[simp] theorem State.advance_tsrCache (s : State) (n o : Nat) : (s.advance n o).tsrCache = s.tsrCache := rfl
@[simp] theorem State.advance_kvTlb (s : State) (n o : Nat) : (s.advance n o).kvTlb = s.kvTlb := rfl
@[simp] theorem State.advance_coreWord (s : State) (n o : Nat) : (s.advance n o).coreWord = s.coreWord := rfl
@[simp] theorem State.advance_trackers (s : State) (n o : Nat) : (s.advance n o).trackers = s.trackers := rfl
@[simp] theorem State.advance_gens (s : State) (n o : Nat) : (s.advance n o).gens = s.gens := rfl
@[simp] theorem State.advance_pipeBusy (s : State) (n o : Nat) : (s.advance n o).pipeBusy = if s.me.park.isSome then s.pipeBusy else setBusy s.me.core s.me.pipe (max (busyOf s.me.core s.me.pipe s.pipeBusy) (s.now + o)) s.pipeBusy := rfl
@[simp] theorem State.advance_ports (s : State) (n o : Nat) : (s.advance n o).ports = s.ports := rfl
@[simp] theorem State.advance_icache (s : State) (n o : Nat) : (s.advance n o).icache = s.icache := rfl
@[simp] theorem State.advance_fills (s : State) (n o : Nat) : (s.advance n o).fills = s.fills := rfl
@[simp] theorem State.advance_tlb (s : State) (n o : Nat) : (s.advance n o).tlb = s.tlb := rfl
@[simp] theorem State.advance_atsCache (s : State) (n o : Nat) : (s.advance n o).atsCache = s.atsCache := rfl
@[simp] theorem State.advance_ctxs (s : State) (n o : Nat) : (s.advance n o).ctxs = s.ctxs := rfl
@[simp] theorem State.advance_ctxBase (s : State) (n o : Nat) : (s.advance n o).ctxBase = s.ctxBase := rfl
@[simp] theorem State.advance_apBase (s : State) (n o : Nat) : (s.advance n o).apBase = s.apBase := rfl
@[simp] theorem State.advance_bar4Exp (s : State) (n o : Nat) : (s.advance n o).bar4Exp = s.bar4Exp := rfl
@[simp] theorem State.advance_ptBusy (s : State) (n o : Nat) : (s.advance n o).ptBusy = s.ptBusy := rfl
@[simp] theorem State.advance_ptDone (s : State) (n o : Nat) : (s.advance n o).ptDone = s.ptDone := rfl
@[simp] theorem State.advance_ptAll (s : State) (n o : Nat) : (s.advance n o).ptAll = s.ptAll := rfl
@[simp] theorem State.advance_ptCtxs (s : State) (n o : Nat) : (s.advance n o).ptCtxs = s.ptCtxs := rfl
@[simp] theorem State.advance_coal (s : State) (n o : Nat) : (s.advance n o).coal = s.coal := rfl
@[simp] theorem State.advance_peers (s : State) (n o : Nat) : (s.advance n o).peers = s.peers := rfl
@[simp] theorem State.advance_inbound (s : State) (n o : Nat) : (s.advance n o).inbound = s.inbound := rfl
@[simp] theorem State.advance_priNext (s : State) (n o : Nat) : (s.advance n o).priNext = s.priNext := rfl
@[simp] theorem State.advance_priWaits (s : State) (n o : Nat) : (s.advance n o).priWaits = s.priWaits := rfl
@[simp] theorem State.advance_noAts (s : State) (n o : Nat) : (s.advance n o).noAts = s.noAts := rfl
@[simp] theorem State.advance_hubWaits (s : State) (n o : Nat) : (s.advance n o).hubWaits = s.hubWaits := rfl
@[simp] theorem State.advance_queues (s : State) (n o : Nat) : (s.advance n o).queues = s.queues := rfl
@[simp] theorem State.advance_unrecorded (s : State) (n o : Nat) : (s.advance n o).unrecorded = s.unrecorded := rfl
@[simp] theorem State.advance_fatal (s : State) (n o : Nat) : (s.advance n o).fatal = s.fatal := rfl
@[simp] theorem State.advance_fatalV (s : State) (n o : Nat) : (s.advance n o).fatalV = s.fatalV := rfl
@[simp] theorem State.advance_gangTol (s : State) (n o : Nat) : (s.advance n o).gangTol = s.gangTol := rfl
@[simp] theorem State.advance_slice (s : State) (n o : Nat) : (s.advance n o).slice = s.slice := rfl
@[simp] theorem State.advance_binds (s : State) (n o : Nat) : (s.advance n o).binds = s.binds := rfl
@[simp] theorem State.advance_bindTimes (s : State) (n o : Nat) : (s.advance n o).bindTimes = s.bindTimes := rfl
@[simp] theorem State.advance_asked (s : State) (n o : Nat) : (s.advance n o).asked = s.asked := rfl
@[simp] theorem State.advance_pagesTaken (s : State) (n o : Nat) : (s.advance n o).pagesTaken = s.pagesTaken := rfl
@[simp] theorem State.advance_evlog (s : State) (n o : Nat) : (s.advance n o).evlog = s.evlog := rfl
@[simp] theorem State.advance_evProd (s : State) (n o : Nat) : (s.advance n o).evProd = s.evProd := rfl
@[simp] theorem State.advance_msix (s : State) (n o : Nat) : (s.advance n o).msix = s.msix := rfl
@[simp] theorem State.advance_regLow (s : State) (n o : Nat) : (s.advance n o).regLow = s.regLow := rfl
@[simp] theorem State.advance_sbSram (s : State) (n o : Nat) : (s.advance n o).sbSram = s.sbSram := rfl
@[simp] theorem State.advance_flash (s : State) (n o : Nat) : (s.advance n o).flash = s.flash := rfl
@[simp] theorem State.advance_flashFails (s : State) (n o : Nat) : (s.advance n o).flashFails = s.flashFails := rfl
@[simp] theorem State.advance_access (s : State) (n o : Nat) : (s.advance n o).access = s.access := rfl
@[simp] theorem State.advance_hole (s : State) (n o : Nat) : (s.advance n o).hole = s.hole := rfl
@[simp] theorem State.advance_sec (s : State) (n o : Nat) : (s.advance n o).sec = s.sec := rfl
@[simp] theorem State.advance_power (s : State) (n o : Nat) : (s.advance n o).power = s.power := rfl
@[simp] theorem State.advance_fleet (s : State) (n o : Nat) : (s.advance n o).fleet = s.fleet := rfl

@[simp] theorem State.switchAt_now (s : State) (pc : Dword) (o r : Nat) : (s.switchAt pc o r).now = s.now := rfl
@[simp] theorem State.switchAt_agenda (s : State) (pc : Dword) (o r : Nat) : (s.switchAt pc o r).agenda = s.agenda := rfl
@[simp] theorem State.switchAt_draws (s : State) (pc : Dword) (o r : Nat) : (s.switchAt pc o r).draws = s.draws := rfl
@[simp] theorem State.switchAt_nextId (s : State) (pc : Dword) (o r : Nat) : (s.switchAt pc o r).nextId = s.nextId := rfl
@[simp] theorem State.switchAt_me (s : State) (pc : Dword) (o r : Nat) : (s.switchAt pc o r).me = s.me.endRun pc (if s.me.park.isSome then s.now + 4 else r) := rfl
@[simp] theorem State.switchAt_groups (s : State) (pc : Dword) (o r : Nat) : (s.switchAt pc o r).groups = s.groups := rfl
@[simp] theorem State.switchAt_waiting (s : State) (pc : Dword) (o r : Nat) : (s.switchAt pc o r).waiting = s.waiting := rfl
@[simp] theorem State.switchAt_images (s : State) (pc : Dword) (o r : Nat) : (s.switchAt pc o r).images = s.images := rfl
@[simp] theorem State.switchAt_hbm (s : State) (pc : Dword) (o r : Nat) : (s.switchAt pc o r).hbm = s.hbm := rfl
@[simp] theorem State.switchAt_sysMem (s : State) (pc : Dword) (o r : Nat) : (s.switchAt pc o r).sysMem = s.sysMem := rfl
@[simp] theorem State.switchAt_window (s : State) (pc : Dword) (o r : Nat) : (s.switchAt pc o r).window = s.window := rfl
@[simp] theorem State.switchAt_poison (s : State) (pc : Dword) (o r : Nat) : (s.switchAt pc o r).poison = s.poison := rfl
@[simp] theorem State.switchAt_hostBytes (s : State) (pc : Dword) (o r : Nat) : (s.switchAt pc o r).hostBytes = s.hostBytes := rfl
@[simp] theorem State.switchAt_fixes (s : State) (pc : Dword) (o r : Nat) : (s.switchAt pc o r).fixes = s.fixes := rfl
@[simp] theorem State.switchAt_flushed (s : State) (pc : Dword) (o r : Nat) : (s.switchAt pc o r).flushed = s.flushed := rfl
@[simp] theorem State.switchAt_hostRead (s : State) (pc : Dword) (o r : Nat) : (s.switchAt pc o r).hostRead = s.hostRead := rfl
@[simp] theorem State.switchAt_atoms (s : State) (pc : Dword) (o r : Nat) : (s.switchAt pc o r).atoms = s.atoms := rfl
@[simp] theorem State.switchAt_blocks (s : State) (pc : Dword) (o r : Nat) : (s.switchAt pc o r).blocks = s.blocks := rfl
@[simp] theorem State.switchAt_grids (s : State) (pc : Dword) (o r : Nat) : (s.switchAt pc o r).grids = s.grids := rfl
@[simp] theorem State.switchAt_frames (s : State) (pc : Dword) (o r : Nat) : (s.switchAt pc o r).frames = s.frames := rfl
@[simp] theorem State.switchAt_barriers (s : State) (pc : Dword) (o r : Nat) : (s.switchAt pc o r).barriers = s.barriers := rfl
@[simp] theorem State.switchAt_hubWords (s : State) (pc : Dword) (o r : Nat) : (s.switchAt pc o r).hubWords = s.hubWords := rfl
@[simp] theorem State.switchAt_futures (s : State) (pc : Dword) (o r : Nat) : (s.switchAt pc o r).futures = s.futures := rfl
@[simp] theorem State.switchAt_waits (s : State) (pc : Dword) (o r : Nat) : (s.switchAt pc o r).waits = s.waits := rfl
@[simp] theorem State.switchAt_ops (s : State) (pc : Dword) (o r : Nat) : (s.switchAt pc o r).ops = s.ops := rfl
@[simp] theorem State.switchAt_doneOps (s : State) (pc : Dword) (o r : Nat) : (s.switchAt pc o r).doneOps = s.doneOps := rfl
@[simp] theorem State.switchAt_mmas (s : State) (pc : Dword) (o r : Nat) : (s.switchAt pc o r).mmas = s.mmas := rfl
@[simp] theorem State.switchAt_doneMmas (s : State) (pc : Dword) (o r : Nat) : (s.switchAt pc o r).doneMmas = s.doneMmas := rfl
@[simp] theorem State.switchAt_arrays (s : State) (pc : Dword) (o r : Nat) : (s.switchAt pc o r).arrays = s.arrays := rfl
@[simp] theorem State.switchAt_corner (s : State) (pc : Dword) (o r : Nat) : (s.switchAt pc o r).corner = s.corner := rfl
@[simp] theorem State.switchAt_episodes (s : State) (pc : Dword) (o r : Nat) : (s.switchAt pc o r).episodes = s.episodes := rfl
@[simp] theorem State.switchAt_bins (s : State) (pc : Dword) (o r : Nat) : (s.switchAt pc o r).bins = s.bins := rfl
@[simp] theorem State.switchAt_tsrCache (s : State) (pc : Dword) (o r : Nat) : (s.switchAt pc o r).tsrCache = s.tsrCache := rfl
@[simp] theorem State.switchAt_kvTlb (s : State) (pc : Dword) (o r : Nat) : (s.switchAt pc o r).kvTlb = s.kvTlb := rfl
@[simp] theorem State.switchAt_coreWord (s : State) (pc : Dword) (o r : Nat) : (s.switchAt pc o r).coreWord = s.coreWord := rfl
@[simp] theorem State.switchAt_trackers (s : State) (pc : Dword) (o r : Nat) : (s.switchAt pc o r).trackers = s.trackers := rfl
@[simp] theorem State.switchAt_gens (s : State) (pc : Dword) (o r : Nat) : (s.switchAt pc o r).gens = s.gens := rfl
@[simp] theorem State.switchAt_pipeBusy (s : State) (pc : Dword) (o r : Nat) : (s.switchAt pc o r).pipeBusy = if s.me.park.isSome then s.pipeBusy else setBusy s.me.core s.me.pipe (max (busyOf s.me.core s.me.pipe s.pipeBusy) (s.now + o)) s.pipeBusy := rfl
@[simp] theorem State.switchAt_ports (s : State) (pc : Dword) (o r : Nat) : (s.switchAt pc o r).ports = s.ports := rfl
@[simp] theorem State.switchAt_icache (s : State) (pc : Dword) (o r : Nat) : (s.switchAt pc o r).icache = s.icache := rfl
@[simp] theorem State.switchAt_fills (s : State) (pc : Dword) (o r : Nat) : (s.switchAt pc o r).fills = s.fills := rfl
@[simp] theorem State.switchAt_tlb (s : State) (pc : Dword) (o r : Nat) : (s.switchAt pc o r).tlb = s.tlb := rfl
@[simp] theorem State.switchAt_atsCache (s : State) (pc : Dword) (o r : Nat) : (s.switchAt pc o r).atsCache = s.atsCache := rfl
@[simp] theorem State.switchAt_ctxs (s : State) (pc : Dword) (o r : Nat) : (s.switchAt pc o r).ctxs = s.ctxs := rfl
@[simp] theorem State.switchAt_ctxBase (s : State) (pc : Dword) (o r : Nat) : (s.switchAt pc o r).ctxBase = s.ctxBase := rfl
@[simp] theorem State.switchAt_apBase (s : State) (pc : Dword) (o r : Nat) : (s.switchAt pc o r).apBase = s.apBase := rfl
@[simp] theorem State.switchAt_bar4Exp (s : State) (pc : Dword) (o r : Nat) : (s.switchAt pc o r).bar4Exp = s.bar4Exp := rfl
@[simp] theorem State.switchAt_ptBusy (s : State) (pc : Dword) (o r : Nat) : (s.switchAt pc o r).ptBusy = s.ptBusy := rfl
@[simp] theorem State.switchAt_ptDone (s : State) (pc : Dword) (o r : Nat) : (s.switchAt pc o r).ptDone = s.ptDone := rfl
@[simp] theorem State.switchAt_ptAll (s : State) (pc : Dword) (o r : Nat) : (s.switchAt pc o r).ptAll = s.ptAll := rfl
@[simp] theorem State.switchAt_ptCtxs (s : State) (pc : Dword) (o r : Nat) : (s.switchAt pc o r).ptCtxs = s.ptCtxs := rfl
@[simp] theorem State.switchAt_coal (s : State) (pc : Dword) (o r : Nat) : (s.switchAt pc o r).coal = s.coal := rfl
@[simp] theorem State.switchAt_peers (s : State) (pc : Dword) (o r : Nat) : (s.switchAt pc o r).peers = s.peers := rfl
@[simp] theorem State.switchAt_inbound (s : State) (pc : Dword) (o r : Nat) : (s.switchAt pc o r).inbound = s.inbound := rfl
@[simp] theorem State.switchAt_priNext (s : State) (pc : Dword) (o r : Nat) : (s.switchAt pc o r).priNext = s.priNext := rfl
@[simp] theorem State.switchAt_priWaits (s : State) (pc : Dword) (o r : Nat) : (s.switchAt pc o r).priWaits = s.priWaits := rfl
@[simp] theorem State.switchAt_noAts (s : State) (pc : Dword) (o r : Nat) : (s.switchAt pc o r).noAts = s.noAts := rfl
@[simp] theorem State.switchAt_hubWaits (s : State) (pc : Dword) (o r : Nat) : (s.switchAt pc o r).hubWaits = s.hubWaits := rfl
@[simp] theorem State.switchAt_queues (s : State) (pc : Dword) (o r : Nat) : (s.switchAt pc o r).queues = s.queues := rfl
@[simp] theorem State.switchAt_unrecorded (s : State) (pc : Dword) (o r : Nat) : (s.switchAt pc o r).unrecorded = s.unrecorded := rfl
@[simp] theorem State.switchAt_fatal (s : State) (pc : Dword) (o r : Nat) : (s.switchAt pc o r).fatal = s.fatal := rfl
@[simp] theorem State.switchAt_fatalV (s : State) (pc : Dword) (o r : Nat) : (s.switchAt pc o r).fatalV = s.fatalV := rfl
@[simp] theorem State.switchAt_gangTol (s : State) (pc : Dword) (o r : Nat) : (s.switchAt pc o r).gangTol = s.gangTol := rfl
@[simp] theorem State.switchAt_slice (s : State) (pc : Dword) (o r : Nat) : (s.switchAt pc o r).slice = s.slice := rfl
@[simp] theorem State.switchAt_binds (s : State) (pc : Dword) (o r : Nat) : (s.switchAt pc o r).binds = s.binds := rfl
@[simp] theorem State.switchAt_bindTimes (s : State) (pc : Dword) (o r : Nat) : (s.switchAt pc o r).bindTimes = s.bindTimes := rfl
@[simp] theorem State.switchAt_asked (s : State) (pc : Dword) (o r : Nat) : (s.switchAt pc o r).asked = s.asked := rfl
@[simp] theorem State.switchAt_pagesTaken (s : State) (pc : Dword) (o r : Nat) : (s.switchAt pc o r).pagesTaken = s.pagesTaken := rfl
@[simp] theorem State.switchAt_evlog (s : State) (pc : Dword) (o r : Nat) : (s.switchAt pc o r).evlog = s.evlog := rfl
@[simp] theorem State.switchAt_evProd (s : State) (pc : Dword) (o r : Nat) : (s.switchAt pc o r).evProd = s.evProd := rfl
@[simp] theorem State.switchAt_msix (s : State) (pc : Dword) (o r : Nat) : (s.switchAt pc o r).msix = s.msix := rfl
@[simp] theorem State.switchAt_regLow (s : State) (pc : Dword) (o r : Nat) : (s.switchAt pc o r).regLow = s.regLow := rfl
@[simp] theorem State.switchAt_sbSram (s : State) (pc : Dword) (o r : Nat) : (s.switchAt pc o r).sbSram = s.sbSram := rfl
@[simp] theorem State.switchAt_flash (s : State) (pc : Dword) (o r : Nat) : (s.switchAt pc o r).flash = s.flash := rfl
@[simp] theorem State.switchAt_flashFails (s : State) (pc : Dword) (o r : Nat) : (s.switchAt pc o r).flashFails = s.flashFails := rfl
@[simp] theorem State.switchAt_access (s : State) (pc : Dword) (o r : Nat) : (s.switchAt pc o r).access = s.access := rfl
@[simp] theorem State.switchAt_hole (s : State) (pc : Dword) (o r : Nat) : (s.switchAt pc o r).hole = s.hole := rfl
@[simp] theorem State.switchAt_sec (s : State) (pc : Dword) (o r : Nat) : (s.switchAt pc o r).sec = s.sec := rfl
@[simp] theorem State.switchAt_power (s : State) (pc : Dword) (o r : Nat) : (s.switchAt pc o r).power = s.power := rfl
@[simp] theorem State.switchAt_fleet (s : State) (pc : Dword) (o r : Nat) : (s.switchAt pc o r).fleet = s.fleet := rfl

@[simp] theorem State.switchTo_now (s : State) (pc : Dword) (o l : Nat) : (s.switchTo pc o l).now = s.now := rfl
@[simp] theorem State.switchTo_agenda (s : State) (pc : Dword) (o l : Nat) : (s.switchTo pc o l).agenda = s.agenda := rfl
@[simp] theorem State.switchTo_draws (s : State) (pc : Dword) (o l : Nat) : (s.switchTo pc o l).draws = s.draws := rfl
@[simp] theorem State.switchTo_nextId (s : State) (pc : Dword) (o l : Nat) : (s.switchTo pc o l).nextId = s.nextId := rfl
@[simp] theorem State.switchTo_me (s : State) (pc : Dword) (o l : Nat) : (s.switchTo pc o l).me = s.me.endRun pc (if s.me.park.isSome then s.now + 4 else s.now + o + l) := rfl
@[simp] theorem State.switchTo_groups (s : State) (pc : Dword) (o l : Nat) : (s.switchTo pc o l).groups = s.groups := rfl
@[simp] theorem State.switchTo_waiting (s : State) (pc : Dword) (o l : Nat) : (s.switchTo pc o l).waiting = s.waiting := rfl
@[simp] theorem State.switchTo_images (s : State) (pc : Dword) (o l : Nat) : (s.switchTo pc o l).images = s.images := rfl
@[simp] theorem State.switchTo_hbm (s : State) (pc : Dword) (o l : Nat) : (s.switchTo pc o l).hbm = s.hbm := rfl
@[simp] theorem State.switchTo_sysMem (s : State) (pc : Dword) (o l : Nat) : (s.switchTo pc o l).sysMem = s.sysMem := rfl
@[simp] theorem State.switchTo_window (s : State) (pc : Dword) (o l : Nat) : (s.switchTo pc o l).window = s.window := rfl
@[simp] theorem State.switchTo_poison (s : State) (pc : Dword) (o l : Nat) : (s.switchTo pc o l).poison = s.poison := rfl
@[simp] theorem State.switchTo_hostBytes (s : State) (pc : Dword) (o l : Nat) : (s.switchTo pc o l).hostBytes = s.hostBytes := rfl
@[simp] theorem State.switchTo_fixes (s : State) (pc : Dword) (o l : Nat) : (s.switchTo pc o l).fixes = s.fixes := rfl
@[simp] theorem State.switchTo_flushed (s : State) (pc : Dword) (o l : Nat) : (s.switchTo pc o l).flushed = s.flushed := rfl
@[simp] theorem State.switchTo_hostRead (s : State) (pc : Dword) (o l : Nat) : (s.switchTo pc o l).hostRead = s.hostRead := rfl
@[simp] theorem State.switchTo_atoms (s : State) (pc : Dword) (o l : Nat) : (s.switchTo pc o l).atoms = s.atoms := rfl
@[simp] theorem State.switchTo_blocks (s : State) (pc : Dword) (o l : Nat) : (s.switchTo pc o l).blocks = s.blocks := rfl
@[simp] theorem State.switchTo_grids (s : State) (pc : Dword) (o l : Nat) : (s.switchTo pc o l).grids = s.grids := rfl
@[simp] theorem State.switchTo_frames (s : State) (pc : Dword) (o l : Nat) : (s.switchTo pc o l).frames = s.frames := rfl
@[simp] theorem State.switchTo_barriers (s : State) (pc : Dword) (o l : Nat) : (s.switchTo pc o l).barriers = s.barriers := rfl
@[simp] theorem State.switchTo_hubWords (s : State) (pc : Dword) (o l : Nat) : (s.switchTo pc o l).hubWords = s.hubWords := rfl
@[simp] theorem State.switchTo_futures (s : State) (pc : Dword) (o l : Nat) : (s.switchTo pc o l).futures = s.futures := rfl
@[simp] theorem State.switchTo_waits (s : State) (pc : Dword) (o l : Nat) : (s.switchTo pc o l).waits = s.waits := rfl
@[simp] theorem State.switchTo_ops (s : State) (pc : Dword) (o l : Nat) : (s.switchTo pc o l).ops = s.ops := rfl
@[simp] theorem State.switchTo_doneOps (s : State) (pc : Dword) (o l : Nat) : (s.switchTo pc o l).doneOps = s.doneOps := rfl
@[simp] theorem State.switchTo_mmas (s : State) (pc : Dword) (o l : Nat) : (s.switchTo pc o l).mmas = s.mmas := rfl
@[simp] theorem State.switchTo_doneMmas (s : State) (pc : Dword) (o l : Nat) : (s.switchTo pc o l).doneMmas = s.doneMmas := rfl
@[simp] theorem State.switchTo_arrays (s : State) (pc : Dword) (o l : Nat) : (s.switchTo pc o l).arrays = s.arrays := rfl
@[simp] theorem State.switchTo_corner (s : State) (pc : Dword) (o l : Nat) : (s.switchTo pc o l).corner = s.corner := rfl
@[simp] theorem State.switchTo_episodes (s : State) (pc : Dword) (o l : Nat) : (s.switchTo pc o l).episodes = s.episodes := rfl
@[simp] theorem State.switchTo_bins (s : State) (pc : Dword) (o l : Nat) : (s.switchTo pc o l).bins = s.bins := rfl
@[simp] theorem State.switchTo_tsrCache (s : State) (pc : Dword) (o l : Nat) : (s.switchTo pc o l).tsrCache = s.tsrCache := rfl
@[simp] theorem State.switchTo_kvTlb (s : State) (pc : Dword) (o l : Nat) : (s.switchTo pc o l).kvTlb = s.kvTlb := rfl
@[simp] theorem State.switchTo_coreWord (s : State) (pc : Dword) (o l : Nat) : (s.switchTo pc o l).coreWord = s.coreWord := rfl
@[simp] theorem State.switchTo_trackers (s : State) (pc : Dword) (o l : Nat) : (s.switchTo pc o l).trackers = s.trackers := rfl
@[simp] theorem State.switchTo_gens (s : State) (pc : Dword) (o l : Nat) : (s.switchTo pc o l).gens = s.gens := rfl
@[simp] theorem State.switchTo_pipeBusy (s : State) (pc : Dword) (o l : Nat) : (s.switchTo pc o l).pipeBusy = if s.me.park.isSome then s.pipeBusy else setBusy s.me.core s.me.pipe (max (busyOf s.me.core s.me.pipe s.pipeBusy) (s.now + o)) s.pipeBusy := rfl
@[simp] theorem State.switchTo_ports (s : State) (pc : Dword) (o l : Nat) : (s.switchTo pc o l).ports = s.ports := rfl
@[simp] theorem State.switchTo_icache (s : State) (pc : Dword) (o l : Nat) : (s.switchTo pc o l).icache = s.icache := rfl
@[simp] theorem State.switchTo_fills (s : State) (pc : Dword) (o l : Nat) : (s.switchTo pc o l).fills = s.fills := rfl
@[simp] theorem State.switchTo_tlb (s : State) (pc : Dword) (o l : Nat) : (s.switchTo pc o l).tlb = s.tlb := rfl
@[simp] theorem State.switchTo_atsCache (s : State) (pc : Dword) (o l : Nat) : (s.switchTo pc o l).atsCache = s.atsCache := rfl
@[simp] theorem State.switchTo_ctxs (s : State) (pc : Dword) (o l : Nat) : (s.switchTo pc o l).ctxs = s.ctxs := rfl
@[simp] theorem State.switchTo_ctxBase (s : State) (pc : Dword) (o l : Nat) : (s.switchTo pc o l).ctxBase = s.ctxBase := rfl
@[simp] theorem State.switchTo_apBase (s : State) (pc : Dword) (o l : Nat) : (s.switchTo pc o l).apBase = s.apBase := rfl
@[simp] theorem State.switchTo_bar4Exp (s : State) (pc : Dword) (o l : Nat) : (s.switchTo pc o l).bar4Exp = s.bar4Exp := rfl
@[simp] theorem State.switchTo_ptBusy (s : State) (pc : Dword) (o l : Nat) : (s.switchTo pc o l).ptBusy = s.ptBusy := rfl
@[simp] theorem State.switchTo_ptDone (s : State) (pc : Dword) (o l : Nat) : (s.switchTo pc o l).ptDone = s.ptDone := rfl
@[simp] theorem State.switchTo_ptAll (s : State) (pc : Dword) (o l : Nat) : (s.switchTo pc o l).ptAll = s.ptAll := rfl
@[simp] theorem State.switchTo_ptCtxs (s : State) (pc : Dword) (o l : Nat) : (s.switchTo pc o l).ptCtxs = s.ptCtxs := rfl
@[simp] theorem State.switchTo_coal (s : State) (pc : Dword) (o l : Nat) : (s.switchTo pc o l).coal = s.coal := rfl
@[simp] theorem State.switchTo_peers (s : State) (pc : Dword) (o l : Nat) : (s.switchTo pc o l).peers = s.peers := rfl
@[simp] theorem State.switchTo_inbound (s : State) (pc : Dword) (o l : Nat) : (s.switchTo pc o l).inbound = s.inbound := rfl
@[simp] theorem State.switchTo_priNext (s : State) (pc : Dword) (o l : Nat) : (s.switchTo pc o l).priNext = s.priNext := rfl
@[simp] theorem State.switchTo_priWaits (s : State) (pc : Dword) (o l : Nat) : (s.switchTo pc o l).priWaits = s.priWaits := rfl
@[simp] theorem State.switchTo_noAts (s : State) (pc : Dword) (o l : Nat) : (s.switchTo pc o l).noAts = s.noAts := rfl
@[simp] theorem State.switchTo_hubWaits (s : State) (pc : Dword) (o l : Nat) : (s.switchTo pc o l).hubWaits = s.hubWaits := rfl
@[simp] theorem State.switchTo_queues (s : State) (pc : Dword) (o l : Nat) : (s.switchTo pc o l).queues = s.queues := rfl
@[simp] theorem State.switchTo_unrecorded (s : State) (pc : Dword) (o l : Nat) : (s.switchTo pc o l).unrecorded = s.unrecorded := rfl
@[simp] theorem State.switchTo_fatal (s : State) (pc : Dword) (o l : Nat) : (s.switchTo pc o l).fatal = s.fatal := rfl
@[simp] theorem State.switchTo_fatalV (s : State) (pc : Dword) (o l : Nat) : (s.switchTo pc o l).fatalV = s.fatalV := rfl
@[simp] theorem State.switchTo_gangTol (s : State) (pc : Dword) (o l : Nat) : (s.switchTo pc o l).gangTol = s.gangTol := rfl
@[simp] theorem State.switchTo_slice (s : State) (pc : Dword) (o l : Nat) : (s.switchTo pc o l).slice = s.slice := rfl
@[simp] theorem State.switchTo_binds (s : State) (pc : Dword) (o l : Nat) : (s.switchTo pc o l).binds = s.binds := rfl
@[simp] theorem State.switchTo_bindTimes (s : State) (pc : Dword) (o l : Nat) : (s.switchTo pc o l).bindTimes = s.bindTimes := rfl
@[simp] theorem State.switchTo_asked (s : State) (pc : Dword) (o l : Nat) : (s.switchTo pc o l).asked = s.asked := rfl
@[simp] theorem State.switchTo_pagesTaken (s : State) (pc : Dword) (o l : Nat) : (s.switchTo pc o l).pagesTaken = s.pagesTaken := rfl
@[simp] theorem State.switchTo_evlog (s : State) (pc : Dword) (o l : Nat) : (s.switchTo pc o l).evlog = s.evlog := rfl
@[simp] theorem State.switchTo_evProd (s : State) (pc : Dword) (o l : Nat) : (s.switchTo pc o l).evProd = s.evProd := rfl
@[simp] theorem State.switchTo_msix (s : State) (pc : Dword) (o l : Nat) : (s.switchTo pc o l).msix = s.msix := rfl
@[simp] theorem State.switchTo_regLow (s : State) (pc : Dword) (o l : Nat) : (s.switchTo pc o l).regLow = s.regLow := rfl
@[simp] theorem State.switchTo_sbSram (s : State) (pc : Dword) (o l : Nat) : (s.switchTo pc o l).sbSram = s.sbSram := rfl
@[simp] theorem State.switchTo_flash (s : State) (pc : Dword) (o l : Nat) : (s.switchTo pc o l).flash = s.flash := rfl
@[simp] theorem State.switchTo_flashFails (s : State) (pc : Dword) (o l : Nat) : (s.switchTo pc o l).flashFails = s.flashFails := rfl
@[simp] theorem State.switchTo_access (s : State) (pc : Dword) (o l : Nat) : (s.switchTo pc o l).access = s.access := rfl
@[simp] theorem State.switchTo_hole (s : State) (pc : Dword) (o l : Nat) : (s.switchTo pc o l).hole = s.hole := rfl
@[simp] theorem State.switchTo_sec (s : State) (pc : Dword) (o l : Nat) : (s.switchTo pc o l).sec = s.sec := rfl
@[simp] theorem State.switchTo_power (s : State) (pc : Dword) (o l : Nat) : (s.switchTo pc o l).power = s.power := rfl
@[simp] theorem State.switchTo_fleet (s : State) (pc : Dword) (o l : Nat) : (s.switchTo pc o l).fleet = s.fleet := rfl

@[simp] theorem State.switch_now (s : State) (n o l : Nat) : (s.switch n o l).now = s.now := rfl
@[simp] theorem State.switch_agenda (s : State) (n o l : Nat) : (s.switch n o l).agenda = s.agenda := rfl
@[simp] theorem State.switch_draws (s : State) (n o l : Nat) : (s.switch n o l).draws = s.draws := rfl
@[simp] theorem State.switch_nextId (s : State) (n o l : Nat) : (s.switch n o l).nextId = s.nextId := rfl
@[simp] theorem State.switch_me (s : State) (n o l : Nat) : (s.switch n o l).me = s.me.endRun (s.me.pc + BitVec.ofNat 64 (4 * n)) (if s.me.park.isSome then s.now + 4 else s.now + o + l) := rfl
@[simp] theorem State.switch_groups (s : State) (n o l : Nat) : (s.switch n o l).groups = s.groups := rfl
@[simp] theorem State.switch_waiting (s : State) (n o l : Nat) : (s.switch n o l).waiting = s.waiting := rfl
@[simp] theorem State.switch_images (s : State) (n o l : Nat) : (s.switch n o l).images = s.images := rfl
@[simp] theorem State.switch_hbm (s : State) (n o l : Nat) : (s.switch n o l).hbm = s.hbm := rfl
@[simp] theorem State.switch_sysMem (s : State) (n o l : Nat) : (s.switch n o l).sysMem = s.sysMem := rfl
@[simp] theorem State.switch_window (s : State) (n o l : Nat) : (s.switch n o l).window = s.window := rfl
@[simp] theorem State.switch_poison (s : State) (n o l : Nat) : (s.switch n o l).poison = s.poison := rfl
@[simp] theorem State.switch_hostBytes (s : State) (n o l : Nat) : (s.switch n o l).hostBytes = s.hostBytes := rfl
@[simp] theorem State.switch_fixes (s : State) (n o l : Nat) : (s.switch n o l).fixes = s.fixes := rfl
@[simp] theorem State.switch_flushed (s : State) (n o l : Nat) : (s.switch n o l).flushed = s.flushed := rfl
@[simp] theorem State.switch_hostRead (s : State) (n o l : Nat) : (s.switch n o l).hostRead = s.hostRead := rfl
@[simp] theorem State.switch_atoms (s : State) (n o l : Nat) : (s.switch n o l).atoms = s.atoms := rfl
@[simp] theorem State.switch_blocks (s : State) (n o l : Nat) : (s.switch n o l).blocks = s.blocks := rfl
@[simp] theorem State.switch_grids (s : State) (n o l : Nat) : (s.switch n o l).grids = s.grids := rfl
@[simp] theorem State.switch_frames (s : State) (n o l : Nat) : (s.switch n o l).frames = s.frames := rfl
@[simp] theorem State.switch_barriers (s : State) (n o l : Nat) : (s.switch n o l).barriers = s.barriers := rfl
@[simp] theorem State.switch_hubWords (s : State) (n o l : Nat) : (s.switch n o l).hubWords = s.hubWords := rfl
@[simp] theorem State.switch_futures (s : State) (n o l : Nat) : (s.switch n o l).futures = s.futures := rfl
@[simp] theorem State.switch_waits (s : State) (n o l : Nat) : (s.switch n o l).waits = s.waits := rfl
@[simp] theorem State.switch_ops (s : State) (n o l : Nat) : (s.switch n o l).ops = s.ops := rfl
@[simp] theorem State.switch_doneOps (s : State) (n o l : Nat) : (s.switch n o l).doneOps = s.doneOps := rfl
@[simp] theorem State.switch_mmas (s : State) (n o l : Nat) : (s.switch n o l).mmas = s.mmas := rfl
@[simp] theorem State.switch_doneMmas (s : State) (n o l : Nat) : (s.switch n o l).doneMmas = s.doneMmas := rfl
@[simp] theorem State.switch_arrays (s : State) (n o l : Nat) : (s.switch n o l).arrays = s.arrays := rfl
@[simp] theorem State.switch_corner (s : State) (n o l : Nat) : (s.switch n o l).corner = s.corner := rfl
@[simp] theorem State.switch_episodes (s : State) (n o l : Nat) : (s.switch n o l).episodes = s.episodes := rfl
@[simp] theorem State.switch_bins (s : State) (n o l : Nat) : (s.switch n o l).bins = s.bins := rfl
@[simp] theorem State.switch_tsrCache (s : State) (n o l : Nat) : (s.switch n o l).tsrCache = s.tsrCache := rfl
@[simp] theorem State.switch_kvTlb (s : State) (n o l : Nat) : (s.switch n o l).kvTlb = s.kvTlb := rfl
@[simp] theorem State.switch_coreWord (s : State) (n o l : Nat) : (s.switch n o l).coreWord = s.coreWord := rfl
@[simp] theorem State.switch_trackers (s : State) (n o l : Nat) : (s.switch n o l).trackers = s.trackers := rfl
@[simp] theorem State.switch_gens (s : State) (n o l : Nat) : (s.switch n o l).gens = s.gens := rfl
@[simp] theorem State.switch_pipeBusy (s : State) (n o l : Nat) : (s.switch n o l).pipeBusy = if s.me.park.isSome then s.pipeBusy else setBusy s.me.core s.me.pipe (max (busyOf s.me.core s.me.pipe s.pipeBusy) (s.now + o)) s.pipeBusy := rfl
@[simp] theorem State.switch_ports (s : State) (n o l : Nat) : (s.switch n o l).ports = s.ports := rfl
@[simp] theorem State.switch_icache (s : State) (n o l : Nat) : (s.switch n o l).icache = s.icache := rfl
@[simp] theorem State.switch_fills (s : State) (n o l : Nat) : (s.switch n o l).fills = s.fills := rfl
@[simp] theorem State.switch_tlb (s : State) (n o l : Nat) : (s.switch n o l).tlb = s.tlb := rfl
@[simp] theorem State.switch_atsCache (s : State) (n o l : Nat) : (s.switch n o l).atsCache = s.atsCache := rfl
@[simp] theorem State.switch_ctxs (s : State) (n o l : Nat) : (s.switch n o l).ctxs = s.ctxs := rfl
@[simp] theorem State.switch_ctxBase (s : State) (n o l : Nat) : (s.switch n o l).ctxBase = s.ctxBase := rfl
@[simp] theorem State.switch_apBase (s : State) (n o l : Nat) : (s.switch n o l).apBase = s.apBase := rfl
@[simp] theorem State.switch_bar4Exp (s : State) (n o l : Nat) : (s.switch n o l).bar4Exp = s.bar4Exp := rfl
@[simp] theorem State.switch_ptBusy (s : State) (n o l : Nat) : (s.switch n o l).ptBusy = s.ptBusy := rfl
@[simp] theorem State.switch_ptDone (s : State) (n o l : Nat) : (s.switch n o l).ptDone = s.ptDone := rfl
@[simp] theorem State.switch_ptAll (s : State) (n o l : Nat) : (s.switch n o l).ptAll = s.ptAll := rfl
@[simp] theorem State.switch_ptCtxs (s : State) (n o l : Nat) : (s.switch n o l).ptCtxs = s.ptCtxs := rfl
@[simp] theorem State.switch_coal (s : State) (n o l : Nat) : (s.switch n o l).coal = s.coal := rfl
@[simp] theorem State.switch_peers (s : State) (n o l : Nat) : (s.switch n o l).peers = s.peers := rfl
@[simp] theorem State.switch_inbound (s : State) (n o l : Nat) : (s.switch n o l).inbound = s.inbound := rfl
@[simp] theorem State.switch_priNext (s : State) (n o l : Nat) : (s.switch n o l).priNext = s.priNext := rfl
@[simp] theorem State.switch_priWaits (s : State) (n o l : Nat) : (s.switch n o l).priWaits = s.priWaits := rfl
@[simp] theorem State.switch_noAts (s : State) (n o l : Nat) : (s.switch n o l).noAts = s.noAts := rfl
@[simp] theorem State.switch_hubWaits (s : State) (n o l : Nat) : (s.switch n o l).hubWaits = s.hubWaits := rfl
@[simp] theorem State.switch_queues (s : State) (n o l : Nat) : (s.switch n o l).queues = s.queues := rfl
@[simp] theorem State.switch_unrecorded (s : State) (n o l : Nat) : (s.switch n o l).unrecorded = s.unrecorded := rfl
@[simp] theorem State.switch_fatal (s : State) (n o l : Nat) : (s.switch n o l).fatal = s.fatal := rfl
@[simp] theorem State.switch_fatalV (s : State) (n o l : Nat) : (s.switch n o l).fatalV = s.fatalV := rfl
@[simp] theorem State.switch_gangTol (s : State) (n o l : Nat) : (s.switch n o l).gangTol = s.gangTol := rfl
@[simp] theorem State.switch_slice (s : State) (n o l : Nat) : (s.switch n o l).slice = s.slice := rfl
@[simp] theorem State.switch_binds (s : State) (n o l : Nat) : (s.switch n o l).binds = s.binds := rfl
@[simp] theorem State.switch_bindTimes (s : State) (n o l : Nat) : (s.switch n o l).bindTimes = s.bindTimes := rfl
@[simp] theorem State.switch_asked (s : State) (n o l : Nat) : (s.switch n o l).asked = s.asked := rfl
@[simp] theorem State.switch_pagesTaken (s : State) (n o l : Nat) : (s.switch n o l).pagesTaken = s.pagesTaken := rfl
@[simp] theorem State.switch_evlog (s : State) (n o l : Nat) : (s.switch n o l).evlog = s.evlog := rfl
@[simp] theorem State.switch_evProd (s : State) (n o l : Nat) : (s.switch n o l).evProd = s.evProd := rfl
@[simp] theorem State.switch_msix (s : State) (n o l : Nat) : (s.switch n o l).msix = s.msix := rfl
@[simp] theorem State.switch_regLow (s : State) (n o l : Nat) : (s.switch n o l).regLow = s.regLow := rfl
@[simp] theorem State.switch_sbSram (s : State) (n o l : Nat) : (s.switch n o l).sbSram = s.sbSram := rfl
@[simp] theorem State.switch_flash (s : State) (n o l : Nat) : (s.switch n o l).flash = s.flash := rfl
@[simp] theorem State.switch_flashFails (s : State) (n o l : Nat) : (s.switch n o l).flashFails = s.flashFails := rfl
@[simp] theorem State.switch_access (s : State) (n o l : Nat) : (s.switch n o l).access = s.access := rfl
@[simp] theorem State.switch_hole (s : State) (n o l : Nat) : (s.switch n o l).hole = s.hole := rfl
@[simp] theorem State.switch_sec (s : State) (n o l : Nat) : (s.switch n o l).sec = s.sec := rfl
@[simp] theorem State.switch_power (s : State) (n o l : Nat) : (s.switch n o l).power = s.power := rfl
@[simp] theorem State.switch_fleet (s : State) (n o l : Nat) : (s.switch n o l).fleet = s.fleet := rfl

@[simp] theorem Group.endRun_uid (g : Group) (pc : Dword) (r : Nat) : (g.endRun pc r).uid = g.uid := rfl
@[simp] theorem Group.endRun_core (g : Group) (pc : Dword) (r : Nat) : (g.endRun pc r).core = g.core := rfl
@[simp] theorem Group.endRun_pipe (g : Group) (pc : Dword) (r : Nat) : (g.endRun pc r).pipe = g.pipe := rfl
@[simp] theorem Group.endRun_gslot (g : Group) (pc : Dword) (r : Nat) : (g.endRun pc r).gslot = g.gslot := rfl
@[simp] theorem Group.endRun_grid (g : Group) (pc : Dword) (r : Nat) : (g.endRun pc r).grid = g.grid := rfl
@[simp] theorem Group.endRun_blk (g : Group) (pc : Dword) (r : Nat) : (g.endRun pc r).blk = g.blk := rfl
@[simp] theorem Group.endRun_task (g : Group) (pc : Dword) (r : Nat) : (g.endRun pc r).task = g.task := rfl
@[simp] theorem Group.endRun_pc (g : Group) (pc : Dword) (r : Nat) : (g.endRun pc r).pc = pc := rfl
@[simp] theorem Group.endRun_runPc (g : Group) (pc : Dword) (r : Nat) : (g.endRun pc r).runPc = pc := rfl
@[simp] theorem Group.endRun_path (g : Group) (pc : Dword) (r : Nat) : (g.endRun pc r).path = g.path := rfl
@[simp] theorem Group.endRun_stack (g : Group) (pc : Dword) (r : Nat) : (g.endRun pc r).stack = g.stack := rfl
@[simp] theorem Group.endRun_spilled (g : Group) (pc : Dword) (r : Nat) : (g.endRun pc r).spilled = g.spilled := rfl
@[simp] theorem Group.endRun_base (g : Group) (pc : Dword) (r : Nat) : (g.endRun pc r).base = g.base := rfl
@[simp] theorem Group.endRun_k (g : Group) (pc : Dword) (r : Nat) : (g.endRun pc r).k = g.k := rfl
@[simp] theorem Group.endRun_q (g : Group) (pc : Dword) (r : Nat) : (g.endRun pc r).q = g.q := rfl
@[simp] theorem Group.endRun_cvc (g : Group) (pc : Dword) (r : Nat) : (g.endRun pc r).cvc = g.cvc := rfl
@[simp] theorem Group.endRun_srseed (g : Group) (pc : Dword) (r : Nat) : (g.endRun pc r).srseed = g.srseed := rfl
@[simp] theorem Group.endRun_dphase (g : Group) (pc : Dword) (r : Nat) : (g.endRun pc r).dphase = g.dphase := rfl
@[simp] theorem Group.endRun_slots (g : Group) (pc : Dword) (r : Nat) : (g.endRun pc r).slots = g.slots := rfl
@[simp] theorem Group.endRun_openBatch (g : Group) (pc : Dword) (r : Nat) : (g.endRun pc r).openBatch = g.openBatch := rfl
@[simp] theorem Group.endRun_cls (g : Group) (pc : Dword) (r : Nat) : (g.endRun pc r).cls = g.cls := rfl
@[simp] theorem Group.endRun_park (g : Group) (pc : Dword) (r : Nat) : (g.endRun pc r).park = none := rfl
@[simp] theorem Group.endRun_parkedAt (g : Group) (pc : Dword) (r : Nat) : (g.endRun pc r).parkedAt = g.parkedAt := rfl
@[simp] theorem Group.endRun_readyAt (g : Group) (pc : Dword) (r : Nat) : (g.endRun pc r).readyAt = r := rfl
@[simp] theorem Group.endRun_heldItem (g : Group) (pc : Dword) (r : Nat) : (g.endRun pc r).heldItem = none := rfl
@[simp] theorem Group.endRun_early (g : Group) (pc : Dword) (r : Nat) : (g.endRun pc r).early = g.early := rfl
@[simp] theorem Group.endRun_stopAsked (g : Group) (pc : Dword) (r : Nat) : (g.endRun pc r).stopAsked = g.stopAsked := rfl
@[simp] theorem Group.endRun_words (g : Group) (pc : Dword) (r : Nat) : (g.endRun pc r).words = g.words := rfl
@[simp] theorem Group.endRun_born (g : Group) (pc : Dword) (r : Nat) : (g.endRun pc r).born = g.born := rfl
@[simp] theorem Group.endRun_resume (g : Group) (pc : Dword) (r : Nat) : (g.endRun pc r).resume = none := rfl
@[simp] theorem Group.endRun_counted (g : Group) (pc : Dword) (r : Nat) : (g.endRun pc r).counted = 0 := rfl

end Sys2Proof.Machine
end

