-- ==== Sys2Proof/Laws/Lane.lean ====
section
/-! SUPPORT. What the shared lane operations do: `laneRun`, `laneWord`, `lanePair`, `lanePred`, lane by lane. -/

namespace Sys2Proof.Machine

theorem mapFrom_length {α β : Type} (f : Nat → α → β) (k : Nat) (l : List α) : (mapFrom f k l).length = l.length := by
  induction l generalizing k with
  | nil => rfl
  | cons a r ih => simp [mapFrom, ih]

theorem mapFrom_getElem? {α β : Type} (f : Nat → α → β) (k : Nat) (l : List α) (i : Nat) :
    (mapFrom f k l)[i]? = l[i]?.map (f (k + i)) := by
  induction l generalizing k i with
  | nil => rfl
  | cons a r ih =>
    cases i with
    | zero => rfl
    | succ i => simp only [mapFrom, List.getElem?_cons_succ, ih]; congr 2; omega

/-- A lane after a change of every lane. -/
theorem Group.lane_onAll (g : Group) (f : Nat → Thread → Thread) (i : Nat) : (g.onAll f).lane i = (g.lane i).map (f i) := by
  simp only [Group.lane, Group.onAll, nth_eq_getD, mapFrom_getElem?, Nat.zero_add]
  cases g.lanes[i]? <;> rfl

/-- A lane after a change of the lanes of a mask. -/
theorem Group.lane_onLanes (g : Group) (m : BitVec 32) (f : Nat → Thread → Thread) (i : Nat) :
    (g.onLanes m f).lane i = if m.getLsbD i then (g.lane i).map (f i) else g.lane i := by
  simp only [Group.lane, Group.onLanes, nth_eq_getD, mapFrom_getElem?, Nat.zero_add]
  cases g.lanes[i]? <;> simp

theorem Group.eachThread_onAll (g : Group) (f : Nat → Thread → Thread) (R : Nat → Thread → Thread → Prop)
    (h : ∀ i a, R i a (f i a)) : EachThread g (g.onAll f) R := by
  intro i
  cases hg : g.lane i with
  | none => simp [Group.lane_onAll, hg]
  | some a => exact ⟨f i a, by simp [Group.lane_onAll, hg], h i a⟩

theorem Group.eachThread_onLanes (g : Group) (m : BitVec 32) (f : Nat → Thread → Thread) (R : Nat → Thread → Thread → Prop)
    (h : ∀ i a, R i a (if m.getLsbD i then f i a else a)) : EachThread g (g.onLanes m f) R := by
  intro i
  cases hg : g.lane i with
  | none => simp [Group.lane_onLanes, hg]
  | some a => exact ⟨_, by simp only [Group.lane_onLanes, hg]; split <;> rfl, h i a⟩

/-- A 32-bit write-back and its latch. -/
theorem Thread.takes32_active (a : Thread) (d : BitVec 7) (n : BitVec 1) (x : Word) :
    a.Takes32 ((a.writeBack d n x).shiftLatch x) d n (some x) := by
  have hn : n = 0 ∨ n = 1 := by revert n; decide
  unfold Thread.writeBack Thread.shiftLatch Thread.setV Thread.Takes32 Thread.RegsOnly writes32
  split
  · rename_i h
    refine ⟨⟨rfl, rfl⟩, rfl, rfl, fun r _ => ?_⟩
    rw [if_neg]
    simp only [Option.isSome_some, Bool.and_true, Bool.and_eq_true, decide_eq_true_eq, not_and]
    intro h1; rcases h with h | h
    · exact absurd h (by rw [h1.1]; decide)
    · omega
  · rename_i h
    simp only [not_or, Nat.not_le] at h
    refine ⟨⟨rfl, setNth_length _ _ _⟩, rfl, rfl, fun r hr => ?_⟩
    have h0 : n = 0 := by tauto
    simp only [nth_setNth, h0, h.2, decide_true, Bool.true_and, Option.isSome_some, Bool.and_true, Option.getD_some,
      decide_eq_true_eq]
    by_cases hrd : r = d.toNat
    · subst hrd; simp [hr]
    · simp [hrd]

theorem Thread.takes32_inactive (a : Thread) (d : BitVec 7) (n : BitVec 1) : a.Takes32 (a.shiftLatch 0) d n none :=
  ⟨⟨rfl, rfl⟩, rfl, rfl, fun r _ => by simp [Thread.shiftLatch]⟩

/-- A 64-bit write-back and its latches. -/
theorem Thread.takes64_active (a : Thread) (d : BitVec 7) (n : BitVec 1) (x : Dword) :
    a.Takes64 (((a.writePair d n x).shiftLatch (x.extractLsb' 0 32)).shiftLatch (x.extractLsb' 32 32)) d n (some x) := by
  have hn : n = 0 ∨ n = 1 := by revert n; decide
  unfold Thread.writePair Thread.shiftLatch Thread.setV Thread.Takes64 Thread.RegsOnly
  split
  · rename_i h
    refine ⟨⟨rfl, rfl⟩, rfl, by simp [List.take_take], fun r _ => ?_⟩
    rcases h with h | h
    · subst h; simp
    · simp [Nat.not_lt.mpr h]
  · rename_i h
    simp only [not_or, Nat.not_le] at h
    have h0 : n = 0 := by tauto
    refine ⟨⟨rfl, by simp [setNth_length]⟩, rfl, by simp [List.take_take], fun r hr => ?_⟩
    simp only [nth_setNth, setNth_length, h0, h.2, decide_true, Bool.true_and, Option.isSome_some, Option.getD_some,
      decide_eq_true_eq]
    by_cases h1 : r = d.toNat
    · subst h1; simp [hr]
    · by_cases h2 : r = d.toNat + 1
      · subst h2; simp [hr]
      · simp [h1, h2]

theorem Thread.takes64_inactive (a : Thread) (d : BitVec 7) (n : BitVec 1) :
    a.Takes64 ((a.shiftLatch 0).shiftLatch 0) d n none :=
  ⟨⟨rfl, rfl⟩, rfl, by simp [Thread.shiftLatch, List.take_take], fun r _ => by simp [Thread.shiftLatch]⟩

/-- The bit that a predicate write sets or clears. -/
theorem Thread.takesPred_active (a : Thread) (p : Nat) (x : Bool) : a.TakesPred (a.setPred p x) p (some x) := by
  refine ⟨rfl, fun i hi => ?_⟩
  simp only [Thread.setPred, Option.isSome_some, Bool.and_true, Option.getD_some, decide_eq_true_eq]
  cases x <;> by_cases h : i = p <;>
    simp [h, BitVec.getLsbD_or, BitVec.getLsbD_and, BitVec.getLsbD_not, BitVec.getLsbD_shiftLeft, hi] <;> omega

theorem Thread.takesPred_inactive (a : Thread) (p : Nat) : a.TakesPred a p none := ⟨rfl, fun i _ => by simp⟩

/-- A lane instruction whose sources hold no poison takes its effect (R421). -/
theorem State.laneRun_next (s : State) (l : Option Lxc) (srcs : List (BitVec 8 × Nat)) (k : BitVec 32 → State)
    (h : s.lanePoison (s.me.active l) srcs = 0) : s.laneRun l srcs k = .next (k (s.me.active l)) := by
  simp [State.laneRun, h]

/-- What a 32-bit result does to the group. -/
theorem Group.result_each (g : Group) (act : BitVec 32) (d : BitVec 7) (n : BitVec 1) (f : Nat → Thread → Word) :
    EachThread g (g.result act d n f) fun i a b => a.Takes32 b d n (ofActive act f i a) := by
  refine g.eachThread_onAll _ _ fun i a => ?_
  simp only [ofActive]; split
  · exact a.takes32_active d n _
  · exact a.takes32_inactive d n

theorem Group.resultPair_each (g : Group) (act : BitVec 32) (d : BitVec 7) (n : BitVec 1) (f : Nat → Thread → Dword) :
    EachThread g (g.resultPair act d n f) fun i a b => a.Takes64 b d n (ofActive act f i a) := by
  refine g.eachThread_onAll _ _ fun i a => ?_
  simp only [ofActive]; split
  · exact a.takes64_active d n _
  · exact a.takes64_inactive d n

theorem Group.resultPred_each (g : Group) (act : BitVec 32) (p : Nat) (f : Nat → Thread → Bool) :
    EachThread g (g.resultPred act p f) fun i a b => a.TakesPred b p (ofActive act f i a) := by
  refine g.eachThread_onLanes _ _ _ fun i a => ?_
  simp only [ofActive]; split
  · exact a.takesPred_active p _
  · exact a.takesPred_inactive p

/-- What a lane instruction with a 32-bit result does. -/
theorem State.laneWord_next (s : State) (l : Option Lxc) (d : BitVec 7) (n : BitVec 1) (words : Nat)
    (srcs : List (BitVec 8 × Nat)) (f : Nat → Thread → Word) (h : s.lanePoison (s.me.active l) srcs = 0) :
    ∃ t, s.laneWord l d n words srcs f = .next t ∧ OnlyMe s t ∧ Result32 s t (s.me.active l) d n words f :=
  ⟨_, s.laneRun_next l srcs _ h, rfl, rfl, Group.result_each _ _ _ _ _⟩

/-- What a lane instruction with a predicate result does. -/
theorem State.lanePred_next (s : State) (l : Option Lxc) (p words : Nat) (srcs : List (BitVec 8 × Nat))
    (f : Nat → Thread → Bool) (h : s.lanePoison (s.me.active l) srcs = 0) :
    ∃ t, s.lanePred l p words srcs f = .next t ∧ OnlyMe s t ∧ ResultPred s t (s.me.active l) p words f :=
  ⟨_, s.laneRun_next l srcs _ h, rfl, rfl, Group.resultPred_each _ _ _ _⟩

/-- A write that clears poison marks changes nothing else. -/
theorem State.clearV_eq (s : State) (m : BitVec 32) (d n : Nat) : s.clearV m d n = { s with poison := (s.clearV m d n).poison } := by
  unfold State.clearV; split <;> rfl

theorem State.clearK_eq (s : State) (d n : Nat) : s.clearK d n = { s with poison := (s.clearK d n).poison } := by
  unfold State.clearK; split <;> rfl

/-- What a lane instruction with a 64-bit result does; the marks that its registers covered are gone. -/
theorem State.lanePair_next (s : State) (l : Option Lxc) (d : BitVec 7) (n : BitVec 1) (words : Nat)
    (srcs : List (BitVec 8 × Nat)) (f : Nat → Thread → Dword) (h : s.lanePoison (s.me.active l) srcs = 0) :
    ∃ t, s.lanePair l d n words srcs f = .next t ∧ OnlyMe { s with poison := t.poison } t ∧
      Result64 s t (s.me.active l) d n words f := by
  refine ⟨_, s.laneRun_next l srcs _ h, ?_, ?_, ?_⟩
  · rw [State.clearV_eq]; rfl
  · rw [State.clearV_eq]; rfl
  · rw [State.clearV_eq]; exact Group.resultPair_each _ _ _ _ _

/-! Events of lanes. -/

/-- Adding events changes FSTAT words and the numeric counters only. -/
theorem State.addEv_eq (s : State) (h b n : Nat) (e : Ev) : s.addEv h b n e =
    { s with blocks := (s.addEv h b n e).blocks, grids := (s.addEv h b n e).grids, fleet := (s.addEv h b n e).fleet } := by
  unfold State.addEv; dsimp only; split
  · rfl
  · split <;> rfl

theorem State.addEv_me (s : State) (h b n : Nat) (e : Ev) : (s.addEv h b n e).me = s.me := by rw [State.addEv_eq]

/-- An event that is counted at most once changes what `addEv` changes. -/
theorem State.evOf_eq (t s : State) (i : Nat) (e : Ev) :
    t.evOf s i e = t.addEv s.me.grid (s.me.thread i).blk (stationOf s.me.core) (if s.me.repeats then Ev.none else e) := rfl

theorem State.foldEv_me (l : List Nat) (h n : Nat) (b : Nat → Nat) (e : Nat → Ev) (s : State) :
    (l.foldl (fun t i => t.addEv h (b i) n (e i)) s).me = s.me := by
  induction l generalizing s with
  | nil => rfl
  | cons a r ih => rw [List.foldl_cons, ih, State.addEv_me]

/-- The issuing group is untouched by its events. -/
theorem State.withEvents_me (s : State) (act : BitVec 32) (e : Nat → Thread → Ev) : (s.withEvents act e).me = s.me :=
  State.foldEv_me (lanesOf act) _ _ (fun i => (s.me.thread i).blk) (fun i => if s.me.repeats then Ev.none else e i (s.me.thread i)) s

/-- What a lane instruction with events does, after `gen` has moved the generator. -/
theorem State.laneEv_next (s : State) (w : LR) (long : Bool) (srcs : List (BitVec 8 × Nat)) (gen : State → State)
    (f : Nat → Thread → Word × Ev) (hg : (gen s).me = s.me) (h : s.lanePoison (s.me.active w.lxc) srcs = 0) :
    ∃ t, s.laneEv w long srcs gen f = .next t ∧ OnlyMe ((gen s).withEvents (s.me.active w.lxc) fun i a => (f i a).2) t ∧
      Result32 s t (s.me.active w.lxc) w.d w.n (lrLen w) fun i a => (f i a).1 := by
  have e := State.withEvents_me (gen s) (s.me.active w.lxc) fun i a => (f i a).2
  unfold State.withEvents at e ⊢
  rw [hg] at e ⊢
  refine ⟨_, s.laneRun_next _ _ _ h, rfl, ?_, ?_⟩
  · simp only [GoesOn, State.advance_me, State.onMe_me, State.evOf_eq, e]; rfl
  · simp only [State.advance_me, State.onMe_me, State.evOf_eq, e]; exact Group.result_each _ _ _ _ _

/-- What a lane instruction with events does. -/
theorem State.laneFp_next (s : State) (w : LR) (long : Bool) (srcs : List (BitVec 8 × Nat)) (f : Nat → Thread → Word × Ev)
    (h : s.lanePoison (s.me.active w.lxc) srcs = 0) :
    ∃ t, s.laneFp w long srcs f = .next t ∧ OnlyMe (s.withEvents (s.me.active w.lxc) fun i a => (f i a).2) t ∧
      Result32 s t (s.me.active w.lxc) w.d w.n (lrLen w) fun i a => (f i a).1 :=
  s.laneEv_next w long srcs (fun t => t) f rfl h

/-- What a conversion does. -/
theorem State.laneConv_next (s : State) (w : LR) (m : Nat) (srcs : List (BitVec 8 × Nat)) (f : (Nat → Rnd) → Thread → Word × Ev)
    (h : s.lanePoison (s.me.active w.lxc) srcs = 0) :
    ∃ t, s.laneConv w m srcs f = .next t ∧
      OnlyMe ((s.genAfter w m).withEvents (s.me.active w.lxc) fun l a => (f (s.roundingOf w m l) a).2) t ∧
      Result32 s t (s.me.active w.lxc) w.d w.n (lrLen w) fun l a => (f (s.roundingOf w m l) a).1 :=
  s.laneEv_next w false srcs
    (fun t => if modeCode s.me (lxcExt w.lxc) = 5 then
      t.setGen s.me.core s.me.pipe ((advances (s.genState s.me.core s.me.pipe) m).getLastD 0) else t)
    (fun l a => f (s.roundingOf w m l) a) (by split <;> rfl) h

/-- What an FP32 compare does. -/
theorem State.fpCmpOp_next (s : State) (w : LR) (quiet : Bool)
    (h : s.lanePoison (s.me.active w.lxc) [(w.a, 1), (w.b, 1)] = 0) :
    ∃ t, s.fpCmpOp w quiet = .next t ∧
      OnlyMe (s.withEvents (s.me.active w.lxc) fun _ a =>
        (fpCompare fp32 quiet (cndOf w.d) (srcVal s.me a w.a).toNat (srcVal s.me a w.b).toNat).2) t ∧
      ResultPred s t (s.me.active w.lxc) (pdOf w.d) (lrLen w) fun _ a =>
        (fpCompare fp32 quiet (cndOf w.d) (srcVal s.me a w.a).toNat (srcVal s.me a w.b).toNat).1 := by
  have e := State.withEvents_me s (s.me.active w.lxc) fun _ a =>
    (fpCompare fp32 quiet (cndOf w.d) (srcVal s.me a w.a).toNat (srcVal s.me a w.b).toNat).2
  unfold State.withEvents at e ⊢
  refine ⟨_, s.laneRun_next _ _ _ h, rfl, ?_, ?_⟩
  · simp only [GoesOn, State.advance_me, State.onMe_me, State.evOf_eq, e]; rfl
  · simp only [State.advance_me, State.onMe_me, State.evOf_eq, e]; exact Group.resultPred_each _ _ _ _

/-- An instruction that is a lane instruction with events does what `LaneFpResult` says. -/
theorem laneFpResult_of {i : Instr} {s : State} {w : LR} {f : Nat → Thread → Word × Ev} {long : Bool}
    {srcs : List (BitVec 8 × Nat)} (h : s.lanePoison (s.me.active w.lxc) srcs = 0) (e : exec i s = s.laneFp w long srcs f) :
    LaneFpResult i s w f := by
  unfold LaneFpResult; rw [e]; exact s.laneFp_next w long srcs f h

/-- An instruction that is a conversion does what `ConvResult` says. -/
theorem convResult_of {i : Instr} {s : State} {w : LR} {m : Nat} {f : (Nat → Rnd) → Thread → Word × Ev}
    {srcs : List (BitVec 8 × Nat)} (h : s.lanePoison (s.me.active w.lxc) srcs = 0) (e : exec i s = s.laneConv w m srcs f) :
    ConvResult i s w m f := by
  unfold ConvResult; rw [e]; exact s.laneConv_next w m srcs f h

/-! Collectives. -/

theorem maskOf_false : maskOf (fun _ => false) = 0 := by decide

/-- An instruction without sources consumes no poison. -/
theorem State.lanePoison_nil (s : State) (a : BitVec 32) : s.lanePoison a [] = 0 := by simp [State.lanePoison, maskOf_false]

/-- What a collective with a 32-bit result does. -/
theorem State.collWord_next (s : State) (w : LR) (srcs : List (BitVec 8 × Nat)) (f : BitVec 32 → Nat → Word)
    (h : s.lanePoison (s.me.active w.lxc) srcs = 0) :
    ∃ t, s.collWord w srcs f = .next t ∧ OnlyMe s t ∧
      Result32 s t (s.me.active w.lxc) w.d w.n (lrLen w) fun l _ => f (s.me.active w.lxc) l :=
  ⟨_, s.laneRun_next _ _ _ h, rfl, rfl, Group.result_each _ _ _ _ _⟩

/-- What a collective does whose lanes read a word of another lane, none of them poisoned. -/
theorem State.collRead_next (s : State) (w : LR) (other : Nat → Option (Nat × BitVec 8))
    (h : s.lanePoison (s.me.active w.lxc) [(w.b, 1)] = 0)
    (hp : ∀ l x, other l = some x → ∀ p, p ∈ s.poison → s.me.poisonedSrc x.1 x.2 1 p = false) :
    ∃ t, s.collRead w other = .next t ∧ OnlyMe s t ∧ Result32 s t (s.me.active w.lxc) w.d w.n (lrLen w) fun l _ =>
      match other l with
      | some x => s.me.coll x.1 x.2
      | none => 0 := by
  have hb : ∀ f : Nat → Bool, (∀ l, f l = false) → s.me.active w.lxc &&& maskOf f = 0 := fun f hf => by
    rw [show f = fun _ => false from funext hf, maskOf_false]; simp
  unfold State.collRead
  dsimp only
  rw [if_pos (hb _ fun l => ?_)]
  · exact s.collWord_next w _ _ h
  · split
    · rename_i x hx
      have : s.poison.any (s.me.poisonedSrc x.1 x.2 1) = false := by
        rw [List.any_eq_false]; intro p hm; rw [hp l x hx p hm]; decide
      rw [this]; simp
    · rfl

end Sys2Proof.Machine
end

