-- ==== Sys2Proof/Laws/Uniform.lean ====
section
/-! SUPPORT. What the shared uniform operations do: `uniRun`, `uniCalc`, `uniPair`, the writes of uniform registers, and the end of
a run. -/

namespace Sys2Proof.Machine

theorem Group.setK_length (g : Group) (d : Nat) (x : Word) : (g.setK d x).k.length = g.k.length := by
  unfold Group.setK; split <;> simp [setNth_length]

/-- A write of a uniform register changes the uniform registers only. -/
theorem Group.setK_eq (g : Group) (d : Nat) (x : Word) : g.setK d x = { g with k := (g.setK d x).k } := by
  unfold Group.setK; split <;> rfl

theorem Group.setK_nth (g : Group) (d : Nat) (x : Word) (r : Nat) (h : r < g.k.length) :
    nth (g.setK d x).k r 0 = if r = d ∧ d ≠ 511 then x else nth g.k r 0 := by
  unfold Group.setK; split
  · simp [*]
  · simp only [nth_setNth]; by_cases hr : r = d
    · subst hr; simp [*]
    · simp [hr]

theorem Group.setKPair_length (g : Group) (d : Nat) (x : Dword) : (g.setKPair d x).k.length = g.k.length := by
  unfold Group.setKPair; split <;> simp [Group.setK_length]

theorem Group.setKPair_eq (g : Group) (d : Nat) (x : Dword) : g.setKPair d x = { g with k := (g.setKPair d x).k } := by
  unfold Group.setKPair Group.setK; repeat' split
  all_goals rfl

theorem Group.setKPair_nth (g : Group) (d : Nat) (x : Dword) (r : Nat) (h : r < g.k.length) :
    nth (g.setKPair d x).k r 0 = if d = 511 then nth g.k r 0 else if r = d then x.extractLsb' 0 32
      else if r = d + 1 ∧ r ≠ 511 then x.extractLsb' 32 32 else nth g.k r 0 := by
  unfold Group.setKPair; split
  · simp [*]
  · rw [Group.setK_nth _ _ _ _ (by simpa [Group.setK_length] using h), Group.setK_nth _ _ _ _ h]
    by_cases h1 : r = d
    · subst h1; simp [*]
    · by_cases h2 : r = d + 1
      · subst h2; simp [*]
      · simp [*]

/-- A uniform instruction whose guard holds and whose sources hold no poison takes its effect (R225). -/
theorem State.uniRun_next (s : State) (k : Option Kx) (srcs : List (Nat × Nat)) (sw : Bool) (f : State)
    (h : kxPass s.me k = true) (hp : s.kPoison srcs = false) : s.uniRun k srcs sw f = .next f := by
  simp [State.uniRun, h, hp]

/-- One whose guard fails does nothing but go on (R225). -/
theorem State.uniRun_skip (s : State) (k : Option Kx) (srcs : List (Nat × Nat)) (sw : Bool) (f : State)
    (h : kxPass s.me k = false) :
    s.uniRun k srcs sw f = .next (if sw then s.switch (kxLen k) 1 0 else s.advance (kxLen k) 1) := by
  simp [State.uniRun, h]

theorem State.kPoison_nil (s : State) : s.kPoison [] = false := by
  simp only [State.kPoison, List.any_eq_false]; intro p _; cases p <;> simp

/-- What a uniform instruction with one 32-bit result does. -/
theorem State.uniCalc_next (s : State) (k : Option Kx) (srcs : List (Nat × Nat)) (d : Nat) (x : Word) (f : Group → Group)
    (h : kxPass s.me k = true) (hp : s.kPoison srcs = false) (hf : f s.me = s.me.setK d x) :
    ∃ t, s.uniCalc k srcs f = .next t ∧ UniResult s t (kxLen k) d x := by
  refine ⟨_, s.uniRun_next k srcs _ _ h hp, ⟨rfl, ?_, ?_⟩, ?_⟩
  · simp only [State.advance_me, State.onMe_me, hf]; conv_lhs => rw [Group.setK_eq]
  · simp only [State.advance_me, State.onMe_me, hf, Group.setK_length]
  · intro r hr; simp only [State.advance_me, State.onMe_me, hf, Group.setK_nth _ _ _ _ hr]

theorem State.clearK_poison (s : State) (d n : Nat) (p : PoisonAt) (h : p ∈ (s.clearK d n).poison) : p ∈ s.poison := by
  unfold State.clearK at h; split at h
  · exact h
  · exact List.mem_of_mem_filter h

theorem State.clearK_me (s : State) (d n : Nat) : (s.clearK d n).me = s.me := by rw [State.clearK_eq]

/-- What a uniform instruction with a pair result does. -/
theorem State.uniPair_next (s : State) (k : Option Kx) (srcs : List (Nat × Nat)) (d : Nat) (f : Group → Dword)
    (h : kxPass s.me k = true) (hp : s.kPoison srcs = false) :
    ∃ t, s.uniPair k d srcs f = .next t ∧ UniPairResult s t (kxLen k) d (f s.me) := by
  refine ⟨_, s.uniRun_next k srcs _ _ h hp, ⟨rfl, ?_, ?_⟩, ?_⟩
  · simp only [State.advance_me, State.onMe_me, State.clearK_me]; conv_lhs => rw [Group.setKPair_eq]
  · simp only [State.advance_me, State.onMe_me, State.clearK_me, Group.setKPair_length]
  · intro r hr; simp only [State.advance_me, State.onMe_me, State.clearK_me, Group.setKPair_nth _ _ _ _ hr]

/-- The end of a run: the group goes on at `pc`, its latches and kept CLK words gone, and nothing else of it changes. -/
theorem Group.endRun_switched (g : Group) (pc : Dword) (n : Nat) : Switched g (g.endRun pc n) pc :=
  ⟨rfl, Group.eachThread_onAll g _ _ fun _ _ => rfl⟩

theorem State.switchTo_switched (s : State) (pc : Dword) (o l : Nat) : Switched s.me (s.switchTo pc o l).me pc :=
  Group.endRun_switched _ _ _

theorem State.switchTo_onlyMe (s : State) (pc : Dword) (o l : Nat) : OnlyMe s (s.switchTo pc o l) := rfl

/-- An instruction that answers a bare switch point only ends the run. -/
theorem onlySwitches_of {i : Instr} {s : State} {pc : Dword} {o l : Nat} (h : exec i s = .next (s.switchTo pc o l)) :
    OnlySwitches i s pc := ⟨_, h, rfl, s.switchTo_switched pc o l⟩

end Sys2Proof.Machine
end

