-- ==== Sys2Proof/Tests/Slice0.lean ====
section
/-! SUPPORT. The model's own tests: ill-formed terms that the checks refuse, words written out from the spec's tables that
decode to what they stand for, states that meet the hypotheses of the statements, and single steps against values of the spec. -/

open Sys2Proof Sys2Proof.Machine

namespace Sys2Proof.Tests

set_option Elab.async false

/-! Words of the opcode table, one for each row, with operand values that tell the fields apart. -/

/-- Every word list decodes to its instruction, whose fields are valid in a group with V = 120 and Kn = 384. -/
def readsAll (l : List (List Word × Instr)) : Bool :=
  l.all fun x => decide (decodeWords x.1 = .ok x.2 x.1.length) && (fieldError 120 384 x.2).isNone

/-- Every term is refused, at the word it names. -/
def refusesAll (v kn : Nat) (l : List (Instr × Nat)) : Bool := l.all fun x => decide (fieldError v kn x.1 = some x.2)

theorem test_decode_lane_integer_1 : readsAll [
    ([0x0030080C], .iadd ⟨0xC, 0, 4, 6, none⟩),
    ([0x0030080D], .isub ⟨0xC, 0, 4, 6, none⟩),
    ([0x0230080C], .iadds ⟨0xC, 0, 4, 6, none⟩),
    ([0x0230080D], .isubs ⟨0xC, 0, 4, 6, none⟩),
    ([0x0430080C], .imul ⟨0xC, 0, 4, 6, none⟩),
    ([0x0430080D], .imulh ⟨0xC, 0, 4, 6, none⟩),
    ([0x0630080C], .imulhn ⟨0xC, 0, 4, 6, none⟩),
    ([0x0630080D], .imulw ⟨0xC, 0, 4, 6, none⟩),
    ([0x7F100000, 0x0830080C], .imad ⟨0xC, 0, 4, 6, (some ⟨0x88, 0, 0, 0, 0⟩)⟩),
    ([0x0A30080C], .imin ⟨0xC, 0, 4, 6, none⟩),
    ([0x0A30080D], .imax ⟨0xC, 0, 4, 6, none⟩),
    ([0x0C30080C], .nmin ⟨0xC, 0, 4, 6, none⟩),
    ([0x0C30080D], .nmax ⟨0xC, 0, 4, 6, none⟩),
    ([0x0E30080C], .land ⟨0xC, 0, 4, 6, none⟩),
    ([0x0E30080D], .lor ⟨0xC, 0, 4, 6, none⟩),
    ([0x1030080C], .lxor ⟨0xC, 0, 4, 6, none⟩),
    ([0x1030080D], .landn ⟨0xC, 0, 4, 6, none⟩),
    ([0x1230080C], .shl ⟨0xC, 0, 4, 6, none⟩),
    ([0x1230080D], .shr ⟨0xC, 0, 4, 6, none⟩),
    ([0x1430080C], .sar ⟨0xC, 0, 4, 6, none⟩),
    ([0x1430080D], .rol ⟨0xC, 0, 4, 6, none⟩),
    ([0x1630080C], .bfe ⟨0xC, 0, 4, 6, none⟩)] = true := by decide +kernel

theorem test_decode_lane_integer_2 : readsAll [
    ([0x7F100000, 0x1630080D], .bfi ⟨0xC, 0, 4, 6, (some ⟨0x88, 0, 0, 0, 0⟩)⟩),
    ([0x18300800], .popc ⟨0xC, 0, 4, 0, none⟩),
    ([0x18300801], .clz ⟨0xC, 0, 4, 0, none⟩),
    ([0x1A300800], .brev ⟨0xC, 0, 4, 0, none⟩),
    ([0x1A300801], .iabs ⟨0xC, 0, 4, 0, none⟩),
    ([0x1CD0080C], .icmp ⟨0x34, 0, 4, 6, none⟩),
    ([0x1CD0080D], .ncmp ⟨0x34, 0, 4, 6, none⟩),
    ([0x1E30080C], .sel ⟨0xC, 0, 4, 6, none⟩),
    ([0x1E300801], .mov ⟨0xC, 0, 4, 0, none⟩),
    ([0x2030080C], .iadd64 ⟨0xC, 0, 4, 6, none⟩),
    ([0x2030080D], .isub64 ⟨0xC, 0, 4, 6, none⟩)] = true := by decide +kernel

theorem test_decode_lea_and_lane_float_1 : readsAll [
    ([0x2230080C], .lea ⟨0xC, 0, 4, 6, none⟩),
    ([0x2430080C], .fadd ⟨0xC, 0, 4, 6, none⟩),
    ([0x2430080D], .fsub ⟨0xC, 0, 4, 6, none⟩),
    ([0x2630080C], .fmul ⟨0xC, 0, 4, 6, none⟩),
    ([0x7F100000, 0x2630080D], .ffma ⟨0xC, 0, 4, 6, (some ⟨0x88, 0, 0, 0, 0⟩)⟩),
    ([0x2830080C], .fmin ⟨0xC, 0, 4, 6, none⟩),
    ([0x2830080D], .fmax ⟨0xC, 0, 4, 6, none⟩),
    ([0x2AD0080C], .fcmp ⟨0x34, 0, 4, 6, none⟩),
    ([0x2AD0080D], .fcmpn ⟨0x34, 0, 4, 6, none⟩),
    ([0x2C300800], .frcp ⟨0xC, 0, 4, 0, none⟩),
    ([0x2C300801], .fsqrt ⟨0xC, 0, 4, 0, none⟩),
    ([0x2E300800], .frsq ⟨0xC, 0, 4, 0, none⟩),
    ([0x2E300801], .fexp2 ⟨0xC, 0, 4, 0, none⟩),
    ([0x30300800], .flog2 ⟨0xC, 0, 4, 0, none⟩),
    ([0x3030080D], .fdiv ⟨0xC, 0, 4, 6, none⟩),
    ([0x32300800], .ffrc ⟨0xC, 0, 4, 0, none⟩),
    ([0x32300801], .frnd ⟨0xC, 0, 4, 0, none⟩),
    ([0x3430080C], .hadd2 ⟨0xC, 0, 4, 6, none⟩),
    ([0x3430080D], .hmul2 ⟨0xC, 0, 4, 6, none⟩),
    ([0x7F100000, 0x3630080C], .hfma2 ⟨0xC, 0, 4, 6, (some ⟨0x88, 0, 0, 0, 0⟩)⟩),
    ([0x3630080D], .hmax2 ⟨0xC, 0, 4, 6, none⟩),
    ([0x3830080C], .hmin2 ⟨0xC, 0, 4, 6, none⟩)] = true := by decide +kernel

theorem test_decode_lea_and_lane_float_2 : readsAll [
    ([0x7E00020D, 0x3A300842], .cvt ⟨0xC, 0, 4, 0x21, (some ⟨0, 0, 0, 0, 0x20D⟩)⟩),
    ([0x7E11D518, 0x3A30080D], .cvtp ⟨0xC, 0, 4, 6, (some ⟨8, 1, 1, 5, 0x518⟩)⟩),
    ([0x3C300800], .cvtu ⟨0xC, 0, 4, 0, none⟩),
    ([0x3C30080D], .fsmx ⟨0xC, 0, 4, 6, none⟩),
    ([0x7F100000, 0x3E30080C], .dot4 ⟨0xC, 0, 4, 6, (some ⟨0x88, 0, 0, 0, 0⟩)⟩),
    ([0x7F100000, 0x3E30080D], .dot8 ⟨0xC, 0, 4, 6, (some ⟨0x88, 0, 0, 0, 0⟩)⟩),
    ([0x7F100000, 0x4030080C], .dotf4 ⟨0xC, 0, 4, 6, (some ⟨0x88, 0, 0, 0, 0⟩)⟩),
    ([0x7F100000, 0x4030080D], .dotf8 ⟨0xC, 0, 4, 6, (some ⟨0x88, 0, 0, 0, 0⟩)⟩)] = true := by decide +kernel

theorem test_decode_lane_collectives_and_immediates : readsAll [
    ([0x4230080C], .shfl ⟨0xC, 0, 4, 6, none⟩),
    ([0x4230080D], .shflx ⟨0xC, 0, 4, 6, none⟩),
    ([0x4430080C], .shflu ⟨0xC, 0, 4, 6, none⟩),
    ([0x4430080D], .shfld ⟨0xC, 0, 4, 6, none⟩),
    ([0x4630080C], .gthr ⟨0xC, 0, 4, 6, none⟩),
    ([0x4630080D], .sctr ⟨0xC, 0, 4, 6, none⟩),
    ([0x48300A00], .poll ⟨0xC, 0, 5, 0, none⟩),
    ([0x48300801], .matchEq ⟨0xC, 0, 4, 0, none⟩),
    ([0x4A300800], .redx ⟨0xC, 0, 4, 0, none⟩),
    ([0x4A300801], .scanx ⟨0xC, 0, 4, 0, none⟩),
    ([0x7E000004, 0x4C30080C], .topk ⟨0xC, 0, 4, 6, (some ⟨0, 0, 0, 0, 4⟩)⟩),
    ([0x7E000020, 0x4C30080D], .topkm ⟨0xC, 0, 4, 6, (some ⟨0, 0, 0, 0, 0x20⟩)⟩),
    ([0x4ED0080C], .plog ⟨0x34, 0, 4, 6, none⟩),
    ([0x4E300001], .ptov ⟨0xC, 0, 0, 0, none⟩),
    ([0x50301600], .srd ⟨0xC, 0, 0xB, 0, none⟩),
    ([0x523009F3], .iaddi ⟨0xC, 0, 4, 0x1F3, none, none⟩),
    ([0x543009F3], .andi ⟨0xC, 0, 4, 0x1F3, none, none⟩),
    ([0x563009F3], .ori ⟨0xC, 0, 4, 0x1F3, none, none⟩),
    ([0x583009F3], .xori ⟨0xC, 0, 4, 0x1F3, none, none⟩),
    ([0x5A300903], .shi ⟨0xC, 0, 4, 0x103, none⟩),
    ([0x5CD009F3], .icmpi ⟨0x34, 0, 4, 0x1F3, none, none⟩),
    ([0x5E3001F3], .movi ⟨0xC, 0, 0, 0x1F3, none, none⟩)] = true := by decide +kernel

theorem test_decode_lane_memory_and_threads : readsAll [
    ([0x603008BD], .ldg ⟨0xC, 0, 4, 2, 0x3D, none, none⟩),
    ([0x623008BD], .stg ⟨0xC, 0, 4, 2, 0x3D, none, none⟩),
    ([0x643008BD], .lds ⟨0xC, 0, 4, 2, 0x3D, none, none⟩),
    ([0x663008BD], .sts ⟨0xC, 0, 4, 2, 0x3D, none, none⟩),
    ([0x683008BD], .ldp ⟨0xC, 0, 4, 2, 0x3D, none, none⟩),
    ([0x6A3008BD], .stp ⟨0xC, 0, 4, 2, 0x3D, none, none⟩),
    ([0x7E10003A, 0x6C30080C], .atomg ⟨0xC, 0, 4, 6, (some ⟨8, 0, 0, 0, 0x3A⟩)⟩),
    ([0x7E012085, 0x6E30080C], .atoms ⟨0xC, 0, 4, 6, (some ⟨0, 1, 0, 2, 0x85⟩)⟩),
    ([0x7F100000, 0x7030080C], .kvx ⟨0xC, 0, 4, 6, (some ⟨0x88, 0, 0, 0, 0⟩)⟩),
    ([0x7E060006, 0x7030080D], .kvxNf ⟨0xC, 0, 4, 6, (some ⟨3, 0, 0, 0, 6⟩)⟩),
    ([0x7334080C], .rebinB ⟨9, 5, 0, 4, 6⟩),
    ([0x7334080D], .rebinS ⟨9, 5, 0, 4, 6⟩),
    ([0x74F4080C], .spawn ⟨7, 5, 0, 4, 6, none⟩),
    ([0x77FC0000], .await ⟨0x7F, 0, 0, 0, none⟩),
    ([0x77FC0001], .exit ⟨0x7F, 0, 0, 0, none⟩),
    ([0x78300800], .fread ⟨0xC, 0, 4, 0, none⟩),
    ([0x79FC080D], .ffill ⟨0x7F, 0, 4, 6, none⟩),
    ([0x7A300800], .acld ⟨0xC, 0, 4, 0, none⟩),
    ([0x7BFC080D], .acst ⟨0x7F, 0, 4, 6, none⟩)] = true := by decide +kernel

theorem test_decode_uniform_arithmetic : readsAll [
    ([0x8024142A], .kadd ⟨0x24, 0x28, 0x2A, none⟩),
    ([0x8224142A], .ksub ⟨0x24, 0x28, 0x2A, none⟩),
    ([0x8424142A], .kmul ⟨0x24, 0x28, 0x2A, none⟩),
    ([0x8624142A], .kmulh ⟨0x24, 0x28, 0x2A, none⟩),
    ([0x8824142A], .kand ⟨0x24, 0x28, 0x2A, none⟩),
    ([0x8A24142A], .kor ⟨0x24, 0x28, 0x2A, none⟩),
    ([0x8C24142A], .kxor ⟨0x24, 0x28, 0x2A, none⟩),
    ([0x8E24142A], .kshl ⟨0x24, 0x28, 0x2A, none⟩),
    ([0x9024142A], .kshr ⟨0x24, 0x28, 0x2A, none⟩),
    ([0x9224142A], .ksar ⟨0x24, 0x28, 0x2A, none⟩),
    ([0x9424142A], .kmin ⟨0x24, 0x28, 0x2A, none⟩),
    ([0x9624142A], .kmax ⟨0x24, 0x28, 0x2A, none⟩),
    ([0x9994142A], .kcmp ⟨0x194, 0x28, 0x2A, none⟩),
    ([0xFE0000D0, 0x9A24142A], .ksel ⟨0x24, 0x28, 0x2A, (some ⟨0, 0, 1, 5, 0⟩)⟩),
    ([0x9C241400], .kmov ⟨0x24, 0x28, 0, none⟩),
    ([0x9E24142A], .kadd64 ⟨0x24, 0x28, 0x2A, none⟩),
    ([0xFE000004, 0xA024142A], .klea ⟨0x24, 0x28, 0x2A, (some ⟨0, 0, 0, 0, 4⟩)⟩),
    ([0xFE025802, 0xA224FFF3], .kaddi ⟨0x24, 0xFFF3, (some ⟨0x12C, 0, 0, 0, 2⟩)⟩),
    ([0xA424FFF3], .kmovi ⟨0x24, 0xFFF3, none⟩),
    ([0xA624FFF3], .klui ⟨0x24, 0xFFF3, none⟩),
    ([0xA824FFF3], .kandi ⟨0x24, 0xFFF3, none⟩),
    ([0xAA24FFF3], .kori ⟨0x24, 0xFFF3, none⟩)] = true := by decide +kernel

theorem test_decode_uniform_control_and_memory : readsAll [
    ([0xB1DFFFF3], .bra ⟨1, 6, 0x1FFFF3⟩),
    ([0xB3DFFFF3], .call ⟨1, 6, 0x1FFFF3⟩),
    ([0xB57FFFF3], .brd ⟨1, 3, 0x1FFFF3⟩),
    ([0xB7DFFFF3], .syn ⟨1, 6, 0x1FFFF3⟩),
    ([0xFE0001E0, 0xB9FFFF80], .join ⟨0x1FF, 0x1FF, 0, (some ⟨0, 1, 1, 6, 0⟩)⟩),
    ([0xBA28FF80], .ret ⟨0x28, 0x1FF, 0, none⟩),
    ([0xBC28FF80], .jmpr ⟨0x28, 0x1FF, 0, none⟩),
    ([0xBE28FF80], .callr ⟨0x28, 0x1FF, 0, none⟩),
    ([0xFF579A01, 0xC024142D], .kld ⟨0x24, 0x28, 2, 0xD, (some ⟨0xABCD, 0, 0, 0, 1⟩)⟩),
    ([0xC224142D], .kst ⟨0x24, 0x28, 2, 0xD, none⟩),
    ([0xC424142D], .klds ⟨0x24, 0x28, 2, 0xD, none⟩),
    ([0xC624142D], .ksts ⟨0x24, 0x28, 2, 0xD, none⟩),
    ([0xFF300140, 0xC8281532], .katom ⟨0x28, 0x2A, 0x32, (some ⟨0x9800, 1, 0, 4, 0⟩)⟩)] = true := by decide +kernel

theorem test_decode_engines_and_matrix : readsAll [
    ([0xD028048A], .cpy ⟨0x28, 9, 0xA, none⟩),
    ([0xD228048C], .cpym ⟨0x28, 9, 0xC, none⟩),
    ([0xD4280480], .qfen ⟨0x28, 9, 0, none⟩),
    ([0xD6281502], .mres ⟨0x28, 0x2A, 2, none⟩),
    ([0xD9FFFF85], .mrel ⟨0x1FF, 0x1FF, 5, none⟩),
    ([0xDA28FF80], .mma ⟨0x28, 0x1FF, 0, none⟩),
    ([0xDC28FF80], .mfen ⟨0x28, 0x1FF, 0, none⟩),
    ([0xDE28FF80], .mwait ⟨0x28, 0x1FF, 0, none⟩),
    ([0xE0281F80], .twm ⟨0x28, 0x3F, none⟩),
    ([0xE0281F81], .tstat ⟨0x28, 0x3F, none⟩),
    ([0xE1FF1F82], .tclr ⟨0x1FF, 0x3F, none⟩),
    ([0xE2280481], .kvld ⟨0x28, 9, 1, none⟩),
    ([0xE428151B], .kvst ⟨0x28, 0x2A, 0x1B, none⟩),
    ([0xE7FFFF80], .kvinv ⟨0x1FF, 0x1FF, 0, none⟩),
    ([0xE8280483], .mrg ⟨0x28, 9, 3, none⟩),
    ([0xEBFFFF80], .rfen ⟨0x1FF, 0x1FF, 0, none⟩)] = true := by decide +kernel

theorem test_decode_synchronisation : readsAll [
    ([0xEDFFFFC5], .bara ⟨0x1FF, 0x1FF, 0x45, none⟩),
    ([0xEFFFFFC5], .barw ⟨0x1FF, 0x1FF, 0x45, none⟩),
    ([0xF1FFFFC5], .bars ⟨0x1FF, 0x1FF, 0x45, none⟩),
    ([0xF228032D], .slotaFree ⟨0x28, 6, 1, 0xD, none⟩),
    ([0xF228033D], .slotaFull ⟨0x28, 6, 1, 0xD, none⟩),
    ([0xF428033D], .slotrFull ⟨0x28, 6, 1, 0xD, none⟩),
    ([0xF428032D], .slotrFree ⟨0x28, 6, 1, 0xD, none⟩),
    ([0xF428FFCD], .slotrInit ⟨0x28, 0x1FF, 0, 0xD, none⟩),
    ([0xF6281516], .waita ⟨0x28, 0x2A, 0x16, none⟩),
    ([0xF8281500], .glnch ⟨0x28, 0x2A, none⟩),
    ([0xF8280301], .gwait ⟨0x28, 6, none⟩),
    ([0xF9FFFF82], .phend ⟨0x1FF, 0x1FF, none⟩)] = true := by decide +kernel

theorem test_decode_system : readsAll [
    ([0xFBFFFF80], .nop ⟨0x1FF, 0x1FF, none⟩),
    ([0xFBFFFF81], .yield ⟨0x1FF, 0x1FF, none⟩),
    ([0xFA28FF82], .pref ⟨0x28, 0x1FF, none⟩),
    ([0xFBFFFF83], .tail ⟨0x1FF, 0x1FF, none⟩),
    ([0xFBFFFF84], .exitg ⟨0x1FF, 0x1FF, none⟩),
    ([0xFA28FF85], .clk ⟨0x28, 0x1FF, none⟩),
    ([0xFBFF9606], .trap ⟨0x1FF, 0x12C, none⟩),
    ([0xFBFF9607], .brkp ⟨0x1FF, 0x12C, none⟩),
    ([0xFA280208], .csrr ⟨0x28, 4, none⟩),
    ([0xFA280189], .csrw ⟨0x28, 3, none⟩),
    ([0xFA28FF8A], .hsig ⟨0x28, 0x1FF, none⟩),
    ([0xFA28150B], .hflush ⟨0x28, 0x2A, none⟩),
    ([0xFC280280], .kbal ⟨0x28, 5, none⟩),
    ([0xFC28FF81], .kfirst ⟨0x28, 0x1FF, none⟩),
    ([0xFC28FF82], .kact ⟨0x28, 0x1FF, none⟩)] = true := by decide +kernel

/-! The encodings that the spec works out itself. -/

/-- 11, encodings that follow from R233. -/
theorem test_worked_lane_integer : readsAll [
    ([0x7E0A0000, 0x08080608], .imad ⟨2, 0, 3, 4, some ⟨5, 0, 0, 0, 0⟩⟩),
    ([0x1C500506], .icmp ⟨0x14, 0, 2, 0x83, none⟩),
    ([0x5A1C0503], .shi ⟨7, 0, 2, 0x103, none⟩),
    ([0x4ED00204], .plog ⟨0x34, 0, 1, 2, none⟩),
    ([0x50241600], .srd ⟨9, 0, 11, 0, none⟩),
    ([0x5E0401FB], .movi ⟨1, 0, 0, 0x1FB, none, none⟩),
    ([0x20280510], .iadd64 ⟨10, 0, 2, 0x88, none⟩)] = true := by decide +kernel

/-- 13, encodings worked from the tables. -/
theorem test_worked_lane_memory : readsAll [
    ([0x4224110D], .shflx ⟨9, 0, 8, 0x86, none⟩),
    ([0x7E000010, 0x4A0C0401], .scanx ⟨3, 0, 2, 0, some ⟨0, 0, 0, 0, 0x10⟩⟩),
    ([0x7E000004, 0x4C100204], .topk ⟨4, 0, 1, 2, some ⟨0, 0, 0, 0, 4⟩⟩),
    ([0x601910C2], .ldg ⟨6, 0, 0x88, 3, 2, none, none⟩),
    ([0x66141282], .sts ⟨5, 0, 9, 2, 2, none, none⟩),
    ([0x7E000030, 0x6C10040A], .atomg ⟨4, 0, 2, 5, some ⟨0, 0, 0, 0, 0x30⟩⟩),
    ([0x7E000030, 0x6DFC040A], .atomg ⟨0x7F, 0, 2, 5, some ⟨0, 0, 0, 0, 0x30⟩⟩),
    ([0x7E060004, 0x70280205], .kvxNf ⟨10, 0, 1, 2, some ⟨3, 0, 0, 0, 4⟩⟩),
    ([0x7A180400], .acld ⟨6, 0, 2, 0, none⟩),
    ([0x77FC0000], .await ⟨0x7F, 0, 0, 0, none⟩), ([0x77FC0001], .exit ⟨0x7F, 0, 0, 0, none⟩),
    ([0x78180400], .fread ⟨6, 0, 2, 0, none⟩), ([0x79FC0409], .ffill ⟨0x7F, 0, 2, 4, none⟩)] = true := by decide +kernel

/-- 14: `KMOVI k8, 4`, and `KMOVI k8, 0x12345678` with its KX. -/
theorem test_worked_uniform : readsAll [
    ([0xA4080004], .kmovi ⟨8, 4, none⟩),
    ([0xFE246801, 0xA4085678], .kmovi ⟨8, 0x5678, some ⟨0x1234, 0, 0, 0, 1⟩⟩)] = true := by decide +kernel

/-- 11, 13: sequences that the decoder judges ILLEGAL_FORM; in each the failing check is one of the fields. -/
theorem test_worked_illegal : ([[0x08080608], [0x5A1C0563], [0x50301A00], [0x1C520506], [0x4EC01000], [0x7E000009, 0x00100A0C],
    [0x6C10040A], [0x7E0000B1, 0x6C100408], [0x7E000006, 0x4224110D], [0x7E060004, 0x70280204],
    [0x7E000000, 0x4C100204]] : List (List Word)).all (fun ws =>
      match decodeWords ws with
      | .ok i n => decide (n = ws.length ∧ fieldError 120 384 i = some 0)
      | _ => false) = true := by decide +kernel

/-- R211, R221, R225, R226: prefix sequences that no word takes, at the offset of the prefix, and unassigned opcodes. -/
theorem test_decode_refuses :
    decodeWords [0x7E000000, 0x7E000000, 0x00000000] = .badForm 0 ∧ decodeWords [0x7C000000, 0x5A1C0503] = .badForm 0 ∧
    decodeWords [0xFE000000, 0x00000000] = .badForm 0 ∧ decodeWords [0x7E000000, 0xA4080004] = .badForm 0 ∧
    decodeWords [0x7E000000, 0x72000000] = .badForm 0 ∧ decodeWords [0x08000001] = .badOpcode ∧
    decodeWords [0x7E000000] = .needMore := by decide +kernel

/-! An ill-formed term for each check of WellFormed. -/

/-- R214 to R217, R219, R220, R252: sources, destinations, pairs, predicates, neutral fields and prefix payloads of lane words. -/
theorem test_wf_lane : refusesAll 64 128 [
    (.iadd ⟨64, 0, 1, 2, none⟩, 0), (.iadd ⟨0x78, 0, 1, 2, none⟩, 0), (.iadd ⟨1, 0, 64, 2, none⟩, 0),
    (.imulw ⟨3, 0, 1, 2, none⟩, 0), (.iadd64 ⟨2, 0, 5, 4, none⟩, 0), (.iadd64 ⟨2, 0, 0x78, 4, none⟩, 0), (.isub64 ⟨2, 0, 4, 7, none⟩, 0),
    (.iadd64 ⟨64, 0, 4, 6, none⟩, 0), (.popc ⟨1, 0, 1, 2, none⟩, 0), (.icmp ⟨0x70, 0, 1, 2, none⟩, 0), (.icmp ⟨1, 0, 1, 2, none⟩, 0),
    (.icmp ⟨0x0C, 0, 1, 2, none⟩, 0), (.icmp ⟨4, 1, 1, 2, none⟩, 0), (.imad ⟨1, 0, 1, 2, none⟩, 0),
    (.imad ⟨1, 0, 1, 2, some ⟨64, 0, 0, 0, 0⟩⟩, 0), (.iadd ⟨1, 0, 1, 2, some ⟨1, 0, 0, 0, 0⟩⟩, 0),
    (.iadd ⟨1, 0, 1, 2, some ⟨0, 0, 0, 0, 1⟩⟩, 0), (.iadd ⟨1, 0, 1, 2, some ⟨0, 0, 0, 3, 0⟩⟩, 0),
    (.fadd ⟨1, 0, 1, 2, some ⟨0, 0, 0, 0, 2⟩⟩, 0), (.srd ⟨1, 0, 13, 0, none⟩, 0), (.plog ⟨0x70, 0, 1, 2, none⟩, 0),
    (.ptov ⟨1, 0, 1, 0, none⟩, 0), (.shi ⟨1, 0, 1, 0x60, none⟩, 0), (.iaddi ⟨1, 0, 1, 0, none, some ⟨0, 1⟩⟩, 0),
    (.iaddi ⟨1, 0, 1, 0, some ⟨0, 0, 0, 0, 0⟩, some ⟨0, 1⟩⟩, 1), (.movi ⟨1, 0, 1, 0, none, none⟩, 0)] = true := by decide +kernel

/-- R262 to R264, R268, R272, R277, R279, R284, R286, R287: EXT fields of conversions, collectives, atomics and cells. -/
theorem test_wf_ext : refusesAll 64 128 [
    (.cvt ⟨1, 0, 1, 0x22, some ⟨0, 0, 0, 0, 0⟩⟩, 0), (.cvt ⟨1, 0, 1, 0, some ⟨0, 0, 0, 0, 0x220⟩⟩, 0),
    (.cvtp ⟨1, 0, 1, 2, some ⟨3, 0, 0, 0, 0x190 + 0x400⟩⟩, 0), (.cvtp ⟨1, 0, 1, 2, some ⟨3, 0, 0, 0, 0x110 + 0x800⟩⟩, 0),
    (.gthr ⟨1, 0, 61, 2, some ⟨0, 0, 0, 0, 3⟩⟩, 0), (.sctr ⟨1, 1, 1, 2, none⟩, 0), (.shfl ⟨1, 0, 1, 2, some ⟨0, 0, 0, 0, 6⟩⟩, 0),
    (.redx ⟨1, 0, 1, 0, some ⟨0, 0, 0, 0, 11⟩⟩, 0), (.topk ⟨2, 0, 1, 2, some ⟨0, 0, 0, 0, 33⟩⟩, 0), (.poll ⟨1, 0, 8, 0, none⟩, 0),
    (.atomg ⟨1, 0, 2, 3, some ⟨0, 0, 0, 0, 0x50⟩⟩, 0), (.atomg ⟨1, 0, 2, 3, some ⟨0, 0, 0, 0, 0x0B⟩⟩, 0),
    (.atomg ⟨2, 0, 2, 4, some ⟨0, 0, 0, 0, 0x81⟩⟩, 0), (.atomg ⟨1, 0, 2, 3, some ⟨1, 0, 0, 0, 0⟩⟩, 0),
    (.atoms ⟨1, 0, 2, 3, some ⟨64, 0, 0, 0, 0x0A⟩⟩, 0), (.kvxNf ⟨2, 0, 1, 2, some ⟨3, 0, 0, 0, 7⟩⟩, 0),
    (.acld ⟨2, 0, 1, 0, some ⟨0, 0, 0, 0, 0x30⟩⟩, 0), (.acst ⟨0x7F, 0, 1, 2, some ⟨0, 0, 0, 0, 0x30⟩⟩, 0),
    (.acst ⟨1, 0, 1, 2, none⟩, 0)] = true := by decide +kernel

/-- R216, R218, R280, R33, R34, R54, R219: data groups, sizes and bases of lane memory words, the yard, tasks and futures. -/
theorem test_wf_lane_memory : refusesAll 64 128 [
    (.ldg ⟨1, 0, 2, 7, 0, none, none⟩, 0), (.ldg ⟨1, 0, 3, 2, 0, none, none⟩, 0), (.ldg ⟨1, 0, 2, 3, 0, none, none⟩, 0),
    (.ldg ⟨2, 0, 2, 4, 0, none, none⟩, 0), (.ldg ⟨1, 0, 0x79, 2, 0, none, none⟩, 0), (.stg ⟨1, 0, 2, 5, 0, none, none⟩, 0),
    (.stg ⟨1, 1, 2, 2, 0, none, none⟩, 0), (.stg ⟨0x7F, 0, 2, 2, 0, none, none⟩, 0), (.rebinB ⟨1, 0, 1, 2, 3⟩, 0),
    (.rebinS ⟨1, 0, 0, 64, 3⟩, 0), (.rebinB ⟨1, 0, 0, 2, 0x78⟩, 0), (.spawn ⟨0, 0, 0, 3, 0, none⟩, 0),
    (.spawn ⟨1, 0, 0, 2, 0x80, none⟩, 0), (.await ⟨0, 0, 0, 0, none⟩, 0), (.fread ⟨3, 0, 2, 0, none⟩, 0),
    (.ffill ⟨0x7F, 0, 2, 5, none⟩, 0)] = true := by decide +kernel

/-- R223 to R225, R295, R301, R302: registers, pairs, immediates and prefixes of uniform words. -/
theorem test_wf_uniform : refusesAll 64 64 [
    (.kadd ⟨64, 1, 2, none⟩, 0), (.kadd ⟨384, 1, 2, none⟩, 0), (.kadd ⟨1, 1, 64, none⟩, 0), (.kadd64 ⟨3, 2, 4, none⟩, 0),
    (.kadd64 ⟨2, 2, 5, none⟩, 0), (.kadd ⟨1, 1, 2, some ⟨1, 0, 0, 0, 0⟩⟩, 0), (.kadd ⟨1, 1, 2, some ⟨0, 0, 1, 0, 0⟩⟩, 0),
    (.kmulh ⟨1, 1, 2, some ⟨0, 0, 0, 0, 2⟩⟩, 0), (.kcmp ⟨1, 1, 2, none⟩, 0), (.kcmp ⟨7 * 64, 1, 2, none⟩, 0),
    (.kcmp ⟨6 * 8, 1, 2, none⟩, 0), (.ksel ⟨1, 1, 2, some ⟨0, 1, 0, 0, 0⟩⟩, 0), (.kmov ⟨1, 1, 2, none⟩, 0),
    (.kaddi ⟨1, 2, some ⟨0, 0, 0, 0, 3⟩⟩, 0), (.kaddi ⟨1, 2, some ⟨64, 0, 0, 0, 2⟩⟩, 0), (.kmovi ⟨1, 2, some ⟨1, 0, 0, 0, 2⟩⟩, 0),
    (.kaddi ⟨1, 2, some ⟨5, 0, 0, 0, 0⟩⟩, 0), (.kld ⟨1, 511, 2, 0, none⟩, 0), (.kld ⟨1, 2, 7, 0, none⟩, 0), (.kst ⟨1, 2, 5, 0, none⟩, 0),
    (.kld ⟨1, 2, 2, 0, some ⟨0, 0, 0, 0, 2⟩⟩, 0), (.kld ⟨1, 2, 2, 0, some ⟨1, 0, 0, 0, 0⟩⟩, 0), (.katom ⟨1, 2, 3, none⟩, 0),
    (.katom ⟨1, 2, 3, some ⟨5 * 8192, 0, 0, 0, 0⟩⟩, 0), (.katom ⟨1, 2, 3, some ⟨128, 0, 0, 0, 0⟩⟩, 0),
    (.katom ⟨2, 2, 4, some ⟨4096, 0, 0, 0, 1⟩⟩, 0), (.katom ⟨1, 3, 3, some ⟨0, 0, 0, 0, 0⟩⟩, 0),
    (.katom ⟨1, 2, 3, some ⟨64, 0, 0, 0, 10⟩⟩, 0), (.ret ⟨511, 511, 0, none⟩, 0), (.join ⟨0, 511, 0, none⟩, 0)] = true := by
  decide +kernel

/-- R219, R228, R229, R304, R312: command blocks, selectors and neutral fields of engine, barrier, slot and system words. -/
theorem test_wf_commands : refusesAll 64 64 [
    (.cpy ⟨4, 0, 16, none⟩, 0), (.cpy ⟨4, 0, 9, none⟩, 0), (.cpy ⟨6, 0, 0, none⟩, 0), (.cpy ⟨60, 0, 0, none⟩, 0), (.cpy ⟨4, 16, 0, none⟩, 0),
    (.cpym ⟨4, 0, 1, none⟩, 0), (.qfen ⟨1, 0, 1, none⟩, 0), (.mres ⟨2, 4, 8, none⟩, 0), (.mrel ⟨2, 511, 0, none⟩, 0),
    (.mma ⟨6, 511, 0, none⟩, 0), (.twm ⟨1, 64, none⟩, 0), (.tclr ⟨1, 2, none⟩, 0), (.kvld ⟨56, 0, 1, none⟩, 0), (.kvst ⟨2, 4, 32, none⟩, 0),
    (.mrg ⟨4, 0, 4, none⟩, 0), (.bara ⟨511, 511, 16, none⟩, 0), (.slotaFree ⟨1, 7, 1, 0, none⟩, 0), (.slotaFree ⟨1, 6, 0, 0, none⟩, 0),
    (.slotrInit ⟨1, 511, 1, 0, none⟩, 0), (.waita ⟨1, 2, 28, none⟩, 0), (.waita ⟨1, 2, 3, none⟩, 0), (.gwait ⟨2, 7, none⟩, 0),
    (.phend ⟨0, 511, none⟩, 0), (.pref ⟨2, 511, some ⟨1, 0, 0, 0, 0⟩⟩, 0), (.pref ⟨3, 511, none⟩, 0), (.csrr ⟨1, 9, none⟩, 0),
    (.trap ⟨0, 5, none⟩, 0), (.hflush ⟨2, 3, some ⟨0, 0, 0, 0, 2⟩⟩, 0), (.kbal ⟨1, 8, none⟩, 0)] = true := by decide +kernel

/-- R220, R221: an LXC and an LXI before one word, and an LXI alone; the high bits of the immediate and of the offset. -/
theorem test_decode_prefixes : readsAll [
    ([0x7E01D000, 0x7C048D14, 0x52040403], .iaddi ⟨1, 0, 2, 3, some ⟨0, 1, 1, 5, 0⟩, some ⟨0x12345, 0⟩⟩),
    ([0x7C048D14, 0x60080485], .ldg ⟨2, 0, 2, 2, 5, none, some ⟨0x12345, 0⟩⟩)] = true := by decide +kernel

/-! The machine that the witnesses and the steps below start from. -/

/-- Tables of the launched context and of its private tree (R357, R359): VA 0 at PA 0x4000000, TID 0's private page 0 at 0x300000. -/
def kitMemory : Memory :=
  ((((Memory.putBytes launchTables 0x20000 (natLe 0x22001 8)).putBytes 0x22000 (natLe 0x24001 8)).putBytes 0x24000
    (natLe 0x26001 8)).putBytes 0x26000 (natLe 0x30000F 8)).putBytes 0x4000000 [0x11, 0x22, 0x33, 0x44]

/-- A group of lane 0 alone on its pipe: a block of 4096 bytes of scratchpad, one tile and 16 rings, in a grid of one block with cores
and tasks. The context's window slice of 64 KiB stands at VA 2^40. -/
def kit : State := { State.reset.withFetchWord 32 0 with
  agenda := []
  me := { launchGroup with lanes := some { launchThread 0 with low := 65536 } :: List.replicate 31 none, path := 1 }
  hbm := kitMemory
  grids := [{ launchGrid with flags := 3, snapMem := kitMemory, privRoot := some 0x20000 }]
  ctxs := { launchCtx with wva := 2 ^ 40, wsz := 1 } :: List.replicate 63 Ctx.empty
  access := (9 * 8192, 0xF) :: (9 * 8192 + 1, 0x00FFFFFFFFFFF000) :: (64 * 32, 0xF) :: (64 * 32 + 1, 0x00FFFFFFFFFFF000) :: launchAccess }

/-- The same with registers of the group and of its thread set. -/
def withK (s : State) (l : List (Nat × Word)) : State :=
  s.onMe fun g => { g with k := l.foldl (fun k x => setNth k x.1 x.2) g.k }

def withV (s : State) (l : List (Nat × Word)) : State :=
  s.onMe fun g => g.onLanes 1 fun _ t => { t with v := l.foldl (fun v x => setNth v x.1 x.2) t.v }

/-- A group of lanes 0 and 1, where p0 is true in lane 0 alone. -/
def pair : State := kit.onMe fun g => { g with
  lanes := some { launchThread 0 with p := 1 } :: some (launchThread 1) :: List.replicate 30 none, path := 3 }

/-- Only lane 0 is in the mask 1. -/
theorem only_lane0 {i : Nat} (h : (1 : BitVec 32).getLsbD i = true) : i = 0 := by
  by_contra hi
  simp [hi] at h

theorem kit_act : kit.me.active none = 1 ∧ kit.me.cur = 1 ∧ kit.me.liveMask = 1 := by decide +kernel

/-- A condition of every active lane of the kit's group holds when lane 0 meets it. -/
theorem kit_lanes {P : Nat → Prop} (h : P 0) : ∀ i, (kit.me.active none).getLsbD i = true → P i := by
  intro i hi
  rw [kit_act.1] at hi
  exact only_lane0 hi ▸ h

/-! Witnesses: for each statement, states and operands that meet its hypotheses, clause by clause. -/

/-- LaneIntegers, LaneMovesAndPredicates, LanePairs, LaneFloats, LaneComparesAndConversions, LaneVotesAndReductions, IntegerResults: no
source of an active lane is poisoned; a lane is active without a guard, and with one it may be that none is. -/
theorem witness_lane_sources :
    kit.me.active none ≠ 0 ∧ kit.me.active (some ⟨0, 1, 1, 7, 0⟩) = 0 ∧ kit.lanePoison (kit.me.active none) [(5, 1)] = 0 ∧
    kit.lanePoison (kit.me.active none) [(0x77, 1), (0xFF, 1)] = 0 ∧ kit.lanePoison (kit.me.active none) [(2, 2), (0x7F, 2)] = 0 ∧
    kit.lanePoison (kit.me.active none) [(4, 2), (5, 1)] = 0 ∧ kit.lanePoison (kit.me.active none) [(4, 1), (5, 1), (0x80, 1)] = 0 ∧
    fieldError 120 384 (.shi ⟨1, 0, 1, 0x20, none⟩) = some 0 ∧ (0x20 : BitVec 9).toNat / 32 % 4 ≠ 0 := by decide +kernel

/-- LaneShufflesAndScatter, LaneTopK: no poison stands that a lane could read. -/
theorem witness_collectives :
    kit.lanePoison (kit.me.active none) [(6, 1)] = 0 ∧ kit.lanePoison (kit.me.active none) [(5, 1), (6, 1)] = 0 ∧
    (let w : LR := ⟨4, 0, 5, 6, some ⟨0, 0, 0, 0, 1⟩⟩
     kit.lanePoison (kit.me.liveMask &&& maskOf fun i => decide (i < lxcExt w.lxc % 64)) [(w.d.setWidth 8, 2)] = 0 ∧
     (pair.me.active none).getLsbD 1 = true ∧ ¬1 < lxcExt w.lxc % 64) ∧
    (∀ i p, p ∈ kit.poison → kit.me.poisonedSrc i 5 1 p = false) ∧
    (∀ i k p, p ∈ kit.poison → kit.me.poisonedSrc i (5 + BitVec.ofNat 8 k) 1 p = false) := by
  have h : kit.poison = [] := by decide +kernel
  refine ⟨by decide +kernel, by decide +kernel, by decide +kernel, ?_, ?_⟩ <;> simp [h]

/-- UniformArithmetic, UniformMovesAndPairs, SystemFunctions, TrapInstructions: a true guard, absent and present, and sources without
poison; FalseGuards: a false one. -/
theorem witness_guards :
    kxPass kit.me none = true ∧ kxPass kit.me (some ⟨0, 1, 1, 6, 0⟩) = true ∧ kxPass kit.me (some ⟨0, 1, 0, 6, 0⟩) = false ∧
    kit.kPoison [(1, 1), (127, 1)] = false ∧ kit.kPoison [(382, 2), (126, 2)] = false ∧ kit.kPoison [(511, 1)] = false := by
  decide +kernel

/-- BranchesAndSyn: guards of both values, 31 resident entries, and targets at both ends of the address space and beside them. -/
theorem witness_branches :
    ubGuard kit.me ⟨0, 7, 0⟩ = true ∧ ubGuard kit.me ⟨1, 7, 0⟩ = false ∧
    (let s := kit.onMe fun g => { g with stack := List.replicate 33 ⟨0, 1, [], none, 0⟩, spilled := 2 }
     ubGuard s.me ⟨0, 7, 0⟩ = true ∧ s.me.stack.length - s.me.spilled = 31) ∧
    (let at_ (lo hi : Word) : Dword := kPair (withK kit [(6, lo), (7, hi)]).me 6
     (at_ 0xFFFFFFFC 0xFFFFFF).toNat < 2 ^ 56 ∧ (at_ 0xFFFFFFFC 0xFFFFFF).toNat % 4 = 0 ∧
     2 ^ 56 ≤ (at_ 0 0x1000000).toNat ∧ (at_ 0xFFFFFFFF 0xFFFFFF).toNat < 2 ^ 56 ∧ (at_ 0xFFFFFFFF 0xFFFFFF).toNat % 4 ≠ 0) ∧
    (withK kit [(6, 0), (7, 0x1000000)]).kPoison [(6, 2)] = false := by decide +kernel

/-- BranchesAndSyn: the 33rd entry spills the 32nd below it into a page that thread 0 has, into one that it lacks, or cannot be granted;
DivergenceAndJoins: a JOIN that brings it back. -/
theorem witness_spills :
    (let e : DivEntry := ⟨0, 1, [], none, 0⟩
     let s (saves : List (Nat × Nat)) (high cap : Nat) : State :=
       { kit.onMe fun g => { g.onLanes 1 fun _ t => { t with saves := saves, high := high } with stack := List.replicate 32 e } with
         ctxs := { launchCtx with pcap := cap } :: kit.ctxs.drop 1 }
     let r (x : State) := (x.saveBytes x.me.grid (x.me.thread 0) (2 ^ 24 - (x.me.thread 0).saved - 64) e.image).1
     (s [] 0 0).me.stack[31]? = some e ∧ (s [] 0 0).me.spilled + 32 ≤ (s [] 0 0).me.stack.length ∧
     ubGuard (s [] 0 0).me ⟨0, 7, 0⟩ = true ∧ r (s [(64, 64)] (2 ^ 24) 9) = .ok (.mem 0x300000 false) ∧ r (s [] 0 9) = .fault ∧
     r (s [] 0 1) = .fatal) ∧
    (let e : DivEntry := ⟨0, 1, [], none, 0⟩
     let s := kit.onMe fun g => { g.onLanes 1 fun _ t => { t with saves := [(0, 64)], high := 2 ^ 24 } with
       stack := e :: e :: List.replicate 31 e, spilled := 32 }
     let u := s.onMe fun g => { g with stack := e :: List.replicate 31 e, path := e.f, pc := pastUni s none }
     s.me.spilled = (List.replicate 31 e).length + 1 ∧ (u.savedBytes s.me.grid (s.me.thread 0) e.spill 64).1 = .ok (.mem 0x300000 false)) := by
  decide +kernel

/-- DivergenceAndJoins: all threads take the branch, none does, they part with and without an entry; JOIN finds a deferred path, an
entry, the base level with a path, and nothing. -/
theorem witness_divergence :
    (let taken (w : UB) := pair.me.cur &&& maskOf fun i => (pair.me.thread i).pred w.cq.toNat != decide (w.cn = 1)
     taken ⟨0, 7, 4⟩ = pair.me.cur ∧ taken ⟨1, 7, 4⟩ = 0 ∧ pair.me.cur ≠ 0 ∧ taken ⟨0, 0, 4⟩ ≠ 0 ∧ taken ⟨0, 0, 4⟩ ≠ pair.me.cur) ∧
    pair.me.stack = [] ∧ (pair.onMe fun g => { g with stack := [⟨8, 3, [], none, 0⟩] }).me.stack ≠ [] ∧
    kxPass pair.me none = true ∧ pair.me.spilled = 0 ∧
    (pair.onMe fun g => { g with stack := [⟨8, 3, [(4, 1)], none, 0⟩] }).me.spilled = 0 ∧
    (pair.onMe fun g => { g with base := ⟨[(4, 1)], 0, 0⟩ }).me.base.q ≠ [] := by decide +kernel

/-- LaneLoads: in each space lane 0's access passes its checks, the last bytes of the scratchpad and the first beyond them among them. -/
theorem witness_lane_loads :
    (kit.lanePoison (kit.me.active none) [(4, 2)] = 0 ∧ kit.lanePoison (kit.me.active none) [(4, 1)] = 0) ∧
    (kit.checkLanes .glob ⟨6, 0, 4, 2, 0, none, none⟩ .read 1).1 = (lanesOf 1).map (fun i => (i, .ok (.glob (.mem 0x4000000 false)))) ∧
    ((withV kit [(5, 256)]).checkLanes .glob ⟨6, 0, 4, 2, 0, none, none⟩ .read 1).1 =
      (lanesOf 1).map (fun i => (i, .ok (.glob (.win 0)))) ∧
    ((withV kit [(4, 4092)]).checkLanes .spad ⟨6, 0, 4, 2, 0, none, none⟩ .read 1).1 =
      (lanesOf 1).map (fun i => (i, .ok (.spad 1 4092))) ∧
    ((withV kit [(4, 4096)]).checkLanes .spad ⟨6, 0, 4, 2, 0, none, none⟩ .read 1).1 =
      (lanesOf 1).map (fun i => (i, .ok (.beyond 1 4096))) ∧
    (kit.checkLanes .priv ⟨6, 0, 4, 2, 0, none, none⟩ .read 1).1 = (lanesOf 1).map (fun i => (i, .ok (.priv 0x300000))) := by
  decide +kernel

/-- LaneStores: the same for stores, with room in the version log; a thread in lane 0; memories in their canonical form. -/
theorem witness_lane_stores :
    kit.lanePoison (kit.me.active none) [(4, 2), ((6 : BitVec 7).setWidth 8, 1)] = 0 ∧ kit.me.active none ≠ 0 ∧
    (let c := kit.checkLanes .glob ⟨6, 0, 4, 2, 0, none, none⟩ .write 1
     (c.2.vlogRoom kit.me.grid (lmAddress kit.me (kit.me.thread 0) .glob ⟨6, 0, 4, 2, 0, none, none⟩)).1.isOk = true ∧
     c.1 = (lanesOf 1).map (fun i => (i, .ok (.glob (.mem 0x4000000 false))))) ∧
    (kit.checkLanes .spad ⟨6, 0, 4, 2, 0, none, none⟩ .write 1).1 = (lanesOf 1).map (fun i => (i, .ok (.spad 1 0))) ∧
    (kit.checkLanes .priv ⟨6, 0, 4, 2, 0, none, none⟩ .write 1).1 = (lanesOf 1).map (fun i => (i, .ok (.priv 0x300000))) ∧
    (kit.me.lane 0).isSome = true ∧ (Check.ok (.glob (.mem 0x4000000 false))).logged = true ∧ (Check.ok (.spad 1 0)).logged = false ∧
    (Check.ok (.glob (.win 0))).logged = false := by decide +kernel

theorem witness_memories : kit.memoriesWf := by
  refine ⟨?_, ?_, ?_, ?_, ?_⟩ <;> decide +kernel

/-- AccessChecks: each clause at the edge of its range; lane 0 alone, misaligned at the first page. -/
theorem witness_access_checks :
    (2 ^ 56 ≤ 2 ^ 56 ∧ 2 ^ 56 - 1 < 2 ^ 56 ∧ (2 ^ 56 - 1) % 4 ≠ 0 ∧ 2 % 4 ≠ 0) ∧ 4096 % 4 = 0 ∧ (kit.block 1).sb < 4096 + 4 ∧
    4092 + 4 ≤ (kit.block 1).sb ∧ kit.poison = [] ∧ lanesOf (kit.me.active none) = [0] ∧
    lmAddress (withV kit [(4, 2)]).me ((withV kit [(4, 2)]).me.thread 0) .glob ⟨6, 0, 4, 2, 0, none, none⟩ = 2 ∧
    (withV kit [(4, 2)]).lanePoison 1 [(4, 2)] = 0 := by decide +kernel

/-- LaneAtomics, AtomicEffect: a word that nobody holds, one that another holder holds, and one of the window. -/
theorem witness_atomics :
    (let w : LR := ⟨6, 0, 4, 5, some ⟨0, 0, 0, 0, 0x30⟩⟩
     kit.lanePoison (kit.me.active w.lxc) (atomSrcs w true) = 0 ∧ kit.me.active w.lxc = 1 ∧
     (kit.atomLanes w true 1).1.all (fun x => x.2.isOk) = true) ∧
    (let w : LR := ⟨6, 0, 4, 5, some ⟨0, 0, 0, 0, 0⟩⟩
     (kit.atomLanes w false 1).1.all (fun x => x.2.isOk) = true ∧ kit.lanePoison 1 (atomSrcs w false) = 0) ∧
    (Target.glob (.mem 0x4000000 false)).loc = some (.mem 0x4000000) ∧
    (∀ x, x ∈ atomWords (.mem 0x4000000) 8 → kit.conflict x .home = false) ∧
    ({ kit with atoms := [⟨.mem 0x4000000, 5, .home, [1]⟩] } : State).conflict (.mem 0x4000000) (.block 1) = true ∧
    Memory.wf kit.window = true ∧
    (let taken : State := { kit with atoms := [⟨.mem 0x4000000, 5, .block 9, [1]⟩] }
     (kit.me.lane 0).isSome = true ∧ kit.checkGlobal 0 4 .atomic = .ok (.glob (.mem 0x4000000 false)) ∧
     spadConflict 3 (.glob (.mem 0x4000000 false)) = false ∧ spadConflict 0 (.spad 1 0) = false ∧
     taken.atomicAt 0 0 4 3 (.glob (.mem 0x4000000 false)) 0 0 true = .conflict ∧
     (match kit.atomicAt 0 0 4 3 (.glob (.mem 0x4000000 false)) 0 0 true with | .old _ _ u => (u.me.lane 0).isSome | _ => false) = true) := by
  decide +kernel

/-- UniformMemory: loads, stores and atomics of global space and of scratchpad that pass their checks. -/
theorem witness_uniform_memory :
    kxPass kit.me none = true ∧ kit.kPoison [(2, 2), (6, 1)] = false ∧
    kit.checkGlobal (umAddress kit.me ⟨6, 2, 2, 0, none⟩ true) 4 .read = .ok (.glob (.mem 0x4000000 false)) ∧
    kit.checkSpad kit.anchorBlk (umAddress kit.me ⟨6, 2, 2, 0, none⟩ false) 4 .read = .ok (.spad 1 0) ∧
    kit.checkGlobal (umAddress kit.me ⟨6, 2, 2, 0, none⟩ true) 4 .write = .ok (.glob (.mem 0x4000000 false)) ∧
    (kit.vlogRoom kit.me.grid (umAddress kit.me ⟨6, 2, 2, 0, none⟩ true)).1.isOk = true ∧
    kit.checkGlobal 0 4 .atomic = .ok (.glob (.mem 0x4000000 false)) ∧ kit.checkSpad kit.anchorBlk 0 8 .atomic = .ok (.spad 1 0) ∧
    kit.kPoison ([(2, 2), (6, 1)] ++ [(7, 1)]) = false ∧
    (match kit.atomicAt (lowLane kit.me.cur) 10 4 3 (.glob (.mem 0x4000000 false)) 1 2 true with
     | .old v _ _ => decide (v = 0x44332211)
     | _ => false) = true := by decide +kernel

/-- Tables of KV space behind VA 0x100000: one sequence of length 64, its directory, both block levels and a frame group (R171, R173). -/
def kvMemory : Memory :=
  ((((kitMemory.putBytes 0x4100000 (natLe (0x101000 + 64 * 2 ^ 64 + 2 ^ 96) 16)).putBytes 0x4101000 (natLe 0x102001 8)).putBytes
    0x4102000 (natLe 0x103001 8)).putBytes 0x4103000 (natLe 0x104003 8))

/-- The kit with a KV root of those tables: format 0x13, one layer, one head, D = 64. -/
def kvKit : State := { kit with
  hbm := kvMemory
  grids := [{ launchGrid with flags := 3, snapMem := kvMemory,
                              kvRoot := some (natLe 0x100000 8 ++ natLe 1 4 ++ [0x13, 0, 0, 0] ++ List.replicate 48 0) }] }

/-- KvTranslations: position 0 has its element, and position 64, the length, has none. -/
theorem witness_kv :
    kvKit.lanePoison (kvKit.me.active none) [(4, 1), (5, 1), (6, 1)] = 0 ∧ ((kvKit.grid kvKit.me.grid).kvRoot).isSome = true ∧
    (match (kvKit.grid kvKit.me.grid).kvRoot with
     | some r => kvRootOk r && decide (kvKit.kvxLane ⟨2, 0, 4, 5, some ⟨6, 0, 0, 0, 0⟩⟩ r 1 0 = .addr 0x104000 0x104000) &&
        ((withV kvKit [(5, 64)]).kvxLane ⟨2, 0, 4, 5, some ⟨6, 0, 0, 0, 0⟩⟩ r 1 0).check.isWait
     | none => false) = true := by decide +kernel

/-- KvTranslations, of one lane: a grid without a root, a sequence beyond the root's, a directory entry that is not there, and a root
whose page is missing. -/
theorem witness_kv_traps :
    (let w : LR := ⟨2, 0, 4, 5, some ⟨6, 0, 0, 0, 0⟩⟩
     let s := withV kvKit [(4, 0x10000)]
     let bare : State := { kvKit with grids := kvKit.grids.map fun g => { g with snapMem := Memory.putBytes kvMemory 0x4101000 (natLe 0 8) } }
     lanesOf (kit.me.active w.lxc) = [0] ∧ (kit.grid kit.me.grid).kvRoot = none ∧ kit.lanePoison 1 [(4, 1), (5, 1), (6, 1)] = 0 ∧
     (match (kvKit.grid kvKit.me.grid).kvRoot with
      | some r => decide (kvNseq r ≤ (kvxTuple s.me w 0).seq) &&
          (match bare.kvxLane w r 1 0 with | .stop (.kv _ _) => true | _ => false) &&
          (match kvKit.kvxLane w (natLe 0x10000000 8 ++ r.drop 8) 1 0 with | .stop (.xlat .fault _) => true | _ => false)
      | none => false) = true) := by decide +kernel

/-- AccumulatorCells: the group is not parked; a tile exists, whose rows are written, or whose row 0 is not. -/
theorem witness_cells :
    kit.me.park = none ∧ (cellSel (srcVal kit.me (kit.me.thread 0) 4)).1 < (kit.block (kit.me.thread 0).blk).tiles.length ∧
    (cellSel (srcVal kit.me (kit.me.thread 0) 4)).2.1 < (kit.tile 1 0).water ∧ kit.poison = [] ∧
    (({ kit with blocks := [{ launchBlock with tiles := [{ Tile.fresh with water := 0 }] }] } : State).tile 1 0).water ≤ 0 ∧
    kit.lanePoison (kit.me.active none) [(4, 1), (5, 1)] = 0 ∧ (kit.me.lane 0).isSome = true ∧
    ((kit.receiveRow 0 1 0 0).me.lane 0).isSome = true ∧ kit.rowSenders 1 0 0 = [] ∧
    (let s : State := { kit with doneMmas := [⟨71, 1, 1, 0, 1, 0, 64, (Party.empty 71).sender (Rank.op 1 [0] 71)⟩] }
     s.rowSenders 1 0 0 ≠ [] ∧ ((s.receiveRow 0 1 0 0).me.lane 0).isSome = true) ∧
    ((pair.me.lane 1).isSome = true ∧ findByte (.acc 1 0 0 0 0) (pair.me.thread 1).party.pend = none) := by decide +kernel

/-- AccumulatorCells: lane 0 names tile 0, and lane 1 tile 1, which the block lacks; the row of lane 0 is written, and is not. -/
theorem witness_bad_tiles :
    (let s : State := pair.onMe fun g => g.onLanes 2 fun _ t => { t with v := setNth t.v 4 0x10000 }
     let u : State := { s with blocks := [{ launchBlock with tiles := [{ Tile.fresh with water := 0 }] }] }
     let sel (x : State) (i : Nat) : Nat × Nat × Nat := cellSel (srcVal x.me (x.me.thread i) 4)
     let bad (x : State) : BitVec 32 := x.me.active none &&& maskOf fun i => decide ((x.block (x.me.thread i).blk).tiles.length ≤ (sel x i).1)
     (∀ x, x ∈ [s, u] → bad x = 2 ∧ x.me.active none &&& ~~~(bad x) = 1 ∧ x.me.park = none) ∧ s.poison = [] ∧ u.poison = [] ∧
     (sel s 0).2.1 < (s.tile 1 (sel s 0).1).water ∧ (u.tile 1 (sel u 0).1).water ≤ (sel u 0).2.1) := by decide +kernel

/-- Futures: an empty word, a full one. -/
theorem witness_futures :
    kit.lanePoison (kit.me.active none) [(4, 2), (6, 2)] = 0 ∧ kit.futureCheck 0 = .ok (.glob (.mem 0x4000000 false)) ∧
    ((kit.futureWord (kit.me.thread 0).party (.glob (.mem 0x4000000 false))).getLsbD 63 = false) ∧
    (kit.freadOne ⟨2, 0, 4, 0, none⟩ 0 (.glob (.mem 0x4000000 false))).1 ≠ 0 ∧
    (kit.ffillOne 0 0 (.glob (.mem 0x4000000 false)) 5).isSome = true ∧
    (let s : State := { kit with atoms := [⟨.mem 0x4000000, 5, .home, [1]⟩, ⟨.mem 0x4000004, 0x80000000, .home, [1]⟩] }
     s.futureCheck 0 = .ok (.glob (.mem 0x4000000 false)) ∧ lanesOf (s.me.active none) = [0] ∧
     (s.futureWord (s.me.thread 0).party (.glob (.mem 0x4000000 false))).getLsbD 63 = true ∧
     (s.freadOne ⟨2, 0, 4, 0, none⟩ 0 (.glob (.mem 0x4000000 false))).1 = 0 ∧ s.futures = []) ∧
    (kit.me.lane 0).isSome = true ∧ (Target.glob (.mem 0x4000000 false)).future = some (.mem 0x4000000, 3) ∧
    kit.futureConflict (.glob (.mem 0x4000000 false)) = false ∧ (kit.futureWord (kit.me.thread 0).party (.glob (.win 8))).getLsbD 63 = false ∧
    Memory.wf kit.window = true := by decide +kernel

/-- SpawnCommand: an aligned entry with room for the child; 9 arguments; an entry that is no multiple of 4. -/
theorem witness_spawn :
    kit.lanePoison (kit.me.active none) [(4, 2), (6, 8)] = 0 ∧ kit.spawnMisuse ⟨8, 0, 0, 4, 6, none⟩ = false ∧
    (srcPair kit.me (kit.me.thread 0) 4).toNat % 4 = 0 ∧ kit.counterFull 0 = false ∧ kit.hasRoom 0 = true ∧
    8 < (9 : BitVec 4).toNat ∧ (({ kit with grids := [launchGrid] } : State).grid kit.me.grid).flags.getLsbD 1 = false ∧
    (let s := withV kit [(4, 2)]
     s.spawnMisuse ⟨0, 0, 0, 4, 0, none⟩ = false ∧ (srcPair s.me (s.me.thread 0) 4).toNat % 4 ≠ 0 ∧ s.me.active none ≠ 0) ∧
    (kit.me.lane 0).isSome = true := by decide +kernel

/-- SpawnCommand: a station whose frames are all in use, by others. Lane 0's child runs inline; its save has room, needs a page that can be
granted or cannot, and a poisoned register stops it before. -/
theorem witness_spawn_inline :
    (let full (saves : List (Nat × Nat)) (high cap : Nat) (bad : List PoisonAt) : State :=
       { kit.onMe fun g => g.onLanes 1 fun _ t => { t with low := 0, high := high, saves := saves } with
         frames := List.replicate 4096 ⟨9, 1, 0, 1, []⟩, poison := bad, ctxs := { launchCtx with pcap := cap } :: kit.ctxs.drop 1 }
     let w : LC := ⟨1, 0, 0, 4, 6, none⟩
     let r (s : State) : BitVec 32 × State := (lanesOf (s.me.active w.lxc)).foldl (fun a i =>
       if a.2.hasRoom i then (a.1, a.2.spawnOne w i) else (a.1 ||| BitVec.ofNat 32 (2 ^ i), a.2)) (0, s)
     let s := full [(4096, 64)] (2 ^ 24) 9 []
     let u := full [] 0 9 []
     let lost := full [(4096, 64)] (2 ^ 24) 9 [.vreg 0 0 0 5]
     s.lanePoison (s.me.active w.lxc) [(w.a, 2), (w.b, 1)] = 0 ∧ s.spawnMisuse w = false ∧ s.counterFull 0 = false ∧
     (srcPair s.me (s.me.thread 0) w.a).toNat % 4 = 0 ∧ (r s).1 = 1 ∧ (r s).2.savePoison 1 = 0 ∧ ((r s).2.inlineCall w 1).1 = [] ∧
     (r u).1 = 1 ∧ (r u).2.savePoison 1 = 0 ∧ ((r u).2.inlineCall w 1).1 ≠ [] ∧
     lost.lanePoison (lost.me.active w.lxc) [(w.a, 2), (w.b, 1)] = 0 ∧ (r lost).1 = 1 ∧ (r lost).2.savePoison 1 = 1 ∧
     (let a := s.me.thread 0
      (s.saveBytes s.me.grid a (2 ^ 24 - a.saved - a.saveImage.length) a.saveImage).1 = .ok (.mem (0x300000 + 4096 - 484) false) ∧ (s.me.lane 0).isSome = true ∧
      let a := u.me.thread 0
      (u.saveBytes u.me.grid a (2 ^ 24 - a.saved - a.saveImage.length) a.saveImage).1 = .fault)) := by decide +kernel

/-- AwaitAndExit, GroupEnds: no child left, and one left; no active lane; parked for a tracker entry. -/
theorem witness_await :
    kit.framesOpen (kit.me.active none) = false ∧ kit.me.active none ≠ 0 ∧ kit.framesOpen kit.me.liveMask = false ∧
    kit.exitGroup.me.uid = kit.me.uid ∧ (kit.me.lane 0).isSome = true ∧
    kit.me.park ≠ some .tracker ∧
    (let s : State := { (kit.onMe fun g => g.onLanes 1 fun _ t => { t with hasFrame := true }) with frames := [⟨1, 1, 0, 1, []⟩] }
     s.framesOpen (s.me.active none) = true ∧ s.framesOpen s.me.liveMask = true ∧ kxPass s.me none = true) ∧
    kit.me.active (some ⟨0, 1, 1, 7, 0⟩) = 0 ∧ (kit.onMe fun g => { g with park := some .tracker }).me.park = some .tracker := by
  decide +kernel

/-- RebinEntersYard: a REBIN that R34 allows, with and without an earlier episode open; 9 payload words are a misuse. -/
theorem witness_rebin :
    kit.lanePoison (kit.me.active none) [(4, 1), (6, 2)] = 0 ∧ kit.rebinMisuse ⟨2, 0, 0, 4, 6⟩ false = false ∧
    kit.rebinMisuse ⟨2, 2, 0, 4, 6⟩ true = false ∧ kit.rebinMisuse ⟨9, 0, 0, 4, 6⟩ false = true ∧
    kit.me.liveThreads.any (fun t => (kit.epBefore kit.me.grid false t).isSome) = false ∧
    kit.me.liveThreads.any (fun t => (kit.epBefore kit.me.grid true t).isSome) = false ∧
    (let s : State := { (kit.onMe fun g => g.onLanes 1 fun _ t => { t with epB := 1 }) with
       episodes := [⟨1, 1, false, 1, 0, 0, 0, false, false, 0, [1], [], [], [], 0⟩] }
     s.me.liveThreads.any (fun t => (s.epBefore s.me.grid false t).isSome) = true ∧ s.rebinMisuse ⟨2, 0, 0, 4, 6⟩ false = false) := by
  decide +kernel

/-- The KV kit with records behind VA 0x200000: a raw vector of 256 bytes in boxes of 64 (R126), and a merge record (R335); command
blocks of CPY, of MRG and of KVLD from k4, k16 and k20, and what KVST takes from k28. -/
def engKit : State :=
  let m := ((kvMemory.putBytes 0x4200009 [1]).putBytes 0x4200010 (natLe 256 8)).putBytes 0x4200060 (natLe 64 4)
  let m := m.putBytes 0x4200104 [3]
  withK { kvKit with
    hbm := m
    grids := kvKit.grids.map fun g => { g with snapMem := m } }
    [(4, 0x200000), (10, 0x40000000), (16, 0x200100), (18, 0x40000000), (23, 1), (25, 0x40000000)]

/-- EngineCommandsIssue: commands of every kind that pass their checks, with a buffer that has room. -/
theorem witness_engine_commands :
    kxPass engKit.me none = true ∧ engKit.kPoison [(4, 8)] = false ∧ engKit.kPoison [(4, 12)] = false ∧
    cpyForm 0 false false (engKit.me.blockWords 4 8) = false ∧ recordAddr (cpyTsr (engKit.me.blockWords 4 8)) 64 = none ∧
    (match engKit.readTsr 0x200000 with
     | .ok (rec, miss, _) => decide (cpyTrap engKit.me (engKit.block engKit.anchorBlk) 0 false false (engKit.me.blockWords 4 8) rec = none) && miss
     | .error _ => false) = true ∧
    engKit.bufferFull 1 = false ∧ engKit.bufferFull 2 = false ∧
    kvldTrap engKit.me (engKit.block engKit.anchorBlk) (engKit.grid engKit.me.grid).kvRoot false (engKit.me.blockWords 20 8) = none ∧
    engKit.kvstTrap [kVal engKit.me 28, kVal engKit.me 29, kVal engKit.me 30] = none ∧
    descForm (nth (engKit.me.blockWords 16 4) 2 0) = false ∧ recordAddr (cpyTsr (engKit.me.blockWords 16 4)) 32 = none ∧
    (match engKit.readRecord (engKit.me.thread 0).party 0x200100 96 with | .ok r => !mrgInvalid r | .error _ => false) = true ∧
    descMisaligned (nth (engKit.me.blockWords 16 4) 2 0) = false := by decide +kernel

/-- The same: a CPYM whose follow-on MMA is empty, and a full operation buffer. -/
theorem witness_engine_follow :
    cpyForm 0 false true (engKit.me.blockWords 4 12) = false ∧
    mmaBad engKit.me (engKit.block engKit.anchorBlk) ((withK engKit [(12, 0), (13, 0), (14, 0), (15, 0)]).me.blockWords 12 4) = false ∧
    (∀ m, OpKind.kvld ≠ .qfen m) := by
  refine ⟨by decide +kernel, by decide +kernel, by simp⟩

/-- An operation of the kit's group. -/
def someOp : Op := ⟨70, .cpy 0 false, 0, 1, 1, 0, 1, 0, 0, 0, 3, [0, 0, 0, 0, 0, 0, 0x40000000, 0], [], none, 8, 0, 0, [0], [], .queued, 0, 0, [1],
  Party.empty 70, Party.empty 1, Ev.none, false, none, 0, false, none⟩

/-- The buffer of a station holds 512 operations. -/
theorem witness_buffer_full : ({ engKit with ops := List.replicate 512 someOp } : State).bufferFull 1 = true ∧
    ({ engKit with ops := List.replicate 511 someOp } : State).bufferFull 1 = false := by decide +kernel

/-- An MMA of the kit's group in batch 0. -/
def someMma : Mma := ⟨71, 1, 1, 1, 0, 0, 0, 0, 0, [0, 0, 0, 0], none, none, none, Party.empty 71, [0], false, 0, 0, [], 0, none⟩

/-- MatrixCommands: a reservation that fits its block to the byte, a busy slot, an MMA with and without valid fields, batches at both ends
of the window, tiles at both ends. -/
theorem witness_matrix :
    (let s := withK kit [(5, 256), (6, 0x0C), (9, 3840), (10, 256)]
     mresBad (s.block s.anchorBlk).sb (mresOf (kVal s.me 4) (kVal s.me 5) (kVal s.me 6) (kVal s.me 7)) (kVal s.me 6) = false ∧
     mresBad (s.block s.anchorBlk).sb (mresOf (kVal s.me 9) (kVal s.me 10) (kVal s.me 6) (kVal s.me 7)) (kVal s.me 6) = false ∧
     s.kPoison [(4, 2), (6, 2)] = false ∧ ((nth s.me.slots 0 none).isSome && s.slotBusy s.me.uid 0) = false) ∧
    (let s : State := { (kit.onMe fun g => { g with slots := some ⟨0, 256, 0x0C, false, 0, false, 0⟩ :: List.replicate 7 none, openBatch := 1 }) with mmas := [someMma] }
     ((nth s.me.slots 0 none).isSome && s.slotBusy s.me.uid 0) = true ∧ s.queueOf s.me.uid ≠ [] ∧
     s.me.batchAge 0 = 1 ∧ ((s.queueOf s.me.uid).any fun m => m.clears.isNone && s.me.waitedFor 1 m.batch) = true ∧
     s.me.batchAge 1 = 0 ∧ s.me.batchAge (65536 + 1 - 32768) = 32768 ∧ s.me.batchAge (65536 + 1 - 32767) = 32767) ∧
    mmaBad kit.me (kit.block kit.anchorBlk) (kit.me.blockWords 4 4) = false ∧
    mmaBad kit.me (kit.block kit.anchorBlk) ((withK kit [(4, 0x4000)]).me.blockWords 4 4) = true ∧ kit.bufferFull 1 = false ∧
    ((kit.queueOf kit.me.uid).any fun m => m.clears.isNone && kit.me.waitedFor 1 m.batch) = false ∧
    (kit.block kit.anchorBlk).tiles.length = 1 ∧ kit.blocks = [launchBlock] ∧ kit.anchorBlk = launchBlock.uid ∧
    kit.queueOf kit.me.uid = [] ∧ kit.mmas = [] := by decide +kernel

/-- A second group of the kit's block, on another pipe. -/
def other : Group := { kit.me with
  uid := 2
  pipe := 1
  gslot := 1
  lanes := some { launchThread 32 with party := Party.empty 40 } :: List.replicate 31 none }

/-- BarrierCommands: a barrier that the group completes, one that another group holds open, numbers at the bounds. -/
theorem witness_barriers :
    (kit.barMisuse 1 15 true = false ∧ kit.barMisuse 1 15 false = false ∧ barNumbers 0 = 4 ∧ kit.barMisuse 0 4 true = true ∧
      kit.barMisuse 0 3 true = false) ∧
    ((lanesOf kit.me.cur).any fun i => kit.arrivalOpen 1 0 i) = false ∧ kit.me.park ≠ some (.barrier 1 0) ∧
    (let t := kit.arriveAll 1 0
     ((lanesOf t.me.cur).any fun i => t.arrivalOpen 1 0 i) = false) ∧
    (let s : State := { kit with groups := [other] }
     let t := s.arriveAll 1 0
     ((lanesOf t.me.cur).any fun i => t.arrivalOpen 1 0 i) = true ∧ s.barMisuse 1 0 true = false ∧ t.barMisuse 1 0 true = true ∧
     t.barMisuse 1 0 false = false) := by decide +kernel

/-- BarrierCommands: each condition of R67; an arrival alone and one that waits for another group; a phase that the arriver closed, and
none to receive. -/
theorem witness_barrier_phases :
    (let task := kit.onMe fun g => { g with task := true }
     task.barMisuse 1 0 false = true ∧ kit.barMisuse 1 0 false = false ∧ kit.barMisuse 2 8 false = true ∧ kit.barMisuse 2 7 false = false ∧
     kit.barMisuse 3 0 false = false ∧ kit.barMisuse 3 4 false = true ∧ ({ kit with grids := [launchGrid] } : State).barMisuse 3 0 false = true) ∧
    (kit.me.lane 0).isSome = true ∧
    (let b : Barrier := ⟨1, 1, 1, 0, 0, [], []⟩
     kit.barrier 1 1 1 0 = b ∧ ((kit.me.thread 0).arrivals.filter fun x => decide (x.level = 1 ∧ x.num = 0)) = []) ∧
    (let t := kit.arriveOne 1 0 0
     t.barrier 1 1 1 0 = { (t.barrier 1 1 1 0) with phase := 0 } ∧ (t.barrier 1 1 1 0).arrived ≠ [] ∧
     (t.liveThreads 1).all (fun x => x.arrivals.contains ⟨1, 1, 0, 0⟩) = true ∧
     (let u := t.checkBarrier (t.barrier 1 1 1 0)
      (u.barrier 1 1 1 0).phase = 1 ∧ (((u.barrier 1 1 1 0).edges.find? fun y => y.1 == 0).map fun y => y.1) = some 0 ∧
      ((u.me.thread 0).arrivals.filter fun x => decide (x.level = 1 ∧ x.num = 0)) = [⟨1, 1, 0, 0⟩])) ∧
    (let t := ({ kit with groups := [other] } : State).arriveOne 1 0 0
     (t.barrier 1 1 1 0).arrived ≠ [] ∧ (t.liveThreads 1).all (fun x => x.arrivals.contains ⟨1, 1, 0, 0⟩) = false) := by decide +kernel

/-- SlotCommands: an unset ring, an idle one, one with an index to take on each side, and the three outcomes of each return. -/
theorem witness_slots :
    ((kit.ring 1 0).n = 0 ∧ kit.kPoison [(4, 1)] = false ∧ (kit.block kit.anchorBlk).rings ≠ []) ∧
    (let x : Ring := ⟨4, 2, 1, 0, 5, [], []⟩
     x.ap ≠ x.free ∧ x.ac ≠ x.full ∧ x.tryFull 1 = .go ∧ x.tryFull 2 = .misuse ∧ x.tryFull 0 = .misuse ∧
     (⟨100, 90, 1, 0, 100, [], []⟩ : Ring).tryFull 65 = .wait ∧ (⟨100, 90, 1, 0, 100, [], []⟩ : Ring).tryFull 64 = .go) ∧
    (let x : Ring := ⟨4, 5, 5, 3, 5, [], []⟩
     x.ap = x.free ∧ x.tryFree 1 = .go ∧ x.tryFree 2 = .go ∧ x.tryFree 3 = .misuse ∧ x.tryFree 0 = .misuse ∧
     (⟨100, 90, 90, 90, 100, [], []⟩ : Ring).tryFree 64 = .wait) ∧
    (let x := Ring.fresh
     x.ap = x.full ∧ x.full = x.ac ∧ x.ac = x.free - x.n ∧ x.pubFull = []) ∧
    (let x : Ring := ⟨4, 1, 1, 0, 4, [], []⟩
     x.full ≠ x.ac ∧ (⟨4, 1, 0, 0, 4, [], []⟩ : Ring).ap ≠ (⟨4, 1, 0, 0, 4, [], []⟩ : Ring).full) ∧
    (65536 : Word).toNat ≤ 65536 ∧ 65536 < (65537 : Word).toNat := by decide +kernel

/-- TimedWaits: a word that meets its condition, one that does not with a deadline that has passed, that is to come, and none. -/
theorem witness_waita :
    kit.checkSpad kit.anchorBlk ((kVal kit.me 4).toNat % 2 ^ 24) 4 .read = .ok (.spad 1 0) ∧ kit.kPoison [(4, 1), (6, 2)] = false ∧
    waitaCond 0 (kit.waitaWord (.spad 1 0)) (kVal kit.me 6) = true ∧ waitaCond 1 (kit.waitaWord (.spad 1 0)) (kVal kit.me 6) = false ∧
    kit.waitaDeadlineOf ⟨4, 6, 0, none⟩ = some kit.now ∧ (withK kit [(7, 1)]).waitaDeadlineOf ⟨4, 6, 0, none⟩ = some (kit.now + 1) ∧
    (withK kit [(7, 0xFFFFFFFF)]).waitaDeadlineOf ⟨4, 6, 0, none⟩ = none := by decide +kernel

/-- GridCommands: no grid, a live one, a completed one, a rejected one, a phase that has ended; PHEND before and after its arrival. -/
theorem witness_grids :
    (let s : State := { kit with grids := kit.grids ++ [{ launchGrid with handle := 2, state := 4 }, { launchGrid with handle := 3, state := 5 }] }
     let found (h : Nat) := s.grids.find? fun g => decide (g.handle = h ∧ g.ctx = s.myCtx ∧ g.handle ≠ 0) && (g.named || decide (s.me.park = some .gwait))
     s.kPoison [(4, 2)] = false ∧ found 0 = none ∧ found 9 = none ∧ (found 1).map (fun g => g.isLive) = some true ∧
     (found 2).map (fun g => (g.isLive, g.state)) = some (false, 4) ∧ (found 3).map (fun g => (g.isLive, g.state)) = some (false, 5) ∧
     (found 1).map (fun g => wrapGe (BitVec.ofNat 32 g.phases) (kVal s.me 5)) = some true) ∧
    kit.me.park = none ∧ kit.phendMisuse = false ∧ ({ kit with grids := [launchGrid] } : State).phendMisuse = true ∧
    (kit.onMe fun g => { g with park := some (.phend 0) }).me.park = some (.phend 0) ∧ 0 ≤ (kit.grid kit.me.grid).phases ∧
    (kit.grid kit.me.grid).phases < 1 ∧ recordAddr 0x300000 256 = none ∧
    (match kit.readRecord { Party.empty 0 with view := mergedView (kit.edge (kit.me.laneSenders kit.me.cur) []) } 0x300000 256 with
     | .ok r => decide (r.length = 256)
     | .error _ => false) = true ∧
    kit.rcbLive (kit.placeKey kit.myCtx 0x300000) = false ∧ kit.freeHandle = some 2 ∧
    ({ kit with grids := [{ launchGrid with rcb := 0x4300000 }] } : State).rcbLive 0x4300000 = true ∧
    (let s (e : Option Edge) := kit.onMe fun g => { g with park := some (.gwaitOver e) }
     (s none).me.park = some (.gwaitOver none) ∧ (s (some ⟨[], [], none⟩)).me.park = some (.gwaitOver (some ⟨[], [], none⟩)) ∧
     (s none).kPoison [(4, 2)] = false ∧ (s (some ⟨[], [], none⟩)).kPoison [(4, 1)] = false) ∧
    kit.glnchWaits kit.myCtx (kit.grid kit.me.grid).rcbVa 0x300000 0x300000 none = none ∧
    kit.glnchWaits kit.myCtx 0 0x300000 0x300000 (some (.error (.pri 0x30 0x300000))) = some (.pri 0x30 0x300000) := by decide +kernel

/-- Every handle may be in use. -/
theorem witness_no_handle (s : State) (h : s.grids = (List.range 4095).map fun i => { launchGrid with handle := i + 1 }) :
    s.freeHandle = none := by
  simp only [State.freeHandle, List.find?_eq_none, List.mem_map, List.mem_range]
  rintro x ⟨i, hi, rfl⟩
  simp only [State.handleUsed, h, List.any_map, Bool.not_eq_true', Bool.not_eq_false, List.any_eq_true, List.mem_range]
  exact ⟨i, hi, by simp [Grid.isLive, launchGrid]⟩

/-- A held item of a fault, and one of TRAP_INSN. -/
def someHeld (resumable : Bool) : Held := ⟨9, resumable, [(0x05, 0, 0)], 1, 0, false, []⟩

/-- ReplayableTrap: an item held again, after 15 replays and after fewer; FatalTrap: a queue with room, with none and FATAL free, and
with none and FATAL full. -/
theorem witness_trap_records :
    (let h : Held := { someHeld false with replays := 15 }
     h.replays = 15 ∧ (kit.onMe fun g => { g with heldItem := some h }).me.heldItem = some h ∧ (someHeld false).replays ≠ 15) ∧
    (let s : State := { kit with queues := setNth kit.queues 0 ⟨0x40001, 0, 4087, 0⟩ }
     9 ≤ queueFree (s.queue 0) ∧ 0 < queueFree ((s.refreshQueue 0 1).queue 0) ∧ 0 < s.queues.length ∧
     ((s.refreshQueue 0 1).queue 0).base.getLsbD 63 = false ∧
     accessOk (s.refreshQueue 0 1) ((0x40000 + 64 * 4087) / 4096 % 8) hubMaster (0x40000 + 64 * 4087) .write = true) ∧
    queueFree ((kit.refreshQueue 0 1).queue 0) = 0 ∧ kit.fatalV = false ∧ ({ kit with fatalV := true } : State).fatalV = true := by
  decide +kernel

/-- ReplayableTrap: an enabled queue in device memory with 9 free entries; FatalTrap: a domain with a live grid. -/
theorem witness_traps :
    (let s : State := { kit with queues := setNth kit.queues 0 ⟨0x40001, 0, 4087, 0⟩ }
     replayable 0x05 = true ∧ s.me.heldItem = none ∧ (s.ctx s.myCtx).fn < s.queues.length ∧ (s.queue 0).base.getLsbD 0 = true ∧
     (s.queue 0).base.getLsbD 63 = false ∧ queueFree (s.queue 0) = 9 ∧ s.unrecorded = [] ∧ s.sec.trBase.getLsbD 0 = false ∧
     accessOk s ((0x40000 + 64 * 4087) / 4096 % 8) hubMaster (0x40000 + 64 * 4087) .write = true ∧ Memory.wf s.hbm = true) ∧
    (kit.gridsOf 0).contains kit.me.grid = true ∧ (0x01 : Nat) ∈ [0x01, 0x02] ∧ kit.debugLevel kit.myCtx ≠ 2 ∧
    ({ kit with sec := { kit.sec with dbgLvl := 2 } } : State).debugLevel kit.myCtx = 2 := by decide +kernel

/-- SystemFunctions: a PREF of a line that is present, of one on its way, of one to fetch, of one that does not translate, and of a poisoned
pair; an HFLUSH of nothing, of a range, and of one beyond the address space; a placed block whose events FSTAT reads. -/
theorem witness_system :
    (let w : UF := ⟨2, 511, none⟩
     kit.kPoison [(2, 2)] = false ∧ kit.prefTarget w = 0 ∧ kit.hasLine (stationOf kit.me.core) kit.myCtx (lineOf 0) = true ∧
     (let s := withK kit [(2, 128)]
      s.prefTarget w = 128 ∧ s.hasLine (stationOf s.me.core) s.myCtx (lineOf 128) = false ∧
      s.fillDue (stationOf s.me.core) s.myCtx (lineOf 128) = none ∧
      (match translate s s.myCtx (s.master s.me.grid) 128 .fetch with | .ok _ => true | _ => false) = true ∧
      (({ s with fills := [(0, 0, 1, 160)] } : State).fillDue 0 0 1).isSome = true) ∧
     (match translate kit kit.myCtx (kit.master kit.me.grid) 0x10000000 .fetch with | .ok _ => true | _ => false) = false ∧
     ({ kit with poison := [.kreg 0 0 1] } : State).kPoison [(2, 2)] = true) ∧
    (let s (lo hi len : Word) : State := withK kit [(2, lo), (3, hi), (4, len)]
     let bad : State := { s 0 0 64 with poison := [.mem (0x10000 / 8)] }
     (s 0 0 0).kPoison [(2, 2), (4, 1)] = false ∧ (kVal (s 0 0 0).me 4).toNat = 0 ∧ (kVal (s 0 0 0).me 511).toNat = 0 ∧
     (kPair (s 0 0x01000000 1).me 2).toNat = 2 ^ 56 ∧ (kPair (s 0xFFFFFFFF 0x00FFFFFF 1).me 2).toNat + 1 = 2 ^ 56 ∧
     (s 0 0 64).flushPoison 0 64 = none ∧ bad.flushPoison 0 64 = some 0 ∧ bad.kPoison [(2, 2), (4, 1)] = false) ∧ kit.anchorBlk ≠ 0 ∧
    kit.blocks.map (fun b => b.uid) = [kit.anchorBlk] ∧ kit.myCtx < kit.ctxs.length := by decide +kernel

/-- ReplayAndResume: a group held by a fault, one held by TRAP_INSN, and a token that names nothing. -/
theorem witness_held :
    (let s (r : Bool) := kit.onMe fun g => { g with park := some .held, heldItem := some (someHeld r) }
     ((s false).heldGroup 0 9).map (fun g => g.forResume) = some false ∧ ((s true).heldGroup 0 9).map (fun g => g.forResume) = some true ∧
     ((s true).heldGroup 0 8).isNone = true ∧ ((s true).heldOp 0 8).isNone = true ∧ (s true).me.heldItem = some (someHeld true) ∧
     (let o : Op := { someOp with stage := .heldFault, heldItem := some (someHeld false) }
      let u : State := { kit with ops := [o] }
      u.heldGroup 0 9 = none ∧ u.heldOp 0 9 = some o)) := by
  decide +kernel

/-- A waiting group, a bin of the kit's grid. -/
def someBin : TaskBin := ⟨0, 1, 8, 0, [⟨{ launchThread 0 with task := true }, 0, 0, 0, 0, 0⟩]⟩

/-- WaitingGroupEvents: each event's group, at the times where the event is due; a line on its way; a waiting group and an evicted one that
have room. -/
theorem witness_waiting_events :
    (let s (p : Park) : State := { (kit.onMe fun g => { g with park := some p }) with now := 1400 }
     ((s (.future 1 true)).groupAt 0 0).map (fun g => (g.park, decide (g.readyAt + 1400 ≤ 1400))) = some (some (.future 1 true), true) ∧
     ((s (.waita (some 1400))).groupAt 0 0).map (fun g => g.park) = some (some (.waita (some 1400)))) ∧
    (let s (n : Nat) : State := { (kit.onMe fun g => { g with park := some .opBuffer, insn := some (.qfen ⟨4, 0, 0, none⟩) }) with
       ops := List.replicate n someOp }
     ((s 511).groupAt 0 0).map (fun g => (g.park, g.insn)) = some (some .opBuffer, some (.qfen ⟨4, 0, 0, none⟩)) ∧
     ((s 511).select 1).bufferFull 1 = false ∧ ((s 512).select 1).bufferFull 1 = true ∧
     ((s 511).groupAt 0 0) = some ((s 511).select 1).me ∧ nth kit.power.cur 0 0 = 0 ∧ nth kit.power.dieOff 0 false = false) ∧
    kit.buffered (stationOf 0) < 512 ∧ kit.hasLine 0 0 0 = true ∧ (kit.icache.filter fun x => x.1 == 0).length < 4096 ∧
    ((0, 1) ∈ ({ kit with trackers := [(0, 1)] } : State).trackers ∧ kit.ops = []) ∧
    (let s : State := { kit with now := 64, bins := [someBin] }
     s.bins[0]? = some someBin ∧ someBin.kids.head?.map (fun c => c.at_ + 64) = some s.now) ∧
    (let s : State := { kit with waiting := [other], me := Group.empty }
     s.choosePipe (s.grid other.grid).word (s.eligible other) = some (0, 0) ∧ nth s.power.cur (stationOf other.core) 0 = 0 ∧
     nth s.power.dieOff (stationOf other.core / 8) false = false ∧ s.restorable other = true ∧ s.waiting[0]? = some other) ∧
    (let g : Group := { other with task := true }
     let s : State := { kit with waiting := [g], images := [other] }
     s.taskFirst g = true ∧ (s.choosePipe (s.grid g.grid).word (s.eligible g)).isSome = true ∧ s.waiting[0]? = some g ∧
     s.images[0]? = some other ∧ other.park = none ∧ s.restorable other = true ∧ s.imagePoison other = false) ∧ kit.me.uid ≠ 0 := by
  decide +kernel

/-- StationDetectors: a station whose one group is parked on a barrier, with waiting work and without, and parked on something outside;
a station that is not all parked; a pre-emption asked for 100 µs ago, and one clk less. -/
theorem witness_detectors :
    (let s : State := kit.onMe fun g => { g with park := some (.barrier 1 0) }
     s.allParked 0 = true ∧ s.waitingWork 0 = [] ∧ s.stationWaits 0 = false ∧ (s.stationGroups 0).map (fun g => s.fdOf g.grid) = [0] ∧
     ({ s with waiting := [other] } : State).waitingWork 0 ≠ [] ∧ ({ s with waiting := [other] } : State).allParked 0 = true ∧
     (s.resident ++ s.waiting).map (fun x => x.uid) = [1]) ∧
    (let s : State := kit.onMe fun g => { g with park := some .gwait }
     s.allParked 0 = true ∧ s.waitingWork 0 = [] ∧ s.stationWaits 0 = true) ∧ kit.allParked 0 = false ∧
    (let s : State := { kit with asked := [(0, 0, 0)], now := 140000, blocks := [{ launchBlock with bind := some (0, 0) }] }
     let gs := s.stationGroups 0 ++ (s.engineGroups 0 ++ s.binGroups 0)
     s.unquiet 0 0 = true ∧ 0 + 140000 ≤ s.now ∧ gs ≠ [] ∧ gs.map (fun g => s.fdOf g.grid) = [0] ∧
     ({ s with now := 139999 } : State).now < 0 + 140000) := by decide +kernel

/-- A bind record of grid 1: blocks from 0 up, station 0, all four cores. -/
def someBind (count stat prio slice : Nat) : Bind :=
  { v := true, gng := false, cmask := 15, prio := prio, handle := 1, first := 0, count := count, word := 0x063C4320, slice := slice,
    gang := 7, stat := stat, ctx := 0, start := 0 }

/-- A machine whose grid has two blocks, of which none is placed yet. -/
def unplaced : State := { kit with
  me := Group.empty
  blocks := []
  grids := [{ launchGrid with state := 2, dims := (2, 1, 1), placed := 0 }]
  binds := [(0, 0, (someBind 2 0 3 9).bytes)] }

/-- BlockPlacement: a first block, a saved one, and a co-resident grid that fits at once and one of more blocks than there is room for. -/
theorem witness_placement :
    ((unplaced.placeable 0 0).isSome = true ∧ unplaced.serves 0 0 = true ∧ nth unplaced.power.cur 0 0 = 0 ∧
     nth unplaced.power.dieOff 0 false = false ∧ (unplaced.grid 1).flags.getLsbD 0 = false ∧ (unplaced.blockAt 1 0).isNone = true) ∧
    (let s : State := { unplaced with blocks := [{ launchBlock with saved := true }] }
     (s.placeable 0 0).isSome = true ∧ (s.blockAt 1 0).isSome = true) ∧
    (let s : State := { unplaced with grids := [{ launchGrid with state := 2, flags := 3, dims := (40000, 1, 1), placed := 0 }] }
     (s.placeable 0 0).isSome = true ∧ s.serves 0 0 = true ∧ (s.grid 1).flags.getLsbD 0 = true ∧ s.fitsAtOnce (s.grid 1) = false) ∧
    (∃ g : Grid, 6 ≤ g.kn) ∧
    (let wide : Grid := { launchGrid with state := 2, flags := 3, dims := (40000, 1, 1), placed := 0, gslots := 1, groups := 2 }
     let s : State := { unplaced with grids := [wide] }
     s.placeable 0 0 = none ∧ (s.bind 0 0).live = true ∧ (s.bind 0 0).start ≤ s.now ∧ s.bindable 0 = true ∧ (s.nextOf (s.bind 0 0)).isSome = true ∧
     (s.grid 1).state = 2 ∧ (s.grid 1).flags.getLsbD 0 = true ∧ s.fitsAtOnce (s.grid 1) = false) ∧
    (let s : State := { unplaced with now := 5, binds := [(0, 0, { someBind 2 0 3 9 with start := 9 }.bytes)] }
     s.placeable 0 0 = none ∧ ¬(s.bind 0 0).start ≤ s.now) ∧
    (unplaced.freeSpad (unplaced.grid 1) 0).isSome = true ∧ (unplaced.freeTiles (unplaced.grid 1) 0).isSome = true := by
  refine ⟨by decide +kernel, by decide +kernel, by decide +kernel, ⟨launchGrid, by decide +kernel⟩, by decide +kernel, by decide +kernel,
    by decide +kernel, by decide +kernel⟩

/-- RetirementAndSweeps: a block whose threads have ended; a grid with a full phase and one without; a grid that is over. -/
theorem witness_retirement :
    (let s : State := { kit with me := Group.empty }
     (s.blocks.find? fun x => x.uid == 1) = some launchBlock ∧ s.blockOver launchBlock = true) ∧
    (kit.grids.length = 1 ∧ kit.grids.all (fun g => g.isLive && !kit.phaseFull g) = true) ∧
    (let s : State := { (kit.onMe fun g => g.onLanes 1 fun _ t => { t with phaseArr := 1 }) with grids := [launchGrid] }
     s.phaseFull launchGrid = true ∧ s.twoSweeps launchGrid = false ∧ launchGrid.isLive = true ∧
     (let g : Grid := { launchGrid with flags := 3, lastSweep := some (4, 4), nodes := [⟨0, 4, 4⟩] }
      ({ s with grids := [g] } : State).twoSweeps g = true ∧ ({ s with grids := [g] } : State).phaseFull g = true)) ∧
    (let g : Grid := { launchGrid with doneBlocks := [0] }
     let s : State := { kit with me := Group.empty, grids := [g], blocks := [] }
     (s.grids.find? fun x => x.handle == g.handle) = some g ∧ s.gridOver g = true) ∧
    (let done : Grid := { launchGrid with handle := 2, doneBlocks := [0] }
     let s : State := { (withK kit [(4, 2)]).onMe (fun g => { g with park := some .gwait, insn := some (.gwait ⟨4, 0, none⟩) }) with
       grids := [launchGrid, done] }
     s.gridOver done = true ∧ s.me ∈ s.resident ∧ s.me.gwaits = some (2, none) ∧ (s.grid s.me.grid).ctx = done.ctx) := by decide +kernel

/-- SlicesAndGangs: a slice that is over at its last clk; a record that has waited 140,000 clk, with room, and without room beside a record
of lower priority; pending records; a member that is late. -/
theorem witness_slices :
    (let s : State := { kit with binds := [(0, 0, (someBind 2 1 3 1).bytes)], now := 1400 }
     (s.bind 0 0).live = true ∧ (s.bind 0 0).stat = 1 ∧ (s.bind 0 0).slice ≠ 0 ∧ s.bindTime 0 0 + (s.bind 0 0).slice * 1400 ≤ s.now ∧
     (let bs := s.blocks.filter fun x => !x.saved && decide (x.bind = some (0, 0))
      ((s.quiesce 0 (s.grid 1) (bs.map fun x => x.uid)).bind 0 0).live = true ∧ imagePages (s.grid 1) bs ≤ ((s.quiesce 0 (s.grid 1) (bs.map fun x => x.uid)).ctx 0).poolLeft)) ∧
    (let s : State := { unplaced with now := 140000 }
     (s.bind 0 0).live = true ∧ (s.bind 0 0).stat = 0 ∧ s.bindTime 0 0 + 140000 ≤ s.now ∧ (s.placeable 0 0).isSome = true) ∧
    (let s : State := { unplaced with
       now := 140000, power := { unplaced.power with cur := 3 :: List.replicate 31 0 },
       binds := [(0, 0, (someBind 2 0 3 9).bytes), (0, 1, (someBind 2 1 2 9).bytes)], fleet := { unplaced.fleet with quar := List.replicate 128 true } }
     (s.bind 0 0).live = true ∧ (s.placeable 0 0) = none ∧ (s.nextOf (s.bind 0 0)).isSome = true ∧ s.bindTime 0 0 + 140000 ≤ s.now ∧
     s.victim 0 (s.bind 0 0).prio = some 1 ∧
     ({ s with binds := [(0, 0, (someBind 2 0 3 9).bytes)] } : State).victim 0 (s.bind 0 0).prio = none ∧
     ({ s with binds := [(0, 0, (someBind 2 0 3 9).bytes)] } : State).placeable 0 0 = none) ∧
    (let s : State := { unplaced with now := 5, binds := [(0, 0, { someBind 2 0 3 9 with start := 9 }.bytes)] }
     s.now < (s.bind 0 0).start) ∧
    (let s : State := { unplaced with grids := [{ launchGrid with state := 2, dims := (2, 1, 1), placed := 0, gslots := 1, groups := 2 }] }
     s.nextOf (s.bind 0 0) = some 0 ∧ s.withinBudget (s.grid (s.bind 0 0).handle) (s.groupsOf (s.grid (s.bind 0 0).handle) 0) = false) ∧
    unplaced.nextOf (unplaced.bind 0 0) = some 0 ∧
    unplaced.withinBudget (unplaced.grid (unplaced.bind 0 0).handle) (unplaced.groupsOf (unplaced.grid (unplaced.bind 0 0).handle) 0) = true ∧
    ([((0 : Nat), (0 : Nat))].Nodup ∧ (unplaced.bind 0 0).live = true ∧ (unplaced.bind 0 0).stat = 0 ∧
     unplaced.now + 140000 ≤ 140000 ∧ 139999 < unplaced.now + 140000) ∧
    (let s : State := { unplaced with binds := [(0, 0, { someBind 2 0 3 9 with gng := true }.bytes)], now := 50 * 1400 + 1 }
     (0, 0) ∈ s.gangRecords 7 ∧ (s.bind 0 0).stat = 0 ∧ (s.bind 0 0).start + s.gangTol * 1400 < s.now) := by decide +kernel

/-- OperationEvents: a queued operation that is ready, a marker, a running one with and without a stop, one that publishes. -/
theorem witness_operations :
    (let s : State := { kit with ops := [someOp] }
     s.op someOp.id = some someOp ∧ someOp.stage = .queued ∧ s.opReady someOp = true ∧ s.still someOp.blk = false ∧ someOp.began = false ∧
     nth s.power.cur (stationOf someOp.core) 0 ≠ 3 ∧ s.freeEngine someOp = some 0 ∧ descP someOp.desc.1 = false ∧ descZ someOp.desc.1 = true ∧
     someOp.heldItem = none ∧
     s.poison = [] ∧ .engineRec someOp.id 0 ∈ ({ s with poison := [.engineRec someOp.id 0] } : State).poison ∧
     (let o : Op := { someOp with began := true }
      let u : State := { s with ops := [o] }
      u.op o.id = some o ∧ u.opReady o = true ∧ u.freeEngine o = some 0)) ∧
    (let o : Op := { engKit.me.blockWords 4 8 |> fun c => { someOp with cmd := c, stage := .running } with
       record := Memory.bytes engKit.hbm 0x4200000 192 }
     let s : State := { engKit with ops := [o] }
     s.op o.id = some o ∧ (s.opRun o).stop = none) ∧
    (let o : Op := { someOp with kind := .kvld, stage := .running, cmd := [0, 0, 0, 1, 0, 0x40000000, 0, 0] }
     let s : State := { kvKit with ops := [o], hbm := kitMemory, grids := kvKit.grids.map fun g => { g with snapMem := kitMemory } }
     (match (s.opRun o).stop with | some (.fault _ _ _) => true | _ => false) = true) := by decide +kernel

theorem witness_operation_kinds : (∃ m, OpKind.qfen 3 = .qfen m) ∧ (∀ m, OpKind.cpy 0 false ≠ .qfen m) ∧
    (∀ c, OpKind.cpy 0 false ≠ .kvst c) ∧ ({ someOp with stage := .publishing } : Op).stage = .publishing := by
  refine ⟨⟨3, rfl⟩, by simp, by simp, rfl⟩

/-- MmaEvents: an idle array with a head; an MMA with K-blocks to do, with and without poison; one whose rows are written, with 8 rows
left and with more. -/
theorem witness_mmas :
    (let s : State := { kit with mmas := [{ someMma with cmd := [0x00010000, 0, 0x4040, 0] }] }
     s.nextMma 0 = some { someMma with cmd := [0x00010000, 0, 0x4040, 0] }) ∧
    (let m : Mma := { someMma with running := true, cmd := [0x00010000, 0, 0x4040, 0], a := some ⟨0, 256, 0x0C, false, 0, false, 0⟩,
                                   b := some ⟨256, 256, 0x0C, true, 0, false, 0⟩ }
     let s : State := { kit with mmas := [m] }
     s.stepping 0 = some m ∧ s.stepPoison m m.kdone = none ∧ s.firstWriteback 0 = none ∧ m.clears = none ∧ m.rows < mmaM m.cmd ∧
     m.rows + 8 < mmaM m.cmd ∧ s.cellPoison m = false ∧ (∀ i, i < mmaKb m.cmd - m.kdone → s.stepPoison m (m.kdone + i) = none) ∧
     (let u : State := { s with poison := [.spad 1 0] }
      u.stepPoison m m.kdone = some 0 ∧ u.mmaPoison m (mmaKb m.cmd - m.kdone) = some 0) ∧
     ({ s with poison := [.row 1 0 0 0] } : State).cellPoison { m with cmd := [0, 0, 0x4040, 0] } = true ∧
     (let d : Mma := { m with kdone := 1, rows := 56 }
      ({ kit with mmas := [d] } : State).firstWriteback 0 = some d ∧ mmaM d.cmd ≤ d.rows + 8)) := by decide +kernel

/-- A device that runs, in which the host may write every register: masters 128 and 148 at their reset apertures. -/
def hostKit : State := { kit with access := (136 * 32, 0xF) :: (136 * 32 + 1, 0x00FFFFFFFFFFF000) :: (10 * 8192 + 136 * 32, 0xF) ::
  (10 * 8192 + 136 * 32 + 1, 0x00FFFFFFFFFFF000) :: kit.access }

theorem takesWrite_of {s : State} {fn off : Nat} (h : (s.regUp off && accessOk s 8 (hostMaster fn) off .write) = true) :
    s.takesWrite fn off := by simpa [State.takesWrite] using h

/-- RingCommands: an empty arm slot and an armed one, a command slot that nothing was written to and one that holds a REPLAY. -/
theorem witness_rings :
    hostKit.hostUp = true ∧ Memory.num hostKit.window 0 8 % 2 = 0 ∧ (hostKit.ctx 0).cmdFull.getLsbD (hostKit.ctx 0).cmdNext = false ∧
    (let s : State := { hostKit with window := (Memory.putBytes [] 0 (natLe 0x300001 8)).putBytes 0x200 (natLe (2 ^ 60 + 9 * 2 ^ 32) 8) }
     Memory.num s.window 0 8 % 2 = 1 ∧ ((s.markCmds 0 0x200 8).ctx 0).cmdFull.getLsbD 0 = true ∧ (s.ctx 0).cmdNext = 0 ∧
     0 < s.ctxs.length) ∧
    (0x300000 % 256 = 0 ∧ 2 ^ 56 ≤ 2 ^ 56 ∧ (2 ^ 56) % 256 = 0) ∧
    (accessOk hostKit 9 148 0x200 .read = true ∧ accessOk hostKit 9 148 0x200 .write = true ∧
     (let s : State := { hostKit with
        access := (9 * 8192 + 2 * 148, 0) :: (9 * 8192 + 2 * 148 + 1, 0) :: (9 * 8192 + 148 * 32, 0) :: hostKit.access
        ctxs := { launchCtx with cmdFull := 1 } :: hostKit.ctxs.drop 1
        window := Memory.putBytes [] 0x200 (natLe 5 8) }
      accessOk s 9 148 0x200 .read = false ∧ accessOk s 9 148 0x200 .write = false ∧ (s.readSlot 0x200).1 = 0 ∧
      (s.ctx 0).cmdFull.getLsbD (s.ctx 0).cmdNext = true)) := by decide +kernel

/-- The same with a context table behind CTXBASE: context 0 valid, its tables those of the kit. -/
def armKit : State := { hostKit with
  ctxBase := 0x500001
  hbm := Memory.putBytes hostKit.hbm 0x500000 (natLe 0x10001 8) }

/-- RingCommands: an arm of a record that is too far, of a valid one that is live, and of a valid one with a free handle; an arm that the
hub can take at once, and one whose record the host must page in. -/
theorem witness_arm :
    (let s := (armKit.readCtx 0).syncPages 0
     (s.ctx 0).valid = true ∧ ((hostKit.readCtx 1).ctx 1).valid = false ∧
     (match s.hubRead 0 0x300000 256 with
      | (some _, t) => decide (t.rcbLive (t.placeKey 0 0x300000) = false ∧ t.freeHandle = some 2)
      | _ => false) = true ∧
     (match ({ s with grids := [{ launchGrid with rcb := 0x4300000 }] } : State).hubRead 0 0x300000 256 with
      | (some _, t) => t.rcbLive (t.placeKey 0 0x300000)
      | _ => false) = true) ∧
    armKit.armBlocked 0 0x300001 = none ∧
    (let s : State := { armKit with hbm := Memory.putBytes armKit.hbm 0x14000 (natLe 0x107 8), noAts := [0x30] }
     s.armBlocked 0 0x300001 ≠ none) := by decide +kernel

/-- HubRegisters, RegisterWrites: registers that take a write, at both ends of each array, and one that the access table denies. -/
theorem witness_registers :
    (∀ off, off ∈ [0x20000, 0x40000, 0x40000 + 16 * 63, 0x50000, 0x50000 + 512 * 7 + 16 * 31, 0x100240, 0x10000, 0x30000, 0x100300, 0x100308,
      0x4019B0, 0x401A00, 0x100000, 0x100008 + 64 * 7, 0x480000, 0x480000 + 8 * (23 * 8192 - 1), 0x10004, 0x30004, 0x401A04, 0x60010,
      0x60010 + 32 * 11, 0x400008, 0x400040, 0x401040, 0x401900, 0x401980, 0x401988, 0x4019A0, 0x4019A8, 0x403000, 0x403100, 0x4031F8,
      0x403200, 0x403218, 0x202008, 0x202008 + 16 * 127, 0x200438, 0x200438 + 64 * 63, 0x200098, 0x2000A0] → hostKit.takesWrite 0 off) ∧
    (let s : State := { hostKit with access := (8 * 8192 + 128 * 32, 0) :: hostKit.access }
     s.regUp 0x10000 = true ∧ accessOk s 8 128 0x10000 .write = false) ∧
    (let s : State := { hostKit with regLow := [(0x10000, 5)] }
     s.regLow.find? (fun x => x.1 == 0x10000) = some (0x10000, 5)) ∧
    (let s : State := { hostKit with
       ctxs := { launchCtx with fn := 1 } :: hostKit.ctxs.drop 1, access := (8 * 8192 + 129 * 32, 0xF) :: (8 * 8192 + 129 * 32 + 1, 0x00FFFFFFFFFFF000) :: hostKit.access }
     (s.ctx 0).valid = true ∧ (s.ctx 0).fn = 1 ∧ s.takesWrite 1 0x1000000) ∧
    hostKit.power.removed = false ∧ hostKit.regUp 0x10000 = true ∧ accessOk hostKit 8 128 0x10000 .read = true ∧
    accessOk hostKit 8 128 0x10004 .read = true ∧ (hostKit.ctx 1).fn ≠ 7 := by
  refine ⟨?_, by decide +kernel, by decide +kernel, ⟨by decide +kernel, by decide +kernel, takesWrite_of (by decide +kernel)⟩,
    by decide +kernel, by decide +kernel, by decide +kernel, by decide +kernel, by decide +kernel⟩
  intro off h
  refine takesWrite_of ?_
  have : ([0x20000, 0x40000, 0x40000 + 16 * 63, 0x50000, 0x50000 + 512 * 7 + 16 * 31, 0x100240, 0x10000, 0x30000, 0x100300, 0x100308,
      0x4019B0, 0x401A00, 0x100000, 0x100008 + 64 * 7, 0x480000, 0x480000 + 8 * (23 * 8192 - 1), 0x10004, 0x30004, 0x401A04, 0x60010,
      0x60010 + 32 * 11, 0x400008, 0x400040, 0x401040, 0x401900, 0x401980, 0x401988, 0x4019A0, 0x4019A8, 0x403000, 0x403100, 0x4031F8,
      0x403200, 0x403218, 0x202008, 0x202008 + 16 * 127, 0x200438, 0x200438 + 64 * 63, 0x200098, 0x2000A0] : List Nat).all
      (fun off => hostKit.regUp off && accessOk hostKit 8 (hostMaster 0) off .write) = true := by decide +kernel
  exact List.all_eq_true.mp this off h

/-- HubRegisters: a synchronisation in progress for one context, no group asked to stop, a port. -/
theorem witness_hub :
    ({ hostKit with ptBusy := true, ptCtxs := [0] } : State).ptBusy = true ∧ hostKit.asked = [] ∧ 11 < hostKit.peers.length := by decide +kernel

/-- A held inbound transfer. -/
def someInbound : Inbound := ⟨0, 0x10000000, [1], 0, 0, 0, none⟩

/-- PeersQueuesAndPri: a port open to context 0; a VA that translates and one that does not; a held transfer; an enabled queue without and
with records that wait, at the bound of its room; a page request that a group waits for. -/
theorem witness_peers :
    (let s : State := { hostKit with peers := setNth hostKit.peers 0 ⟨0, 0x80000000, 0⟩ }
     s.inbound = [] ∧ s.peerIn 0 = some 0 ∧ s.power.dieOff = List.replicate 4 false ∧ accessOk s 10 136 4088 .write = true ∧ 4088 % 4096 + 8 ≤ 4096 ∧
     Memory.wf s.hbm = true ∧ translate s 0 136 4088 .write = .ok (.mem 0x4000FF8 false) ∧ accessOk s 10 136 0x10000000 .write = true ∧
     translate s 0 136 0x10000000 .write = .fault) ∧
    (({ hostKit with inbound := [someInbound] } : State).inbound.find? fun y => y.port == 0) = some someInbound ∧ someInbound.request = none ∧
    (let s : State := { hostKit with queues := setNth hostKit.queues 0 ⟨0x40001, 0, 4095, 0⟩, unrecorded := [⟨0, 1, 9, [List.replicate 64 0]⟩] }
     s.queues.length = 8 ∧ (s.queue 0).base.getLsbD 0 = true ∧ Memory.wf s.sysMem = true ∧ 8 + 1 ≤ 4096 - ((s.queue 0).prod - 8).toNat ∧
     4096 - ((s.queue 0).prod - 7).toNat < 8 + 1) ∧
    (let s : State := { (hostKit.onMe fun g => { g with park := some (.pri 3 0) }) with priWaits := [(3, 5)] }
     s.priWaits.find? (fun x => x.1 == 3) = some (3, 5) ∧ s.inbound = [] ∧
     (s.allGroups.filter fun x => decide (x.park = some (.pri 3 0))).length = 1 ∧ s.ops = []) ∧
    accessOk hostKit 0 hubMaster 0 .read = true ∧ hostKit.hostBytes = [] ∧ accessOk hostKit 0 (hostMaster 0) 0 .write = true ∧
    (let s : State := { hostKit with
       queues := setNth hostKit.queues 0 ⟨0x40001, 0, 0, 0⟩, access := (128 * 32, 0) :: hostKit.access }
     (s.queue 0).base.getLsbD 0 = true ∧ (s.queue 0).headVa.getLsbD 63 = false ∧ accessOk s 0 (hostMaster 0) 0 .write = false) ∧
    (hostKit.hubWaits = [] ∧ ∀ c, c < 64 → Memory.num hostKit.window (((hostKit.readCtx c).ctx c).armoff +
      8 * ((hostKit.readCtx c).ctx c).armNext) 8 % 2 = 0) := by decide +kernel

/-- HostWindows: recovery and a running device, an access that the tables allow to the last byte of the aperture, a byte of a uniform
register in the window of a halted station. -/
theorem witness_host :
    (({ hostKit with sec := { hostKit.sec with stage := 2 } } : State).showsSram 0 = true ∧ Memory.wf hostKit.sbSram = true ∧
      hostKit.poison.contains (.sram 0) = false ∧ ({ hostKit with poison := [.sram 0] } : State).poison.contains (.sram 0) = true) ∧
    hostKit.showsSram 0 = false ∧ hostKit.hostUp = true ∧ Memory.wf hostKit.window = true ∧ hostKit.winDenials 0 0 8 .read = hostKit ∧
    ((List.range 8).all fun i => hostKit.ownsWindow 0 i && accessOk hostKit 9 128 i .read) = true ∧
    (let pa := field hostKit.apBase.toNat 28 28 * 2 ^ 28 + (2 ^ 28 - 4)
     (2 ^ 28 - 4) + 4 ≤ 2 ^ hostKit.bar4Exp ∧ pa + 4 ≤ hbmBytes ∧
     ((List.range 4).all fun i => accessOk hostKit ((pa + i) / 4096 % 8) 128 (pa + i) .write &&
       accessOk hostKit ((pa + i) / 4096 % 8) 128 (pa + i) .read) = true) ∧
    (let s : State := { hostKit with sec := { hostKit.sec with halt := 1, dbgLvl := 2 } }
     s.shown = some 0 ∧ (match s.poolAt 0 15360 with | .kreg _ _ _ => true | _ => false) = true ∧
     (s.regUp 0x2003C00 && accessOk s 8 128 0x2003C00 .write) = true) ∧
    hostKit.regUp 0x411000 = true ∧ accessOk hostKit 8 128 0x411000 .read = true := by decide +kernel

/-- BootAndSecurity: an empty flash is no image; each stage and flag that a clause names. That an image or a token passes its checks depends
on the fused keys, which are opaque. -/
theorem witness_boot :
    ({ hostKit with flashFails := true } : State).flashFails = true ∧
    imgError ((State.reset.flash).filter fun x => decide (x.1 < 0x400000)) State.reset.sec.rollCount ≠ 0 ∧
    (let s (x : Sec) : State := { hostKit with sec := x }
     (s { hostKit.sec with stage := 3 }).sec.stage = 3 ∧
     ((s { hostKit.sec with stage := 2 }).regUp 0x400008 && accessOk (s { hostKit.sec with stage := 2 }) 8 128 0x400008 .write) = true ∧
     hostKit.sec.recLen = none ∧ (s { hostKit.sec with recLen := some 512 }).sec.recLen = some 512 ∧
     (s { hostKit.sec with recLen := some 511 }).recoveryError 511 ≠ 0 ∧ hostKit.sec.attBusy = false ∧ hostKit.sec.dbgBusy = false ∧
     (s { hostKit.sec with attBusy := true }).sec.attBusy = true ∧ 2 ≤ (7 : BitVec 64).toNat % 8 ∧ (9 : BitVec 64).toNat % 8 < 2 ∧
     (s { hostKit.sec with dbgBusy := true }).tokenOk = false) := by decide +kernel

/-- PowerChanges: targets that a station takes and refuses, transitions in progress, dies that can sleep and cannot. -/
theorem witness_power :
    hostKit.stationCan 0 2 = false ∧ hostKit.stationCan 31 2 = true ∧ nth hostKit.power.cur 31 0 ≠ 2 ∧ hostKit.stationCan 31 0 = true ∧
    ({ hostKit with power := { hostKit.power with cur := List.replicate 32 2 } } : State).stationCan 31 0 = true ∧
    hostKit.sec.halt.getLsbD 31 = false ∧ ({ hostKit with sec := { hostKit.sec with halt := 0x80000000 } } : State).sec.halt.getLsbD 31 = true ∧
    hostKit.stationIdle 31 = true ∧ nth hostKit.power.busy 31 false = false ∧
    (let s (t : Nat) : State := { hostKit with power := { hostKit.power with busy := List.replicate 32 true, tgt := List.replicate 32 t } }
     nth (s 2).power.busy 31 false = true ∧ nth (s 2).power.tgt 31 0 = 2 ∧ (s 2).stationCan 31 2 = true ∧ nth (s 0).power.tgt 31 0 = 0 ∧
     nth ({ s 0 with power := { (s 0).power with dieOff := List.replicate 4 true } } : State).power.dieOff (31 / 8) false = true ∧
     nth (s 3).power.tgt 31 0 = 3 ∧ (s 3).holdsBlocks 31 = false ∧ (s 3).corner = [] ∧ 31 < (s 3).power.cur.length) ∧
    (let s : State := { hostKit with power := { hostKit.power with cur := List.replicate 32 3, dieBusy := List.replicate 4 true }, grids := [] }
     s.dieCan 3 = true ∧ nth s.power.dieOff 3 false = false ∧ nth s.power.dieBusy 3 false = true) ∧ hostKit.dieCan 0 = false ∧
    (let s : State := { hostKit with power := { hostKit.power with dieOff := List.replicate 4 true, dieBusy := List.replicate 4 true, clkBusy := true } }
     nth s.power.dieOff 3 false = true ∧ s.power.clkBusy = true) ∧
    (hostKit.power.d3hot = false ∧ hostKit.power.removed = false ∧ unplaced.blocks = [] ∧ hostKit.binds = [] ∧ hostKit.corner = []) ∧
    ({ hostKit with power := { hostKit.power with d3hot := true } } : State).power.d3hot = true := by decide +kernel

/-- FleetEvents: the first and the 64th corrected error, uncorrectable errors away from the tables, both sides of each cap. -/
theorem witness_fleet :
    (127 < kit.fleet.ce.length ∧ 127 < kit.fleet.ue.length ∧ (((127, kit.now) :: kit.fleet.ceTimes).filter fun x => x.1 == 127).length < 64 ∧
      64 ≤ (((127, kit.now) :: List.replicate 63 (127, 0)).filter fun x => x.1 == 127).length) ∧
    kit.me.park = none ∧ 127 < kit.fleet.quar.length ∧ (0x40000000 : BitVec 64).getLsbD 30 = true ∧
    (kit.fleet.pcap * 1000 < 2400001 ∧ ¬ kit.fleet.pcap * 1000 < 2400000 ∧ kit.fleet.pcapA = false ∧ 0 < kit.fleet.pcap) ∧
    (32768 ≤ (0xFFFF : BitVec 64).toNat % 65536 ∧ (1521 : Nat) % 65536 < 32768 ∧ kit.fleet.tcap < 1521 % 65536 ∧ 1760 < 1761 % 65536 ∧ kit.fleet.tcapA = false ∧ 12 < kit.fleet.temp.length) ∧
    ({ kit.fleet with tstop := true, tcapA := true, pcapA := true } : Fleet).tstop = true ∧ kit.power.removed = false ∧ kit.sec.stage = 4 ∧
    unplaced.blocks = [] ∧ hostKit.binds = [] ∧ hostKit.fleet.drain = [] ∧ kit.fleet.i3c = none ∧
    (let f : Fleet := { kit.fleet with pcapA := true, tcapA := true, pwrHot := 0, tempHot := 0 }
     f.pcapA = true ∧ f.pwrHot + 14000000 ≤ 14000000 ∧ 13999999 < f.pwrHot + 14000000 ∧ f.tcapA = true ∧ f.tempHot + 14000000 ≤ 14000000 ∧
     80 < f.tcap) := by
  decide +kernel

theorem witness_places : (∀ w, PoisonAt.mem 3 ≠ .sram w) ∧ (∀ n w, PoisonAt.mem 3 ≠ .bindTable n w) := by simp

/-- DecodeEncode: a well-formed instruction with words. -/
theorem witness_encode : wellFormed 120 384 (.iaddi ⟨1, 0, 2, 3, some ⟨0, 1, 1, 5, 0⟩, some ⟨0x12345, 0⟩⟩) = true ∧
    (encode (.iaddi ⟨1, 0, 2, 3, some ⟨0, 1, 1, 5, 0⟩, some ⟨0x12345, 0⟩⟩)).length = 3 := by decide +kernel

/-- StepRunsDecoded: a pipe's turn at a group whose words stand in memory, and an event's turn. -/
theorem witness_step :
    (let s := State.reset.withFetchWord 32 0x00100A0C
     let s1 : State := { s with agenda := [] }
     s.agenda = [.pipe 0 0] ∧ (s1.firstOf (s1.canIssue.filter fun x => x.core == 0 && x.pipe == 0)).map (fun g => g.uid) = some 1 ∧
     (s1.firstOf (s1.canIssue.filter fun x => x.core == 0 && x.pipe == 0)).map (fun g =>
       let u : State := { s1.select g.uid with now := s1.startOf g }
       (u.fetchWord (u.me.pc.toNat), fieldError (u.grid u.me.grid).v (u.grid u.me.grid).kn (.iadd ⟨4, 0, 5, 6, none⟩))) =
       some (.word 0x00100A0C, none) ∧
     decodeWords [0x00100A0C] = .ok (.iadd ⟨4, 0, 5, 6, none⟩) 1 ∧ s.hasLine (stationOf s.me.core) s.myCtx 0 = true ∧
     translate s s.myCtx (s.master s.me.grid) 0 .fetch = .ok (.mem 0x4000000 false)) ∧
    State.reset.heldByYard (.nop ⟨511, 511, none⟩) = false ∧ kit.hole = none ∧ ({ kit with hole := some 5 } : State).hole = some 5 ∧
    kit.overlooked (.icacheLineFill 0 0 1) = none ∧ (Turn.host (.readIds 0)).usesMemory = false ∧ kit.me.resume = none ∧
    (let s (why : Park) := kit.onMe fun g => { g with resume := some (0, why, 0) }
     (s .gwait).me.resume = some ((s .gwait).me.pc, .gwait, 0) ∧ (s .gwait).me.resume ≠ some ((s .gwait).me.pc + 4, .gwait, 0) ∧
     (s .yard).me.resume = some ((s .yard).me.pc, .yard, 0)) ∧
    (kit.onMe fun g => { g with park := some .gwait }).me.park = some .gwait ∧
    (let s := { (kit.onMe fun g => { g with park := some .yard, early := some 1 }) with
       episodes := [⟨1, 1, false, 1, 0, 0, 0, false, false, 0, [1], [], [], [], 0⟩] }
     s.me.park = some .yard ∧ s.yardHolds s.me = true) ∧
    kit.reaches (.host (.readIds 0)) = false ∧ (Turn.event .coalescerTick).usesMemory = false ∧
    kit.reaches (.event .coalescerTick) = false ∧ kit.reaches (.event .powerOnReset) = true := by decide +kernel

/-- MemoryStaysCanonical: a step from a canonical state that answers a next state. -/
theorem witness_canonical : (State.reset.withFetchWord 32 0x00100A0C).memoriesWf ∧
    (match step (State.reset.withFetchWord 32 0x00100A0C) with | .next t => decide (t.me.pc = 4) | _ => false) = true := by
  refine ⟨⟨?_, ?_, ?_, ?_, ?_⟩, ?_⟩ <;> decide +kernel

/-- ResetState: a power-on reset answers a next state. -/
theorem witness_reset : (match exec .powerOnReset kit with | .next t => decide (t.gangTol = 50) | _ => false) = true := by decide +kernel

/-! Single steps against values that the spec works out. -/

/-- Lane 0's register after an instruction. -/
def laneReg (i : Instr) (s : State) (r : Nat) : Option Word :=
  match exec i s with
  | .next t => some (nth (t.me.thread 0).v r 0)
  | _ => none

/-- A uniform register after an instruction. -/
def uniReg (i : Instr) (s : State) (r : Nat) : Option Word :=
  match exec i s with
  | .next t => some (nth t.me.k r 0)
  | _ => none

/-- What holds of the state after an instruction. -/
def after (i : Instr) (s : State) (f : State → Bool) : Bool :=
  match exec i s with
  | .next t => f t
  | _ => false

/-- 11, worked values: v1 = 0xFFFFFFF0 and v2 = 3, v3 = 0x100. -/
def worked11 : State := withV kit [(1, 0xFFFFFFF0), (2, 3), (3, 0x100)]

theorem test_worked_values_lane : ([(.iadd ⟨4, 0, 1, 2, none⟩, 0xFFFFFFF3), (.isub ⟨4, 0, 1, 2, none⟩, 0xFFFFFFED),
    (.imul ⟨4, 0, 1, 2, none⟩, 0xFFFFFFD0), (.imulh ⟨4, 0, 1, 2, none⟩, 0xFFFFFFFF), (.imulhn ⟨4, 0, 1, 2, none⟩, 2),
    (.imad ⟨4, 0, 1, 2, some ⟨3, 0, 0, 0, 0⟩⟩, 0xD0), (.imin ⟨4, 0, 1, 2, none⟩, 0xFFFFFFF0), (.imax ⟨4, 0, 1, 2, none⟩, 3),
    (.nmin ⟨4, 0, 1, 2, none⟩, 3), (.nmax ⟨4, 0, 1, 2, none⟩, 0xFFFFFFF0), (.land ⟨4, 0, 1, 2, none⟩, 0),
    (.lor ⟨4, 0, 1, 2, none⟩, 0xFFFFFFF3), (.lxor ⟨4, 0, 1, 2, none⟩, 0xFFFFFFF3), (.landn ⟨4, 0, 1, 2, none⟩, 0xFFFFFFF0),
    (.shl ⟨4, 0, 1, 2, none⟩, 0xFFFFFF80), (.shr ⟨4, 0, 1, 2, none⟩, 0x1FFFFFFE), (.sar ⟨4, 0, 1, 2, none⟩, 0xFFFFFFFE),
    (.rol ⟨4, 0, 1, 2, none⟩, 0xFFFFFF87), (.popc ⟨4, 0, 1, 0, none⟩, 28), (.clz ⟨4, 0, 1, 0, none⟩, 0),
    (.brev ⟨4, 0, 1, 0, none⟩, 0x0FFFFFFF), (.iabs ⟨4, 0, 1, 0, none⟩, 0x10)] : List (Instr × Word)).all
    (fun x => laneReg x.1 worked11 4 == some x.2) = true := by decide +kernel

/-- 11: the 64-bit product, the saturating forms, the compares. -/
theorem test_worked_wide : laneReg (.imulw ⟨4, 0, 1, 2, some ⟨0, 0, 0, 0, 0⟩⟩) worked11 5 = some 0xFFFFFFFF ∧
    laneReg (.imulw ⟨4, 0, 1, 2, some ⟨0, 0, 0, 0, 1⟩⟩) worked11 5 = some 2 ∧
    laneReg (.imulw ⟨4, 0, 1, 2, some ⟨0, 0, 0, 0, 1⟩⟩) worked11 4 = some 0xFFFFFFD0 ∧
    laneReg (.iadds ⟨4, 0, 5, 6, none⟩) (withV kit [(5, 0x7FFFFFFF), (6, 1)]) 4 = some 0x7FFFFFFF ∧
    laneReg (.isubs ⟨4, 0, 2, 1, some ⟨0, 0, 0, 0, 1⟩⟩) worked11 4 = some 0 ∧ laneReg (.isubs ⟨4, 0, 2, 1, none⟩) worked11 4 = some 0x13 ∧
    after (.icmp ⟨0x14, 0, 1, 2, none⟩) worked11 (fun t => (t.me.thread 0).p == 2) = true ∧
    after (.ncmp ⟨0x14, 0, 1, 2, none⟩) worked11 (fun t => (t.me.thread 0).p == 0) = true := by decide +kernel

/-- 12: HADD2 under RNE and RTZ, with OF and NX under RNE; FFMA rounds once; two CVTP pack four values. -/
theorem test_worked_float :
    (let s := withV kit [(1, 0x3C007BFF), (2, 0x10004C00)]
     laneReg (.hadd2 ⟨4, 0, 1, 2, none⟩) s 4 = some 0x3C007C00 ∧
     laneReg (.hadd2 ⟨4, 0, 1, 2, some ⟨0, 0, 0, 0, 9⟩⟩) s 4 = some 0x3C007BFF) ∧
    (let s := withV kit [(1, 0x3F800800), (2, 0x3F800800), (3, 0xBF800000)]
     laneReg (.ffma ⟨5, 0, 1, 2, some ⟨3, 0, 0, 0, 0⟩⟩) s 5 = some 0x3A000400 ∧ laneReg (.fmul ⟨5, 0, 1, 2, none⟩) s 5 = some 0x3F801000) ∧
    (let s := withV kit [(1, 0x3F800000), (2, 0xC0000000), (5, 0x43E00000), (6, 0x3E99999A)]
     laneReg (.cvtp ⟨4, 0, 1, 2, some ⟨3, 0, 0, 0, 0x130⟩⟩) s 4 = some 0xC038 ∧
     laneReg (.cvtp ⟨7, 0, 5, 6, some ⟨4, 0, 0, 0, 0x530⟩⟩) (withV s [(4, 0xC038)]) 7 = some 0x2A7EC038) := by decide +kernel

/-- 12: the same words decode to those instructions, and the refusals that it lists. -/
theorem test_worked_float_words : readsAll [
    ([0x24100204], .fadd ⟨4, 0, 1, 2, none⟩), ([0x7E060009, 0x26140205], .ffma ⟨5, 0, 1, 2, some ⟨3, 0, 0, 0, 9⟩⟩),
    ([0x2AB80204], .fcmp ⟨0x2E, 0, 1, 2, none⟩), ([0x7E00003D, 0x3A180226], .cvt ⟨6, 0, 1, 0x13, some ⟨0, 0, 0, 0, 0x3D⟩⟩),
    ([0x7E000009, 0x3C080200], .cvtu ⟨2, 0, 1, 0, some ⟨0, 0, 0, 0, 9⟩⟩), ([0x3C0C0205], .fsmx ⟨3, 0, 1, 2, none⟩),
    ([0x7E000010, 0x34100204], .hadd2 ⟨4, 0, 1, 2, some ⟨0, 0, 0, 0, 16⟩⟩)] = true ∧
    ([[0x3A180226], [0x7E000030, 0x3A180208], [0x7E000005, 0x24100204], [0x7E060930, 0x3A100205], [0x2ABA0204],
      [0x7E000010, 0x28100204]] : List (List Word)).all (fun ws => match decodeWords ws with
        | .ok i n => decide (n = ws.length ∧ fieldError 120 384 i = some 0)
        | _ => false) = true := by decide +kernel

/-- 14, 15, 02, 03: words of the uniform instructions and commands, and refusals. -/
theorem test_worked_uniform_words : readsAll [
    ([0xFE000C02, 0xA207FFFF], .kaddi ⟨7, 0xFFFF, some ⟨6, 0, 0, 0, 2⟩⟩), ([0x98200309], .kcmp ⟨0x20, 6, 9, none⟩),
    ([0xB0FFFFF7], .bra ⟨0, 7, 0x1FFFF7⟩), ([0xB01FFFF7], .bra ⟨0, 0, 0x1FFFF7⟩), ([0xB2E00020], .call ⟨0, 7, 32⟩),
    ([0xB6E00006], .syn ⟨0, 7, 6⟩), ([0xB4400003], .brd ⟨0, 2, 3⟩), ([0xB9FFFF80], .join ⟨511, 511, 0, none⟩),
    ([0xBA00FF80], .ret ⟨0, 511, 0, none⟩), ([0xC00C0222], .kld ⟨12, 4, 2, 2, none⟩),
    ([0xFEC00000, 0xC808030A], .katom ⟨8, 6, 10, some ⟨0x6000, 0, 0, 0, 0⟩⟩),
    ([0xFEC0160A, 0xC808030A], .katom ⟨8, 6, 10, some ⟨0x600B, 0, 0, 0, 10⟩⟩), ([0xFA14FF85], .clk ⟨20, 511, none⟩),
    ([0xFA0A0208], .csrr ⟨10, 4, none⟩), ([0xFA090089], .csrw ⟨9, 1, none⟩), ([0xFC060180], .kbal ⟨6, 3, none⟩)] = true ∧
    readsAll [([0x72740A02], .rebinB ⟨3, 5, 0, 5, 1⟩), ([0x74400410], .spawn ⟨2, 0, 0, 2, 8, none⟩), ([0xF1FFFFA3], .bars ⟨511, 511, 0x23, none⟩),
    ([0xD0100002], .cpy ⟨16, 0, 2, none⟩), ([0xD2200085], .cpym ⟨32, 1, 5, none⟩), ([0xD40C0100], .qfen ⟨12, 2, 0, none⟩),
    ([0xD6180D01], .mres ⟨24, 26, 1, none⟩), ([0xD9FFFF81], .mrel ⟨511, 511, 1, none⟩), ([0xDA18FF80], .mma ⟨24, 511, 0, none⟩),
    ([0xDC09FF80], .mfen ⟨9, 511, 0, none⟩), ([0xDE09FF80], .mwait ⟨9, 511, 0, none⟩), ([0xE00A0180], .twm ⟨10, 3, none⟩),
    ([0xE00C0001], .tstat ⟨12, 0, none⟩), ([0xE1FF0002], .tclr ⟨511, 0, none⟩), ([0xE2200081], .kvld ⟨32, 1, 1, none⟩),
    ([0xE4281511], .kvst ⟨40, 42, 0x11, none⟩), ([0xE7FFFF80], .kvinv ⟨511, 511, 0, none⟩), ([0xEBFFFF80], .rfen ⟨511, 511, 0, none⟩),
    ([0xE81C0100], .mrg ⟨28, 2, 0, none⟩), ([0xF20AFF90], .slotaFull ⟨10, 511, 0, 0, none⟩), ([0xF60C0706], .waita ⟨12, 14, 6, none⟩),
    ([0xF8060400], .glnch ⟨6, 8, none⟩), ([0xF80A0081], .gwait ⟨10, 1, none⟩), ([0xF9FFFF82], .phend ⟨511, 511, none⟩)] = true := by
  decide +kernel

theorem test_worked_uniform_refusals :
    ([[0xFE000C03, 0xA207FFFF], [0x98300309], [0x9C080301], [0xC60804D0], [0xC808030A], [0xB9FFFF81], [0xFC060400], [0xFA0A0488],
      [0xD0100802], [0xD0100012], [0xE00A2000]] : List (List Word)).all (fun ws => match decodeWords ws with
        | .ok i n => decide (n = ws.length ∧ fieldError 120 384 i = some 0)
        | .badForm n => decide (n = 0)
        | _ => false) = true ∧
    decodeWords [0xFE000000, 0xB0FFFFF7] = .badForm 0 ∧ decodeWords [0xFBFFFF8C] = .badOpcode := by decide +kernel

/-- 13: POLL in lanes 0 to 7 with p0 true in lanes 1, 2, 5 and 6. -/
def eight : State := kit.onMe fun g => { g with
  lanes := (List.range 8).map (fun i => some { launchThread i with p := if [1, 2, 5, 6].contains i then 1 else 0 }) ++ List.replicate 24 none
  path := 0xFF }

theorem test_poll :
    (let reg (x : BitVec 12) (l : Nat) := match exec (.poll ⟨4, 0, 0, 0, some ⟨0, 0, 0, 0, x⟩⟩) eight with
       | .next t => nth (t.me.thread l).v 4 0
       | _ => 99
     (List.range 8).map (reg 0) = List.replicate 8 0x66 ∧ (List.range 8).map (reg 1) = List.replicate 8 4 ∧
     (List.range 8).map (reg 2) = [0, 0, 1, 2, 2, 2, 3, 4] ∧ (List.range 8).map (reg 3) = List.replicate 8 0x402) := by decide +kernel

/-- 07: the two K-blocks of the worked example, each rounded once; the second drops a product below its window. -/
theorem test_matrix_steps :
    (let v (x : Nat) := bf16.decode x
     let zeros (n : Nat) := List.replicate n (v 0)
     let b0 := [mul4 (v 0x4980) (v 0x3F80) (v 0x3F80) (v 0x3F80), mul4 (v 0x3F80) (v 0x3F80) (v 0x3F80) (v 0x3F80),
       mul4 (v 0x3BC0) (v 0x3F80) (v 0x3F80) (v 0x3F80)] ++ zeros 29
     let b1 := [mul4 (v 0x3B80) (v 0x3F80) (v 0x3F80) (v 0x3F80), mul4 (v 0x1F00) (v 0x3F80) (v 0x1F00) (v 0x3F80)] ++ zeros 30
     (fpCell 0 b0).cell = 0x498000081 ∧ (fpCell 0x498000081 b1).cell = 0x498000082 ∧ (fpCell 0x498000081 b1).aln = true ∧
     (fpCell 0 b0).aln = false) := by decide +kernel

/-- 13: the cell of that example, as the thread has observed it, read as FP32 and raw. -/
def cellKit : State := kit.onMe fun g => g.onLanes 1 fun _ t => { t with party := { t.party with
  view := [⟨.acc 1 0 0 0 0, 0x82, ⟨71, 0, []⟩⟩, ⟨.acc 1 0 0 0 3, 0x98, ⟨71, 0, []⟩⟩, ⟨.acc 1 0 0 0 4, 4, ⟨71, 0, []⟩⟩] } }

theorem test_acld : laneReg (.acld ⟨6, 0, 2, 0, none⟩) cellKit 6 = some 0x49800008 ∧
    laneReg (.acld ⟨6, 0, 2, 0, some ⟨0, 0, 0, 0, 0x20⟩⟩) cellKit 6 = some 0x98000082 ∧
    laneReg (.acld ⟨6, 0, 2, 0, some ⟨0, 0, 0, 0, 0x20⟩⟩) cellKit 7 = some 4 := by decide +kernel

/-- 08: the walk of the worked example, behind VA 0x40_0000_0000; KVX gives the VA of dimension 0 of token 2. -/
def walk08 : State :=
  let m := (Memory.putBytes kitMemory 0x12020 (natLe 0x16001 8)).putBytes 0x16000 (natLe 0x400001F 8)
  let m := (m.putBytes 0x40000A0 (natLe 0x4000100000 8)).putBytes 0x40000A8 (natLe (151 + 2 ^ 32) 8)
  let m := ((m.putBytes 0x4100000 (natLe 0x4000200001 8)).putBytes 0x4200000 (natLe 0x4000300001 8)).putBytes 0x4300010 (natLe 0x4000800003 8)
  withV { kit with
    hbm := m
    grids := [{ launchGrid with
      flags := 3, snapMem := m, kvRoot := some (natLe 0x4000000000 8 ++ natLe 8 4 ++ [0x19, 0, 7, 1] ++ List.replicate 48 0) }] }
    [(1, 5), (2, 130), (3, 0x4300)]

theorem test_kvx : laneReg (.kvx ⟨10, 0, 1, 2, some ⟨3, 0, 0, 0, 0⟩⟩) walk08 10 = some (0x81C004) ∧
    laneReg (.kvx ⟨10, 0, 1, 2, some ⟨3, 0, 0, 0, 0⟩⟩) walk08 11 = some 0x40 := by decide +kernel

/-- R15, R18, R19: an inactive lane keeps its register; N = 1 writes the latch alone. -/
theorem test_inactive_and_latch :
    laneReg (.iadd ⟨1, 0, 2, 2, some ⟨0, 1, 1, 7, 0⟩⟩) worked11 1 = some 0xFFFFFFF0 ∧ laneReg (.iadd ⟨1, 1, 2, 2, none⟩) worked11 1 = some 0xFFFFFFF0 ∧
    after (.iadd ⟨1, 1, 2, 2, none⟩) worked11 (fun t => nth (t.me.thread 0).lat 0 0 == 6) = true := by decide +kernel

/-- R225, R296: the S form adds −1 to another register; a false guard leaves D. -/
theorem test_kaddi : uniReg (.kaddi ⟨7, 0xFFFF, some ⟨6, 0, 0, 0, 2⟩⟩) (withK kit [(6, 5)]) 7 = some 4 ∧
    uniReg (.kaddi ⟨7, 0xFFFF, some ⟨0, 1, 0, 0, 0⟩⟩) (withK kit [(7, 5)]) 7 = some 5 := by decide +kernel

/-- R218, R283: bytes of memory in little-endian order, sign-extended by s8; a store narrower than its register. -/
theorem test_load : laneReg (.ldg ⟨6, 0, 4, 2, 0, none, none⟩) kit 6 = some 0x44332211 ∧
    laneReg (.ldg ⟨6, 0, 4, 5, 1, none, none⟩) (kit.onGrid 1 fun g => { g with snapMem := Memory.put g.snapMem 0x4000001 0x82 }) 6 =
      some 0xFFFFFF82 := by decide +kernel

theorem test_store_then_load :
    (match exec (.sts ⟨5, 0, 4, 1, 0, none, none⟩) (withV kit [(5, 0xABCD1234), (4, 8)]) with
     | .next t => laneReg (.lds ⟨6, 0, 4, 2, 0, none, none⟩) t 6
     | _ => none) = some 0x1234 := by decide +kernel

/-- R281: a misaligned load loads nothing and stops the domain with MISALIGNED. -/
theorem test_misaligned : after (.ldg ⟨6, 0, 4, 2, 0, none, none⟩) (withV kit [(4, 2)]) (fun t => t.me.uid == 0 && t.resident.isEmpty) = true := by
  decide +kernel

/-- R305: TRAP holds the group past the instruction, under a token. -/
theorem test_trap : after (.trap ⟨511, 300, none⟩) kit (fun t => t.me.park == some .held && t.me.pc == 4) = true := by decide +kernel

/-- R297, R299: threads of a group part at a BRD, and JOIN takes up the deferred side. -/
theorem test_brd : after (.brd ⟨0, 0, 4⟩) pair (fun t => t.me.path == 2 && t.me.pc == 4) = true ∧
    after (.join ⟨511, 511, 0, none⟩) (pair.onMe fun g => { g with base := ⟨[(16, 1)], 0, 0⟩, path := 2 }) (fun t =>
      t.me.path == 1 && t.me.pc == 16) = true := by decide +kernel

/-- R70, R71: SLOTR.init sets 4 indexes, and SLOTA.free takes index 0. -/
theorem test_slots :
    (match exec (.slotrInit ⟨4, 511, 0, 2, none⟩) (withK kit [(4, 4)]) with
     | .next t => uniReg (.slotaFree ⟨10, 511, 0, 2, none⟩) (withK t [(10, 9)]) 10
     | _ => none) = some 0 := by decide +kernel

/-- R168: TWM of a fresh tile reads 64; MFEN gives batch 0. -/
theorem test_twm : uniReg (.twm ⟨10, 0, none⟩) kit 10 = some 64 ∧ uniReg (.mfen ⟨10, 511, 0, none⟩) (withK kit [(10, 9)]) 10 = some 0 := by
  decide +kernel

/-- R74: FFILL leaves 1 << 63 | payload[62:0], which FREAD then gives. -/
theorem test_future :
    (match exec (.ffill ⟨0x7F, 0, 4, 6, none⟩) (withV kit [(4, 8), (6, 0x12345678), (7, 0xC0000001)]) with
     | .next t => (laneReg (.fread ⟨8, 0, 4, 0, none⟩) t 8, laneReg (.fread ⟨8, 0, 4, 0, none⟩) t 9)
     | _ => (none, none)) = (some 0x12345678, some 0xC0000001) := by decide +kernel

/-- R163, R287: ACST.raw writes the 36 bits of a cell, which ACLD.raw gives back. -/
theorem test_acst :
    (match exec (.acst ⟨0x7F, 0, 2, 4, some ⟨0, 0, 0, 0, 0x20⟩⟩) (withV kit [(4, 0x89ABCDEF), (5, 7)]) with
     | .next t => (laneReg (.acld ⟨6, 0, 2, 0, some ⟨0, 0, 0, 0, 0x20⟩⟩) t 6, laneReg (.acld ⟨6, 0, 2, 0, some ⟨0, 0, 0, 0, 0x20⟩⟩) t 7)
     | _ => (none, none)) = (some 0x89ABCDEF, some 7) := by decide +kernel

/-- R65, R66: BARS of the block's only group completes its phase and goes on. -/
theorem test_bars : after (.bars ⟨511, 511, 0x20, none⟩) kit (fun t => t.me.pc == 4 && t.me.park.isNone) = true := by decide +kernel

/-- R29: EXIT ends the only thread, and the group is gone. -/
theorem test_exit : after (.exit ⟨0x7F, 0, 0, 0, none⟩) kit (fun t => t.resident.isEmpty) = true := by decide +kernel

/-- R377, R418: PCAP is clamped to 300 and 0 gives 2,400. -/
theorem test_pcap : after (.pcapWrite 5) hostKit (fun t => t.fleet.pcap == 300) = true ∧
    after (.pcapWrite 0) hostKit (fun t => t.fleet.pcap == 2400) = true := by decide +kernel

/-- R407: a write that the access table denies is logged. -/
theorem test_denied : after (.registerWrite 0 0x10000 true 1) { hostKit with access := (8 * 8192 + 128 * 32, 0) :: hostKit.access }
    (fun t => t.ctxBase == 0 && t.sec.denyProd == 1 && t.msix == [(0, 37)]) = true := by decide +kernel

/-- R210: a step fetches the word at the pc and runs it: IADD v5, v5, v6 with N = 0. -/
theorem test_step : (match step (State.reset.withFetchWord 32 0x00140A0C) with | .next t => decide (t.me.pc = 4 ∧ t.hole = none) | _ => false) = true := by
  decide +kernel

end Sys2Proof.Tests
end

section
/-! SUPPORT. Lane instructions by their shape: an instruction whose meaning is `lane1`, `lane2`, `lane3` or `lanePair` of a
function completes with that function's value in each active lane. -/

namespace Sys2Proof.Machine

section Shapes
variable {c : LR → Instr}

/-- An instruction that is `lane1` of `f` has the shape `LaneOp1` for every formula of `f`. -/
theorem laneOp1_of_exec {f g : LR → Word → Word} (he : ∀ w s, exec (c w) s = s.lane1 w (f w))
    (hf : ∀ w a, f w a = g w a) : LaneOp1 c g := by
  obtain rfl : f = g := funext₂ hf
  intro w s hp
  rw [he]
  exact s.laneWord_next _ _ _ _ _ _ hp

/-- The same for two sources. -/
theorem laneOp2_of_exec {f g : LR → Word → Word → Word} (he : ∀ w s, exec (c w) s = s.lane2 w (f w))
    (hf : ∀ w a b, f w a b = g w a b) : LaneOp2 c g := by
  obtain rfl : f = g := funext₃ hf
  intro w s hp
  rw [he]
  exact s.laneWord_next _ _ _ _ _ _ hp

/-- The same for three sources. -/
theorem laneOp3_of_exec {f g : LR → Word → Word → Word → Word} (he : ∀ w s, exec (c w) s = s.lane3 w (f w))
    (hf : ∀ w a b x, f w a b x = g w a b x) : LaneOp3 c g := by
  obtain rfl : f = g := funext₃ fun w a b => funext (hf w a b)
  intro w s hp
  rw [he]
  exact s.laneWord_next _ _ _ _ _ _ hp

end Shapes

/-- What a lane instruction with a 64-bit result does, with the poison marks it clears named exactly (R421); `lanePair_next` leaves
them open. -/
theorem State.lanePair_marksCleared (s : State) (l : Option Lxc) (d : BitVec 7) (n : BitVec 1) (words : Nat)
    (srcs : List (BitVec 8 × Nat)) (f : Nat → Thread → Dword) (h : s.lanePoison (s.me.active l) srcs = 0) :
    ∃ t, s.lanePair l d n words srcs f = .next t ∧ OnlyMe (s.marksCleared (s.me.active l) d n 2) t ∧
      Result64 s t (s.me.active l) d n words f := by
  refine ⟨_, s.laneRun_next l srcs _ h, rfl, ?_, ?_⟩
  · rw [State.clearV_eq]; rfl
  · rw [State.clearV_eq]; exact Group.resultPair_each _ _ _ _ _

end Sys2Proof.Machine
end

section
/-! SUPPORT. The arithmetic of the lane integers by the formulas of R236 to R239, R246 to R248. -/

namespace Sys2Proof.Machine

/-! Minimum and maximum (R236). -/

@[simp] theorem valOf_unsigned (a : Word) : valOf true a = a.toNat := rfl

@[simp] theorem valOf_signed (a : Word) : valOf false a = a.toInt := rfl

theorem pick_min (u : Bool) (a b : Word) : pick u false a b = if valOf u a ≤ valOf u b then a else b := by
  simp only [pick, Bool.false_eq_true, if_false, ← Int.not_le, ite_not]

theorem pick_max (u : Bool) (a b : Word) : pick u true a b = if valOf u b ≤ valOf u a then a else b := by
  simp only [pick, if_true, ← Int.not_le, ite_not]

theorem pick_min_unsigned (a b : Word) : pick true false a b = if a.toNat ≤ b.toNat then a else b := by
  simp only [pick_min, valOf_unsigned, Nat.cast_le]

theorem pick_max_unsigned (a b : Word) : pick true true a b = if b.toNat ≤ a.toNat then a else b := by
  simp only [pick_max, valOf_unsigned, Nat.cast_le]

/-! Shifts and rotates (R237): the source of the amount counts modulo 64, or 32 for ROL; below 32 they move bits, and from 32 on only
the sign is left. -/

theorem toNat_ofNat_mod64 (n : Nat) : (BitVec.ofNat 32 n).toNat % 64 = n % 64 := by
  rw [BitVec.toNat_ofNat]; omega

theorem toNat_ofNat_mod32 (n : Nat) : (BitVec.ofNat 32 n).toNat % 32 = n % 32 := by
  rw [BitVec.toNat_ofNat]; omega

theorem shl32_amount (a b : Word) : shl32 a (BitVec.ofNat 32 (b.toNat % 64)) = shl32 a b := by
  simp only [shl32, toNat_ofNat_mod64, Nat.mod_mod]

theorem shr32_amount (a b : Word) : shr32 a (BitVec.ofNat 32 (b.toNat % 64)) = shr32 a b := by
  simp only [shr32, toNat_ofNat_mod64, Nat.mod_mod]

theorem sar32_amount (a b : Word) : sar32 a (BitVec.ofNat 32 (b.toNat % 64)) = sar32 a b := by
  simp only [sar32, toNat_ofNat_mod64, Nat.mod_mod]

theorem rol32_amount (a b : Word) : rol32 a (BitVec.ofNat 32 (b.toNat % 32)) = rol32 a b := by
  simp only [rol32, toNat_ofNat_mod32, Nat.mod_mod]

section Below
variable (a : Word) {n : Nat} (h : n < 32)
include h

theorem shl32_of_lt : shl32 a (BitVec.ofNat 32 n) = BitVec.ofNat 32 (a.toNat * 2 ^ n) := by
  simp only [shl32, toNat_ofNat_mod64, Nat.mod_eq_of_lt (show n < 64 by omega), if_pos h]
  exact BitVec.eq_of_toNat_eq (by rw [BitVec.toNat_shiftLeft, BitVec.toNat_ofNat, Nat.shiftLeft_eq])

theorem shr32_of_lt : (shr32 a (BitVec.ofNat 32 n)).toNat = a.toNat / 2 ^ n := by
  simp only [shr32, toNat_ofNat_mod64, Nat.mod_eq_of_lt (show n < 64 by omega), if_pos h, BitVec.toNat_ushiftRight,
    Nat.shiftRight_eq_div_pow]

theorem sar32_of_lt : sar32 a (BitVec.ofNat 32 n) = BitVec.ofInt 32 (a.toInt / 2 ^ n) := by
  simp only [sar32, toNat_ofNat_mod64, Nat.mod_eq_of_lt (show n < 64 by omega), if_pos h]
  rw [BitVec.sshiftRight, Int.shiftRight_eq_div_pow, Nat.cast_pow, Nat.cast_ofNat]

theorem rol32_of_lt :
    rol32 a (BitVec.ofNat 32 n) = BitVec.ofNat 32 (a.toNat * 2 ^ n ||| a.toNat / 2 ^ (32 - n)) := by
  have hr : a.toNat / 2 ^ (32 - n) < 2 ^ 32 := (Nat.div_le_self _ _).trans_lt a.isLt
  refine BitVec.eq_of_toNat_eq ?_
  rw [rol32, toNat_ofNat_mod32, BitVec.toNat_rotateLeft, Nat.mod_mod, Nat.mod_eq_of_lt h, BitVec.toNat_ofNat,
    Nat.or_mod_two_pow, Nat.mod_eq_of_lt hr, Nat.shiftLeft_eq, Nat.shiftRight_eq_div_pow]

end Below

section Beyond
variable (a : Word) {n : Nat} (h : 32 ≤ n) (h' : n < 64)
include h h'

theorem shl32_of_ge : shl32 a (BitVec.ofNat 32 n) = 0 := by
  simp only [shl32, toNat_ofNat_mod64, Nat.mod_eq_of_lt h', if_neg (Nat.not_lt.mpr h)]

theorem shr32_of_ge : shr32 a (BitVec.ofNat 32 n) = 0 := by
  simp only [shr32, toNat_ofNat_mod64, Nat.mod_eq_of_lt h', if_neg (Nat.not_lt.mpr h)]

theorem sar32_of_ge : sar32 a (BitVec.ofNat 32 n) = if a.getLsbD 31 then 0xFFFFFFFF else 0 := by
  have hones : (0xFFFFFFFF : Word) = BitVec.allOnes 32 := rfl
  simp only [sar32, toNat_ofNat_mod64, Nat.mod_eq_of_lt h', if_neg (Nat.not_lt.mpr h), hones]

end Beyond

/-- SHI is the register shift that IMM9[8:7] names, by IMM9[4:0] (R238). -/
theorem shi32_eq (imm : BitVec 9) (a : Word) :
    shi32 imm a =
      if imm.toNat / 128 = 0 then shl32 a (BitVec.ofNat 32 (imm.toNat % 32))
      else if imm.toNat / 128 = 1 then shr32 a (BitVec.ofNat 32 (imm.toNat % 32))
      else if imm.toNat / 128 = 2 then sar32 a (BitVec.ofNat 32 (imm.toNat % 32))
      else rol32 a (BitVec.ofNat 32 (imm.toNat % 32)) := by
  unfold shi32
  split <;> simp_all

/-! Bit fields (R239). -/

/-- The top bit of a field of `l` bits tells its upper half. -/
theorem testBit_top_iff {f l : Nat} (hl : 0 < l) (hf : f < 2 ^ l) : f.testBit (l - 1) = true ↔ 2 ^ (l - 1) ≤ f := by
  refine ⟨Nat.ge_two_pow_of_testBit, fun h => ?_⟩
  obtain ⟨k, rfl⟩ : ∃ k, l = k + 1 := ⟨l - 1, by omega⟩
  have hdiv : f / 2 ^ k = 1 := Nat.div_eq_of_lt_le (by simpa using h) (by simpa [Nat.pow_succ, Nat.mul_comm] using hf)
  simp [Nat.testBit_eq_decide_div_mod_eq, hdiv]

/-- The field that a control word names, as a number. -/
def fieldVal (a b : Word) : Nat := a.toNat / 2 ^ (fieldOf b).1 % 2 ^ (fieldOf b).2

theorem fieldVal_lt (a b : Word) : fieldVal a b < 2 ^ (fieldOf b).2 := Nat.mod_lt _ (Nat.two_pow_pos _)

theorem fieldOf_end_le (b : Word) : (fieldOf b).1 + (fieldOf b).2 ≤ 32 := by
  simp only [fieldOf]; omega

theorem bfe32_eq (s : Bool) (a b : Word) :
    bfe32 s a b = if s && decide (0 < (fieldOf b).2) && decide (2 ^ ((fieldOf b).2 - 1) ≤ fieldVal a b)
      then BitVec.ofInt 32 ((fieldVal a b : Int) - (2 ^ (fieldOf b).2 : Nat)) else BitVec.ofNat 32 (fieldVal a b) := rfl

theorem bfe32_unsigned (a b : Word) : (bfe32 false a b).toNat = fieldVal a b := by
  have hlen := fieldOf_end_le b
  have hlt : fieldVal a b < 2 ^ 32 := (fieldVal_lt a b).trans_le (Nat.pow_le_pow_right (by omega) (by omega))
  rw [bfe32_eq, Bool.false_and, Bool.false_and, if_neg Bool.false_ne_true, BitVec.toNat_ofNat]
  exact Nat.mod_eq_of_lt hlt

theorem bfe32_signed (a b : Word) :
    bfe32 true a b = BitVec.ofInt 32 (if 0 < (fieldOf b).2 ∧ (fieldVal a b).testBit ((fieldOf b).2 - 1) = true
      then (fieldVal a b : Int) - 2 ^ (fieldOf b).2 else fieldVal a b) := by
  have hsign : (0 < (fieldOf b).2 ∧ (fieldVal a b).testBit ((fieldOf b).2 - 1) = true) ↔
      (0 < (fieldOf b).2 ∧ 2 ^ ((fieldOf b).2 - 1) ≤ fieldVal a b) :=
    and_congr_right fun hl => testBit_top_iff hl (fieldVal_lt a b)
  simp only [bfe32_eq, hsign, Bool.true_and, Bool.and_eq_true, decide_eq_true_eq]
  split <;> simp

theorem getLsbD_bfi32 (a b c : Word) {i : Nat} (hi : i < 32) :
    (bfi32 a b c).getLsbD i =
      if (fieldOf b).1 ≤ i ∧ i < (fieldOf b).1 + (fieldOf b).2 then a.getLsbD (i - (fieldOf b).1) else c.getLsbD i := by
  have hmask : (BitVec.ofNat 32 ((2 ^ (fieldOf b).2 - 1) * 2 ^ (fieldOf b).1)).getLsbD i =
      decide ((fieldOf b).1 ≤ i ∧ i < (fieldOf b).1 + (fieldOf b).2) := by
    rw [BitVec.getLsbD_ofNat, Nat.testBit_mul_two_pow, Nat.testBit_two_pow_sub_one, decide_eq_true hi, Bool.true_and,
      ← Bool.decide_and]
    exact decide_eq_decide.mpr (by omega)
  simp only [bfi32, BitVec.getLsbD_or, BitVec.getLsbD_and, BitVec.getLsbD_not, hmask, BitVec.getLsbD_shiftLeft]
  by_cases h : (fieldOf b).1 ≤ i ∧ i < (fieldOf b).1 + (fieldOf b).2 <;> simp [h, hi]

/-! Counts, bit order and the absolute value (R239). -/

theorem onesBelow_eq (x n : Nat) : onesBelow x n = ((List.range n).filter x.testBit).length := by
  induction n with
  | zero => rfl
  | succ n ih =>
    rw [onesBelow, ih, List.range_succ, List.filter_append, List.length_append, Nat.add_comm]
    cases h : x.testBit n <;> simp [h]

theorem popc32_toNat (a : Word) : (popc32 a).toNat = ((List.range 32).filter fun i => a.getLsbD i).length := by
  have hle : ((List.range 32).filter a.toNat.testBit).length ≤ 32 := by
    simpa using List.length_filter_le a.toNat.testBit (List.range 32)
  rw [popc32, onesBelow_eq, BitVec.toNat_ofNat]
  exact Nat.mod_eq_of_lt (hle.trans_lt (by decide))

section Clz
variable {a : Word} (h : a ≠ 0)
include h

theorem toNat_ne_zero : a.toNat ≠ 0 := fun e => h (BitVec.eq_of_toNat_eq e)

theorem log2_toNat_lt : Nat.log2 a.toNat < 32 := (Nat.log2_lt (toNat_ne_zero h)).mpr a.isLt

theorem clz32_toNat : (clz32 a).toNat = 31 - Nat.log2 a.toNat := by
  rw [clz32, if_neg h, BitVec.toNat_ofNat]
  omega

/-- Below its leading zeros stands the highest one bit. -/
theorem sub_clz32_toNat : 31 - (clz32 a).toNat = Nat.log2 a.toNat := by
  have := log2_toNat_lt h
  rw [clz32_toNat h]
  omega

theorem clz32_lt : (clz32 a).toNat < 32 := by
  rw [clz32_toNat h]
  omega

theorem getLsbD_clz32 : a.getLsbD (31 - (clz32 a).toNat) = true := by
  rw [sub_clz32_toNat h]
  exact Nat.testBit_log2 (toNat_ne_zero h)

theorem getLsbD_above_clz32 {i : Nat} (hi : 31 - (clz32 a).toNat < i) : a.getLsbD i = false := by
  rw [sub_clz32_toNat h] at hi
  exact Nat.testBit_lt_two_pow ((Nat.log2_lt (toNat_ne_zero h)).mp hi)

end Clz

/-- The reversal of the low `n` bits stands in the top `n` bits of a word. -/
theorem revBits_dvd (x : Nat) {n : Nat} (h : n ≤ 32) : 2 ^ (32 - n) ∣ revBits x n := by
  induction n with
  | zero => exact Nat.dvd_zero _
  | succ n ih =>
    refine Nat.dvd_add ?_ ((Nat.pow_dvd_pow 2 (by omega)).trans (ih (by omega)))
    split
    · exact Nat.pow_dvd_pow 2 (by omega)
    · exact Nat.dvd_zero _

theorem testBit_revBits (x i : Nat) {n : Nat} (h : n ≤ 32) :
    (revBits x n).testBit i = (decide (32 - n ≤ i) && decide (i < 32) && x.testBit (31 - i)) := by
  induction n with
  | zero =>
    have hno : ¬(32 - 0 ≤ i ∧ i < 32) := by omega
    rw [← Bool.decide_and, decide_eq_false hno]
    exact Nat.zero_testBit i
  | succ n ih =>
    obtain ⟨m, hm⟩ := revBits_dvd x (show n ≤ 32 by omega)
    have hlt : (if x.testBit n then 2 ^ (31 - n) else 0) < 2 ^ (32 - n) := by
      split
      · exact Nat.pow_lt_pow_right (by omega) (by omega)
      · exact Nat.two_pow_pos _
    have hnew : (if x.testBit n then 2 ^ (31 - n) else 0).testBit i = (decide (i = 31 - n) && x.testBit n) := by
      cases x.testBit n <;> simp [Nat.testBit_two_pow, eq_comm]
    -- the new bit stands below every bit placed before it, so the sum is their union
    rw [revBits, Nat.add_comm, hm, Nat.two_pow_add_eq_or_of_lt hlt, ← hm, Nat.testBit_or, ih (by omega), hnew]
    by_cases hi : i = 31 - n
    · rw [decide_eq_false (show ¬32 - n ≤ i by omega), decide_eq_true (show 32 - (n + 1) ≤ i by omega),
        decide_eq_true (show i < 32 by omega), decide_eq_true hi, show 31 - i = n by omega]
      rfl
    · have hle : 32 - (n + 1) ≤ i ↔ 32 - n ≤ i := by omega
      rw [decide_eq_decide.mpr hle, decide_eq_false hi, Bool.false_and, Bool.or_false]

theorem getLsbD_brev32 (a : Word) {i : Nat} (h : i < 32) : (brev32 a).getLsbD i = a.getLsbD (31 - i) := by
  rw [brev32, BitVec.getLsbD_ofNat, testBit_revBits _ _ le_rfl]
  simp [h, BitVec.getLsbD]

theorem iabs32_eq (a : Word) : iabs32 a = BitVec.ofNat 32 a.toInt.natAbs := by
  have hmsb : a.getLsbD 31 = a.msb := (BitVec.msb_eq_getLsbD_last a).symm
  rw [iabs32, hmsb]
  cases h : a.msb with
  | true =>
    rw [BitVec.toInt_eq_neg_toNat_neg_of_msb_true h, Int.natAbs_neg, Int.natAbs_natCast, BitVec.ofNat_toNat,
      BitVec.setWidth_eq, if_pos rfl]
    exact BitVec.zero_sub a
  | false =>
    rw [BitVec.toInt_eq_toNat_of_msb h, Int.natAbs_natCast, BitVec.ofNat_toNat, BitVec.setWidth_eq,
      if_neg Bool.false_ne_true]

/-! Address sums and predicates (R246 to R248). -/

theorem lea64_eq (u : Bool) (sh : Nat) (p : Dword) (b : Word) :
    lea64 u sh p b = p + BitVec.ofInt 64 ((if u then (b.toNat : Int) else b.toInt) * 2 ^ sh) := by
  rw [lea64, valOf, Nat.cast_pow, Nat.cast_ofNat]

theorem plogBit_eq (tt : Nat) (a b : Bool) : plogBit tt a b = tt.testBit (2 * a.toNat + b.toNat) := by
  cases a <;> cases b <;> rfl

/-- p0 to p6 and a true p7 (R248). -/
theorem predicates_word (p : BitVec 7) : p.setWidth 32 ||| 0x80 = ((1 : BitVec 1) ++ p).setWidth 32 := by
  revert p; decide

end Sys2Proof.Machine
end

section
/-! SUPPORT. The refusals of ill-formed SHI and BFI words (R220, R221, R238): by the field check, and by the decoder before an LXI. -/

namespace Sys2Proof

/-! The field check. -/

theorem Fields.laneErr_false (mand : Bool) (l : Option Lxc) (c : BitVec 8 → BitVec 12 → Bool) (e : BitVec 12 → Bool) :
    laneErr mand l c e false = some 0 := by
  rw [laneErr, Bool.and_false]; rfl

theorem Fields.laneErr_mandatory_none (c : BitVec 8 → BitVec 12 → Bool) (e : BitVec 12 → Bool) (ok : Bool) :
    laneErr true none c e ok = some 0 := rfl

theorem fieldError_shi_of_imm (v kn : Nat) (w : LJ) (h : w.imm.toNat / 32 % 4 ≠ 0) : fieldError v kn (.shi w) = some 0 := by
  have hbad : (Fields.dst v w.d && Fields.src v kn w.a && decide (w.imm.toNat / 32 % 4 = 0)) = false := by
    rw [decide_eq_false h, Bool.and_false]
  exact (congrArg (Fields.laneErr false w.lxc _ _) hbad).trans (Fields.laneErr_false _ _ _ _)

theorem fieldError_bfi_of_noLxc (v kn : Nat) (w : LR) (h : w.lxc = none) : fieldError v kn (.bfi w) = some 0 := by
  obtain ⟨d, n, a, b, l⟩ := w
  cases h
  exact Fields.laneErr_mandatory_none _ _ _

/-! The word of SHI. -/

theorem majorOf_packLJ (op : BitVec 6) (w : LJ) : majorOf (packLJ op w) = op := by
  change BitVec.extractLsb' 25 6 ((0 : BitVec 1) ++ op ++ w.d ++ w.n ++ w.a ++ w.imm : BitVec (1 + 6 + 7 + 1 + 8 + 9)) = op
  iterate 4 rw [BitVec.extractLsb'_append_eq_of_le (by decide)]
  exact BitVec.extractLsb'_append_eq_right

theorem isUni_packLJ (op : BitVec 6) (w : LJ) : isUni (packLJ op w) = false := by
  change BitVec.getLsbD ((0 : BitVec 1) ++ op ++ w.d ++ w.n ++ w.a ++ w.imm : BitVec (1 + 6 + 7 + 1 + 8 + 9)) 31 = false
  iterate 5 rw [BitVec.getLsbD_append, if_neg (by decide)]
  rfl

theorem wordKind_packLJ {op : BitVec 6} (h : op ≠ 0x3F) (h' : op ≠ 0x3E) (w : LJ) : wordKind (packLJ op w) = .lane := by
  rw [wordKind, isUni_packLJ, majorOf_packLJ, if_neg Bool.false_ne_true, if_neg h, if_neg h']

theorem encode_shi {w : LJ} (h : w.lxc = none) : encode (.shi w) = [packLJ 0x2D w] := by
  obtain ⟨d, n, a, imm, l⟩ := w
  cases h
  rfl

/-! The word of an LXI. -/

/-- The word of an LXI (R220). -/
def lxiWord (x : Lxi) : Word := (0 : BitVec 1) ++ (0x3E : BitVec 6) ++ x.hi ++ x.z

theorem lxiWords_some (x : Lxi) : lxiWords (some x) = [lxiWord x] := rfl

theorem majorOf_lxiWord (x : Lxi) : majorOf (lxiWord x) = 0x3E := by
  change BitVec.extractLsb' 25 6 ((0 : BitVec 1) ++ (0x3E : BitVec 6) ++ x.hi ++ x.z : BitVec (1 + 6 + 23 + 2)) = 0x3E
  iterate 2 rw [BitVec.extractLsb'_append_eq_of_le (by decide)]
  exact BitVec.extractLsb'_append_eq_right

theorem isUni_lxiWord (x : Lxi) : isUni (lxiWord x) = false := by
  change BitVec.getLsbD ((0 : BitVec 1) ++ (0x3E : BitVec 6) ++ x.hi ++ x.z : BitVec (1 + 6 + 23 + 2)) 31 = false
  iterate 3 rw [BitVec.getLsbD_append, if_neg (by decide)]
  rfl

theorem wordKind_lxiWord (x : Lxi) : wordKind (lxiWord x) = .lxi := by
  rw [wordKind, isUni_lxiWord, majorOf_lxiWord, if_neg Bool.false_ne_true, if_neg (by decide), if_pos rfl]

/-- A lane word that takes no LXI is refused at the LXI that stands before it (R221). -/
theorem decodeWords_lxi_refused (x : Lxi) {w : Word} (r : List Word) (hk : wordKind w = .lane)
    (h : takesLxi (majorOf w).toNat = false) : decodeWords (lxiWord x :: w :: r) = .badForm 0 := by
  rw [decodeWords, wordKind_lxiWord]
  simp [decodeLxi, hk, decodeLane, h]

theorem decodeWords_lxi_shi (w : LJ) (x : Lxi) (h : w.lxc = none) :
    decodeWords (lxiWords (some x) ++ encode (.shi w)) = .badForm 0 := by
  rw [lxiWords_some, encode_shi h]
  exact decodeWords_lxi_refused x [] (wordKind_packLJ (by decide) (by decide) w) (by rw [majorOf_packLJ]; decide)

end Sys2Proof
end

section
/-! The statements on lane integers, moves, predicates and pairs (11). -/

namespace Sys2Proof.Machine

/-- Settles O2: every instruction is `laneWord` or `lanePred` of the function that its rule gives. -/
theorem laneMovesAndPredicates : Obligations.LaneMovesAndPredicates := by
  unfold Obligations.LaneMovesAndPredicates
  refine ⟨⟨?mov, ?sel, ?ptov, ?movi⟩, ?compares, ?icmpi, ?plog⟩
  case mov => exact laneOp1_of_exec (f := fun _ a => a) (fun _ _ => rfl) fun _ _ => rfl
  case sel => exact fun w s h => s.laneWord_next _ _ _ _ _ _ h
  case ptov =>
    simp only [← predicates_word]
    exact fun w s => s.laneWord_next _ _ _ _ _ _ (s.lanePoison_nil _)
  case movi => exact fun w s => s.laneWord_next _ _ _ _ _ _ (s.lanePoison_nil _)
  case compares => exact fun w s h => ⟨s.lanePred_next _ _ _ _ _ h, s.lanePred_next _ _ _ _ _ h⟩
  case icmpi => exact fun w s h => s.lanePred_next _ _ _ _ _ h
  case plog =>
    simp only [← plogBit_eq]
    exact fun w s => s.lanePred_next _ _ _ _ _ (s.lanePoison_nil _)

/-- Settles O3: each instruction is `lanePair` of the value that its rule gives. -/
theorem lanePairs : Obligations.LanePairs := by
  unfold Obligations.LanePairs
  refine fun w s => ⟨fun h => ?imulw, fun h => ⟨?iadd64, ?isub64⟩, fun h => ?lea⟩
  case imulw | iadd64 | isub64 => exact s.lanePair_marksCleared _ _ _ _ _ _ h
  case lea =>
    simp only [← lea64_eq]
    exact s.lanePair_marksCleared _ _ _ _ _ _ h

/-- SHI completes with the register shift that its immediate names (R238). -/
theorem exec_shi_next (w : LJ) (s : State) (h : s.lanePoison (s.me.active w.lxc) [(w.a, 1)] = 0) :
    ∃ t, exec (.shi w) s = .next t ∧ OnlyMe s t ∧
      Result32 s t (s.me.active w.lxc) w.d w.n (ljLen w) fun _ a => shi32 w.imm (srcVal s.me a w.a) :=
  s.laneWord_next _ _ _ _ _ _ h

/-- Settles O54: the minimum and maximum, shift, field and count functions of the model meet the rules' formulas, and the words that
R220, R221 and R238 forbid are refused. -/
theorem integerResults : Obligations.IntegerResults := by
  unfold Obligations.IntegerResults
  refine ⟨⟨?imin, ?imax, ?nmin, ?nmax, ?land, ?lor, ?lxor, ?landn⟩, ?shifts, fieldError_shi_of_imm, fieldError_bfi_of_noLxc,
    decodeWords_lxi_shi, ?fields⟩
  case imin => exact laneOp2_of_exec (f := fun _ => pick false false) (fun _ _ => rfl) fun _ => pick_min false
  case imax => exact laneOp2_of_exec (f := fun _ => pick false true) (fun _ _ => rfl) fun _ => pick_max false
  case nmin => exact laneOp2_of_exec (f := fun _ => pick true false) (fun _ _ => rfl) fun _ => pick_min_unsigned
  case nmax => exact laneOp2_of_exec (f := fun _ => pick true true) (fun _ _ => rfl) fun _ => pick_max_unsigned
  case land => exact laneOp2_of_exec (f := fun _ a b => a &&& b) (fun _ _ => rfl) fun _ _ _ => rfl
  case lor => exact laneOp2_of_exec (f := fun _ a b => a ||| b) (fun _ _ => rfl) fun _ _ _ => rfl
  case lxor => exact laneOp2_of_exec (f := fun _ a b => a ^^^ b) (fun _ _ => rfl) fun _ _ _ => rfl
  case landn => exact laneOp2_of_exec (f := fun _ a b => a &&& ~~~b) (fun _ _ => rfl) fun _ _ _ => rfl
  case shifts =>
    refine ⟨fun a n => shl32 a (BitVec.ofNat 32 n), fun a n => shr32 a (BitVec.ofNat 32 n),
      fun a n => sar32 a (BitVec.ofNat 32 n), fun a n => rol32 a (BitVec.ofNat 32 n), ?shl, ?shr, ?sar, ?rol,
      fun a n h => ⟨shl32_of_lt a h, shr32_of_lt a h, sar32_of_lt a h, rol32_of_lt a h⟩,
      fun a n h h' => ⟨shl32_of_ge a h h', shr32_of_ge a h h', sar32_of_ge a h h'⟩, fun w s h => ?shi⟩
    case shl => exact laneOp2_of_exec (f := fun _ => shl32) (fun _ _ => rfl) fun _ a b => (shl32_amount a b).symm
    case shr => exact laneOp2_of_exec (f := fun _ => shr32) (fun _ _ => rfl) fun _ a b => (shr32_amount a b).symm
    case sar => exact laneOp2_of_exec (f := fun _ => sar32) (fun _ _ => rfl) fun _ a b => (sar32_amount a b).symm
    case rol => exact laneOp2_of_exec (f := fun _ => rol32) (fun _ _ => rfl) fun _ a b => (rol32_amount a b).symm
    case shi => simpa only [shi32_eq] using exec_shi_next w s h
  case fields =>
    refine ⟨bfe32, bfi32, popc32, clz32, brev32, iabs32, ?bfe, ?bfi, ?popc, ?clz, ?brev, ?iabs, fun a b c =>
      ⟨⟨bfe32_unsigned a b, bfe32_signed a b, fun i => getLsbD_bfi32 a b c⟩, popc32_toNat a, ?zero,
        fun h => ⟨clz32_lt h, getLsbD_clz32 h, fun i => getLsbD_above_clz32 h⟩, fun i => getLsbD_brev32 a, iabs32_eq a⟩⟩
    case bfe =>
      exact laneOp2_of_exec (f := fun w => bfe32 ((lxcExt w.lxc).testBit 0)) (fun _ _ => rfl) fun _ _ _ => rfl
    case bfi => exact laneOp3_of_exec (f := fun _ => bfi32) (fun _ _ => rfl) fun _ _ _ _ => rfl
    case popc => exact laneOp1_of_exec (f := fun _ => popc32) (fun _ _ => rfl) fun _ _ => rfl
    case clz => exact laneOp1_of_exec (f := fun _ => clz32) (fun _ _ => rfl) fun _ _ => rfl
    case brev => exact laneOp1_of_exec (f := fun _ => brev32) (fun _ _ => rfl) fun _ _ => rfl
    case iabs => exact laneOp1_of_exec (f := fun _ => iabs32) (fun _ _ => rfl) fun _ _ => rfl
    case zero => rintro rfl; rfl

end Sys2Proof.Machine
end

section
/-! SUPPORT. Writes of SCTR to registers of other lanes, one lane after the other (R274): the last write to a register stands. -/

namespace Sys2Proof.Machine

section Scatter

/-! A lane `l` with `ok l` writes the word `val l` to register `reg l` of lane `dest l`. -/

variable (ok : Nat → Prop) [DecidablePred ok] (dest reg : Nat → Nat) (val : Nat → Word)

/-- A group after the write of lane `l`. -/
def Group.scatter (g : Group) (l : Nat) : Group :=
  if ok l then g.onLanes (BitVec.ofNat 32 (2 ^ dest l)) fun _ t => t.setV (reg l) (val l) else g

/-- The thread of lane `i` after the write of lane `l`. -/
def Thread.scatter (i : Nat) (t : Thread) (l : Nat) : Thread := if ok l ∧ dest l = i then t.setV (reg l) (val l) else t

theorem getLsbD_two_pow {k : Nat} (hk : k < 32) (i : Nat) : (BitVec.ofNat 32 (2 ^ k)).getLsbD i = decide (k = i) := by
  rw [BitVec.getLsbD_ofNat, Nat.testBit_two_pow, ← Bool.decide_and]
  exact decide_eq_decide.mpr (by omega)

theorem Group.lane_scatter (g : Group) {l : Nat} (hl : dest l < 32) (i : Nat) :
    (g.scatter ok dest reg val l).lane i = (g.lane i).map fun t => t.scatter ok dest reg val i l := by
  unfold Group.scatter Thread.scatter
  by_cases ho : ok l
  · rw [if_pos ho, Group.lane_onLanes, getLsbD_two_pow hl]
    by_cases hi : dest l = i <;> simp [ho, hi]
  · simp [ho]

theorem Group.lane_foldl_scatter (ls : List Nat) (hl : ∀ l, dest l < 32) (g : Group) (i : Nat) :
    (ls.foldl (Group.scatter ok dest reg val) g).lane i =
      (g.lane i).map fun t => ls.foldl (Thread.scatter ok dest reg val i) t := by
  induction ls generalizing g with
  | nil => simp
  | cons l ls ih => simp [ih, Group.lane_scatter ok dest reg val g (hl l), Function.comp_def]

/-- A scatter changes nothing of the group outside its lanes. -/
theorem Group.foldl_scatter_eq (ls : List Nat) (g : Group) : ls.foldl (Group.scatter ok dest reg val) g =
    { g with lanes := (ls.foldl (Group.scatter ok dest reg val) g).lanes } := by
  induction ls generalizing g with
  | nil => rfl
  | cons l ls ih =>
    have hone : g.scatter ok dest reg val l = { g with lanes := (g.scatter ok dest reg val l).lanes } := by
      unfold Group.scatter
      split <;> rfl
    rw [List.foldl_cons, ih, hone]

/-- A scatter changes nothing of a thread but its registers. -/
theorem Thread.foldl_scatter_frame (i : Nat) (ls : List Nat) (t : Thread) :
    ls.foldl (Thread.scatter ok dest reg val i) t = { t with v := (ls.foldl (Thread.scatter ok dest reg val i) t).v } ∧
      (ls.foldl (Thread.scatter ok dest reg val i) t).v.length = t.v.length := by
  induction ls using List.reverseRecOn with
  | nil => exact ⟨rfl, rfl⟩
  | append_singleton ls l ih =>
    obtain ⟨hrest, hlen⟩ := ih
    rw [List.foldl_concat, Thread.scatter]
    split
    · exact ⟨by rw [Thread.setV, hrest], by rw [Thread.setV, setNth_length, hlen]⟩
    · exact ⟨hrest, hlen⟩

/-- A register holds the word of the last lane that wrote it, or what it held. -/
theorem Thread.nth_foldl_scatter (i : Nat) (ls : List Nat) (t : Thread) {r : Nat} (hr : r < t.v.length) :
    nth (ls.foldl (Thread.scatter ok dest reg val i) t).v r 0 =
      match (ls.filter fun l => decide (ok l ∧ dest l = i ∧ reg l = r)).getLast? with
      | some l => val l
      | none => nth t.v r 0 := by
  induction ls using List.reverseRecOn with
  | nil => rfl
  | append_singleton ls l ih =>
    have hlen := (Thread.foldl_scatter_frame ok dest reg val i ls t).2
    rw [List.foldl_concat, Thread.scatter, List.filter_append]
    by_cases hw : ok l ∧ dest l = i ∧ reg l = r
    · obtain ⟨ho, hi, hreg⟩ := hw
      simp [ho, hi, hreg, Thread.setV, nth_setNth, hlen, hr]
    · rw [List.filter_singleton, decide_eq_false hw, cond_false, List.append_nil, ← ih]
      split
      next hlane =>
        have hreg : r ≠ reg l := fun h => hw ⟨hlane.1, hlane.2, h.symm⟩
        simp [Thread.setV, nth_setNth, hreg]
      next => rfl

/-- What a scatter does to the lanes of a group. -/
theorem Group.foldl_scatter_each (ls : List Nat) (hl : ∀ l, dest l < 32) (g : Group) :
    EachThread g (ls.foldl (Group.scatter ok dest reg val) g) fun i a b =>
      b = { a with v := b.v } ∧ b.v.length = a.v.length ∧ ∀ r, r < a.v.length → nth b.v r 0 =
        match (ls.filter fun l => decide (ok l ∧ dest l = i ∧ reg l = r)).getLast? with
        | some l => val l
        | none => nth a.v r 0 := by
  intro i
  rw [Group.lane_foldl_scatter ok dest reg val ls hl g i]
  cases g.lane i with
  | none => rfl
  | some a =>
    obtain ⟨hrest, hlen⟩ := Thread.foldl_scatter_frame ok dest reg val i ls a
    exact ⟨_, rfl, hrest, hlen, fun r => Thread.nth_foldl_scatter ok dest reg val i ls a⟩

end Scatter

end Sys2Proof.Machine
end

section
/-! SUPPORT. The lane collectives by their shape: shuffles, reads of a table, SCTR, POLL and REDX (R272 to R277). -/

namespace Sys2Proof.Machine

/-- A shuffle completes with the words of the lanes that `pick` names, none of them poisoned (R272). -/
theorem State.shuffle_next (s : State) (w : LR) (pick : Nat → Nat → Nat → Nat → Nat → Nat)
    (h : s.lanePoison (s.me.active w.lxc) [(w.b, 1)] = 0)
    (hp : ∀ i p, p ∈ s.poison → s.me.poisonedSrc i w.a 1 p = false) :
    ∃ t, s.shuffle w pick = .next t ∧ OnlyMe s t ∧
      Result32 s t (s.me.active w.lxc) w.d w.n (lrLen w) fun l _ =>
        s.me.coll (pick (l - l % segOf w) (l % segOf w) (srcVal s.me (s.me.thread l) w.b).toNat (segOf w) l) w.a :=
  s.collRead_next w _ h fun _ x hx p hm => by
    obtain rfl := Option.some.inj hx
    exact hp _ p hm

/-- A collective whose lanes read a word of another lane within a table, and 0 beyond it. -/
theorem State.collRead_table (s : State) (w : LR) (inside : Nat → Prop) [DecidablePred inside] (lane : Nat → Nat)
    (field : Nat → BitVec 8) (h : s.lanePoison (s.me.active w.lxc) [(w.b, 1)] = 0)
    (hp : ∀ l p, p ∈ s.poison → s.me.poisonedSrc (lane l) (field l) 1 p = false) :
    ∃ t, s.collRead w (fun l => if inside l then some (lane l, field l) else none) = .next t ∧ OnlyMe s t ∧
      Result32 s t (s.me.active w.lxc) w.d w.n (lrLen w) fun l _ =>
        if inside l then s.me.coll (lane l) (field l) else 0 := by
  obtain ⟨t, hexec, hframe, hres⟩ := s.collRead_next w (fun l => if inside l then some (lane l, field l) else none) h
    fun l x hx p hm => by
      obtain ⟨-, hx⟩ := Option.ite_none_right_eq_some.mp hx
      obtain rfl := Option.some.inj hx
      exact hp l p hm
  refine ⟨t, hexec, hframe, ?_⟩
  convert hres using 2 with l _
  split <;> rfl

/-- The table word that lane `l` of a SCTR names (R274). -/
def State.sctrIndex (s : State) (w : LR) (l : Nat) : Nat := (srcVal s.me (s.me.thread l) w.b).toNat

/-- The issuing group after the writes of SCTR by the lanes of `act` (R274). -/
def State.sctrGroup (s : State) (w : LR) (act : BitVec 32) : Group :=
  (lanesOf act).foldl (Group.scatter
    (fun l => s.sctrIndex w l < 32 * (lxcExt w.lxc % 8 + 1) ∧ act.getLsbD (s.sctrIndex w l % 32))
    (fun l => s.sctrIndex w l % 32) (fun l => w.d.toNat + s.sctrIndex w l / 32)
    (fun l => srcVal s.me (s.me.thread l) w.a)) s.me

theorem exec_sctr_eq (w : LR) (s : State) (h : s.lanePoison (s.me.active w.lxc) [(w.a, 1), (w.b, 1)] = 0) :
    exec (.sctr w) s = .next ((s.onMe fun _ => s.sctrGroup w (s.me.active w.lxc)).advance (lrLen w)
      (occupancy false (s.me.active w.lxc))) :=
  s.laneRun_next w.lxc [(w.a, 1), (w.b, 1)]
    (fun act => (s.onMe fun _ => s.sctrGroup w act).advance (lrLen w) (occupancy false act)) h

theorem State.sctrGroup_eq (s : State) (w : LR) (act : BitVec 32) :
    s.sctrGroup w act = { s.me with lanes := (s.sctrGroup w act).lanes } :=
  Group.foldl_scatter_eq _ _ _ _ _ _

/-- A register of lane `i` takes the word of the highest active lane that names it, where lane `i` is active (R274). -/
theorem State.sctrGroup_each (s : State) (w : LR) (act : BitVec 32) :
    EachThread s.me (s.sctrGroup w act) fun i a b =>
      b = { a with v := b.v } ∧ b.v.length = a.v.length ∧ ∀ r, r < a.v.length → nth b.v r 0 =
        match ((lanesOf act).filter fun l => act.getLsbD i && decide (s.sctrIndex w l < 32 * (lxcExt w.lxc % 8 + 1) ∧
          s.sctrIndex w l % 32 = i ∧ w.d.toNat + s.sctrIndex w l / 32 = r)).getLast? with
        | some l => srcVal s.me (s.me.thread l) w.a
        | none => nth a.v r 0 := by
  have hactive (i r l : Nat) : (act.getLsbD i && decide (s.sctrIndex w l < 32 * (lxcExt w.lxc % 8 + 1) ∧
      s.sctrIndex w l % 32 = i ∧ w.d.toNat + s.sctrIndex w l / 32 = r)) =
        decide ((s.sctrIndex w l < 32 * (lxcExt w.lxc % 8 + 1) ∧ act.getLsbD (s.sctrIndex w l % 32)) ∧
          s.sctrIndex w l % 32 = i ∧ w.d.toNat + s.sctrIndex w l / 32 = r) := by
    rw [← Bool.decide_eq_true (b := act.getLsbD i), ← Bool.decide_and]
    refine decide_eq_decide.mpr ⟨?_, ?_⟩
    · rintro ⟨hact, hin, rfl, hreg⟩
      exact ⟨⟨hin, hact⟩, rfl, hreg⟩
    · rintro ⟨⟨hin, hact⟩, rfl, hreg⟩
      exact ⟨hact, hin, rfl, hreg⟩
  simp only [hactive]
  exact Group.foldl_scatter_each _ _ _ _ (lanesOf act) (fun l => Nat.mod_lt _ (by decide)) s.me

/-- What POLL gives lane `l` by its mode: the set of active lanes, its count, its lanes below `l`, or its flags (R275). -/
def State.pollWord (s : State) (w : LR) (act : BitVec 32) (l : Nat) : Word :=
  let x := lxcExt w.lxc
  let set := act &&& maskOf fun i => (s.me.thread i).pred w.a.toNat != x.testBit 2
  if x % 4 = 0 then set
  else if x % 4 = 1 then BitVec.ofNat 32 (countLanes set)
  else if x % 4 = 2 then BitVec.ofNat 32 ((lanesOf set).filter fun i => decide (i < l)).length
  else BitVec.ofNat 32 (countLanes set * 256 + (if set = act ∨ set = 0 then 4 else 0) + (if set = 0 then 0 else 2) +
    (if set = act then 1 else 0))

theorem exec_poll_eq (w : LR) (s : State) : exec (.poll w) s = s.collWord w [] (s.pollWord w) := by
  change execPoll w s = _
  rw [execPoll]
  refine congrArg (s.collWord w []) (funext fun act => funext fun l => ?_)
  rw [State.pollWord]
  dsimp only
  split
  next hmode => rw [if_pos hmode]
  next hmode => rw [hmode, if_neg (by decide), if_pos rfl]
  next hmode => rw [hmode, if_neg (by decide), if_neg (by decide), if_pos rfl]
  next hmask hcount hrank => rw [if_neg hmask, if_neg hcount, if_neg hrank]

theorem exec_redx_eq (w : LR) (s : State) : exec (.redx w) s = s.laneFp w false [(w.a, 1)] fun _ _ =>
    ropValue (lxcExt w.lxc % 16) ((lanesOf (s.me.active w.lxc)).map fun i => srcVal s.me (s.me.thread i) w.a) := by
  change s.reduce w (fun _ _ => true) = _
  simp only [State.reduce, List.filter_true]

end Sys2Proof.Machine
end

section
/-! The statements on lane collectives whose results stay in registers (13). -/

namespace Sys2Proof.Machine

/-- Settles O6: SHFL to SHFLD are `shuffle`, GTHR reads a table, and SCTR is a scatter over the active lanes in ascending order. -/
theorem laneShufflesAndScatter : Obligations.LaneShufflesAndScatter := by
  unfold Obligations.LaneShufflesAndScatter
  refine ⟨fun w s h => ⟨fun hp => ⟨?shfl, ?shflx, ?shflu, ?shfld⟩, fun hp => ?gthr⟩, fun w s h => ?sctr⟩
  case shfl => exact s.shuffle_next w (fun base _ b n _ => base + b % n) h hp
  case shflx => exact s.shuffle_next w (fun base o b n _ => base + Nat.xor o (b % n)) h hp
  case shflu => exact s.shuffle_next w (fun _ o b _ l => if b ≤ o then l - b else l) h hp
  case shfld => exact s.shuffle_next w (fun _ o b n l => if o + b < n then l + b else l) h hp
  case gthr => exact s.collRead_table w _ _ _ h fun _ => hp _ _
  case sctr =>
    refine ⟨_, exec_sctr_eq w s h, rfl, ?frame, s.sctrGroup_each w _⟩
    rw [GoesOn, State.advance_me, State.onMe_me, State.sctrGroup_eq]

/-- Settles O7: POLL and MATCH are collectives with a 32-bit result, REDX and SCANX lane instructions with events whose operands
are the words of the active lanes. -/
theorem laneVotesAndReductions : Obligations.LaneVotesAndReductions := by
  unfold Obligations.LaneVotesAndReductions
  refine fun w s => ⟨?poll, fun h => ⟨?matchEq, ?redx, ?scanx⟩⟩
  case poll =>
    rw [exec_poll_eq]
    exact s.collWord_next w [] (s.pollWord w) (s.lanePoison_nil _)
  case matchEq =>
    exact s.collWord_next w _
      (fun act l => act &&& maskOf fun i => srcVal s.me (s.me.thread i) w.a == srcVal s.me (s.me.thread l) w.a) h
  case redx => exact laneFpResult_of h (exec_redx_eq w s)
  case scanx => exact laneFpResult_of h rfl

end Sys2Proof.Machine
end

section
/-! SUPPORT. The write of one uniform register as an instruction's whole effect, whatever guard it has, and the values of KLUI and KLEA
in the rules' terms (R224, R295, R296). -/

namespace Sys2Proof.Machine

/-- A group that writes one uniform register and goes on has taken the 32-bit result. -/
theorem State.setK_advance_uniResult (s : State) (words occ d : Nat) (x : Word) :
    UniResult s ((s.onMe fun g => g.setK d x).advance words occ) words d x := by
  refine ⟨⟨rfl, ?frame, ?length⟩, fun r hr => ?reg⟩ <;> rw [State.advance_me, State.onMe_me]
  case frame => conv_lhs => rw [Group.setK_eq]
  case length => exact Group.setK_length ..
  case reg => exact Group.setK_nth _ _ _ _ hr

/-- KLUI's shift by 16 puts the immediate above a zero half (R296). -/
theorem setWidth_shiftLeft_eq_append (imm : BitVec 16) : imm.setWidth 32 <<< 16 = imm ++ (0 : BitVec 16) := by
  rw [BitVec.append_def]
  simp [BitVec.shiftLeftZeroExtend_eq]

/-- KLEA's index is signed (R295). -/
theorem lea64_signed (sh : Nat) (p : Dword) (b : Word) : lea64 false sh p b = p + BitVec.ofInt 64 (b.toInt * 2 ^ sh) :=
  lea64_eq false sh p b

end Sys2Proof.Machine
end

section
/-! The statement on uniform moves, selects, masks, CSRR and pairs (14). -/

namespace Sys2Proof.Machine

/-- Settles O11: KSEL apart, which has no guard, every instruction is `uniCalc` of one register write or `uniPair` of the value that
its rule gives. -/
theorem uniformMovesAndPairs : Obligations.UniformMovesAndPairs := by
  unfold Obligations.UniformMovesAndPairs
  refine ⟨fun s => ⟨fun w hp => ?ksel, fun w hg hp => ?kmov, fun w hg => ⟨?kmovi, ?klui⟩,
    fun w hg => ⟨?kbal, ?kfirst, ?kact, ?csrr⟩⟩, fun s => ⟨fun w hg hp => ?kadd64, fun w hg hp => ?klea, fun w hg => ?clk⟩⟩
  case ksel =>
    have hpass : ¬s.kPoison [(w.a.toNat, 1), (w.b.toNat, 1)] = true := Bool.eq_false_iff.mp hp
    exact ⟨_, congrArg Host.Outcome.next (if_neg hpass), s.setK_advance_uniResult _ _ _ _⟩
  case kmov => exact s.uniCalc_next w.kx _ _ _ _ hg hp rfl
  case klui =>
    rw [← setWidth_shiftLeft_eq_append]
    exact s.uniCalc_next w.kx _ _ _ _ hg s.kPoison_nil rfl
  case kmovi | kbal | kfirst | kact | csrr => exact s.uniCalc_next w.kx _ _ _ _ hg s.kPoison_nil rfl
  case kadd64 => exact s.uniPair_next w.kx _ _ _ hg hp
  case klea =>
    rw [← lea64_signed]
    exact s.uniPair_next w.kx _ _ _ hg hp
  case clk => exact s.uniPair_next w.kx _ _ (fun _ => BitVec.ofNat 64 s.now) hg s.kPoison_nil

end Sys2Proof.Machine
end

section
/-! SUPPORT. The packing of words and the extraction of their fields are inverse to each other, form by form (R210, R213, R220,
R223): both are sums and quotients of the word's number. -/

namespace Sys2Proof
open BitVec

theorem toNat_append_eq_add {m n : Nat} (x : BitVec m) (y : BitVec n) : (x ++ y).toNat = x.toNat * 2 ^ n + y.toNat := by
  rw [BitVec.toNat_append, ← Nat.shiftLeft_add_eq_or_of_lt y.isLt, Nat.shiftLeft_eq]

theorem toNat_extractLsb'_eq_div {n : Nat} (x : BitVec n) (s k : Nat) :
    (x.extractLsb' s k).toNat = x.toNat / 2 ^ s % 2 ^ k := by
  rw [BitVec.extractLsb'_toNat, Nat.shiftRight_eq_div_pow]

theorem isUni_eq_decide (w : Word) : isUni w = decide (2 ^ 31 ≤ w.toNat) := by
  simp only [isUni, BitVec.getLsbD, Nat.testBit_eq_decide_div_mod_eq, decide_eq_decide]
  have := w.isLt
  omega

/-- The F bit of a word (R213). -/
theorem getLsbD_zero_eq (w : Word) : w.getLsbD 0 = decide (w.extractLsb' 0 1 = 1) := by
  simp [BitVec.getLsbD, ← toNat_inj]

/-! The fields of a packed word, and a word packed from its fields. -/

theorem packLR_fields (op : BitVec 6) (f : BitVec 1) (w : LR) :
    isUni (packLR op f w) = false ∧ majorOf (packLR op f w) = op ∧ unLR (packLR op f w) w.lxc = w ∧
      (packLR op f w).extractLsb' 0 1 = f := by
  obtain ⟨⟩ := w
  simp only [isUni_eq_decide, majorOf, unLR, packLR, LR.mk.injEq, ← toNat_inj, toNat_append_eq_add, toNat_extractLsb'_eq_div]
  simp
  omega

theorem packLR_unLR {w : Word} (h : isUni w = false) (c : Option Lxc) :
    packLR (majorOf w) (w.extractLsb' 0 1) (unLR w c) = w := by
  rw [isUni_eq_decide] at h
  simp only [majorOf, unLR, packLR, ← toNat_inj, toNat_append_eq_add, toNat_extractLsb'_eq_div]
  simp at h ⊢
  omega

theorem packLI_fields (op : BitVec 6) (w : LI) :
    isUni (packLI op w) = false ∧ majorOf (packLI op w) = op ∧ unLI (packLI op w) w.lxc w.lxi = w := by
  obtain ⟨⟩ := w
  simp only [isUni_eq_decide, majorOf, unLI, packLI, LI.mk.injEq, ← toNat_inj, toNat_append_eq_add, toNat_extractLsb'_eq_div]
  simp
  omega

theorem packLI_unLI {w : Word} (h : isUni w = false) (c : Option Lxc) (x : Option Lxi) :
    packLI (majorOf w) (unLI w c x) = w := by
  rw [isUni_eq_decide] at h
  simp only [majorOf, unLI, packLI, ← toNat_inj, toNat_append_eq_add, toNat_extractLsb'_eq_div]
  simp at h ⊢
  omega

theorem packLJ_fields (op : BitVec 6) (w : LJ) :
    isUni (packLJ op w) = false ∧ majorOf (packLJ op w) = op ∧ unLJ (packLJ op w) w.lxc = w := by
  obtain ⟨⟩ := w
  simp only [isUni_eq_decide, majorOf, unLJ, packLJ, LJ.mk.injEq, ← toNat_inj, toNat_append_eq_add, toNat_extractLsb'_eq_div]
  simp
  omega

theorem packLJ_unLJ {w : Word} (h : isUni w = false) (c : Option Lxc) :
    packLJ (majorOf w) (unLJ w c) = w := by
  rw [isUni_eq_decide] at h
  simp only [majorOf, unLJ, packLJ, ← toNat_inj, toNat_append_eq_add, toNat_extractLsb'_eq_div]
  simp at h ⊢
  omega

theorem packLM_fields (op : BitVec 6) (w : LM) :
    isUni (packLM op w) = false ∧ majorOf (packLM op w) = op ∧ unLM (packLM op w) w.lxc w.lxi = w := by
  obtain ⟨⟩ := w
  simp only [isUni_eq_decide, majorOf, unLM, packLM, LM.mk.injEq, ← toNat_inj, toNat_append_eq_add, toNat_extractLsb'_eq_div]
  simp
  omega

theorem packLM_unLM {w : Word} (h : isUni w = false) (c : Option Lxc) (x : Option Lxi) :
    packLM (majorOf w) (unLM w c x) = w := by
  rw [isUni_eq_decide] at h
  simp only [majorOf, unLM, packLM, ← toNat_inj, toNat_append_eq_add, toNat_extractLsb'_eq_div]
  simp at h ⊢
  omega

theorem packLC_fields (op : BitVec 6) (f : BitVec 1) (w : LC) :
    isUni (packLC op f w) = false ∧ majorOf (packLC op f w) = op ∧ unLC (packLC op f w) w.lxc = w ∧
      (packLC op f w).extractLsb' 0 1 = f := by
  obtain ⟨⟩ := w
  simp only [isUni_eq_decide, majorOf, unLC, packLC, LC.mk.injEq, ← toNat_inj, toNat_append_eq_add, toNat_extractLsb'_eq_div]
  simp
  omega

theorem packLC_unLC {w : Word} (h : isUni w = false) (c : Option Lxc) :
    packLC (majorOf w) (w.extractLsb' 0 1) (unLC w c) = w := by
  rw [isUni_eq_decide] at h
  simp only [majorOf, unLC, packLC, ← toNat_inj, toNat_append_eq_add, toNat_extractLsb'_eq_div]
  simp at h ⊢
  omega

theorem packLB_fields (op : BitVec 6) (f : BitVec 1) (w : LB) :
    isUni (packLB op f w) = false ∧ majorOf (packLB op f w) = op ∧ unLB (packLB op f w) = w ∧
      (packLB op f w).extractLsb' 0 1 = f := by
  obtain ⟨⟩ := w
  simp only [isUni_eq_decide, majorOf, unLB, packLB, LB.mk.injEq, ← toNat_inj, toNat_append_eq_add, toNat_extractLsb'_eq_div]
  simp
  omega

theorem packLB_unLB {w : Word} (h : isUni w = false) :
    packLB (majorOf w) (w.extractLsb' 0 1) (unLB w) = w := by
  rw [isUni_eq_decide] at h
  simp only [majorOf, unLB, packLB, ← toNat_inj, toNat_append_eq_add, toNat_extractLsb'_eq_div]
  simp at h ⊢
  omega

theorem packUR_fields (op : BitVec 6) (w : UR) :
    isUni (packUR op w) = true ∧ majorOf (packUR op w) = op ∧ unUR (packUR op w) w.kx = w := by
  obtain ⟨⟩ := w
  simp only [isUni_eq_decide, majorOf, unUR, packUR, UR.mk.injEq, ← toNat_inj, toNat_append_eq_add, toNat_extractLsb'_eq_div]
  simp
  omega

theorem packUR_unUR {w : Word} (h : isUni w = true) (k : Option Kx) :
    packUR (majorOf w) (unUR w k) = w := by
  rw [isUni_eq_decide] at h
  simp only [majorOf, unUR, packUR, ← toNat_inj, toNat_append_eq_add, toNat_extractLsb'_eq_div]
  simp at h ⊢
  omega

theorem packUI_fields (op : BitVec 6) (w : UI) :
    isUni (packUI op w) = true ∧ majorOf (packUI op w) = op ∧ unUI (packUI op w) w.kx = w := by
  obtain ⟨⟩ := w
  simp only [isUni_eq_decide, majorOf, unUI, packUI, UI.mk.injEq, ← toNat_inj, toNat_append_eq_add, toNat_extractLsb'_eq_div]
  simp
  omega

theorem packUI_unUI {w : Word} (h : isUni w = true) (k : Option Kx) :
    packUI (majorOf w) (unUI w k) = w := by
  rw [isUni_eq_decide] at h
  simp only [majorOf, unUI, packUI, ← toNat_inj, toNat_append_eq_add, toNat_extractLsb'_eq_div]
  simp at h ⊢
  omega

theorem packUB_fields (op : BitVec 6) (w : UB) :
    isUni (packUB op w) = true ∧ majorOf (packUB op w) = op ∧ unUB (packUB op w) = w := by
  obtain ⟨⟩ := w
  simp only [isUni_eq_decide, majorOf, unUB, packUB, UB.mk.injEq, ← toNat_inj, toNat_append_eq_add, toNat_extractLsb'_eq_div]
  simp
  omega

theorem packUB_unUB {w : Word} (h : isUni w = true) :
    packUB (majorOf w) (unUB w) = w := by
  rw [isUni_eq_decide] at h
  simp only [majorOf, unUB, packUB, ← toNat_inj, toNat_append_eq_add, toNat_extractLsb'_eq_div]
  simp at h ⊢
  omega

theorem packUM_fields (op : BitVec 6) (w : UM) :
    isUni (packUM op w) = true ∧ majorOf (packUM op w) = op ∧ unUM (packUM op w) w.kx = w := by
  obtain ⟨⟩ := w
  simp only [isUni_eq_decide, majorOf, unUM, packUM, UM.mk.injEq, ← toNat_inj, toNat_append_eq_add, toNat_extractLsb'_eq_div]
  simp
  omega

theorem packUM_unUM {w : Word} (h : isUni w = true) (k : Option Kx) :
    packUM (majorOf w) (unUM w k) = w := by
  rw [isUni_eq_decide] at h
  simp only [majorOf, unUM, packUM, ← toNat_inj, toNat_append_eq_add, toNat_extractLsb'_eq_div]
  simp at h ⊢
  omega

theorem packUC_fields (op : BitVec 6) (w : UC) :
    isUni (packUC op w) = true ∧ majorOf (packUC op w) = op ∧ unUC (packUC op w) w.kx = w := by
  obtain ⟨⟩ := w
  simp only [isUni_eq_decide, majorOf, unUC, packUC, UC.mk.injEq, ← toNat_inj, toNat_append_eq_add, toNat_extractLsb'_eq_div]
  simp
  omega

theorem packUC_unUC {w : Word} (h : isUni w = true) (k : Option Kx) :
    packUC (majorOf w) (unUC w k) = w := by
  rw [isUni_eq_decide] at h
  simp only [majorOf, unUC, packUC, ← toNat_inj, toNat_append_eq_add, toNat_extractLsb'_eq_div]
  simp at h ⊢
  omega

theorem packUF_fields (op : BitVec 6) (fn : BitVec 7) (w : UF) :
    isUni (packUF op fn w) = true ∧ majorOf (packUF op fn w) = op ∧ unUF (packUF op fn w) w.kx = w ∧
      (packUF op fn w).extractLsb' 0 7 = fn := by
  obtain ⟨⟩ := w
  simp only [isUni_eq_decide, majorOf, unUF, packUF, UF.mk.injEq, ← toNat_inj, toNat_append_eq_add, toNat_extractLsb'_eq_div]
  simp
  omega

theorem packUF_unUF {w : Word} (h : isUni w = true) (k : Option Kx) :
    packUF (majorOf w) (w.extractLsb' 0 7) (unUF w k) = w := by
  rw [isUni_eq_decide] at h
  simp only [majorOf, unUF, packUF, ← toNat_inj, toNat_append_eq_add, toNat_extractLsb'_eq_div]
  simp at h ⊢
  omega

theorem packUS_fields (op : BitVec 6) (hi lo : BitVec 1) (w : US) :
    isUni (packUS op hi lo w) = true ∧ majorOf (packUS op hi lo w) = op ∧ unUS (packUS op hi lo w) w.kx = w ∧
      (packUS op hi lo w).extractLsb' 0 7 = (hi ++ w.nb ++ lo ++ w.ring) := by
  obtain ⟨⟩ := w
  simp only [isUni_eq_decide, majorOf, unUS, packUS, US.mk.injEq, ← toNat_inj, toNat_append_eq_add, toNat_extractLsb'_eq_div]
  simp
  omega

theorem packUS_unUS {w : Word} (h : isUni w = true) (k : Option Kx) :
    packUS (majorOf w) (w.extractLsb' 6 1) (w.extractLsb' 4 1) (unUS w k) = w := by
  rw [isUni_eq_decide] at h
  simp only [majorOf, unUS, packUS, ← toNat_inj, toNat_append_eq_add, toNat_extractLsb'_eq_div]
  simp at h ⊢
  omega

end Sys2Proof
end

section
/-! SUPPORT. The decoder on the words that the encoder gives, and the words of what the decoder accepts (R211, R221, R225 to R228). -/

namespace Sys2Proof
open BitVec

/-! The sort of a word (R221). -/

theorem wordKind_eq_lane {w : Word} : wordKind w = .lane ↔ isUni w = false ∧ majorOf w ≠ 0x3F ∧ majorOf w ≠ 0x3E := by
  unfold wordKind
  cases isUni w <;> by_cases h : majorOf w = 0x3F <;> by_cases h1 : majorOf w = 0x3E <;> simp_all

theorem wordKind_eq_uni {w : Word} : wordKind w = .uni ↔ isUni w = true ∧ majorOf w ≠ 0x3F := by
  unfold wordKind
  cases isUni w <;> by_cases h : majorOf w = 0x3F <;> by_cases h1 : majorOf w = 0x3E <;> simp_all

theorem wordKind_eq_lxc {w : Word} : wordKind w = .lxc ↔ isUni w = false ∧ majorOf w = 0x3F := by
  unfold wordKind
  cases isUni w <;> by_cases h : majorOf w = 0x3F <;> by_cases h1 : majorOf w = 0x3E <;> simp_all

theorem wordKind_eq_lxi {w : Word} : wordKind w = .lxi ↔ isUni w = false ∧ majorOf w = 0x3E := by
  unfold wordKind
  cases isUni w <;> by_cases h : majorOf w = 0x3F <;> by_cases h1 : majorOf w = 0x3E <;> simp_all

theorem wordKind_eq_kx {w : Word} : wordKind w = .kx ↔ isUni w = true ∧ majorOf w = 0x3F := by
  unfold wordKind
  cases isUni w <;> by_cases h : majorOf w = 0x3F <;> by_cases h1 : majorOf w = 0x3E <;> simp_all

/-! Prefix words. -/

/-- The word of an LXC (R220). -/
def lxcWord (c : Lxc) : Word := (0 : BitVec 1) ++ (0x3F : BitVec 6) ++ c.c ++ c.ge ++ c.gn ++ c.gp ++ c.ext

/-- The word of a KX (R223). -/
def kxWord (k : Kx) : Word := (1 : BitVec 1) ++ (0x3F : BitVec 6) ++ k.imm ++ k.ge ++ k.gn ++ k.gq ++ k.ext

theorem lxcWords_some (c : Lxc) : lxcWords (some c) = [lxcWord c] := rfl
theorem kxWords_some (k : Kx) : kxWords (some k) = [kxWord k] := rfl

theorem lxcWord_fields (c : Lxc) : isUni (lxcWord c) = false ∧ majorOf (lxcWord c) = 0x3F ∧ unLxc (lxcWord c) = c := by
  obtain ⟨⟩ := c
  simp only [isUni_eq_decide, majorOf, unLxc, lxcWord, Lxc.mk.injEq, ← toNat_inj, toNat_append_eq_add, toNat_extractLsb'_eq_div]
  simp
  omega

theorem unLxi_lxiWord (x : Lxi) : unLxi (lxiWord x) = x := by
  obtain ⟨⟩ := x
  simp only [unLxi, lxiWord, Lxi.mk.injEq, ← toNat_inj, toNat_append_eq_add, toNat_extractLsb'_eq_div]
  simp
  omega

theorem kxWord_fields (k : Kx) : isUni (kxWord k) = true ∧ majorOf (kxWord k) = 0x3F ∧ unKx (kxWord k) = k := by
  obtain ⟨⟩ := k
  simp only [isUni_eq_decide, majorOf, unKx, kxWord, Kx.mk.injEq, ← toNat_inj, toNat_append_eq_add, toNat_extractLsb'_eq_div]
  simp
  omega

theorem wordKind_lxcWord (c : Lxc) : wordKind (lxcWord c) = .lxc :=
  wordKind_eq_lxc.mpr ⟨(lxcWord_fields c).1, (lxcWord_fields c).2.1⟩

theorem wordKind_kxWord (k : Kx) : wordKind (kxWord k) = .kx :=
  wordKind_eq_kx.mpr ⟨(kxWord_fields k).1, (kxWord_fields k).2.1⟩

theorem lxcWord_unLxc {w : Word} (h : wordKind w = .lxc) : lxcWord (unLxc w) = w := by
  obtain ⟨hu, hm⟩ := wordKind_eq_lxc.mp h
  rw [isUni_eq_decide] at hu
  simp only [majorOf, unLxc, lxcWord, ← toNat_inj, toNat_append_eq_add, toNat_extractLsb'_eq_div] at hm ⊢
  simp at hu hm ⊢
  omega

theorem lxiWord_unLxi {w : Word} (h : wordKind w = .lxi) : lxiWord (unLxi w) = w := by
  obtain ⟨hu, hm⟩ := wordKind_eq_lxi.mp h
  rw [isUni_eq_decide] at hu
  simp only [majorOf, unLxi, lxiWord, ← toNat_inj, toNat_append_eq_add, toNat_extractLsb'_eq_div] at hm ⊢
  simp at hu hm ⊢
  omega

theorem kxWord_unKx {w : Word} (h : wordKind w = .kx) : kxWord (unKx w) = w := by
  obtain ⟨hu, hm⟩ := wordKind_eq_kx.mp h
  rw [isUni_eq_decide] at hu
  simp only [majorOf, unKx, kxWord, ← toNat_inj, toNat_append_eq_add, toNat_extractLsb'_eq_div] at hm ⊢
  simp at hu hm ⊢
  omega

/-! Words with their prefixes. -/

/-- The words decode to `i`, and nothing shorter does. -/
def DecodesTo (ws : List Word) (i : Instr) : Prop :=
  decodeWords ws = .ok i ws.length ∧ ∀ n, n < ws.length → decodeWords (ws.take n) = .needMore

/-! One more of the words before the last. -/

@[simp] theorem decodeWords_lxcWord (c : Lxc) (r : List Word) : decodeWords (lxcWord c :: r) = decodeLxc c r := by
  rw [decodeWords, wordKind_lxcWord]
  simp only [(lxcWord_fields c).2.2]

@[simp] theorem decodeWords_lxiWord (x : Lxi) (r : List Word) : decodeWords (lxiWord x :: r) = decodeLxi x r := by
  rw [decodeWords, wordKind_lxiWord]
  simp only [unLxi_lxiWord]

@[simp] theorem decodeLxc_lxiWord (c : Lxc) (x : Lxi) (r : List Word) : decodeLxc c (lxiWord x :: r) = decodeBoth c x r := by
  rw [decodeLxc, wordKind_lxiWord]
  simp only [unLxi_lxiWord]

@[simp] theorem decodeWords_kxWord (k : Kx) (r : List Word) : decodeWords (kxWord k :: r) = decodeKx k r := by
  rw [decodeWords, wordKind_kxWord]
  simp only [(kxWord_fields k).2.2]

/-- The words of a lane word with its prefixes are read up to the word. -/
theorem decodesTo_of_lane (c : Option Lxc) (x : Option Lxi) {w : Word} {i : Instr} (hk : wordKind w = .lane)
    (hd : ∀ n, decodeLane c x n w = .ok i n) : DecodesTo (lxcWords c ++ lxiWords x ++ [w]) i := by
  have nil (l : List Word) (n : Nat) (h : n = 0) : decodeWords (l.take n) = .needMore := by subst h; rfl
  rcases c with _ | c <;> rcases x with _ | x
  case none.none =>
    exact ⟨by simp [lxcWords, lxiWords, decodeWords, hk, hd], fun n hn => nil _ _ (Nat.lt_one_iff.mp hn)⟩
  case none.some =>
    rw [lxiWords_some]
    refine ⟨(decodeWords_lxiWord x [w]).trans (by simp [decodeLxi, hk, hd, lxcWords]), fun n hn => ?_⟩
    rcases n with _ | _ | n
    · rfl
    · exact decodeWords_lxiWord x []
    · simp [lxcWords] at hn
  case some.none =>
    rw [lxcWords_some]
    refine ⟨(decodeWords_lxcWord c [w]).trans (by simp [decodeLxc, hk, hd, lxiWords]), fun n hn => ?_⟩
    rcases n with _ | _ | n
    · rfl
    · exact decodeWords_lxcWord c []
    · simp [lxiWords] at hn
  case some.some =>
    rw [lxcWords_some, lxiWords_some]
    have hwords (r : List Word) : decodeWords (lxcWord c :: lxiWord x :: r) = decodeBoth c x r := by simp
    refine ⟨(hwords [w]).trans (by simp [decodeBoth, hk, hd]), fun n hn => ?_⟩
    rcases n with _ | _ | _ | n
    · rfl
    · exact decodeWords_lxcWord c []
    · exact hwords []
    · exact absurd hn (by simp)

theorem decodesTo_of_uni (k : Option Kx) {w : Word} {i : Instr} (hk : wordKind w = .uni)
    (hd : ∀ n, decodeUni k n w = .ok i n) : DecodesTo (kxWords k ++ [w]) i := by
  rcases k with _ | k
  case none =>
    refine ⟨by simp [kxWords, decodeWords, hk, hd], fun n hn => ?_⟩
    obtain rfl : n = 0 := Nat.lt_one_iff.mp hn
    rfl
  case some =>
    rw [kxWords_some]
    refine ⟨(decodeWords_kxWord k [w]).trans (by simp [decodeKx, hk, hd]), fun n hn => ?_⟩
    rcases n with _ | _ | n
    · rfl
    · exact decodeWords_kxWord k []
    · simp at hn

/-! The rows of the opcode maps (R226 to R228). -/

/-- The instruction that a lane encoding builds of a word and its prefixes. -/
def LaneBuild.build (b : LaneBuild) (w : Word) (c : Option Lxc) (x : Option Lxi) : Instr :=
  match b with
  | .lr f => f (unLR w c)
  | .li f => f (unLI w c x)
  | .lj f => f (unLJ w c)
  | .lm f => f (unLM w c x)
  | .lc f => f (unLC w c)
  | .lb f => f (unLB w)

/-- The instruction that a uniform major builds. -/
def UniBuild.build (b : UniBuild) (w : Word) (k : Option Kx) : Instr :=
  match b with
  | .ur f => f (unUR w k)
  | .ui f => f (unUI w k)
  | .ub f => f (unUB w)
  | .um f => f (unUM w k)
  | .uc f => f (unUC w k)

/-- The instruction that an encoding selected by FN builds. -/
def FnBuild.build (b : FnBuild) (w : Word) (k : Option Kx) : Instr :=
  match b with
  | .uf f => f (unUF w k)
  | .us0 f => f (unUS w k)
  | .us1 f => f (unUS w k)

/-- The key of a lane word in its map (R226). -/
def laneKey (w : Word) : Nat := 2 * (majorOf w).toNat + if hasF (majorOf w).toNat && w.getLsbD 0 then 1 else 0

/-- The key of a uniform word in the map of encodings that FN selects (R228). -/
def uniFnKey (w : Word) : Nat := fnKey (majorOf w).toNat (w.extractLsb' 0 7).toNat

theorem decodeLane_eq (c : Option Lxc) (x : Option Lxi) (n : Nat) (w : Word) :
    decodeLane c x n w =
      if c.isSome && !takesLxc (majorOf w).toNat then .badForm 0
      else if x.isSome && !takesLxi (majorOf w).toNat then .badForm (if c.isSome then 1 else 0)
      else ((lookupRow (laneKey w) laneRows).map fun b => Decoded.ok (b.build w c x) n).getD .badOpcode := by
  unfold decodeLane laneKey
  dsimp only
  rcases lookupRow _ laneRows with _ | ⟨_ | _ | _ | _ | _ | _⟩ <;> rfl

theorem decodeUni_eq (k : Option Kx) (n : Nat) (w : Word) :
    decodeUni k n w =
      if k.isSome && !takesKx (majorOf w).toNat then .badForm 0
      else ((lookupRow (majorOf w).toNat uniRows).map fun b => Decoded.ok (b.build w k) n).getD
        (((lookupRow (uniFnKey w) fnRows).map fun b => Decoded.ok (b.build w k) n).getD .badOpcode) := by
  unfold decodeUni uniFnKey
  dsimp only
  rcases lookupRow _ uniRows with _ | ⟨_ | _ | _ | _ | _⟩ <;> try rfl
  rcases lookupRow _ fnRows with _ | ⟨_ | _ | _⟩ <;> rfl

/-- What a lane word decodes to: the instruction of its row, when the row takes the prefixes. -/
theorem decodeLane_eq_ok {c : Option Lxc} {x : Option Lxi} {n m : Nat} {w : Word} {i : Instr} :
    decodeLane c x n w = .ok i m ↔ m = n ∧ (c.isSome → takesLxc (majorOf w).toNat) ∧ (x.isSome → takesLxi (majorOf w).toNat) ∧
      ∃ b, lookupRow (laneKey w) laneRows = some b ∧ b.build w c x = i := by
  rw [decodeLane_eq]
  cases lookupRow (laneKey w) laneRows <;> split_ifs <;> simp_all [eq_comm (a := m), And.comm]

/-- What a uniform word decodes to: the instruction of the row of its major, else of its FN, when it takes what stands before it. -/
theorem decodeUni_eq_ok {k : Option Kx} {n m : Nat} {w : Word} {i : Instr} :
    decodeUni k n w = .ok i m ↔ m = n ∧ (k.isSome → takesKx (majorOf w).toNat) ∧
      ((∃ b, lookupRow (majorOf w).toNat uniRows = some b ∧ b.build w k = i) ∨
        lookupRow (majorOf w).toNat uniRows = none ∧ ∃ b, lookupRow (uniFnKey w) fnRows = some b ∧ b.build w k = i) := by
  rw [decodeUni_eq]
  cases lookupRow (majorOf w).toNat uniRows <;> cases lookupRow (uniFnKey w) fnRows <;> split_ifs <;> simp_all [eq_comm (a := m), And.comm]

theorem mem_of_lookupRow {α : Type} {key : Nat} {x : α} {l : List (Nat × α)} (h : lookupRow key l = some x) : (key, x) ∈ l := by
  induction l with
  | nil => cases h
  | cons r l ih =>
    rw [lookupRow] at h
    split at h
    · next hk => cases h; exact hk ▸ List.mem_cons_self
    · exact List.mem_cons_of_mem _ (ih h)

/-- The words of a lane row's instructions: the row's key, the prefixes it takes, and the encoder agree. -/
def LaneRowEncodes (r : Nat × LaneBuild) : Prop :=
  let op := BitVec.ofNat 6 (r.1 / 2)
  let f := BitVec.ofNat 1 r.1
  (r.1 % 2 = 1 → hasF (r.1 / 2)) ∧ r.1 / 2 < 62 ∧
  match r.2 with
  | .lr mk => hasF (r.1 / 2) ∧ takesLxc (r.1 / 2) ∧ takesLxi (r.1 / 2) = false ∧
    ∀ w, encode (mk w) = lxcWords w.lxc ++ [packLR op f w]
  | .li mk => hasF (r.1 / 2) = false ∧ takesLxc (r.1 / 2) ∧ takesLxi (r.1 / 2) ∧
    ∀ w, encode (mk w) = lxcWords w.lxc ++ lxiWords w.lxi ++ [packLI op w]
  | .lj mk => hasF (r.1 / 2) = false ∧ takesLxc (r.1 / 2) ∧ takesLxi (r.1 / 2) = false ∧
    ∀ w, encode (mk w) = lxcWords w.lxc ++ [packLJ op w]
  | .lm mk => hasF (r.1 / 2) = false ∧ takesLxc (r.1 / 2) ∧ takesLxi (r.1 / 2) ∧
    ∀ w, encode (mk w) = lxcWords w.lxc ++ lxiWords w.lxi ++ [packLM op w]
  | .lc mk => hasF (r.1 / 2) ∧ takesLxc (r.1 / 2) ∧ takesLxi (r.1 / 2) = false ∧
    ∀ w, encode (mk w) = lxcWords w.lxc ++ [packLC op f w]
  | .lb mk => hasF (r.1 / 2) ∧ takesLxi (r.1 / 2) = false ∧ takesLxc (r.1 / 2) = false ∧
    ∀ w, encode (mk w) = [packLB op f w]

/-- The words of a uniform major's instructions. -/
def UniRowEncodes (r : Nat × UniBuild) : Prop :=
  let op := BitVec.ofNat 6 r.1
  r.1 < 63 ∧
  match r.2 with
  | .ur mk => takesKx r.1 ∧ ∀ w, encode (mk w) = kxWords w.kx ++ [packUR op w]
  | .ui mk => takesKx r.1 ∧ ∀ w, encode (mk w) = kxWords w.kx ++ [packUI op w]
  | .ub mk => takesKx r.1 = false ∧ ∀ w, encode (mk w) = [packUB op w]
  | .um mk => takesKx r.1 ∧ ∀ w, encode (mk w) = kxWords w.kx ++ [packUM op w]
  | .uc mk => takesKx r.1 ∧ ∀ w, encode (mk w) = kxWords w.kx ++ [packUC op w]

/-- The words of the instructions that FN selects: of a slot command, FN[6:4] less the .nb bit. -/
def FnRowEncodes (r : Nat × FnBuild) : Prop :=
  let op := BitVec.ofNat 6 (r.1 / 128)
  let slot (mk : US → Instr) (nb : BitVec 1) : Prop := (r.1 / 128 = 0x39 ∨ r.1 / 128 = 0x3A) ∧ BitVec.ofNat 1 (r.1 / 32) = nb ∧
    ∀ w, encode (mk w) = kxWords w.kx ++ [packUS op (BitVec.ofNat 1 (r.1 / 64)) (BitVec.ofNat 1 (r.1 / 16)) w]
  r.1 / 128 < 63 ∧
  match r.2 with
  | .uf mk => ¬(r.1 / 128 = 0x39 ∨ r.1 / 128 = 0x3A) ∧ ∀ w, encode (mk w) = kxWords w.kx ++ [packUF op (BitVec.ofNat 7 r.1) w]
  | .us0 mk => slot mk 0
  | .us1 mk => slot mk 1

theorem laneRowEncodes_part0 : ∀ r ∈ laneRows0, LaneRowEncodes r := by
  simp [laneRows0, LaneRowEncodes, hasF, takesLxc, takesLxi, -List.append_assoc]
  repeat' apply And.intro
  all_goals exact fun _ => rfl

theorem laneRowEncodes_part1 : ∀ r ∈ laneRows1, LaneRowEncodes r := by
  simp [laneRows1, LaneRowEncodes, hasF, takesLxc, takesLxi, -List.append_assoc]
  repeat' apply And.intro
  all_goals exact fun _ => rfl

theorem laneRowEncodes_part2 : ∀ r ∈ laneRows2, LaneRowEncodes r := by
  simp [laneRows2, LaneRowEncodes, hasF, takesLxc, takesLxi, -List.append_assoc]
  repeat' apply And.intro
  all_goals exact fun _ => rfl

theorem laneRowEncodes_part3 : ∀ r ∈ laneRows3, LaneRowEncodes r := by
  simp [laneRows3, LaneRowEncodes, hasF, takesLxc, takesLxi, -List.append_assoc]
  repeat' apply And.intro
  all_goals exact fun _ => rfl

theorem laneRowEncodes : ∀ r ∈ laneRows, LaneRowEncodes r := by
  simp only [laneRows, List.forall_mem_append]
  exact ⟨⟨⟨laneRowEncodes_part0, laneRowEncodes_part1⟩, laneRowEncodes_part2⟩, laneRowEncodes_part3⟩

theorem uniRowEncodes : ∀ r ∈ uniRows, UniRowEncodes r := by
  simp [uniRows, uniRows0, uniRows1, UniRowEncodes, takesKx]
  repeat' apply And.intro
  all_goals exact fun _ => rfl

theorem fnRowEncodes : ∀ r ∈ fnRows, FnRowEncodes r := by
  simp [fnRows, fnRows0, FnRowEncodes]
  repeat' apply And.intro
  all_goals exact fun _ => rfl

/-! The words of an instruction decode to it. -/

theorem laneKey_of_fields {w : Word} {op : BitVec 6} (hm : majorOf w = op) :
    (hasF op.toNat = true → ∀ f, w.extractLsb' 0 1 = f → laneKey w = 2 * op.toNat + f.toNat) ∧
      (hasF op.toNat = false → laneKey w = 2 * op.toNat) := by
  subst hm
  refine ⟨fun h f hf => ?_, fun h => by simp [laneKey, h]⟩
  rw [laneKey, h, getLsbD_zero_eq, hf]
  rcases f.eq_zero_or_eq_one with rfl | rfl <;> rfl

/-- A lane word with the prefixes that its row takes decodes to what the row builds. -/
theorem decodesTo_lane {c : Option Lxc} {x : Option Lxi} {w : Word} {b : LaneBuild} (hu : isUni w = false)
    (hm : (majorOf w).toNat < 62) (hc : c.isSome → takesLxc (majorOf w).toNat) (hx : x.isSome → takesLxi (majorOf w).toNat)
    (hrow : lookupRow (laneKey w) laneRows = some b) : DecodesTo (lxcWords c ++ lxiWords x ++ [w]) (b.build w c x) := by
  refine decodesTo_of_lane c x (wordKind_eq_lane.mpr ⟨hu, ?_, ?_⟩) fun n => decodeLane_eq_ok.mpr ⟨rfl, hc, hx, b, hrow, rfl⟩ <;>
    intro h <;> rw [h] at hm <;> exact absurd hm (by decide)

section LaneForms
variable {op : BitVec 6} {f : BitVec 1}

theorem decodesTo_lr {mk : LR → Instr} (w : LR) (he : encode (mk w) = lxcWords w.lxc ++ [packLR op f w])
    (hrow : lookupRow (2 * op.toNat + f.toNat) laneRows = some (.lr mk)) : DecodesTo (encode (mk w)) (mk w) := by
  obtain ⟨hu, hm, hw, hf⟩ := packLR_fields op f w
  have henc := laneRowEncodes _ (mem_of_lookupRow hrow)
  simp only [LaneRowEncodes, show (2 * op.toNat + f.toNat) / 2 = op.toNat by omega] at henc
  obtain ⟨-, hlt, hF, hc, -⟩ := henc
  have hkey := (laneKey_of_fields hm).1 hF f hf
  have := decodesTo_lane (c := w.lxc) (x := none) hu (by rwa [hm]) (by simp [hm, hc]) nofun (hkey ▸ hrow)
  rwa [LaneBuild.build, hw, lxiWords, List.append_nil, ← he] at this

theorem decodesTo_li {mk : LI → Instr} (w : LI) (he : encode (mk w) = lxcWords w.lxc ++ lxiWords w.lxi ++ [packLI op w])
    (hrow : lookupRow (2 * op.toNat) laneRows = some (.li mk)) : DecodesTo (encode (mk w)) (mk w) := by
  obtain ⟨hu, hm, hw⟩ := packLI_fields op w
  have henc := laneRowEncodes _ (mem_of_lookupRow hrow)
  simp only [LaneRowEncodes, show 2 * op.toNat / 2 = op.toNat by omega] at henc
  obtain ⟨-, hlt, hF, hc, hx, -⟩ := henc
  have hkey := (laneKey_of_fields hm).2 hF
  have := decodesTo_lane (c := w.lxc) (x := w.lxi) hu (by rwa [hm]) (by simp [hm, hc]) (by simp [hm, hx]) (hkey ▸ hrow)
  rwa [LaneBuild.build, hw, ← he] at this

theorem decodesTo_lj {mk : LJ → Instr} (w : LJ) (he : encode (mk w) = lxcWords w.lxc ++ [packLJ op w])
    (hrow : lookupRow (2 * op.toNat) laneRows = some (.lj mk)) : DecodesTo (encode (mk w)) (mk w) := by
  obtain ⟨hu, hm, hw⟩ := packLJ_fields op w
  have henc := laneRowEncodes _ (mem_of_lookupRow hrow)
  simp only [LaneRowEncodes, show 2 * op.toNat / 2 = op.toNat by omega] at henc
  obtain ⟨-, hlt, hF, hc, -⟩ := henc
  have hkey := (laneKey_of_fields hm).2 hF
  have := decodesTo_lane (c := w.lxc) (x := none) hu (by rwa [hm]) (by simp [hm, hc]) nofun (hkey ▸ hrow)
  rwa [LaneBuild.build, hw, lxiWords, List.append_nil, ← he] at this

theorem decodesTo_lm {mk : LM → Instr} (w : LM) (he : encode (mk w) = lxcWords w.lxc ++ lxiWords w.lxi ++ [packLM op w])
    (hrow : lookupRow (2 * op.toNat) laneRows = some (.lm mk)) : DecodesTo (encode (mk w)) (mk w) := by
  obtain ⟨hu, hm, hw⟩ := packLM_fields op w
  have henc := laneRowEncodes _ (mem_of_lookupRow hrow)
  simp only [LaneRowEncodes, show 2 * op.toNat / 2 = op.toNat by omega] at henc
  obtain ⟨-, hlt, hF, hc, hx, -⟩ := henc
  have hkey := (laneKey_of_fields hm).2 hF
  have := decodesTo_lane (c := w.lxc) (x := w.lxi) hu (by rwa [hm]) (by simp [hm, hc]) (by simp [hm, hx]) (hkey ▸ hrow)
  rwa [LaneBuild.build, hw, ← he] at this

theorem decodesTo_lc {mk : LC → Instr} (w : LC) (he : encode (mk w) = lxcWords w.lxc ++ [packLC op f w])
    (hrow : lookupRow (2 * op.toNat + f.toNat) laneRows = some (.lc mk)) : DecodesTo (encode (mk w)) (mk w) := by
  obtain ⟨hu, hm, hw, hf⟩ := packLC_fields op f w
  have henc := laneRowEncodes _ (mem_of_lookupRow hrow)
  simp only [LaneRowEncodes, show (2 * op.toNat + f.toNat) / 2 = op.toNat by omega] at henc
  obtain ⟨-, hlt, hF, hc, -⟩ := henc
  have hkey := (laneKey_of_fields hm).1 hF f hf
  have := decodesTo_lane (c := w.lxc) (x := none) hu (by rwa [hm]) (by simp [hm, hc]) nofun (hkey ▸ hrow)
  rwa [LaneBuild.build, hw, lxiWords, List.append_nil, ← he] at this

theorem decodesTo_lb {mk : LB → Instr} (w : LB) (he : encode (mk w) = [packLB op f w])
    (hrow : lookupRow (2 * op.toNat + f.toNat) laneRows = some (.lb mk)) : DecodesTo (encode (mk w)) (mk w) := by
  obtain ⟨hu, hm, hw, hf⟩ := packLB_fields op f w
  have henc := laneRowEncodes _ (mem_of_lookupRow hrow)
  simp only [LaneRowEncodes, show (2 * op.toNat + f.toNat) / 2 = op.toNat by omega] at henc
  obtain ⟨-, hlt, hF, -⟩ := henc
  have hkey := (laneKey_of_fields hm).1 hF f hf
  have := decodesTo_lane (c := none) (x := none) hu (by rwa [hm]) nofun nofun (hkey ▸ hrow)
  rwa [LaneBuild.build, hw, lxcWords, lxiWords, List.nil_append, List.nil_append, ← he] at this

end LaneForms

/-- A uniform word behind the words that its major takes decodes to what its row builds. -/
theorem decodesTo_uni {k : Option Kx} {w : Word} {i : Instr} (hu : isUni w = true) (hm : (majorOf w).toNat < 63)
    (hk : k.isSome → takesKx (majorOf w).toNat)
    (hrow : (∃ b, lookupRow (majorOf w).toNat uniRows = some b ∧ b.build w k = i) ∨
      lookupRow (majorOf w).toNat uniRows = none ∧ ∃ b, lookupRow (uniFnKey w) fnRows = some b ∧ b.build w k = i) :
    DecodesTo (kxWords k ++ [w]) i := by
  refine decodesTo_of_uni k (wordKind_eq_uni.mpr ⟨hu, ?_⟩) fun n => decodeUni_eq_ok.mpr ⟨rfl, hk, hrow⟩
  intro h
  rw [h] at hm
  exact absurd hm (by decide)

section UniForms
variable {op : BitVec 6}

theorem decodesTo_ur {mk : UR → Instr} (w : UR) (he : encode (mk w) = kxWords w.kx ++ [packUR op w])
    (hrow : lookupRow op.toNat uniRows = some (.ur mk)) : DecodesTo (encode (mk w)) (mk w) := by
  obtain ⟨hu, hm, hw⟩ := packUR_fields op w
  obtain ⟨hlt, hk, -⟩ := uniRowEncodes _ (mem_of_lookupRow hrow)
  have := decodesTo_uni (k := w.kx) hu (by rwa [hm]) (by simpa [hm] using fun _ => hk) (.inl ⟨_, by rwa [hm], rfl⟩)
  rwa [UniBuild.build, hw, ← he] at this

theorem decodesTo_ui {mk : UI → Instr} (w : UI) (he : encode (mk w) = kxWords w.kx ++ [packUI op w])
    (hrow : lookupRow op.toNat uniRows = some (.ui mk)) : DecodesTo (encode (mk w)) (mk w) := by
  obtain ⟨hu, hm, hw⟩ := packUI_fields op w
  obtain ⟨hlt, hk, -⟩ := uniRowEncodes _ (mem_of_lookupRow hrow)
  have := decodesTo_uni (k := w.kx) hu (by rwa [hm]) (by simpa [hm] using fun _ => hk) (.inl ⟨_, by rwa [hm], rfl⟩)
  rwa [UniBuild.build, hw, ← he] at this

theorem decodesTo_ub {mk : UB → Instr} (w : UB) (he : encode (mk w) = [packUB op w])
    (hrow : lookupRow op.toNat uniRows = some (.ub mk)) : DecodesTo (encode (mk w)) (mk w) := by
  obtain ⟨hu, hm, hw⟩ := packUB_fields op w
  obtain ⟨hlt, -⟩ := uniRowEncodes _ (mem_of_lookupRow hrow)
  have := decodesTo_uni (k := none) hu (by rwa [hm]) nofun (.inl ⟨_, by rwa [hm], rfl⟩)
  rwa [UniBuild.build, hw, kxWords, List.nil_append, ← he] at this

theorem decodesTo_um {mk : UM → Instr} (w : UM) (he : encode (mk w) = kxWords w.kx ++ [packUM op w])
    (hrow : lookupRow op.toNat uniRows = some (.um mk)) : DecodesTo (encode (mk w)) (mk w) := by
  obtain ⟨hu, hm, hw⟩ := packUM_fields op w
  obtain ⟨hlt, hk, -⟩ := uniRowEncodes _ (mem_of_lookupRow hrow)
  have := decodesTo_uni (k := w.kx) hu (by rwa [hm]) (by simpa [hm] using fun _ => hk) (.inl ⟨_, by rwa [hm], rfl⟩)
  rwa [UniBuild.build, hw, ← he] at this

theorem decodesTo_uc {mk : UC → Instr} (w : UC) (he : encode (mk w) = kxWords w.kx ++ [packUC op w])
    (hrow : lookupRow op.toNat uniRows = some (.uc mk)) : DecodesTo (encode (mk w)) (mk w) := by
  obtain ⟨hu, hm, hw⟩ := packUC_fields op w
  obtain ⟨hlt, hk, -⟩ := uniRowEncodes _ (mem_of_lookupRow hrow)
  have := decodesTo_uni (k := w.kx) hu (by rwa [hm]) (by simpa [hm] using fun _ => hk) (.inl ⟨_, by rwa [hm], rfl⟩)
  rwa [UniBuild.build, hw, ← he] at this

/-- An encoding that FN selects has a major of its own, which takes a KX. -/
theorem major_of_fnRow {r : Nat × FnBuild} (h : r ∈ fnRows) : takesKx (r.1 / 128) ∧ lookupRow (r.1 / 128) uniRows = none := by
  revert r
  simp [fnRows, fnRows0, takesKx, uniRows, uniRows0, uniRows1, lookupRow]

theorem decodesTo_uf {fn : BitVec 7} {mk : UF → Instr} (w : UF) (he : encode (mk w) = kxWords w.kx ++ [packUF op fn w])
    (hrow : lookupRow (128 * op.toNat + fn.toNat) fnRows = some (.uf mk)) : DecodesTo (encode (mk w)) (mk w) := by
  obtain ⟨hu, hm, hw, hfn⟩ := packUF_fields op fn w
  have hop : (128 * op.toNat + fn.toNat) / 128 = op.toNat := by omega
  have hmem := mem_of_lookupRow hrow
  have hmajor := major_of_fnRow hmem
  have henc := fnRowEncodes _ hmem
  simp only [FnRowEncodes, hop] at henc hmajor
  obtain ⟨hlt, hslot, -⟩ := henc
  have hkey : uniFnKey (packUF op fn w) = 128 * op.toNat + fn.toNat := by rw [uniFnKey, hm, hfn, fnKey, if_neg hslot]
  have := decodesTo_uni (k := w.kx) hu (by rwa [hm]) (by simpa [hm] using fun _ => hmajor.1)
    (.inr ⟨by rw [hm]; exact hmajor.2, _, hkey ▸ hrow, rfl⟩)
  rwa [FnBuild.build, hw, ← he] at this

/-- Which instruction a slot command is does not depend on its ring bits (R70). -/
theorem decodesTo_us {hi lo : BitVec 1} {mk : US → Instr} (w : US) (he : encode (mk w) = kxWords w.kx ++ [packUS op hi lo w])
    (hrow : lookupRow (128 * op.toNat + (64 * hi.toNat + 32 * w.nb.toNat + 16 * lo.toNat)) fnRows = some (.us0 mk) ∨
      lookupRow (128 * op.toNat + (64 * hi.toNat + 32 * w.nb.toNat + 16 * lo.toNat)) fnRows = some (.us1 mk)) :
    DecodesTo (encode (mk w)) (mk w) := by
  obtain ⟨hu, hm, hw, hfn⟩ := packUS_fields op hi lo w
  have hop : (128 * op.toNat + (64 * hi.toNat + 32 * w.nb.toNat + 16 * lo.toNat)) / 128 = op.toNat := by omega
  have hfacts : op.toNat < 63 ∧ (op.toNat = 0x39 ∨ op.toNat = 0x3A) ∧ takesKx op.toNat ∧ lookupRow op.toNat uniRows = none := by
    rcases hrow with h | h
    all_goals
      have henc := fnRowEncodes _ (mem_of_lookupRow h)
      have hmajor := major_of_fnRow (mem_of_lookupRow h)
      simp only [FnRowEncodes, hop] at henc hmajor
      exact ⟨henc.1, henc.2.1, hmajor⟩
  obtain ⟨hlt, hslot, hk, hnone⟩ := hfacts
  have hkey : uniFnKey (packUS op hi lo w) = 128 * op.toNat + (64 * hi.toNat + 32 * w.nb.toNat + 16 * lo.toNat) := by
    rw [uniFnKey, hm, hfn, fnKey, if_pos hslot]
    simp only [toNat_append_eq_add]
    omega
  have build (b : FnBuild) (hb : b = .us0 mk ∨ b = .us1 mk) : b.build (packUS op hi lo w) w.kx = mk w := by
    rcases hb with rfl | rfl <;> rw [FnBuild.build, hw]
  have := decodesTo_uni (k := w.kx) (i := mk w) hu (by rwa [hm]) (by simpa [hm] using fun _ => hk)
    (.inr ⟨by rw [hm]; exact hnone, by
      rw [hkey]
      rcases hrow with h | h
      exacts [⟨_, h, build _ (.inl rfl)⟩, ⟨_, h, build _ (.inr rfl)⟩]⟩)
  rwa [← he] at this

end UniForms

/-! What decodes is the words of what it decodes to. -/

theorem lookup_key_bounds (w : Word) : laneKey w / 2 = (majorOf w).toNat ∧
    (hasF (laneKey w / 2) → laneKey w = 2 * (majorOf w).toNat + (w.extractLsb' 0 1).toNat) := by
  have hle : (if (hasF (majorOf w).toNat && w.getLsbD 0) = true then 1 else 0) ≤ 1 := by split <;> omega
  have hdiv : laneKey w / 2 = (majorOf w).toNat := by rw [laneKey]; omega
  exact ⟨hdiv, fun h => (laneKey_of_fields rfl).1 (hdiv ▸ h) _ rfl⟩

theorem encode_of_decodeLane {c : Option Lxc} {x : Option Lxi} {n m : Nat} {w : Word} {i : Instr} (hk : wordKind w = .lane)
    (h : decodeLane c x n w = .ok i m) : m = n ∧ encode i = lxcWords c ++ lxiWords x ++ [w] := by
  obtain ⟨rfl, hc, hx, b, hrow, rfl⟩ := decodeLane_eq_ok.mp h
  refine ⟨rfl, ?_⟩
  have hu := (wordKind_eq_lane.mp hk).1
  have henc := laneRowEncodes _ (mem_of_lookupRow hrow)
  obtain ⟨hdiv, hkey⟩ := lookup_key_bounds w
  have hop : BitVec.ofNat 6 (laneKey w / 2) = majorOf w := by rw [hdiv, BitVec.ofNat_toNat, BitVec.setWidth_eq]
  have hf (hF : hasF (laneKey w / 2)) : BitVec.ofNat 1 (laneKey w) = w.extractLsb' 0 1 := by
    rw [hkey hF, ← toNat_inj, BitVec.toNat_ofNat]
    omega
  have hnone (hx' : takesLxi (laneKey w / 2) = false) : x = none := by
    rw [hdiv] at hx'
    simpa [hx'] using hx
  simp only [LaneRowEncodes, hop] at henc
  obtain ⟨-, -, henc⟩ := henc
  match b, henc with
  | .lr mk, ⟨hF, hc, hx, henc⟩ => rw [LaneBuild.build, henc, hnone hx, hf hF, packLR_unLR hu, lxiWords, List.append_nil]; rfl
  | .li mk, ⟨hF, hc, hx, henc⟩ => rw [LaneBuild.build, henc, packLI_unLI hu]; rfl
  | .lj mk, ⟨hF, hc, hx, henc⟩ => rw [LaneBuild.build, henc, hnone hx, packLJ_unLJ hu, lxiWords, List.append_nil]; rfl
  | .lm mk, ⟨hF, hc, hx, henc⟩ => rw [LaneBuild.build, henc, packLM_unLM hu]; rfl
  | .lc mk, ⟨hF, hc, hx, henc⟩ => rw [LaneBuild.build, henc, hnone hx, hf hF, packLC_unLC hu, lxiWords, List.append_nil]; rfl
  | .lb mk, ⟨hF, hx, hc', henc⟩ =>
    have hcnone : c = none := by rw [hdiv] at hc'; simpa [hc'] using hc
    rw [LaneBuild.build, henc, hnone hx, hcnone, hf hF, packLB_unLB hu]
    rfl

theorem encode_of_decodeUni {k : Option Kx} {n m : Nat} {w : Word} {i : Instr} (hk : wordKind w = .uni)
    (h : decodeUni k n w = .ok i m) : m = n ∧ encode i = kxWords k ++ [w] := by
  obtain ⟨rfl, hkx, hrow⟩ := decodeUni_eq_ok.mp h
  refine ⟨rfl, ?_⟩
  have hu := (wordKind_eq_uni.mp hk).1
  rcases hrow with ⟨b, hrow, rfl⟩ | ⟨-, b, hrow, rfl⟩
  · have henc := uniRowEncodes _ (mem_of_lookupRow hrow)
    simp only [UniRowEncodes, BitVec.ofNat_toNat, BitVec.setWidth_eq] at henc
    obtain ⟨-, henc⟩ := henc
    match b, henc with
    | .ur mk, ⟨_, henc⟩ => rw [UniBuild.build, henc, packUR_unUR hu]; rfl
    | .ui mk, ⟨_, henc⟩ => rw [UniBuild.build, henc, packUI_unUI hu]; rfl
    | .um mk, ⟨_, henc⟩ => rw [UniBuild.build, henc, packUM_unUM hu]; rfl
    | .uc mk, ⟨_, henc⟩ => rw [UniBuild.build, henc, packUC_unUC hu]; rfl
    | .ub mk, ⟨hno, henc⟩ =>
      have hnone : k = none := by simpa [hno] using hkx
      rw [UniBuild.build, henc, hnone, packUB_unUB hu]
      rfl
  · have henc := fnRowEncodes _ (mem_of_lookupRow hrow)
    have hfn : (w.extractLsb' 0 7).toNat < 128 := (w.extractLsb' 0 7).isLt
    have hdiv : uniFnKey w / 128 = (majorOf w).toNat := by rw [uniFnKey, fnKey]; split <;> omega
    simp only [FnRowEncodes, hdiv, BitVec.ofNat_toNat, BitVec.setWidth_eq] at henc
    obtain ⟨-, henc⟩ := henc
    have slot {mk : US → Instr} {nb : BitVec 1}
        (hs : ((majorOf w).toNat = 0x39 ∨ (majorOf w).toNat = 0x3A) ∧ BitVec.ofNat 1 (uniFnKey w / 32) = nb ∧
          ∀ v, encode (mk v) = kxWords v.kx ++
            [packUS (majorOf w) (BitVec.ofNat 1 (uniFnKey w / 64)) (BitVec.ofNat 1 (uniFnKey w / 16)) v]) :
        encode (mk (unUS w k)) = kxWords k ++ [w] := by
      obtain ⟨hop, -, henc⟩ := hs
      have hbit (s : Nat) (h : s = 6 ∨ s = 4) : BitVec.ofNat 1 (uniFnKey w / 2 ^ s) = w.extractLsb' s 1 := by
        rw [uniFnKey, fnKey, if_pos hop, ← toNat_inj, BitVec.toNat_ofNat]
        simp only [toNat_extractLsb'_eq_div]
        rcases h with rfl | rfl <;> omega
      rw [henc, show BitVec.ofNat 1 (uniFnKey w / 64) = _ from hbit 6 (.inl rfl),
        show BitVec.ofNat 1 (uniFnKey w / 16) = _ from hbit 4 (.inr rfl), packUS_unUS hu]
      rfl
    match b, henc with
    | .uf mk, ⟨hop, henc⟩ =>
      have hfield : BitVec.ofNat 7 (uniFnKey w) = w.extractLsb' 0 7 := by
        rw [uniFnKey, fnKey, if_neg hop, ← toNat_inj, BitVec.toNat_ofNat]
        omega
      rw [FnBuild.build, henc, hfield, packUF_unUF hu]
      rfl
    | .us0 mk, henc => exact slot henc
    | .us1 mk, henc => exact slot henc

/-- The words that decode, by the sorts of their prefixes (R221, R225). -/
theorem encode_of_decodeWords {ws : List Word} {i : Instr} {n : Nat} (h : decodeWords ws = .ok i n) :
    n ≤ ws.length ∧ encode i = ws.take n := by
  rcases ws with _ | ⟨w, ws⟩
  · cases h
  cases hw : wordKind w <;> simp only [decodeWords, hw] at h
  case lane => obtain ⟨rfl, he⟩ := encode_of_decodeLane hw h; exact ⟨by simp, he⟩
  case uni => obtain ⟨rfl, he⟩ := encode_of_decodeUni hw h; exact ⟨by simp, he⟩
  all_goals
    rcases ws with _ | ⟨v, ws⟩
    · cases h
    cases hv : wordKind v
    all_goals simp only [decodeLxc, decodeLxi, decodeKx, hv] at h
  case lxi.cons.lane =>
    obtain ⟨rfl, he⟩ := encode_of_decodeLane hv h
    exact ⟨by simp, by rw [he, lxiWords_some, lxiWord_unLxi hw]; rfl⟩
  case lxc.cons.lane =>
    obtain ⟨rfl, he⟩ := encode_of_decodeLane hv h
    exact ⟨by simp, by rw [he, lxcWords_some, lxcWord_unLxc hw]; rfl⟩
  case kx.cons.uni =>
    obtain ⟨rfl, he⟩ := encode_of_decodeUni hv h
    exact ⟨by simp, by rw [he, kxWords_some, kxWord_unKx hw]; rfl⟩
  case lxc.cons.lxi =>
    rcases ws with _ | ⟨u, ws⟩
    · cases h
    cases hu : wordKind u <;> simp only [decodeBoth, hu] at h
    case lane =>
      obtain ⟨rfl, he⟩ := encode_of_decodeLane hu h
      exact ⟨by simp, by rw [he, lxcWords_some, lxiWords_some, lxcWord_unLxc hw, lxiWord_unLxi hv]; rfl⟩
    all_goals cases h
  all_goals cases h

/-- A well-formed SLOTR.init has no .nb bit (R70). -/
theorem nb_of_wellFormed_slotrInit {v kn : Nat} {w : US} (h : wellFormed v kn (.slotrInit w) = true) : w.nb = 0 := by
  simp [wellFormed, fieldError, Fields.uniErr, Fields.plainErr] at h
  exact h.2.2.2

/-- The words of a well-formed instruction decode to it, form by form. -/
theorem decodesTo_encode {v kn : Nat} {i : Instr} (h : wellFormed v kn i = true) (he : encode i ≠ []) : DecodesTo (encode i) i := by
  cases i
  case iadd w | isub w | iadds w | isubs w | imul w | imulh w | imulhn w | imulw w | imad w | imin w | imax w | nmin w | nmax w
      | land w | lor w | lxor w | landn w | shl w | shr w | sar w | rol w | bfe w | bfi w | popc w | clz w | brev w | iabs w | icmp w
      | ncmp w | sel w | mov w | iadd64 w | isub64 w | lea w | fadd w | fsub w | fmul w | ffma w | fmin w | fmax w | fcmp w | fcmpn w
      | frcp w | fsqrt w | frsq w | fexp2 w | flog2 w | fdiv w | ffrc w | frnd w | hadd2 w | hmul2 w | hfma2 w | hmax2 w | hmin2 w
      | cvt w | cvtp w | cvtu w | fsmx w | dot4 w | dot8 w | dotf4 w | dotf8 w | shfl w | shflx w | shflu w | shfld w | gthr w | sctr w
      | poll w | matchEq w | redx w | scanx w | topk w | topkm w | plog w | ptov w | srd w | atomg w | atoms w | kvx w | kvxNf w
      | await w | exit w | fread w | ffill w | acld w | acst w => exact decodesTo_lr w rfl rfl
  case iaddi w | andi w | ori w | xori w | icmpi w | movi w => exact decodesTo_li w rfl rfl
  case shi w => exact decodesTo_lj w rfl rfl
  case ldg w | stg w | lds w | sts w | ldp w | stp w => exact decodesTo_lm w rfl rfl
  case spawn w => exact decodesTo_lc w rfl rfl
  case rebinB w | rebinS w => exact decodesTo_lb w rfl rfl
  case kadd w | ksub w | kmul w | kmulh w | kand w | kor w | kxor w | kshl w | kshr w | ksar w | kmin w | kmax w | kcmp w | ksel w
      | kmov w | kadd64 w | klea w => exact decodesTo_ur w rfl rfl
  case kaddi w | kmovi w | klui w | kandi w | kori w => exact decodesTo_ui w rfl rfl
  case bra w | call w | brd w | syn w => exact decodesTo_ub w rfl rfl
  case kld w | kst w | klds w | ksts w => exact decodesTo_um w rfl rfl
  case join w | ret w | jmpr w | callr w | katom w | cpy w | cpym w | qfen w | mres w | mrel w | mma w | mfen w | mwait w | kvld w
      | kvst w | kvinv w | mrg w | rfen w | bara w | barw w | bars w | waita w => exact decodesTo_uc w rfl rfl
  case twm w | tstat w | tclr w | glnch w | gwait w | phend w | nop w | yield w | pref w | tail w | exitg w | clk w | trap w | brkp w
      | csrr w | csrw w | hsig w | hflush w | kbal w | kfirst w | kact w => exact decodesTo_uf w rfl rfl
  case slotaFree w | slotaFull w | slotrFull w | slotrFree w =>
    refine decodesTo_us w rfl ?_
    rcases w.nb.eq_zero_or_eq_one with hnb | hnb <;> rw [hnb]
    exacts [.inl rfl, .inr rfl]
  case slotrInit w => exact decodesTo_us w rfl (.inl (by rw [nb_of_wellFormed_slotrInit h]; rfl))
  all_goals exact absurd rfl he

end Sys2Proof
end

section
/-! The statements on the decoder (10). -/

namespace Sys2Proof

/-- Settles O57: form by form, the fields that the decoder takes from a packed word are those packed, and the other way round. -/
theorem decodeEncode : Obligations.DecodeEncode := by
  unfold Obligations.DecodeEncode
  exact ⟨fun _ _ _ h he => decodesTo_encode h he, fun _ _ _ h => encode_of_decodeWords h⟩

/-- Settles O58: each list of bytes is computed; a KX before BRA is refused by the form of BRA's major. -/
theorem decodeWords_holds : Obligations.DecodeWords := by
  unfold Obligations.DecodeWords
  refine ⟨by decide, by decide, by decide, fun d n a b => ?_, fun k => ?_, by decide⟩
  · exact (decodesTo_lr (mk := .fadd) ⟨d, n, a, b, none⟩ rfl rfl).1
  · exact decodeWords_kxWord k _

end Sys2Proof
end

section
/-! SUPPORT. Further rules by shape: packed halves, float dot products, and the thread's side of TOPK and SRD. -/

namespace Sys2Proof.Machine

/-- A 64-bit write-back changes no latch order: the pair's low word goes through the latches first (R18). -/
theorem Thread.takes64_words (a : Thread) (d : BitVec 7) (n : BitVec 1) (c : Word × Word) :
    a.Takes64 (((a.writePair d n (c.2 ++ c.1)).shiftLatch c.1).shiftLatch c.2) d n (some (c.2 ++ c.1)) := by
  have hlo : (c.2 ++ c.1).extractLsb' 0 32 = c.1 := BitVec.extractLsb'_append_eq_right
  have hhi : (c.2 ++ c.1).extractLsb' 32 32 = c.2 := BitVec.extractLsb'_append_eq_left
  have h := a.takes64_active d n (c.2 ++ c.1)
  rwa [hlo, hhi] at h

/-- Two latches take the words given, and nothing else of the thread changes. -/
theorem Thread.shiftLatch_shiftLatch (a : Thread) (lo hi : Word) :
    (a.shiftLatch lo).shiftLatch hi = { a with lat := hi :: lo :: a.lat.take 6 } := by
  simp [Thread.shiftLatch, List.take_take]

theorem exec_topK (w : LR) (merge : Bool) (s : State) : exec (if merge then .topkm w else .topk w) s = s.topK w merge := by
  cases merge <;> rfl

/-- Changes of the lanes, one after the other, are one change. -/
theorem Group.eachThread_onLanes_onAll (g : Group) (m : BitVec 32) (f h : Nat → Thread → Thread) (R : Nat → Thread → Thread → Prop)
    (hR : ∀ i a, R i a (if m.getLsbD i then h i (f i a) else f i a)) : EachThread g ((g.onAll f).onLanes m h) R := by
  intro i
  rw [Group.lane_onLanes, Group.lane_onAll]
  cases g.lane i with
  | none => simp
  | some a =>
    refine ⟨_, ?_, hR i a⟩
    split <;> rfl

/-- A kept CLK word stands aside from a 32-bit result. -/
theorem Thread.Takes32.withClkHi {a b : Thread} {d : BitVec 7} {n : BitVec 1} {x : Option Word} (h : a.Takes32 b d n x)
    (k : Option Word) : ({ a with clkHi := k } : Thread).Takes32 { b with clkHi := k } d n x := by
  obtain ⟨⟨hrest, hlen⟩, hp, hlat, hv⟩ := h
  exact ⟨⟨by rw [hrest], hlen⟩, hp, hlat, hv⟩

/-- A thread after a 32-bit result of its lane. -/
def Thread.after32 (act : BitVec 32) (d : BitVec 7) (n : BitVec 1) (f : Nat → Thread → Word) (i : Nat) (a : Thread) : Thread :=
  if act.getLsbD i then (a.writeBack d n (f i a)).shiftLatch (f i a) else a.shiftLatch 0

theorem Thread.takes32_after32 (act : BitVec 32) (d : BitVec 7) (n : BitVec 1) (f : Nat → Thread → Word) (i : Nat) (a : Thread) :
    a.Takes32 (a.after32 act d n f i) d n (ofActive act f i a) := by
  unfold Thread.after32 ofActive
  split
  · exact a.takes32_active d n _
  · exact a.takes32_inactive d n

/-- The word that CLKLO keeps beside its sample (R250). -/
def State.keepClk (s : State) (w : LR) (t : Thread) : Thread :=
  if w.a.toNat = 9 then { t with clkHi := some (BitVec.ofNat 32 (s.now / 2 ^ 32)) } else t

theorem exec_srd_eq (w : LR) (s : State) : exec (.srd w) s =
    .next ((s.onMe fun g => (g.onAll (Thread.after32 (s.me.active w.lxc) w.d w.n fun i t => s.special w.a.toNat i t)).onLanes
      (s.me.active w.lxc) fun _ t => s.keepClk w t).advance (lrLen w) (occupancy false (s.me.active w.lxc))) :=
  s.laneRun_next w.lxc [] (fun act => (s.onMe fun g => (g.onAll (Thread.after32 act w.d w.n fun i t => s.special w.a.toNat i t)).onLanes
    act fun _ t => s.keepClk w t).advance (lrLen w) (occupancy false act)) (s.lanePoison_nil _)

end Sys2Proof.Machine
end

section
/-! The statements on lane integers, floats, compares, conversions, TOPK and SRD (11, 12, 13). -/

namespace Sys2Proof.Machine

/-- Settles O1: every instruction is `laneWord` of the function that its rule gives. -/
theorem laneIntegers : Obligations.LaneIntegers := by
  unfold Obligations.LaneIntegers
  refine ⟨⟨?iadd, ?isub, ?iadds, ?isubs, ?imul, ?imulh, ?imulhn, ?imad, ?dot4, ?dot8, ?iaddi⟩, ?imin, ?imax, ?nmin, ?nmax, ?land, ?lor,
    ?lxor, ?landn, ?shl, ?shr, ?sar, ?rol, ?bfe, ?bfi, ?popc, ?clz, ?brev, ?iabs, ?andi, ?ori, ?xori, exec_shi_next⟩
  case iadd | isub | iadds | isubs | imul | imulh | imulhn | imin | imax | nmin | nmax | land | lor | lxor | landn | shl | shr | sar
      | rol | bfe => exact fun w s h => s.laneWord_next _ _ _ _ _ _ h
  case imad | dot4 | dot8 | bfi => exact fun w s h => s.laneWord_next _ _ _ _ _ _ h
  case popc | clz | brev | iabs => exact fun w s h => s.laneWord_next _ _ _ _ _ _ h
  case iaddi | andi | ori | xori => exact fun w s h => s.laneWord_next _ _ _ _ _ _ h

/-- Settles O4: every instruction is `laneFp` of the function that its rule gives. -/
theorem laneFloats : Obligations.LaneFloats := by
  unfold Obligations.LaneFloats
  refine ⟨⟨?fadd, ?fsub, ?fmul, ?fdiv, ?fmin, ?fmax, ?fsmx, ?frcp, ?fsqrt, ?frsq, ?fexp2, ?flog2, ?ffrc, ?frnd, ?ffma⟩,
    ?hadd2, ?hmul2, ?hmax2, ?hmin2, fun w s h => ⟨?hfma2, ?dotf4, ?dotf8⟩⟩
  case fadd | fsub | fmul | fdiv | fmin | fmax | fsmx | ffma | hadd2 | hmul2 | hmax2 | hmin2 | frcp | fsqrt | frsq | fexp2 | flog2
      | ffrc | frnd => exact fun w s h => laneFpResult_of h rfl
  case hfma2 | dotf4 | dotf8 => exact laneFpResult_of h rfl

/-- Settles O5: the compares are `fpCmpOp`, the conversions `laneConv`. -/
theorem laneComparesAndConversions : Obligations.LaneComparesAndConversions := by
  unfold Obligations.LaneComparesAndConversions
  refine ⟨fun w s h => ⟨?fcmp, ?fcmpn⟩, fun w s => ⟨fun h => ⟨?cvt, ?cvtu⟩, fun h => ?cvtp⟩⟩
  case fcmp => exact s.fpCmpOp_next w false h
  case fcmpn => exact s.fpCmpOp_next w true h
  case cvt | cvtu | cvtp => exact convResult_of h rfl

/-- Settles O8: neither check finds poison, and each lane takes its rank's candidate, or two free latches. -/
theorem laneTopK : Obligations.LaneTopK := by
  unfold Obligations.LaneTopK
  intro w s merge k h hslots act ranked
  have hsick : (if merge then s.lanePoison (s.me.liveMask &&& maskOf fun i => decide (i < k)) [(w.d.setWidth 8, 2)] else 0) = 0 := by
    cases merge with
    | false => rfl
    | true => exact hslots rfl
  rw [exec_topK]
  unfold State.topK
  rw [s.laneRun_next _ _ _ h, if_neg (not_not.mpr hsick)]
  refine ⟨_, rfl, ?only, ?goes, ?each⟩
  case only => rfl
  case goes => rw [State.clearV_eq]; rfl
  case each =>
    rw [State.advance_me, State.onMe_me, State.clearV_eq]
    refine Group.eachThread_onAll _ _ _ fun i a => ?_
    split
    · exact a.takes64_inactive _ _
    split
    · exact a.takes64_words _ _ _
    · exact ⟨_, _, a.shiftLatch_shiftLatch _ _⟩

/-- Settles O9: SRD is a 32-bit result followed by the write of the kept CLK word. -/
theorem laneSpecialRegisters : Obligations.LaneSpecialRegisters := by
  unfold Obligations.LaneSpecialRegisters
  refine fun w s => ⟨⟨_, exec_srd_eq w s, rfl, rfl, Group.eachThread_onLanes_onAll _ _ _ _ _ fun i a => ?_⟩, fun i a =>
    ⟨rfl, rfl, rfl, rfl, rfl, rfl, rfl, rfl, rfl, rfl, rfl, rfl, rfl⟩⟩
  have h := a.takes32_after32 (s.me.active w.lxc) w.d w.n (fun l c => s.special w.a.toNat l c) i
  by_cases hact : (s.me.active w.lxc).getLsbD i = true
  · by_cases hclk : w.a.toNat = 9
    · simpa [State.keepClk, hact, hclk, -Nat.reducePow] using h.withClkHi (some (BitVec.ofNat 32 (s.now / 2 ^ 32)))
    · simpa [State.keepClk, hact, hclk] using h
  · simpa [hact] using h

end Sys2Proof.Machine
end

section
/-! SUPPORT. Writes of one predicate, of a thread or of the group. -/

namespace Sys2Proof.Machine

/-- A predicate write sets or clears its bit and leaves the others (R217, R294). -/
theorem Group.getLsbD_setQ (g : Group) (p : Nat) (x : Bool) {i : Nat} (hi : i < 7) :
    (g.setQ p x).q.getLsbD i = if i = p then x else g.q.getLsbD i := by
  -- the group's predicates are written as those of a thread are
  have hsame : (g.setQ p x).q = (({ Thread.empty with p := g.q } : Thread).setPred p x).p := rfl
  obtain ⟨-, hbit⟩ := ({ Thread.empty with p := g.q } : Thread).takesPred_active p x
  simpa [hsame] using hbit i hi

end Sys2Proof.Machine
end

section
/-! The statement on uniform arithmetic (14). -/

namespace Sys2Proof.Machine

/-- Settles O10: KCMP is a write of one predicate, every other instruction `uniCalc` of one register write. -/
theorem uniformArithmetic : Obligations.UniformArithmetic := by
  unfold Obligations.UniformArithmetic
  refine ⟨⟨?kadd, ?ksub, ?kmul, ?kand, ?kor, ?kxor, ?kmulh, ?kmin, ?kmax, ?kshl, ?kshr, ?ksar, ?kaddi, ?kandi, ?kori⟩, ?kcmp⟩
  case kadd | ksub | kmul | kand | kor | kxor | kmulh | kmin | kmax | kshl | kshr | ksar | kaddi | kandi | kori =>
    exact fun w s hg hp => s.uniCalc_next w.kx _ _ _ _ hg hp rfl
  case kcmp => exact fun w s hg hp => ⟨_, s.uniRun_next _ _ _ _ hg hp, rfl, rfl, fun i => Group.getLsbD_setQ s.me _ _⟩

end Sys2Proof.Machine
end

section
/-! The statement on false guards (10, 14, 15). -/

namespace Sys2Proof.Machine

section Guard
variable {i : Instr} {s : State} {k : Option Kx} {srcs : List (Nat × Nat)} {f : State}

/-- A uniform instruction that is no switch point only goes on where its guard fails. -/
theorem goesOn_of_skip (h : kxPass s.me k = false) (he : exec i s = s.uniRun k srcs false f) :
    ∃ t, exec i s = .next t ∧ OnlyMe s t ∧ t.me = { s.me with pc := pastUni s k } :=
  ⟨_, he.trans (s.uniRun_skip _ _ _ _ h), rfl, rfl⟩

/-- One that is a switch point only ends the run. -/
theorem onlySwitches_of_skip (h : kxPass s.me k = false) (he : exec i s = s.uniRun k srcs true f) :
    OnlySwitches i s (pastUni s k) :=
  onlySwitches_of (he.trans (s.uniRun_skip k srcs true f h))

end Guard

/-- Settles O12: the meaning of each instruction is a `uniRun` under its guard. -/
theorem falseGuards : Obligations.FalseGuards := by
  unfold Obligations.FalseGuards
  simp only [List.forall_mem_cons, List.not_mem_nil, false_implies, implies_true, and_true]
  refine fun s => ⟨fun w h => ?registers, fun w h => ?immediates, fun w h => ⟨?goesOn, ?functions⟩, fun w h => ?slots,
    fun w h => ?memory, fun w h => ?commands⟩
  case registers | immediates | goesOn => and_intros <;> exact goesOn_of_skip h rfl
  case functions | slots | memory | commands => and_intros <;> exact onlySwitches_of_skip h rfl

end Sys2Proof.Machine
end

section
/-! SUPPORT. What recording a trap, a trace entry or a denial may change: memory at the hub's places with its poison marks and what hangs
on them, the queues and their records, the security log, interrupts and the free values drawn. -/

namespace Sys2Proof.Machine

/-- Of `t`, everything but what the hub's own records change is as in `s`. -/
def HubFrame (s t : State) : Prop :=
  t = { s with
    hbm := t.hbm, sysMem := t.sysMem, flushed := t.flushed, fixes := t.fixes, poison := t.poison, sec := t.sec, msix := t.msix
    queues := t.queues, unrecorded := t.unrecorded, draws := t.draws }

theorem HubFrame.refl (s : State) : HubFrame s s := rfl

theorem HubFrame.trans {s t u : State} (h : HubFrame s t) (h' : HubFrame t u) : HubFrame s u := by
  unfold HubFrame at h'
  rw [h'] at *
  unfold HubFrame at h
  rw [h]
  rfl

theorem HubFrame.ite {c : Prop} [Decidable c] {s t u : State} (ht : HubFrame s t) (hu : HubFrame s u) : HubFrame s (if c then t else u) := by
  split <;> assumption

theorem HubFrame.me {s t : State} (h : HubFrame s t) : t.me = s.me := by rw [h]

theorem HubFrame.foldl {α : Type} {f : State → α → State} (hf : ∀ s a, HubFrame s (f s a)) (l : List α) (s : State) :
    HubFrame s (l.foldl f s) := by
  induction l generalizing s with
  | nil => rfl
  | cons a l ih => exact (hf s a).trans (ih _)

theorem State.fire_hub (s : State) (f e : Nat) : HubFrame s (s.fire f e) := rfl

theorem State.dropFixes_hub (s : State) (l : Loc) (n : Nat) : HubFrame s (s.dropFixes l n) := by
  unfold State.dropFixes; split <;> rfl

theorem State.clearWords_hub (s : State) (l : Loc) (b n : Nat) : HubFrame s (s.clearWords l b n) := by
  unfold State.clearWords; split <;> rfl

theorem State.putPhys_hub (s : State) (sys : Bool) (a : Nat) (bs : List Byte) : HubFrame s (s.putPhys sys a bs) := by
  have h := (s.dropFixes_hub (if sys then .sys a else .mem a) bs.length).trans
    (State.clearWords_hub _ (if sys then .sys 0 else .mem (a / 8)) (a % 8) bs.length)
  exact .ite (h.trans rfl) (h.trans rfl)

theorem State.logDenial_hub (s : State) (target master addr : Nat) (k : Access) : HubFrame s (s.logDenial target master addr k) := by
  unfold State.logDenial; dsimp only; split <;> rfl

theorem State.putAs_hub (s : State) (master : Nat) (sys : Bool) (a : Nat) (bs : List Byte) : HubFrame s (s.putAs master sys a bs) :=
  .ite (s.putPhys_hub sys a bs) (s.logDenial_hub _ _ _ _)

theorem State.readHub_hub (s : State) (sys : Bool) (a n : Nat) : HubFrame s (s.readHub sys a n).2 := by
  unfold State.readHub
  split
  · rfl
  · exact s.logDenial_hub _ _ _ _

theorem State.refreshQueue_hub (s : State) (f n : Nat) : HubFrame s (s.refreshQueue f n) :=
  .ite ((s.readHub_hub _ _ _).trans rfl) rfl

theorem State.writeRecord_hub (s : State) (f : Nat) (r : TrapRec) : HubFrame s (s.writeRecord f r) := by
  have h := (s.putAs_hub hubMaster ((s.queue f).base.getLsbD 63)
    (field (s.queue f).base.toNat 18 38 * 2 ^ 18 + 64 * ((s.queue f).prod.toNat % 4096))
    (r.bytes (decide ((s.queue f).prod.toNat / 4096 % 2 = 0))))
  exact .ite (h.trans rfl) (h.trans rfl)

theorem State.postHeld_hub (s : State) (f h : Nat) (rs : List TrapRec) : HubFrame s (s.postHeld f h rs) :=
  .ite ((s.refreshQueue_hub f rs.length).trans rfl)
    ((s.refreshQueue_hub f rs.length).trans (HubFrame.foldl (fun t r => t.writeRecord_hub f r) rs _))

theorem State.trace_hub (s : State) (c stn gslot : Nat) : HubFrame s (s.trace c stn gslot) :=
  .ite ((s.putAs_hub _ _ _ _).trans rfl) rfl

end Sys2Proof.Machine
end

section
/-! The statement on TRAP and BRKP (14, 19). -/

namespace Sys2Proof.Machine

/-- A group that a resumable trap holds (R313, R385). -/
theorem State.takeResumable_me (s : State) (cause pc code : Nat) :
    (s.takeResumable cause pc code).me = { s.me with
      park := some .held, parkedAt := s.now, heldItem := some ⟨s.freshToken, true, [(cause, code, 0)], 0, 0, false, []⟩ } := by
  unfold State.takeResumable
  extract_lets g tk r code held s1 s2
  have h : HubFrame s1 s2 := (s1.trace_hub r.ctx r.stn r.gslot).trans (State.postHeld_hub _ _ _ _)
  exact ((HubFrame.ite (h.trans (s2.fire_hub 0 38)) h).me)

/-- Settles O35: TRAP and BRKP are `uniRun` of the shared resumable trap, whose records leave the group alone. -/
theorem trapInstructions : Obligations.TrapInstructions := by
  unfold Obligations.TrapInstructions
  intro w s h past
  refine ⟨?trap, fun hd => ?brkp, fun hd => ?skip, fun cause pc code => ⟨_, s.takeResumable_me cause pc code, rfl, rfl, rfl, rfl⟩⟩
  case trap => exact s.uniRun_next _ _ _ _ h s.kPoison_nil
  case brkp => exact (s.uniRun_next _ _ _ _ h s.kPoison_nil).trans (congrArg Host.Outcome.next (if_pos hd))
  case skip => exact onlySwitches_of ((s.uniRun_next _ _ _ _ h s.kPoison_nil).trans (congrArg Host.Outcome.next (if_neg hd)))

end Sys2Proof.Machine
end

section
/-! SUPPORT. Turns of the machine: fetching an instruction word by word, the dies that a turn wakes, and the machine's next turn. -/

namespace Sys2Proof

theorem decodeLane_length {c : Option Lxc} {x : Option Lxi} {n m : Nat} {w : Word} {i : Instr} (h : decodeLane c x n w = .ok i m) : m = n :=
  (decodeLane_eq_ok.mp h).1

theorem decodeUni_length {k : Option Kx} {n m : Nat} {w : Word} {i : Instr} (h : decodeUni k n w = .ok i m) : m = n :=
  (decodeUni_eq_ok.mp h).1

section Prefix
variable {i : Instr} {ws : List Word} {n : Nat}

/-! Where an instruction takes every word after its prefixes, the prefixes with fewer words after them need more (R211). -/

theorem decodeBoth_take_needMore {c : Lxc} {x : Lxi} (h : decodeBoth c x ws = .ok i (ws.length + 2)) (hn : n < ws.length) :
    decodeBoth c x (ws.take n) = .needMore := by
  cases ws with
  | nil => cases hn
  | cons w r =>
    cases n with
    | zero => rfl
    | succ n =>
      rw [decodeBoth] at h
      split at h
      case h_1 =>
        have := decodeLane_length h
        simp only [List.length_cons] at this hn
        omega
      all_goals cases h

theorem decodeLxi_take_needMore {x : Lxi} (h : decodeLxi x ws = .ok i (ws.length + 1)) (hn : n < ws.length) :
    decodeLxi x (ws.take n) = .needMore := by
  cases ws with
  | nil => cases hn
  | cons w r =>
    cases n with
    | zero => rfl
    | succ n =>
      rw [decodeLxi] at h
      split at h
      case h_1 =>
        have := decodeLane_length h
        simp only [List.length_cons] at this hn
        omega
      all_goals cases h

theorem decodeKx_take_needMore {k : Kx} (h : decodeKx k ws = .ok i (ws.length + 1)) (hn : n < ws.length) :
    decodeKx k (ws.take n) = .needMore := by
  cases ws with
  | nil => cases hn
  | cons w r =>
    cases n with
    | zero => rfl
    | succ n =>
      rw [decodeKx] at h
      split at h
      case h_1 =>
        have := decodeUni_length h
        simp only [List.length_cons] at this hn
        omega
      all_goals cases h

theorem decodeLxc_take_needMore {c : Lxc} (h : decodeLxc c ws = .ok i (ws.length + 1)) (hn : n < ws.length) :
    decodeLxc c (ws.take n) = .needMore := by
  cases ws with
  | nil => cases hn
  | cons w r =>
    cases n with
    | zero => rfl
    | succ n =>
      rw [decodeLxc] at h
      rw [List.take_succ_cons, decodeLxc]
      cases hk : wordKind w with
      | lane =>
        rw [hk] at h
        have := decodeLane_length h
        simp only [List.length_cons] at this hn
        omega
      | lxi =>
        rw [hk] at h
        exact decodeBoth_take_needMore h (Nat.lt_of_succ_lt_succ hn)
      | uni | lxc | kx =>
        rw [hk] at h
        cases h

theorem decodeWords_take_needMore (h : decodeWords ws = .ok i ws.length) (hn : n < ws.length) : decodeWords (ws.take n) = .needMore := by
  cases ws with
  | nil => cases hn
  | cons w r =>
    cases n with
    | zero => rfl
    | succ n =>
      have hr : n < r.length := Nat.lt_of_succ_lt_succ hn
      rw [decodeWords] at h
      rw [List.take_succ_cons, decodeWords]
      cases hk : wordKind w with
      | lane =>
        rw [hk] at h
        have := decodeLane_length h
        simp only [List.length_cons] at this hn
        omega
      | uni =>
        rw [hk] at h
        have := decodeUni_length h
        simp only [List.length_cons] at this hn
        omega
      | lxc => rw [hk] at h; exact decodeLxc_take_needMore h hr
      | lxi => rw [hk] at h; exact decodeLxi_take_needMore h hr
      | kx => rw [hk] at h; exact decodeKx_take_needMore h hr

end Prefix

end Sys2Proof

namespace Sys2Proof.Machine

/-- A word as four bytes, the first one lowest. -/
theorem Memory.num_four (m : Memory) (a : Nat) :
    BitVec.ofNat 32 (Memory.num m a 4) = m.get (a + 3) ++ m.get (a + 2) ++ m.get (a + 1) ++ m.get a := by
  refine BitVec.eq_of_toNat_eq ?_
  have h0 := (m.get a).isLt
  have h1 := (m.get (a + 1)).isLt
  have h2 := (m.get (a + 2)).isLt
  have h3 := (m.get (a + 3)).isLt
  rw [BitVec.toNat_append, BitVec.toNat_append, BitVec.toNat_append, ← Nat.shiftLeft_add_eq_or_of_lt h2,
    ← Nat.shiftLeft_add_eq_or_of_lt h1, ← Nat.shiftLeft_add_eq_or_of_lt h0]
  simp only [Memory.num, Memory.bytes, leNat, BitVec.toNat_ofNat, Nat.shiftLeft_eq, Nat.add_assoc, Nat.reduceAdd]
  omega

/-- Fetching goes on from any of its words to the instruction that they decode to. -/
theorem State.fetchInstr_run {u : State} {ws : List Word} {i : Instr} (hd : decodeWords ws = .ok i ws.length)
    (hf : ∀ j x, ws[j]? = some x → u.fetchWord (u.me.pc.toNat + 4 * j) = .word x)
    (he : fieldError (u.grid u.me.grid).v (u.grid u.me.grid).kn i = none) {fuel n : Nat} (hn : n < ws.length)
    (hfuel : ws.length ≤ n + fuel) : u.fetchInstr fuel (ws.take n) = .run i := by
  induction fuel generalizing n with
  | zero => omega
  | succ fuel ih =>
    have hlen : (ws.take n).length = n := List.length_take_of_le hn.le
    have hword := hf n ws[n] (List.getElem?_eq_getElem hn)
    rw [State.fetchInstr, hlen, hword]
    dsimp only
    rw [← List.take_succ_eq_append_getElem hn]
    by_cases hlast : n + 1 = ws.length
    · rw [hlast, List.take_length, hd]
      dsimp only
      rw [he]
    · have hmore : n + 1 < ws.length := by omega
      rw [decodeWords_take_needMore hd hmore]
      exact ih hmore (by omega)

/-- A turn that uses memory wakes the dies (assumption 101). -/
theorem State.forTurn_of_usesMemory (s : State) {t : Turn} (h : t.usesMemory = true) : s.forTurn t = s.wakeDies := by
  unfold State.forTurn State.wakeDies
  cases s.power.dieOff.contains true <;> simp [h]

theorem State.forTurn_cases (s : State) (t : Turn) : s.forTurn t = s ∨ s.forTurn t = s.wakeDies := by
  unfold State.forTurn
  split
  · exact .inr rfl
  · exact .inl rfl

theorem State.wakeDies_eq (s : State) : s.wakeDies = { s with
    power := { s.power with dieOff := s.wakeDies.power.dieOff }, msix := s.wakeDies.msix } := by
  unfold State.wakeDies
  split <;> rfl

theorem State.wakeDies_cur (s : State) : s.wakeDies.power.cur = s.power.cur := by rw [s.wakeDies_eq]

theorem State.forTurn_eq (s : State) (t : Turn) :
    s.forTurn t = { s with power := (s.forTurn t).power, msix := (s.forTurn t).msix } ∧
      (s.forTurn t).power = { s.power with dieOff := (s.forTurn t).power.dieOff } := by
  rcases s.forTurn_cases t with h | h <;> rw [h]
  · exact ⟨rfl, rfl⟩
  · rw [s.wakeDies_eq]
    exact ⟨rfl, rfl⟩

theorem State.forTurn_self (s : State) {t : Turn} (hm : t.usesMemory = false) (hr : s.reaches t = false) : s.forTurn t = s := by
  unfold State.forTurn
  simp [hm, hr]

/-- A turn of a pipe whose station is awake issues the instruction of the group that issues first (R17). -/
theorem pipeTurn_issue {s : State} {c p : Nat} {g : Group} (hg : s.firstOf (s.canIssue.filter fun x => x.core == c && x.pipe == p) = some g)
    (hw : nth s.power.cur (stationOf c) 0 = 0) : pipeTurn s c p = issue { s.select g.uid with now := s.startOf g } := by
  rw [pipeTurn, hg]
  exact if_pos hw

theorem issue_run {s : State} {i : Instr} (h : s.fetchInstr 3 [] = .run i) :
    issue s = if s.heldByYard i then .next (s.parkMe .yard 0) else exec i (s.rejoin.issuing i) := by
  rw [issue, h]

end Sys2Proof.Machine
end

section
/-! The statement on the turns of the machine (10, 01, 02). -/

namespace Sys2Proof.Machine

/-- Settles O59: the fetch finds the words' instruction, and the other parts are the cases of the model's step. -/
theorem stepRunsDecoded : Obligations.StepRunsDecoded := by
  unfold Obligations.StepRunsDecoded
  refine ⟨?pipe, ?rejoin, ?retest, ?word, ?event, ?dies, ?noTurn, fun s => rfl⟩
  case pipe =>
    intro s r c p g ws i ha s1 hg hw u hd hlen hf he
    have hpos : 0 < ws.length := List.length_pos_of_ne_nil (by rintro rfl; cases hd)
    have hrun : u.fetchInstr 3 [] = .run i := State.fetchInstr_run hd hf he hpos (by omega)
    have hturn : ({ s with agenda := r } : State).forTurn (.pipe c p) = s1 := State.forTurn_of_usesMemory _ rfl
    rw [step, ha]
    dsimp only
    rw [hturn, takeTurn, pipeTurn_issue hg ((congrArg (nth · _ 0) (State.wakeDies_cur _)).trans hw), issue_run hrun]
    rfl
  case rejoin =>
    intro s
    refine ⟨fun h => by rw [State.rejoin, h], fun pc why t h => ?_⟩
    rw [State.rejoin, h]
    dsimp only
    exact ⟨fun hpc => if_pos hpc, fun hpc hw => by rw [if_neg (not_not.mpr hpc), if_pos hw]; rfl,
      fun hpc hw => by rw [if_neg (not_not.mpr hpc), if_neg hw]; rfl⟩
  case retest =>
    intro s why hp
    unfold retest
    rw [hp]
    refine ⟨fun hw => ?_, ?_⟩
    · split
      case h_1 h => cases h
      case h_2 h => exact absurd (Option.some.inj h) hw
      case h_3 => rfl
    · rintro rfl hy
      exact congrArg Host.Outcome.next (if_pos hy)
  case word =>
    intro s va pa a hl hv ht
    rw [State.fetchWord, lineOf, if_neg (by rw [hl]; decide), if_neg (by omega), ht]
    exact congrArg Fetched.word (Memory.num_four _ _)
  case event =>
    intro s r i ha s1 ho
    rw [step, ha]
    change checkHole (takeTurn s1 (.event i)) = _
    rw [takeTurn, ho]
  case dies =>
    exact fun s t => ⟨s.forTurn_self, _, rfl, s.forTurn_eq t⟩
  case noTurn =>
    intro s ha
    have hsame : { s with now := s.nextTurn.1, agenda := [] } = s.atNextTurn := by rw [State.atNextTurn, ← ha]
    rw [step, ha, step]
    dsimp only
    rw [hsame]

end Sys2Proof.Machine
end

section
/-! SUPPORT. The access tables at reset (R407). -/

namespace Sys2Proof.Machine

/-- Quadword `j` of aperture `a` of a master, where nothing was written. -/
theorem accessWord_unwritten {s : State} (h : s.access = []) {target master a j : Nat} (ht : target < 23) (hm : master < 150) (ha : a < 16)
    (hj : j < 2) : accessWord s (target * 8192 + master * 32 + a * 2 + j) =
      if (master = 128 ∨ master = 148) ∧ a = 0 then (if j = 0 then 0x000000000000000F else 0x00FFFFFFFFFFF000) else 0 := by
  have hmaster : (target * 8192 + master * 32 + a * 2 + j) / 32 % 256 = master := by omega
  have haperture : (target * 8192 + master * 32 + a * 2 + j) / 2 % 16 = a := by omega
  have hhalf : (target * 8192 + master * 32 + a * 2 + j) % 2 = j := by omega
  have hrange : target * 8192 + master * 32 + a * 2 + j < 23 * 8192 := by omega
  simp only [accessWord, h, List.find?_nil, hmaster, haperture, hhalf, hrange, and_true]

/-- An aperture passes an access only where it is the first one of one of the two masters (R407). -/
theorem apertureOk_unwritten {s : State} (h : s.access = []) {target master a page : Nat} {k : Access} (ht : target < 23) (hm : master < 150)
    (ha : a < 16) (hp : page < 2 ^ 44) : apertureOk s target master a page k = decide ((master = 128 ∨ master = 148) ∧ a = 0) := by
  have hlo := accessWord_unwritten h ht hm ha (show 0 < 2 by omega)
  have hhi := accessWord_unwritten h ht hm ha (show 1 < 2 by omega)
  rw [Nat.add_zero] at hlo
  unfold apertureOk
  dsimp only
  rw [hlo, hhi]
  by_cases hc : (master = 128 ∨ master = 148) ∧ a = 0
  · have hbits : (0x000000000000000F : Dword).toNat.testBit 3 = true := by decide
    have hperm : k.allowed ((0x000000000000000F : Dword).toNat % 8) = true := by cases k <;> decide
    have hfirst : field (0x000000000000000F : Dword).toNat 12 44 = 0 := by decide
    have hlast : field (0x00FFFFFFFFFFF000 : Dword).toNat 12 44 = 2 ^ 44 - 1 := by decide
    have hpage : page ≤ 2 ^ 44 - 1 := by omega
    simp only [hc, and_self, if_true, if_false, Nat.one_ne_zero, hbits, hperm, hfirst, hlast, hpage, Nat.zero_le, decide_true, Bool.and_self]
  · simp [hc]

theorem accessOk_unwritten {s : State} (h : s.access = []) {target master addr : Nat} {k : Access} (ht : target < 23) (ha : addr < 2 ^ 56) :
    accessOk s target master addr k = true ↔ master = 128 ∨ master = 148 := by
  have hpage : addr / 4096 < 2 ^ 44 := by omega
  unfold accessOk
  simp only [Bool.and_eq_true, decide_eq_true_eq, List.any_eq_true, List.mem_range]
  constructor
  · rintro ⟨hm, a, ha, hok⟩
    rw [apertureOk_unwritten h ht hm ha hpage] at hok
    exact (of_decide_eq_true hok).1
  · intro hmaster
    have hm : master < 150 := by omega
    refine ⟨hm, 0, by omega, ?_⟩
    rw [apertureOk_unwritten h ht hm (by omega) hpage]
    simp [hmaster]

/-- A generator that was never set holds its seed, in which core and pipe stand apart (R144). -/
theorem State.genState_unset {s : State} (h : s.gens = []) {c p : Nat} (hc : c < 128) (hp : p < 128) :
    s.genState c p = if c = 0 ∧ p = 0 then 0x1D872B41 else BitVec.ofNat 32 (c * 2 ^ 16 + p) := by
  have hzero : BitVec.ofNat 32 (c * 65536 + p) = 0 ↔ c = 0 ∧ p = 0 := by
    rw [← BitVec.toNat_inj, BitVec.toNat_ofNat]
    change _ = 0 ↔ _
    omega
  have hseed : (0 : Word) ^^^ BitVec.ofNat 32 (c * 65536 + p) = BitVec.ofNat 32 (c * 65536 + p) := BitVec.zero_xor
  simp only [State.genState, h, List.find?_nil, seedLoad, hseed, hzero]
  rfl

theorem nth_replicate_eq {α : Type} (n i : Nat) (x : α) : nth (List.replicate n x) i x = x := by
  induction n generalizing i with
  | zero => rfl
  | succ n ih => cases i with
    | zero => rfl
    | succ i => exact ih i

end Sys2Proof.Machine
end

section
/-! The statement on reset. -/

namespace Sys2Proof.Machine

/-- Settles O55: the values of the reset state, with the access tables and generators that nothing has written. -/
theorem resetState : Obligations.ResetState := by
  unfold Obligations.ResetState
  intro s
  refine ⟨⟨rfl, rfl, rfl, rfl, rfl, rfl, rfl, rfl, rfl, ?meas, rfl, ?cores⟩, by and_intros <;> rfl, ?coal, ?gens, ?access, ?memory, ?reset⟩
  case meas => exact fun i hi => by rw [nth_eq_getD]; exact congrArg (Option.getD · []) (List.getElem?_replicate_of_lt hi)
  case cores => exact fun c => ⟨nth_replicate_eq _ _ _, nth_replicate_eq _ _ _⟩
  case coal => exact fun f v => ⟨rfl, rfl, rfl, rfl⟩
  case gens => exact fun c p => State.genState_unset rfl
  case access => exact fun target master addr k => accessOk_unwritten rfl
  case memory => exact ⟨⟨rfl, rfl, rfl, rfl, rfl⟩, fun a => rfl⟩
  case reset =>
    intro r t ht
    obtain rfl := Host.Outcome.next.inj ht
    split_ifs <;> exact ⟨rfl, rfl, rfl, rfl, rfl, rfl, rfl, rfl⟩

end Sys2Proof.Machine
end

section
/-! SUPPORT. What finding the place of a byte of a thread's own space may change: what the hub's records change, the page trees of the grid, its
context's pool and the translations of the core. -/

namespace Sys2Proof.Machine

/-- Of `t`, everything but what a walk of a thread's own space changes is as in `s`. -/
def PrivFrame (s t : State) : Prop :=
  t = { s with
    hbm := t.hbm, sysMem := t.sysMem, flushed := t.flushed, fixes := t.fixes, poison := t.poison, sec := t.sec, msix := t.msix
    queues := t.queues, unrecorded := t.unrecorded, draws := t.draws, grids := t.grids, ctxs := t.ctxs, tlb := t.tlb }

theorem PrivFrame.refl (s : State) : PrivFrame s s := rfl

theorem PrivFrame.trans {s t u : State} (h : PrivFrame s t) (h' : PrivFrame t u) : PrivFrame s u := by
  unfold PrivFrame at h'
  rw [h'] at *
  unfold PrivFrame at h
  rw [h]
  rfl

theorem PrivFrame.me {s t : State} (h : PrivFrame s t) : t.me = s.me := by rw [h]

theorem HubFrame.priv {s t : State} (h : HubFrame s t) : PrivFrame s t := by
  unfold HubFrame at h
  rw [h]
  rfl

theorem State.onGrid_priv (s : State) (h : Nat) (f : Grid → Grid) : PrivFrame s (s.onGrid h f) := rfl

theorem State.poolPage_priv {s t : State} {h pa : Nat} (hp : s.poolPage h = some (pa, t)) : PrivFrame s t := by
  unfold State.poolPage at hp
  dsimp only at hp
  split at hp
  · cases hp
  · cases hp
    exact (State.readHub_hub _ _ _ _).priv.trans rfl

theorem State.privTable_priv {s t : State} {h pa : Nat} (hp : s.privTable h = some (pa, t)) : PrivFrame s t := by
  unfold State.privTable at hp
  split at hp
  · cases hp
    rfl
  · split at hp
    next hpage =>
      cases hp
      exact (State.poolPage_priv hpage).trans rfl
    next => cases hp

theorem State.privWalk_priv (s : State) (h key fuel table : Nat) : PrivFrame s (s.privWalk h key fuel table).2 := by
  induction fuel generalizing s table with
  | zero => rfl
  | succ fuel ih =>
    unfold State.privWalk
    dsimp only
    split
    · rfl
    split
    · split
      · rfl
      · exact ih _ _
    split
    · split
      next hp => exact (State.poolPage_priv hp).trans (State.putAs_hub _ _ _ _ _).priv
      next => rfl
    · split
      next hp => exact ((State.privTable_priv hp).trans (State.putAs_hub _ _ _ _ _).priv).trans (ih _ _)
      next => rfl

theorem State.privPlace_priv (s : State) (h tid off : Nat) : PrivFrame s (s.privPlace h tid off).2 := by
  unfold State.privPlace
  split
  · exact s.privWalk_priv _ _ _ _
  · split
    next hp => exact ((State.privTable_priv hp).trans (State.onGrid_priv _ _ _)).trans (State.privWalk_priv _ _ _ _ _)
    next => rfl

theorem State.fillPriv_priv (s : State) (h key pa : Nat) : PrivFrame s (s.fillPriv h key pa) := by
  unfold State.fillPriv; split <;> rfl

theorem State.privPage_priv (s : State) (h tid off : Nat) : PrivFrame s (s.privPage h tid off).2 := by
  have hp := s.privPlace_priv h tid off
  unfold State.privPage
  dsimp only
  split
  · rfl
  · split
    next hu => rw [hu] at hp; exact hp.trans (State.fillPriv_priv _ _ _ _)
    next => exact hp

theorem snd_ite_same {α β : Type} {c : Prop} [Decidable c] {x y : α} {b : β} : (if c then (x, b) else (y, b)).2 = b := by
  split <;> rfl

theorem State.privAccess_priv (s : State) (h : Nat) (t : Thread) (off n : Nat) (save : Bool) (k : Access) :
    PrivFrame s (s.privAccess h t off n save k).2 := by
  have hp := s.privPage_priv h t.tid.toNat off
  unfold State.privAccess
  dsimp only
  by_cases hin : ((!save && decide (off + n ≤ t.low)) || decide (2 ^ 24 - t.high ≤ off)) = true
  · rw [if_pos hin]
    split
    next hu =>
      rw [hu] at hp
      split
      · exact hp
      · rfl
    next hu => rw [hu] at hp; exact hp
  · rw [if_neg hin]
    rw [snd_ite_same]
    exact .refl s

theorem State.saveBytes_priv (s : State) (h : Nat) (t : Thread) (off : Nat) (bs : List Byte) : PrivFrame s (s.saveBytes h t off bs).2 := by
  unfold State.saveBytes
  refine List.foldlRecOn (motive := fun p : Xlat × State => PrivFrame s p.2) _ _ rfl fun acc hacc c _ => ?_
  split
  · have hp := acc.2.privAccess_priv h t c.1 c.2 true .write
    split
    next u hu =>
      rw [hu] at hp
      dsimp only at hp ⊢
      exact (hacc.trans hp).trans (u.putPhys_hub _ _ _).priv
    next => exact hacc.trans hp
  · exact hacc

theorem State.savedBytes_priv (s : State) (h : Nat) (t : Thread) (off n : Nat) : PrivFrame s (s.savedBytes h t off n).2.2 := by
  unfold State.savedBytes
  refine List.foldlRecOn (motive := fun p : Xlat × List Byte × State => PrivFrame s p.2.2) _ _ rfl fun acc hacc c _ => ?_
  split
  · have hp := acc.2.2.privAccess_priv h t c.1 c.2 true .read
    split
    next hu => rw [hu] at hp; exact hacc.trans hp
    next hu => rw [hu] at hp; exact hacc.trans hp
  · exact hacc

end Sys2Proof.Machine
end

section
/-! SUPPORT. The divergence stack: what pushing and restoring an entry leaves of the group and its lanes (R25, R97). -/

namespace Sys2Proof.Machine

/-- The target of a branch is the word address PC + 4 OFF (R297). -/
theorem State.target_eq (s : State) (w : UB) : s.target w = s.me.pc + w.off.signExtend 64 * 4 := by
  unfold State.target
  congr 1
  bv_omega

/-- The end of a run of a group whose lanes were changed by `f` before. -/
theorem Group.eachThread_endRun (g : Group) (m : BitVec 32) (f : Nat → Thread → Thread) (pc : Dword) (n : Nat)
    (R : Nat → Thread → Thread → Prop)
    (hR : ∀ i a, g.lane i = some a → R i a { (if m.getLsbD i then f i a else a) with lat := List.replicate 8 0, clkHi := none }) :
    EachThread g ((g.onLanes m f).endRun pc n) R := by
  intro i
  have hlane : ((g.onLanes m f).endRun pc n).lane i =
      ((g.onLanes m f).lane i).map fun a => { a with lat := List.replicate 8 0, clkHi := none } :=
    Group.lane_onAll _ _ _
  rw [hlane, Group.lane_onLanes]
  cases hg : g.lane i with
  | none => simp
  | some a =>
    refine ⟨_, ?_, hR i a hg⟩
    split <;> rfl

/-- The mask 1 names lane 0 only. -/
theorem getLsbD_one_of_ne {l : Nat} (hl : l ≠ 0) : (1 : BitVec 32).getLsbD l = false := by
  rw [show (1 : BitVec 32) = BitVec.ofNat 32 (2 ^ 0) from rfl, getLsbD_two_pow (by decide)]
  exact decide_eq_false (Ne.symm hl)

theorem Group.thread_of_lane {g : Group} {i : Nat} {a : Thread} (h : g.lane i = some a) : g.thread i = a := by
  rw [Group.thread, h]
  rfl

/-- SYN goes on once its entry is pushed. -/
theorem execSyn_ok {s t : State} {w : UB} {p : Place} (hg : ubGuard s.me w = true)
    (h : s.pushEntry ⟨s.target w, s.me.cur, [], none, 0⟩ = (.ok p, t)) : exec (.syn w) s = .next (t.switchTo (s.me.pc + 4) 1 0) := by
  change execSyn w s = _
  rw [execSyn, if_neg (by rw [hg]; decide), h]

/-- One whose entry finds no room in the save area is held for its growth (R25). -/
theorem execSyn_fault {s t : State} {w : UB} {off : Nat} (hg : ubGuard s.me w = true) (hoff : (s.me.thread 0).pushAt 64 = off)
    (h : s.pushEntry ⟨s.target w, s.me.cur, [], none, 0⟩ = (.fault, t)) : exec (.syn w) s =
      .next ((s.occupy 1).takeReplayable [(0x06, off, 0, s.me.cur)] [((s.me.thread 0).tid.toNat, true, off)]) := by
  change execSyn w s = _
  rw [execSyn, if_neg (by rw [hg]; decide), h, hoff]
  rfl

/-- One whose growth cannot be granted is fatal (R97). -/
theorem execSyn_fatal {s t : State} {w : UB} {off : Nat} (hg : ubGuard s.me w = true) (hoff : (s.me.thread 0).pushAt 64 = off)
    (h : s.pushEntry ⟨s.target w, s.me.cur, [], none, 0⟩ = (.fatal, t)) : exec (.syn w) s =
      .next (s.takeFatal { s.me.trapRec s 0x06 with va := off, tid := (s.me.thread (lowLane s.me.cur)).tid.toNat }) := by
  change execSyn w s = _
  rw [execSyn, if_neg (by rw [hg]; decide), h, hoff]
  rfl

section Spill
variable {s u : State} {e old : DivEntry} {off : Nat}

/-- A group that has pushed `e` and whose oldest resident entry, at place `i` of the stack, stands at offset `off` of the save area
(R25, R96). -/
def Group.pushSpilling (g : Group) (e old : DivEntry) (i off : Nat) : Group :=
  { (g.onLanes 1 fun _ t => t.push 64) with stack := e :: setNth g.stack i { old with spill := off }, spilled := g.spilled + 1 }

variable (h : ¬s.me.stack.length - s.me.spilled < 32) (ho : s.me.stack[s.me.stack.length - s.me.spilled - 1]? = some old)
  (hoff : (s.me.thread 0).pushAt 64 = off)
include h ho hoff

/-- With 32 entries resident the oldest one goes to the save area first. -/
theorem State.pushEntry_saved {p : Place}
    (hr : s.saveBytes s.me.grid (s.me.thread 0) off old.image = (.ok p, u)) :
    s.pushEntry e = (.ok p, u.onMe fun g =>
      g.pushSpilling e old (s.me.stack.length - s.me.spilled - 1) off) := by
  have hnth : nth s.me.stack (s.me.stack.length - s.me.spilled - 1) ⟨0, 0, [], none, 0⟩ = old := by rw [nth_eq_getD, ho]; rfl
  unfold State.pushEntry
  dsimp only
  rw [if_neg h, hoff, hnth, hr]
  rfl

theorem State.pushEntry_unsaved {x : Xlat} (hx : ∀ p, x ≠ .ok p)
    (hr : s.saveBytes s.me.grid (s.me.thread 0) off old.image = (x, u)) : s.pushEntry e = (x, u) := by
  have hnth : nth s.me.stack (s.me.stack.length - s.me.spilled - 1) ⟨0, 0, [], none, 0⟩ = old := by rw [nth_eq_getD, ho]; rfl
  unfold State.pushEntry
  dsimp only
  rw [if_neg h, hoff, hnth, hr]
  cases x with
  | ok p => exact absurd rfl (hx p)
  | _ => rfl

end Spill

/-- A group that has deferred a path on its top level (R298). -/
def Group.defer (g : Group) (x : Dword × BitVec 32) : Group :=
  match g.stack with
  | e :: r => { g with stack := { e with q := e.q ++ [x] } :: r }
  | [] => { g with base := { g.base with q := g.base.q ++ [x] } }

theorem Group.defer_eq (g : Group) (x : Dword × BitVec 32) :
    g.defer x = { g with stack := (g.defer x).stack, base := (g.defer x).base } := by
  unfold Group.defer
  split <;> rfl

/-- JOIN changes the group's stack, its base level, its path and its PC (R299). -/
theorem Group.joined_eq (g : Group) (after : Dword) : g.joined after = { g with
    stack := (g.joined after).stack, base := (g.joined after).base, path := (g.joined after).path, pc := (g.joined after).pc } := by
  unfold Group.joined Group.pop
  split <;> split <;> rfl

section Joined
variable {g : Group} {after pc : Dword} {e : DivEntry} {r : List DivEntry} {m : BitVec 32} {q : List (Dword × BitVec 32)}

/-! JOIN on an entry with a deferred path, on one without, and below every entry (R299). -/

theorem Group.joined_path (h : g.stack = e :: r) (hq : e.q = (pc, m) :: q) :
    g.joined after = { g with stack := { e with q := q } :: r, path := m, pc := pc } := by
  simp only [Group.joined, h, hq]

theorem Group.joined_pop (h : g.stack = e :: r) (hq : e.q = []) : g.joined after = { g with stack := r, path := e.f, pc := after } := by
  simp only [Group.joined, h, hq, Group.pop, List.drop_one, List.tail_cons]

theorem Group.joined_base_path (h : g.stack = []) (hq : g.base.q = (pc, m) :: q) : g.joined after = { g with
    base := ⟨q, g.base.wb ||| g.cur, if g.base.wb &&& g.liveMask = 0 then after else g.base.wpc⟩, path := m, pc := pc } := by
  simp only [Group.joined, h, hq]

theorem Group.joined_base (h : g.stack = []) (hq : g.base.q = []) :
    g.joined after = { g with base := { g.base with wb := 0 }, path := g.cur ||| g.base.wb, pc := after } := by
  simp only [Group.joined, h, hq]

end Joined

/-- Where the top entry is resident there is nothing to restore (R97). -/
theorem State.unspill_resident {s : State} (h : s.me.spilled = 0) : s.unspill = s := by
  unfold State.unspill
  dsimp only
  split
  next e r hs => exact if_neg (by simp [hs, h])
  next => rfl

theorem exec_join_resident {s : State} {w : UC} (hg : kxPass s.me w.kx = true) (h : s.me.spilled = 0) : exec (.join w) s =
    .next ((s.onMe fun g => g.joined (pastUni s w.kx)).switchTo (s.me.joined (pastUni s w.kx)).pc 1 0) := by
  have hun : (s.onMe fun g => g.joined (s.after w.kx)).unspill = s.onMe fun g => g.joined (s.after w.kx) :=
    State.unspill_resident (by rw [State.onMe_me, Group.joined_eq]; exact h)
  have huid : (s.me.joined (s.after w.kx)).uid = s.me.uid := by rw [Group.joined_eq]
  refine (s.uniRun_next _ _ _ _ hg s.kPoison_nil).trans (congrArg Host.Outcome.next ?_)
  rw [hun, State.ifStays, State.onMe_me, if_pos huid]
  rfl

/-- A group whose top entry `e` came back as `bs` from the save area (R97). -/
def Group.restoreTop (g : Group) (e : DivEntry) (bs : List Byte) (rest : List DivEntry) : Group :=
  { (g.onLanes 1 fun _ t => t.free e.spill) with stack := e.restored bs :: rest, spilled := rest.length }

theorem State.unspill_restored {u v : State} {x : DivEntry} {rest : List DivEntry} {p : Place} {bs : List Byte}
    (hstack : u.me.stack = x :: rest) (hsp : rest.length + 1 ≤ u.me.spilled)
    (hr : u.savedBytes u.me.grid (u.me.thread 0) x.spill 64 = (.ok p, bs, v)) : u.unspill = v.onMe fun g => g.restoreTop x bs rest := by
  unfold State.unspill
  dsimp only
  rw [hstack]
  dsimp only
  rw [List.length_cons, if_pos hsp, hr]
  rfl

theorem exec_join_restored {s v : State} {w : UC} {e x : DivEntry} {rest : List DivEntry} {p : Place} {bs : List Byte}
    (hg : kxPass s.me w.kx = true) (hstack : s.me.stack = e :: x :: rest) (hq : e.q = []) (hsp : s.me.spilled = rest.length + 1)
    (hr : (s.onMe fun g => { g with stack := x :: rest, path := e.f, pc := pastUni s w.kx }).savedBytes s.me.grid (s.me.thread 0) x.spill 64
      = (.ok p, bs, v)) (hme : v.me = { s.me with stack := x :: rest, path := e.f, pc := pastUni s w.kx }) :
    exec (.join w) s = .next ((v.onMe fun g => g.restoreTop x bs rest).switchTo (pastUni s w.kx) 1 0) := by
  have hjoin : s.me.joined (pastUni s w.kx) = { s.me with stack := x :: rest, path := e.f, pc := pastUni s w.kx } :=
    Group.joined_pop hstack hq
  have hu : (s.onMe fun g => g.joined (pastUni s w.kx)) =
      s.onMe fun g => { g with stack := x :: rest, path := e.f, pc := pastUni s w.kx } := by
    rw [State.onMe, hjoin]; rfl
  have hun : (s.onMe fun g => g.joined (pastUni s w.kx)).unspill = v.onMe fun g => g.restoreTop x bs rest := by
    rw [hu]
    exact State.unspill_restored rfl hsp.ge hr
  have huid : (v.onMe fun g => g.restoreTop x bs rest).me.uid = s.me.uid := by rw [State.onMe_me, hme]; rfl
  refine (s.uniRun_next _ _ _ _ hg s.kPoison_nil).trans (congrArg Host.Outcome.next ?_)
  change ((s.onMe fun g => g.joined (pastUni s w.kx)).unspill).ifStays _ (fun t => t.switchTo (s.me.joined (pastUni s w.kx)).pc 1 0) = _
  rw [hun, State.ifStays, if_pos huid, hjoin]

/-- A call's pair of uniform registers, written before the run ends (R300). -/
theorem State.callPair (s : State) (x goal : Dword) :
    let t := ((s.clearK 0 2).onMe fun g => g.setKPair 0 x).switchTo goal 1 0
    OnlyMe (s.clearK 0 2) t ∧ Switched { s.me with k := t.me.k } t.me goal ∧ t.me.k.length = s.me.k.length ∧
      ∀ r, r < s.me.k.length → nth t.me.k r 0 =
        if r = 0 then x.extractLsb' 0 32 else if r = 1 then x.extractLsb' 32 32 else nth s.me.k r 0 := by
  intro t
  have hk : t.me.k = (s.me.setKPair 0 x).k := by
    change ((s.clearK 0 2).me.setKPair 0 x).k = _
    rw [State.clearK_me]
  refine ⟨rfl, ?_, by rw [hk, Group.setKPair_length], fun r hr => ?_⟩
  · have hme : { s.me with k := t.me.k } = s.me.setKPair 0 x := by rw [hk]; exact (Group.setKPair_eq _ _ _).symm
    rw [hme]
    change Switched _ (((s.clearK 0 2).me.setKPair 0 x).endRun _ _) _
    rw [State.clearK_me]
    exact Group.endRun_switched _ _ _
  · rw [hk, Group.setKPair_nth _ _ _ _ hr, if_neg (by decide)]
    by_cases h1 : r = 1
    · subst h1; simp
    · simp [h1]

end Sys2Proof.Machine
end

section
/-! The statements on control flow (01, 04, 14). -/

namespace Sys2Proof.Machine

/-- Settles O13: a branch is a bare switch point, a call writes its pair first, SYN pushes an entry or spills the oldest, and a
register branch checks its target. -/
theorem branchesAndSyn : Obligations.BranchesAndSyn := by
  unfold Obligations.BranchesAndSyn
  simp -zeta only [← State.target_eq]
  refine ⟨⟨fun w s => ⟨?bra, fun hg => ⟨?call, ?syn⟩, fun hg => ?called⟩, fun w s hg hroom => ?resident, fun w s old hg hfull => ?spill⟩,
    fun w s hg hp => ?registers⟩
  case bra => exact onlySwitches_of rfl
  case call => exact onlySwitches_of (congrArg Host.Outcome.next (if_neg (by rw [hg]; decide)))
  case syn => exact onlySwitches_of (congrArg Host.Outcome.next (if_pos hg))
  case called =>
    exact ⟨_, congrArg Host.Outcome.next (if_pos hg), s.callPair _ _⟩
  case resident =>
    have hpush : s.pushEntry ⟨s.target w, s.me.cur, [], none, 0⟩ = (.ok (.mem 0 false), s.onMe fun g => { g with
        stack := ⟨s.target w, s.me.cur, [], none, 0⟩ :: g.stack }) := if_pos hroom
    exact ⟨_, execSyn_ok hg hpush, rfl, State.switchTo_switched _ _ _ _⟩
  case spill =>
    intro i off r hold
    have hoff : (s.me.thread 0).pushAt 64 = off := rfl
    have hfull' : ¬s.me.stack.length - s.me.spilled < 32 := by omega
    have hr0 : s.saveBytes s.me.grid (s.me.thread 0) off old.image = r := rfl
    have hme : r.2.me = s.me := (s.saveBytes_priv _ _ _ _).me
    clear_value r
    obtain ⟨x, u⟩ := r
    clear_value off
    refine ⟨fun p hr => ?saved, fun hr => ?fault, fun hr => ?fatal⟩
    case saved =>
      subst hr
      refine ⟨_, execSyn_ok hg (State.pushEntry_saved hfull' hold hoff hr0), rfl, ?_⟩
      rw [State.switchTo_me, State.onMe_me]
      dsimp only at hme
      rw [hme]
      refine ⟨rfl, Group.eachThread_endRun _ _ _ _ _ _ fun l a ha => ?_⟩
      by_cases hl : l = 0
      · subst hl
        have ha' : s.me.thread 0 = a := Group.thread_of_lane (g := s.me) ha
        rw [ha'] at hoff
        simp [Thread.push, hoff]
      · simp [hl]
    case fault =>
      subst hr
      exact execSyn_fault hg hoff (State.pushEntry_unsaved hfull' hold hoff (by simp) hr0)
    case fatal =>
      subst hr
      exact execSyn_fatal hg hoff (State.pushEntry_unsaved hfull' hold hoff (by simp) hr0)
  case registers =>
    intro goal
    have hrun (f : State → State) : s.uniRun w.kx [(w.a.toNat, 2)] true (s.jumpTo goal f) = .next (s.jumpTo goal f) := s.uniRun_next _ _ _ _ hg hp
    refine ⟨fun hlt hal => ?_, fun i hi => ?_⟩
    · have hjump (f : State → State) : s.jumpTo goal f = (f s).switchTo goal 1 0 := by
        rw [State.jumpTo, if_neg (by omega), if_neg (by omega)]
      have hnext (f : State → State) := (hrun f).trans (congrArg Host.Outcome.next (hjump f))
      exact ⟨onlySwitches_of (hnext fun t => t), onlySwitches_of (hnext fun t => t), _, hnext _, s.callPair _ _⟩
    · obtain ⟨f, hf⟩ : ∃ f, exec i s = .next (s.jumpTo goal f) := by
        simp only [List.mem_cons, List.not_mem_nil, or_false] at hi
        rcases hi with rfl | rfl | rfl
        · exact ⟨_, hrun _⟩
        · exact ⟨_, hrun _⟩
        · exact ⟨_, hrun _⟩
      rw [hf]
      exact ⟨fun hbig => congrArg Host.Outcome.next (if_pos hbig),
        fun hlt hal => congrArg Host.Outcome.next ((if_neg (by omega)).trans (if_pos hal))⟩

/-- Settles O14: BRD defers a side on the top level, and JOIN takes the top level's next path, restoring a spilled entry. -/
theorem divergenceAndJoins : Obligations.DivergenceAndJoins := by
  unfold Obligations.DivergenceAndJoins
  simp -zeta only [← State.target_eq]
  refine ⟨fun w s => ?brd, fun w s e x rest hg hstack hq hsp => ?spilled, fun w s hg hsp => ?join⟩
  case brd =>
    intro target taken
    refine ⟨fun h => onlySwitches_of (congrArg Host.Outcome.next (if_pos h)), fun h h' => ?none, fun h h' => ?part⟩
    case none =>
      have hne : taken ≠ s.me.cur := fun e => h' (e.symm.trans h)
      exact onlySwitches_of (congrArg Host.Outcome.next ((if_neg hne).trans (if_pos h)))
    case part =>
      have hexec : exec (.brd w) s = .next ((s.onMe fun g => { g.defer (target, taken) with path := s.me.cur &&& ~~~taken }).switchTo
          (s.me.pc + 4) 1 0) := congrArg Host.Outcome.next ((if_neg h').trans (if_neg h))
      refine ⟨_, hexec, rfl, ?_, ?_⟩
      · rw [State.switchTo_me, State.onMe_me, Group.defer_eq]
        exact Group.endRun_switched _ _ _
      · change match s.me.stack with
          | [] => (s.me.defer (target, taken)).stack = [] ∧ (s.me.defer (target, taken)).base = _
          | e :: r => (s.me.defer (target, taken)).base = _ ∧ (s.me.defer (target, taken)).stack = _
        unfold Group.defer
        cases s.me.stack with
        | nil => exact ⟨rfl, rfl⟩
        | cons e r => exact ⟨rfl, rfl⟩
  case spilled =>
    intro u r p hp
    have hr0 : u.savedBytes s.me.grid (s.me.thread 0) x.spill 64 = r := rfl
    have hme : r.2.2.me = u.me := (u.savedBytes_priv _ _ _ _).me
    clear_value r
    obtain ⟨y, bs, v⟩ := r
    subst hp
    refine ⟨_, exec_join_restored hg hstack hq hsp hr0 hme, rfl, ?_⟩
    rw [State.switchTo_me, State.onMe_me v]
    dsimp only at hme
    rw [hme]
    refine ⟨rfl, Group.eachThread_endRun _ _ _ _ _ _ fun l a ha => ?_⟩
    by_cases hl : l = 0
    · subst hl
      simp [Thread.free]
    · simp [hl]
  case join =>
    have hsw : Switched (s.me.joined (pastUni s w.kx)) _ (s.me.joined (pastUni s w.kx)).pc :=
      (s.onMe fun g => g.joined (pastUni s w.kx)).switchTo_switched _ 1 0
    refine ⟨_, exec_join_resident hg hsp, rfl, ?_⟩
    generalize State.me (State.switchTo _ _ _ _) = h at hsw ⊢
    cases hstack : s.me.stack with
    | nil =>
      cases hq : s.me.base.q with
      | nil => rw [Group.joined_base hstack hq] at hsw; exact hsw
      | cons y q => rw [Group.joined_base_path hstack hq] at hsw; exact hsw
    | cons e r =>
      dsimp only
      cases hq : e.q with
      | nil => rw [Group.joined_pop hstack hq] at hsw; exact hsw
      | cons y q => rw [Group.joined_path hstack hq] at hsw; exact hsw

end Sys2Proof.Machine
end

section
/-! SUPPORT. The lanes of a mask, and what the checks of an access answer (R281, R282). -/

namespace Sys2Proof.Machine

theorem mem_lanesOf {m : BitVec 32} {i : Nat} : i ∈ lanesOf m ↔ m.getLsbD i = true := by
  rw [lanesOf, List.mem_filter, List.mem_range]
  exact ⟨And.right, fun h => ⟨BitVec.lt_of_getLsbD h, h⟩⟩

theorem lt_of_mem_lanesOf {m : BitVec 32} {i : Nat} (h : i ∈ lanesOf m) : i < 32 := BitVec.lt_of_getLsbD (mem_lanesOf.mp h)

theorem nodup_lanesOf (m : BitVec 32) : (lanesOf m).Nodup := List.nodup_range.filter _

/-- A lane's check with no outcome but success leaves the access to its effect. -/
theorem State.finishParts_ok {s done : State} {k : Access} {outs : List (Nat × Check)} {parts : List (Nat × Nat × Nat × BitVec 32)}
    (h : ∀ x ∈ outs, x.2.isOk = true) : s.finishParts k outs parts done = done := by
  have hnone {α : Type} (f : Nat × Check → Option α) (hf : ∀ x, x.2.isOk = true → f x = none) : outs.filterMap f = [] :=
    List.filterMap_eq_nil_iff.mpr fun x hx => hf x (h x hx)
  unfold State.finishParts
  dsimp only
  rw [hnone _ ?holes, hnone _ ?stops, hnone _ ?pris, hnone _ ?waits]
  case holes | stops | pris | waits =>
    rintro ⟨i, c⟩ hc
    cases c with
    | ok t => rfl
    | _ => cases hc

theorem isOk_of_map {l : List Nat} {tg : Nat → Target} : ∀ x ∈ l.map (fun i => (i, Check.ok (tg i))), x.2.isOk = true := by
  simp [Check.isOk]

theorem withRoom_ok {va : Nat → Nat} {room : Check} {outs : List (Nat × Check)} (h : room.isOk = true) : withRoom va room outs = outs :=
  if_pos h

/-- Checks of global space and of the scratchpad bind nothing (R281, R282). -/
theorem State.checkLanes_state (s : State) {sp : Space} (w : LM) (k : Access) (m : BitVec 32) (h : sp ≠ .priv) :
    (s.checkLanes sp w k m).2 = s := by
  unfold State.checkLanes
  refine List.foldlRecOn (motive := fun p : List (Nat × Check) × State => p.2 = s) _ _ rfl fun acc hacc i _ => ?_
  rw [← hacc]
  cases sp with
  | glob => rfl
  | spad => rfl
  | priv => exact absurd rfl h

end Sys2Proof.Machine
end

section
/-! SUPPORT. Poison marks of registers, the log of scratchpad accesses and the translations of a core, in a machine whose group has
changed its registers only (R89, R100, R421). -/

namespace Sys2Proof.Machine

/-- A poison mark that a write of `n` registers from `d` in the lanes `act` leaves standing: single registers clear none (R421). -/
def State.keepsMark (s : State) (act : BitVec 32) (d n : Nat) (p : PoisonAt) : Bool :=
  match p with
  | .vreg c gs l pr => decide (n < 2) || !(decide (c = s.me.core ∧ gs = s.me.gslot ∧ d / 2 ≤ pr ∧ pr < (d + n) / 2) && act.getLsbD l)
  | _ => true

theorem State.clearV_filter (s : State) (act : BitVec 32) (d n : Nat) :
    s.clearV act d n = { s with poison := s.poison.filter (s.keepsMark act d n) } := by
  unfold State.clearV
  split
  next h =>
    have hall : s.poison.filter (s.keepsMark act d n) = s.poison := by
      rcases h with h | h
      · rw [List.isEmpty_iff.mp h, List.filter_nil]
      · exact List.filter_eq_self.mpr fun p _ => by cases p <;> simp [State.keepsMark, h]
    rw [hall]
  next h =>
    congr 1
    refine List.filter_congr fun p _ => ?_
    have hn : ¬n < 2 := fun hn => h (.inr hn)
    cases p <;> simp [State.keepsMark, hn]

/-- A write of no lane clears no mark. -/
theorem State.clearV_zero (s : State) (d n : Nat) : s.clearV 0 d n = s := by
  have hall : s.poison.filter (s.keepsMark 0 d n) = s.poison :=
    List.filter_eq_self.mpr fun p _ => by cases p <;> simp [State.keepsMark]
  rw [State.clearV_filter, hall]

/-- Threads that the log of scratchpad accesses cannot tell apart (R89). -/
theorem State.recordBeyond_onMe (s : State) (wr : Bool) (outs : List (Nat × Check)) (f : Group → Group) (hg : (f s.me).grid = s.me.grid)
    (ht : ∀ i, ((f s.me).thread i).task = (s.me.thread i).task ∧ ((f s.me).thread i).blk = (s.me.thread i).blk) :
    (s.onMe f).recordBeyond wr outs = (s.recordBeyond wr outs).onMe f := by
  unfold State.recordBeyond
  split
  next i off r _ =>
    have hctx : (s.onMe f).myCtx = s.myCtx := by
      unfold State.myCtx
      rw [State.onMe_me, hg]
      rfl
    obtain ⟨htask, hblk⟩ := ht i
    have hword : (s.onMe f).blkWord ((s.onMe f).me.thread i) = s.blkWord (s.me.thread i) := by
      unfold State.blkWord
      rw [State.onMe_me, htask, hblk]
      rfl
    rw [hctx, hword]
    rfl
  next => rfl

theorem State.recordBeyond_none {s : State} {wr : Bool} {outs : List (Nat × Check)} (h : ∀ x ∈ outs, ∀ b off, x.2 ≠ .ok (.beyond b off)) :
    s.recordBeyond wr outs = s := by
  unfold State.recordBeyond
  rw [List.filterMap_eq_nil_iff.mpr]
  rintro ⟨i, c⟩ hx
  dsimp only
  split
  next => exact absurd rfl (h _ hx _ _)
  next => rfl

theorem State.recordBeyond_me (s : State) (wr : Bool) (outs : List (Nat × Check)) : (s.recordBeyond wr outs).me = s.me := by
  unfold State.recordBeyond
  split <;> rfl

theorem State.fillTlb_eq (s : State) (u c va : Nat) :
    s.fillTlb u c va = { s with tlb := (s.fillTlb u c va).tlb, atsCache := (s.fillTlb u c va).atsCache } := by
  unfold State.fillTlb
  split
  · rfl
  · split <;> rfl

/-- The TLB's fill does not look at the group. -/
theorem State.fillTlb_onMe (s : State) (f : Group → Group) (u c va : Nat) : (s.onMe f).fillTlb u c va = (s.fillTlb u c va).onMe f := by
  have hwalk (fuel table : Nat) : walkLeaf (s.onMe f) va fuel table = walkLeaf s va fuel table := by
    induction fuel generalizing table with
    | zero => rfl
    | succ fuel ih => simp only [walkLeaf, ih]; rfl
  by_cases hc : ((windowOff (s.ctx c) va).isSome || (s.tlbEntry u c va).isSome) = true
  · exact (if_pos hc).trans (congrArg (State.onMe · f) (if_pos hc).symm)
  · refine (if_neg hc).trans (Eq.trans ?_ (congrArg (State.onMe · f) (if_neg hc).symm))
    cases hw : walkLeaf s va 4 (s.ctx c).groot with
    | none =>
      have hw' : walkLeaf (s.onMe f) va 4 ((s.onMe f).ctx c).groot = none := (hwalk _ _).trans hw
      rw [hw']
    | some e =>
      have hw' : walkLeaf (s.onMe f) va 4 ((s.onMe f).ctx c).groot = some e := (hwalk _ _).trans hw
      rw [hw']
      rfl

/-- Of `t`, everything but the translations that are cached is as in `s`. -/
def TlbFrame (s t : State) : Prop := t = { s with tlb := t.tlb, atsCache := t.atsCache }

theorem TlbFrame.trans {s t u : State} (h : TlbFrame s t) (h' : TlbFrame t u) : TlbFrame s u := by
  unfold TlbFrame at h'
  rw [h'] at *
  unfold TlbFrame at h
  rw [h]
  rfl

theorem State.fillLanes_tlb (s : State) (va : Nat → Nat) (outs : List (Nat × Check)) : TlbFrame s (s.fillLanes va outs) := by
  unfold State.fillLanes
  refine List.foldlRecOn (motive := TlbFrame s) _ _ rfl fun t ht x _ => ?_
  split
  · exact ht.trans (t.fillTlb_eq _ _ _)
  · exact ht

theorem State.fillLanes_onMe (s : State) (va : Nat → Nat) (outs : List (Nat × Check)) (f : Group → Group)
    (hc : (f s.me).core = s.me.core) (hg : (f s.me).grid = s.me.grid) : (s.onMe f).fillLanes va outs = (s.fillLanes va outs).onMe f := by
  induction outs generalizing s with
  | nil => rfl
  | cons x outs ih =>
    have hstep (t : State) : t.fillLanes va (x :: outs) =
      (match x.2 with | .ok (.glob _) => t.fillTlb t.me.core t.myCtx (va x.1) | _ => t).fillLanes va outs := rfl
    rw [hstep, hstep]
    split
    · have hctx : (s.onMe f).myCtx = s.myCtx := by
        unfold State.myCtx
        rw [State.onMe_me, hg]
        rfl
      rw [State.onMe_me, hc, hctx, State.fillTlb_onMe]
      have hme := congrArg State.me (s.fillTlb_eq s.me.core s.myCtx (va x.1))
      exact ih _ (by rw [hme]; exact hc) (by rw [hme]; exact hg)
    · exact ih _ hc hg

end Sys2Proof.Machine
end

section
/-! SUPPORT. Loads of lanes, one after the other: each changes its own lane's registers and clears their marks (R283, R421). -/

namespace Sys2Proof.Machine

/-- A lane after the end of a run (R20, R250). -/
theorem Group.lane_endRun (g : Group) (pc : Dword) (n i : Nat) :
    (g.endRun pc n).lane i = (g.lane i).map fun a => { a with lat := List.replicate 8 0, clkHi := none } :=
  Group.lane_onAll _ _ _

theorem Thread.setVs_eq (t : Thread) (d : Nat) (ws : List Word) : t.setVs d ws = { t with v := (t.setVs d ws).v } := by
  induction ws generalizing t d with
  | nil => rfl
  | cons x r ih => rw [Thread.setVs, ih]; rfl

theorem Thread.setVs_length (t : Thread) (d : Nat) (ws : List Word) : (t.setVs d ws).v.length = t.v.length := by
  induction ws generalizing t d with
  | nil => rfl
  | cons x r ih => rw [Thread.setVs, ih, Thread.setV, setNth_length]

theorem Thread.nth_setVs (t : Thread) (d : Nat) (ws : List Word) {r : Nat} (hr : r < t.v.length) :
    nth (t.setVs d ws).v r 0 = if d ≤ r ∧ r < d + ws.length then nth ws (r - d) 0 else nth t.v r 0 := by
  induction ws generalizing t d with
  | nil => rw [if_neg (by simp only [List.length_nil]; omega)]; rfl
  | cons x ws ih =>
    rw [Thread.setVs, ih _ _ (by rwa [Thread.setV, setNth_length]), Thread.setV, nth_setNth, List.length_cons]
    by_cases hd : r = d
    · subst hd
      rw [if_neg (by omega), if_pos (by omega), if_pos (by omega), Nat.sub_self]
      rfl
    · by_cases hin : d + 1 ≤ r ∧ r < d + 1 + ws.length
      · rw [if_pos hin, if_pos (by omega), show r - d = r - (d + 1) + 1 by omega]
        rfl
      · rw [if_neg hin, if_neg (by tauto), if_neg (by omega)]

/-- A thread that takes loaded words and then ends its run (R20, R283). -/
theorem Thread.loads_setVs (a : Thread) (d : Nat) (ws : List Word) :
    a.Loads { a.setVs d ws with lat := List.replicate 8 0, clkHi := none } d ws := by
  refine ⟨?_, a.setVs_length d ws, fun r hr => a.nth_setVs d ws hr⟩
  rw [Thread.setVs_eq]

/-- A mark stands after the writes of each lane where it stands after the write of them all. -/
theorem State.keepsMark_lanes (s : State) (act : BitVec 32) (d n : Nat) (p : PoisonAt) :
    ((lanesOf act).all fun i => s.keepsMark (BitVec.ofNat 32 (2 ^ i)) d n p) = s.keepsMark act d n p := by
  unfold State.keepsMark
  cases p with
  | vreg c gs l pr =>
    dsimp only
    by_cases hn : n < 2
    · simp [hn]
    by_cases hd : c = s.me.core ∧ gs = s.me.gslot ∧ d / 2 ≤ pr ∧ pr < (d + n) / 2
    · rw [decide_eq_false hn, decide_eq_true hd, Bool.eq_iff_iff, List.all_eq_true]
      simp only [Bool.false_or, Bool.true_and, Bool.not_eq_true']
      refine ⟨fun h => ?_, fun h i hi => ?_⟩
      · by_contra hl
        rw [Bool.not_eq_false] at hl
        have := h l (mem_lanesOf.mpr hl)
        rw [getLsbD_two_pow (BitVec.lt_of_getLsbD hl)] at this
        exact absurd rfl (of_decide_eq_false this)
      · rw [getLsbD_two_pow (lt_of_mem_lanesOf hi)]
        refine decide_eq_false fun e => ?_
        rw [← e, mem_lanesOf.mp hi] at h
        cases h
    · simp [hd]
  | _ => simp

section Lanes
variable (w : LM) (tg : Nat → Target)

/-- The words that a load of lane `i` gives the thread `a` (R283). -/
def State.loadWords (s : State) (i : Nat) (a : Thread) : List Word :=
  szWords w.sz (s.loadBytes s.me.grid a.party (tg i) (szBytes w.sz))

/-- The machine `t` is `s` after the loads of the lanes `ls`, whose results are written. -/
structure Loaded (s t : State) (ls : List Nat) : Prop where
  rest : t = { s with me := t.me, poison := t.poison }
  group : t.me = { s.me with lanes := t.me.lanes }
  marks : t.poison = s.poison.filter fun p => ls.all fun i => s.keepsMark (BitVec.ofNat 32 (2 ^ i)) w.d.toNat (szRegs w.sz) p
  lanes : ∀ i, t.me.lane i = (s.me.lane i).map fun a => if i ∈ ls then a.setVs w.d.toNat (s.loadWords w tg i a) else a

theorem Loaded.step {s t : State} {ls : List Nat} (h : Loaded w tg s t ls) {l : Nat} (hl : l ∉ ls) (hlt : l < 32)
    (hd : ¬(w.n = 1 ∨ 0x78 ≤ w.d.toNat)) : Loaded w tg s (t.loadLane w l (tg l)) (ls ++ [l]) := by
  obtain ⟨hrest, hgroup, hmarks, hlanes⟩ := h
  have hbytes (p : Party) : t.loadBytes t.me.grid p (tg l) (szBytes w.sz) = s.loadBytes s.me.grid p (tg l) (szBytes w.sz) := by
    rw [hgroup, hrest]; rfl
  have hload : t.loadLane w l (tg l) = (t.clearV (BitVec.ofNat 32 (2 ^ l)) w.d.toNat (szRegs w.sz)).onMe fun g =>
      g.onLanes (BitVec.ofNat 32 (2 ^ l)) fun _ x => x.setVs w.d.toNat (szWords w.sz (t.loadBytes t.me.grid (t.me.thread l).party (tg l) (szBytes w.sz))) :=
    if_neg hd
  rw [hload, State.clearV_filter]
  refine ⟨?_, ?_, ?_, fun i => ?_⟩
  · rw [hrest]
    rfl
  · change Group.onLanes t.me _ _ = _
    rw [hgroup]
    rfl
  · change t.poison.filter _ = _
    have hkeep : t.keepsMark (BitVec.ofNat 32 (2 ^ l)) w.d.toNat (szRegs w.sz) = s.keepsMark (BitVec.ofNat 32 (2 ^ l)) w.d.toNat (szRegs w.sz) := by
      unfold State.keepsMark
      rw [hgroup]
    rw [hkeep, hmarks, List.filter_filter]
    refine List.filter_congr fun p _ => ?_
    rw [List.all_append, List.all_cons, List.all_nil, Bool.and_true, Bool.and_comm]
  · change (Group.onLanes t.me _ _).lane i = _
    rw [Group.lane_onLanes, getLsbD_two_pow hlt, hlanes]
    by_cases hi : l = i
    · subst hi
      cases ha : s.me.lane l with
      | none => simp
      | some a =>
        have hthread : t.me.thread l = a := Group.thread_of_lane (by rw [hlanes, ha]; simp [hl])
        simp [hl, hthread, hbytes, State.loadWords]
    · cases s.me.lane i <;> simp [hi, Ne.symm hi]

theorem Loaded.foldl {s : State} (hd : ¬(w.n = 1 ∨ 0x78 ≤ w.d.toNat)) {ls : List Nat} (hn : ls.Nodup) (hlt : ∀ l ∈ ls, l < 32) :
    Loaded w tg s (ls.foldl (fun t l => t.loadLane w l (tg l)) s) ls := by
  induction ls using List.reverseRecOn with
  | nil => exact ⟨rfl, rfl, by simp, fun i => by simp⟩
  | append_singleton ls l ih =>
    rw [List.foldl_concat]
    have hnew : l ∉ ls := fun h => (List.nodup_append.mp hn).2.2 l h l (List.mem_singleton_self l) rfl
    exact (ih (List.nodup_append.mp hn).1 fun x hx => hlt x (List.mem_append_left _ hx)).step w tg hnew
      (hlt l (List.mem_append_right _ (List.mem_singleton_self l))) hd

/-- What the loads of the lanes of `act` leave: the result registers, unless N = 1 or D is the discard code, and the marks that they
cleared (R19, R215, R421). -/
theorem State.loadLanes_result (s : State) (act : BitVec 32) :
    ∃ g : Group, (lanesOf act).foldl (fun t l => t.loadLane w l (tg l)) s = (s.marksCleared act w.d w.n (szRegs w.sz)).onMe (fun _ => g) ∧
      g = { s.me with lanes := g.lanes } ∧ ∀ i, g.lane i = (s.me.lane i).map fun a =>
        if act.getLsbD i && decide (w.n = 0) && decide (w.d.toNat < 0x78) then a.setVs w.d.toNat (s.loadWords w tg i a) else a := by
  set t := (lanesOf act).foldl (fun t l => t.loadLane w l (tg l)) s
  refine ⟨t.me, ?_⟩
  by_cases hd : w.n = 1 ∨ 0x78 ≤ w.d.toNat
  · have hsame : t = s := List.foldlRecOn (motive := fun u : State => u = s) _ _ rfl fun u hu l _ => by rw [hu]; exact if_pos hd
    have hno : (decide (w.n = 0) && decide (w.d.toNat < 0x78)) = false := by
      rcases hd with h | h
      · rw [h]; rfl
      · rw [decide_eq_false (Nat.not_lt.mpr h), Bool.and_false]
    rw [hsame, State.marksCleared, if_pos hd, State.clearV_zero]
    exact ⟨rfl, rfl, fun i => by simp only [Bool.and_assoc, hno, Bool.and_false, Bool.false_eq_true, if_false, Option.map_id']⟩
  · obtain ⟨hrest, hgroup, hmarks, hlanes⟩ := Loaded.foldl w tg (s := s) hd (nodup_lanesOf act) fun l => lt_of_mem_lanesOf
    have hyes : w.n = 0 ∧ w.d.toNat < 0x78 := by
      have : w.n = 0 ∨ w.n = 1 := by generalize w.n = n; revert n; decide
      simp only [not_or, Nat.not_le] at hd
      exact ⟨this.resolve_right hd.1, hd.2⟩
    have hpoison : t.poison = (s.marksCleared act w.d w.n (szRegs w.sz)).poison := by
      rw [State.marksCleared, if_neg hd, State.clearV_filter]
      exact hmarks.trans (List.filter_congr fun p _ => s.keepsMark_lanes act _ _ p)
    refine ⟨?_, hgroup, fun i => ?_⟩
    · refine hrest.trans ?_
      change ({ s with me := t.me, poison := t.poison } : State) = _
      rw [hpoison, State.marksCleared, State.clearV_filter]
      rfl
    · refine (hlanes i).trans ?_
      simp only [mem_lanesOf, hyes, decide_true, Bool.and_true]

end Lanes

end Sys2Proof.Machine
end

section
/-! The statements on lane loads and stores. -/

namespace Sys2Proof.Machine

theorem State.laneAccess_load {w : LM} {s : State} {sp : Space} {tg : Nat → Target}
    (h : s.lanePoison (s.me.active w.lxc) [(w.a, if sp = .spad then 1 else 2)] = 0)
    (hc : (s.checkLanes sp w .read (s.me.active w.lxc)).1 = (lanesOf (s.me.active w.lxc)).map fun i => (i, .ok (tg i))) :
    ∃ occ lat, s.laneAccess w sp false = .next
      ((((lanesOf (s.me.active w.lxc)).foldl (fun t l => t.loadLane w l (tg l)) (s.checkLanes sp w .read (s.me.active w.lxc)).2).recordBeyond false
        (s.checkLanes sp w .read (s.me.active w.lxc)).1 |>.fillLanes (fun i => lmAddress s.me (s.me.thread i) sp w)
          (s.checkLanes sp w .read (s.me.active w.lxc)).1).switch (lmLen w) occ lat) := by
  have hok : ∀ x ∈ (s.checkLanes sp w .read (s.me.active w.lxc)).1, x.2.isOk = true := by rw [hc]; exact isOk_of_map
  unfold State.laneAccess
  simp only [Bool.false_eq_true, if_false, Bool.false_and, State.logRoom]
  rw [s.laneRun_next _ _ _ h, withRoom_ok rfl, State.finishLanes, State.finishParts_ok hok]
  refine ⟨_, _, congrArg Host.Outcome.next (congrArg (State.switch · _ _ _) ?_)⟩
  rw [hc, List.foldl_map]

/-- Settles O15: the lanes' loads change their own registers and marks, and the shared end of an access leaves the rest. -/
theorem laneLoads : Obligations.LaneLoads := by
  unfold Obligations.LaneLoads
  intro w s sp tg act c h hc
  refine ⟨fun hsp => s.checkLanes_state w .read act hsp, ?_⟩
  obtain ⟨occ, lat, hexec⟩ := State.laneAccess_load h hc
  obtain ⟨g, hstate, hgroup, hlanes⟩ := c.2.loadLanes_result w tg act
  have hthread (i : Nat) : (g.thread i).task = (c.2.me.thread i).task ∧ (g.thread i).blk = (c.2.me.thread i).blk := by
    unfold Group.thread
    rw [hlanes]
    cases c.2.me.lane i with
    | none => exact ⟨rfl, rfl⟩
    | some a =>
      rw [Option.map_some, Option.getD_some, Option.getD_some]
      split
      · rw [Thread.setVs_eq]; exact ⟨rfl, rfl⟩
      · exact ⟨rfl, rfl⟩
  have hmarks : (c.2.marksCleared act w.d w.n (szRegs w.sz)).me = c.2.me := by rw [State.marksCleared, State.clearV_filter]
  rw [hstate, State.recordBeyond_onMe _ _ _ _ ?grid fun i => ?threads, State.fillLanes_onMe _ _ _ _ ?core ?grid'] at hexec
  case threads => rw [hmarks]; exact hthread i
  case grid => rw [hmarks, hgroup]
  case core => rw [State.recordBeyond_me, hmarks, hgroup]
  case grid' => rw [State.recordBeyond_me, hmarks, hgroup]
  refine ⟨_, Eq.trans (by cases sp <;> rfl) hexec, rfl, fun hbeyond => ?ctxs, ?group⟩
  case ctxs =>
    have hnone : (c.2.marksCleared act w.d w.n (szRegs w.sz)).recordBeyond false c.1 = c.2.marksCleared act w.d w.n (szRegs w.sz) := by
      refine State.recordBeyond_none fun x hx b off hb => ?_
      rw [hc, List.mem_map] at hx
      obtain ⟨i, hi, rfl⟩ := hx
      exact hbeyond i (mem_lanesOf.mp hi) b off (Check.ok.inj hb)
    change (State.fillLanes _ _ _).ctxs = _
    rw [State.fillLanes_tlb, hnone, State.marksCleared, State.clearV_filter]
  case group =>
    change SwitchedBy c.2.me (g.endRun (g.pc + BitVec.ofNat 64 (4 * lmLen w)) _) _ _
    refine ⟨by rw [hgroup]; rfl, fun i => ?_⟩
    rw [Group.lane_endRun, hlanes]
    cases c.2.me.lane i with
    | none => rfl
    | some a =>
      refine ⟨_, rfl, ?_⟩
      dsimp only
      split
      · exact a.loads_setVs _ _
      · exact a.loads_setVs _ []

end Sys2Proof.Machine
end

section
/-! SUPPORT. Pending writes of a party (R104, R105). -/

namespace Sys2Proof.Machine

theorem findByte_putByte (l m : Loc) (b : Byte) (p : List (Loc × Byte)) :
    findByte m (putByte l b p) = if m = l then some b else findByte m p := by
  induction p with
  | nil => simp [putByte, findByte, eq_comm]
  | cons x r ih =>
    obtain ⟨n, y⟩ := x
    rw [putByte]
    by_cases hn : n = l
    · subst hn
      by_cases hm : m = n <;> simp [findByte, hm, eq_comm]
    · rw [if_neg hn, findByte, findByte, ih]
      by_cases hm : m = l
      · subst hm; simp [hn]
      · simp [hm]

theorem Party.read?_write (p : Party) (l m : Loc) (b : Byte) : (p.write l b).read? m = if m = l then some b else p.read? m := by
  unfold Party.read? Party.write
  rw [findByte_putByte]
  by_cases h : m = l
  · rw [if_pos h, if_pos h]
  · rw [if_neg h, if_neg h]

theorem Loc.span_length (l : Loc) (n : Nat) : (l.span n).length = n := by simp [Loc.span]

/-- The places of a span are as many as its bytes (R85). -/
theorem Loc.nodup_span (l : Loc) (n : Nat) : (l.span n).Nodup := by
  refine List.nodup_range.map fun i j h => ?_
  cases l <;> simpa using h

section WriteBytes
variable (p : Party) (ls : List Loc) (bs : List Byte)

/-! Bytes written to places one after the other. -/

theorem Party.foldl_write_frame : (List.zip ls bs).foldl (fun q x => q.write x.1 x.2) p =
    { p with pend := ((List.zip ls bs).foldl (fun q x => q.write x.1 x.2) p).pend } := by
  refine List.foldlRecOn (motive := fun q : Party => q = { p with pend := q.pend }) _ _ rfl fun q hq x _ => ?_
  rw [Party.write, hq]

theorem Party.read?_foldl_write_out {m : Loc} (h : m ∉ ls) :
    ((List.zip ls bs).foldl (fun q x => q.write x.1 x.2) p).read? m = p.read? m := by
  induction ls generalizing p bs with
  | nil => rfl
  | cons l ls ih =>
    rw [List.mem_cons, not_or] at h
    cases bs with
    | nil => rfl
    | cons b bs => rw [List.zip_cons_cons, List.foldl_cons, ih _ _ h.2, Party.read?_write, if_neg h.1]

theorem Party.read?_foldl_write_in (hn : ls.Nodup) {j : Nat} {l : Loc} {b : Byte} (hl : ls[j]? = some l) (hb : bs[j]? = some b) :
    ((List.zip ls bs).foldl (fun q x => q.write x.1 x.2) p).read? l = some b := by
  induction ls generalizing p bs j with
  | nil => cases hl
  | cons m ls ih =>
    cases bs with
    | nil => cases hb
    | cons c bs =>
      rw [List.zip_cons_cons, List.foldl_cons]
      cases j with
      | zero =>
        obtain rfl := Option.some.inj hl
        obtain rfl := Option.some.inj hb
        rw [Party.read?_foldl_write_out _ _ _ (List.nodup_cons.mp hn).1, Party.read?_write, if_pos rfl]
      | succ j => exact ih _ _ (List.nodup_cons.mp hn).2 hl hb

end WriteBytes

theorem Party.writeBytes_pendingAt (p : Party) (l : Loc) (bs : List Byte) : PendingAt p (p.writeBytes l bs) l bs := by
  refine ⟨p.foldl_write_frame _ _, fun j hj => ?_, fun x hx => p.read?_foldl_write_out _ _ hx⟩
  have hl : (l.span bs.length)[j]? = some (nth (l.span bs.length) j l) := by
    rw [nth_eq_getD, List.getElem?_eq_getElem (by rwa [Loc.span_length]), Option.getD_some]
  have hb : bs[j]? = some (nth bs j 0) := by rw [nth_eq_getD, List.getElem?_eq_getElem hj, Option.getD_some]
  exact p.read?_foldl_write_in _ _ (l.nodup_span _) hl hb

end Sys2Proof.Machine
end

section
/-! SUPPORT. What the parts of a store change (R88, R99, R104). -/

namespace Sys2Proof.Machine

theorem Memory.storedAt_putBytes {m : Memory} {a : Nat} {bs : List Byte} (h : Memory.wf m = true) : StoredAt m (Memory.putBytes m a bs) a bs :=
  ⟨fun j hj => by rw [Memory.get_putBytes_in h hj, nth_eq_getD, List.getElem?_eq_getElem hj, Option.getD_some],
    fun _ hx => Memory.get_putBytes_out h hx⟩

theorem State.clearMem_eq (s : State) (t : Target) (n : Nat) : s.clearMem t n = { s with poison := (s.clearMem t n).poison } := by
  unfold State.clearMem; split <;> rfl

theorem State.dropFixes_eq (s : State) (l : Loc) (n : Nat) : s.dropFixes l n = { s with fixes := (s.dropFixes l n).fixes } := by
  unfold State.dropFixes; split <;> rfl

theorem State.clearWords_eq (s : State) (l : Loc) (b n : Nat) : s.clearWords l b n = { s with poison := (s.clearWords l b n).poison } := by
  unfold State.clearWords; split <;> rfl

theorem State.dropHubWords_eq (s : State) (h : Nat) (l : Loc) (n : Nat) :
    s.dropHubWords h l n = { s with hubWords := (s.dropHubWords h l n).hubWords } := by
  unfold State.dropHubWords; split <;> rfl

theorem State.forgetWindow_eq (s : State) (off n : Nat) :
    s.forgetWindow off n = { s with futures := (s.forgetWindow off n).futures, doneOps := (s.forgetWindow off n).doneOps } := by
  unfold State.forgetWindow
  refine List.foldlRecOn (motive := fun t : State => t = { s with futures := t.futures, doneOps := t.doneOps }) _ _ rfl fun t ht i _ => ?_
  rw [State.forgetWord, ht]

/-- A write of device memory (R82). -/
theorem State.putPhys_mem (s : State) (a : Nat) (bs : List Byte) : s.putPhys false a bs = { s with
    hbm := Memory.putBytes s.hbm a bs, flushed := (s.putPhys false a bs).flushed, poison := (s.putPhys false a bs).poison
    fixes := (s.putPhys false a bs).fixes } := by
  unfold State.putPhys
  simp only [Bool.false_eq_true, if_false]
  rw [State.clearWords_eq, State.dropFixes_eq]

/-- What a store does by its target: in the window and in the thread's own memory at once, pending elsewhere (R88, R99, R104). -/
theorem State.storeBytes_win (s : State) (h : Nat) (p : Party) (off : Nat) (bs : List Byte) :
    ∃ poison futures doneOps, s.storeBytes h p (.glob (.win off)) bs =
      (p, { s with window := Memory.putBytes s.window off bs, poison := poison, futures := futures, doneOps := doneOps }) := by
  unfold State.storeBytes
  dsimp only
  rw [State.forgetWindow_eq, State.clearMem_eq]
  exact ⟨_, _, _, rfl⟩

theorem State.storeBytes_priv (s : State) (h : Nat) (p : Party) (pa : Nat) (bs : List Byte) :
    ∃ flushed poison fixes, s.storeBytes h p (.priv pa) bs =
      (p, { s with hbm := Memory.putBytes s.hbm pa bs, flushed := flushed, poison := poison, fixes := fixes }) := by
  unfold State.storeBytes
  dsimp only
  rw [State.putPhys_mem, State.clearMem_eq]
  exact ⟨_, _, _, rfl⟩

theorem State.storeBytes_beyond (s : State) (h : Nat) (p : Party) (b off : Nat) (bs : List Byte) :
    ∃ poison, s.storeBytes h p (.beyond b off) bs = (p, { s with poison := poison }) := by
  unfold State.storeBytes
  dsimp only
  rw [State.clearMem_eq]
  exact ⟨_, rfl⟩

theorem State.storeBytes_loc (s : State) (h : Nat) (p : Party) {tg : Target} {l : Loc} (hl : tg.loc = some l) (bs : List Byte) :
    ∃ poison fixes hubWords, s.storeBytes h p tg bs =
      (p.writeBytes l bs, { s with poison := poison, fixes := fixes, hubWords := hubWords }) := by
  unfold State.storeBytes
  dsimp only
  split
  · cases hl
  · cases hl
  · cases hl
  · rw [hl]
    dsimp only
    rw [State.dropHubWords_eq, State.dropFixes_eq, State.clearMem_eq]
    exact ⟨_, _, _, rfl⟩

theorem State.setParty_me (s : State) (i : Nat) (p : Party) :
    (s.setParty i p).me = s.me.onLanes (BitVec.ofNat 32 (2 ^ i)) fun _ t => { t with party := p } := rfl

theorem State.lane_setParty (s : State) {i : Nat} (hi : i < 32) (p : Party) (j : Nat) :
    (s.setParty i p).me.lane j = if i = j then (s.me.lane j).map fun t => { t with party := p } else s.me.lane j := by
  rw [State.setParty_me, Group.lane_onLanes, getLsbD_two_pow hi]
  simp

end Sys2Proof.Machine
end

section
/-! The statement on lane stores (13, 04, 05). -/

namespace Sys2Proof.Machine

/-- The machine after the stores of the lanes `act`, with what an access logs and caches (R89, R100). -/
def State.afterStores (s : State) (w : LM) (sp : Space) (act : BitVec 32) (tg : Nat → Target) (outs : List (Nat × Check)) (u : State) : State :=
  (((lanesOf act).foldl (fun t i => t.storeLane w i (tg i)) u).recordBeyond true outs).fillLanes
    (fun i => lmAddress s.me (s.me.thread i) sp w) outs

theorem State.laneAccess_store {w : LM} {s : State} {sp : Space} {tg : Nat → Target} {c : List (Nat × Check) × State} {room : Check × State}
    (h : s.lanePoison (s.me.active w.lxc) [(w.a, if sp = .spad then 1 else 2), (w.d.setWidth 8, szRegs w.sz)] = 0)
    (hcheck : s.checkLanes sp w .write (s.me.active w.lxc) = c)
    (hroom : c.2.logRoom s.me.grid (lmAddress s.me (s.me.thread (lowLane (s.me.active w.lxc))) sp w) (c.1.any fun x => x.2.logged) = room)
    (hok : room.1.isOk = true) (hc : c.1 = (lanesOf (s.me.active w.lxc)).map fun i => (i, .ok (tg i))) :
    ∃ occ ready, s.laneAccess w sp true = .next (let u := s.afterStores w sp (s.me.active w.lxc) tg c.1 room.2
      u.switchAt (u.past (lmLen w)) occ ready) := by
  have hall : ∀ x ∈ c.1, x.2.isOk = true := by rw [hc]; exact isOk_of_map
  unfold State.laneAccess
  simp only [if_true, Bool.true_and]
  rw [s.laneRun_next _ _ _ h, hcheck, hroom, withRoom_ok hok, State.finishLanes, State.finishParts_ok hall]
  obtain ⟨outs, v⟩ := c
  obtain rfl : outs = _ := hc
  rw [List.foldl_map]
  exact ⟨_, _, rfl⟩

/-- Settles O16: the lanes' stores run on the machine that has room in its log, and each changes its own thread's pending writes, or memory. -/
theorem laneStores : Obligations.LaneStores := by
  unfold Obligations.LaneStores
  refine ⟨fun w s sp tg => ?_, fun w s i tg a hwf hi ha => ?_⟩
  · intro act c room h hok hc
    have hany : (c.1.any fun x => x.2.logged) = (lanesOf act).any fun i => (Check.ok (tg i)).logged := by rw [hc, List.any_map]; rfl
    have hroom : c.2.logRoom s.me.grid (lmAddress s.me (s.me.thread (lowLane act)) sp w) (c.1.any fun x => x.2.logged) = room := by
      rw [hany]; rfl
    obtain ⟨occ, ready, hexec⟩ := State.laneAccess_store h rfl hroom hok hc
    exact ⟨occ, ready, Eq.trans (by cases sp <;> rfl) hexec⟩
  · intro bs t
    have hthread := Group.thread_of_lane ha
    have ht : t = (s.storeBytes s.me.grid a.party tg bs).2.setParty i (s.storeBytes s.me.grid a.party tg bs).1 := by
      change s.storeLane w i tg = _
      rw [State.storeLane, hthread]
    clear_value t
    have hother {u : State} (hu : u.me = s.me) {p : Party} (j : Nat) (hj : j ≠ i) : (u.setParty i p).me.lane j = s.me.lane j := by
      rw [State.lane_setParty _ hi, if_neg (Ne.symm hj), hu]
    have hself {u : State} (hu : u.me = s.me) {p : Party} : (u.setParty i p).me.lane i = some { a with party := p } := by
      rw [State.lane_setParty _ hi, if_pos rfl, hu, ha]; rfl
    have hplace (l : Loc) (hl : tg.loc = some l)  : (∀ j, j ≠ i → t.me.lane j = s.me.lane j) ∧ t.sysMem = s.sysMem ∧ t.groups = s.groups ∧
        t.atoms = s.atoms ∧ SameMemory s t ∧ ∃ b l, t.me.lane i = some b ∧ tg.loc = some l ∧ b = { a with party := b.party } ∧
          PendingAt a.party b.party l bs := by
      obtain ⟨_, _, _, hst⟩ := s.storeBytes_loc s.me.grid a.party hl bs
      rw [hst] at ht
      subst ht
      exact ⟨hother rfl, rfl, rfl, rfl, ⟨rfl, rfl, rfl, rfl, rfl⟩, _, l, hself rfl, hl, rfl, a.party.writeBytes_pendingAt l bs⟩
    cases tg with
    | glob p =>
      cases p with
      | win off =>
        obtain ⟨_, _, _, hst⟩ := s.storeBytes_win s.me.grid a.party off bs
        rw [hst] at ht
        subst ht
        exact ⟨hother rfl, rfl, rfl, rfl, hself rfl, rfl, Memory.storedAt_putBytes hwf.2.2.1⟩
      | mem pa ap => exact hplace (.mem pa) rfl
      | sys va => exact hplace (.sys va) rfl
    | spad b off => exact hplace (.spad b off) rfl
    | priv pa =>
      obtain ⟨_, _, _, hst⟩ := s.storeBytes_priv s.me.grid a.party pa bs
      rw [hst] at ht
      subst ht
      exact ⟨hother rfl, rfl, rfl, rfl, hself rfl, rfl, Memory.storedAt_putBytes hwf.1⟩
    | beyond b off =>
      obtain ⟨_, hst⟩ := s.storeBytes_beyond s.me.grid a.party b off bs
      rw [hst] at ht
      subst ht
      exact ⟨hother rfl, rfl, rfl, rfl, hself rfl, rfl, rfl, rfl, rfl, rfl⟩

end Sys2Proof.Machine
end

section
/-! SUPPORT. The order of the checks of an access, and the end of one that a check stops (R281, R282, R385). -/

namespace Sys2Proof.Machine

section Checks
variable (s : State) {va off n blk : Nat} {k : Access}

theorem State.checkGlobal_beyond (h : 2 ^ 56 ≤ va) : s.checkGlobal va n k = .stop 0x07 va none := if_pos h

theorem State.checkGlobal_misaligned (h : va < 2 ^ 56) (ha : va % n ≠ 0) : s.checkGlobal va n k = .stop 0x03 va none :=
  (if_neg (Nat.not_le.mpr h)).trans (if_pos ha)

theorem State.checkSpad_misaligned (h : off % n ≠ 0) : s.checkSpad blk off n k = .stop 0x03 off none := if_pos h

theorem State.checkSpad_beyond (h : off % n = 0) (hb : (s.block blk).sb < off + n) : s.checkSpad blk off n k = .ok (.beyond blk off) :=
  (if_neg (not_not.mpr h)).trans (if_pos hb)

theorem State.checkSpad_inside (h : off % n = 0) (hb : off + n ≤ (s.block blk).sb) (hp : s.poison = []) :
    s.checkSpad blk off n k = .ok (.spad blk off) := by
  have hclean : s.poisonAt (.spad blk off) n = false := by rw [State.poisonAt, hp]; rfl
  rw [State.checkSpad, if_neg (not_not.mpr h), if_neg (Nat.not_lt.mpr hb), State.checkPoison, hclean, Bool.and_false]
  rfl

end Checks

/-- An access whose only lane a check stops is a fatal trap of that lane, and takes no effect (R385). -/
theorem State.finishParts_stop {s done : State} {k : Access} {i cause va : Nat} {parts : List (Nat × Nat × Nat × BitVec 32)} :
    s.finishParts k [(i, .stop cause va none)] parts done = (s.occupy 8).takeFatal { s.me.trapRec s cause with
      va := va, tid := (s.me.thread i).tid.toNat, mask := 0 } := by
  unfold State.finishParts
  simp only [List.filterMap_cons, List.filterMap_nil, lanesWhere, List.any_cons, List.any_nil, Bool.and_false, Bool.or_false, maskOf_false,
    List.length_cons, List.length_nil, Nat.zero_add, Nat.reduceLeDiff, max_eq_left, State.logStops, List.foldl_cons, List.foldl_nil]
  rfl

end Sys2Proof.Machine
end

section
/-! The statement on the checks of lanes' accesses (13, 19). -/

namespace Sys2Proof.Machine

/-- Settles O17: the checks are taken in order, and a load that one of them stops leaves its effect untaken. -/
theorem accessChecks : Obligations.AccessChecks := by
  unfold Obligations.AccessChecks
  refine ⟨fun s va off n blk k => ⟨s.checkGlobal_beyond, s.checkGlobal_misaligned, s.checkSpad_misaligned, s.checkSpad_beyond,
    s.checkSpad_inside⟩, ?_⟩
  intro w s i act hp hone hva hal
  have hcheck : s.checkLanes .glob w .read act = ([(i, .stop 0x03 (lmAddress s.me (s.me.thread i) .glob w) none)], s) := by
    rw [State.checkLanes, hone]
    change ([(i, s.checkGlobal (lmAddress s.me (s.me.thread i) .glob w) (szBytes w.sz) .read)], s) = _
    rw [s.checkGlobal_misaligned hva hal]
  change s.laneAccess w .glob false = _
  unfold State.laneAccess
  simp only [Bool.false_eq_true, if_false, Bool.false_and, State.logRoom, reduceCtorEq]
  rw [s.laneRun_next _ _ _ hp, hcheck, withRoom_ok rfl]
  exact congrArg Host.Outcome.next State.finishParts_stop

end Sys2Proof.Machine
end

section
/-! SUPPORT. Atomics of lanes: the values that the integer operations leave, and the registers that take the value found (R284, R285). -/

namespace Sys2Proof.Machine

/-- Thirty-two bits through a 64-bit word and back. -/
theorem setWidth_setWidth_word (a : Word) : (a.setWidth 64).setWidth 32 = a := by simp

theorem setWidth_dword_inj {a b : Word} : a.setWidth 64 = b.setWidth 64 ↔ a = b :=
  ⟨fun h => by simpa using congrArg (BitVec.setWidth 32) h, fun h => h ▸ rfl⟩

theorem Thread.takesWords_writeBack (y : Thread) (d : BitVec 7) (n : BitVec 1) (x : Word) : y.TakesWords (y.writeBack d n x) d n [x] := by
  have hn : n = 0 ∨ n = 1 := by revert n; decide
  unfold Thread.writeBack
  split
  next h =>
    refine ⟨rfl, rfl, fun r _ => (if_neg ?_).symm⟩
    rintro ⟨rfl, hd, -⟩
    rcases h with h | h
    · exact absurd h (by decide)
    · omega
  next h =>
    simp only [not_or, Nat.not_le] at h
    have h0 : n = 0 := hn.resolve_right h.1
    refine ⟨rfl, setNth_length _ _ _, fun r hr => ?_⟩
    simp only [Thread.setV, nth_setNth, List.length_singleton, h0, h.2, true_and]
    by_cases hrd : r = d.toNat
    · subst hrd; simp [hr, nth]
    · rw [if_neg (by tauto), if_neg (by omega)]

theorem Thread.takesWords_writePair (y : Thread) (d : BitVec 7) (n : BitVec 1) (x : Dword) :
    y.TakesWords (y.writePair d n x) d n (dwordWords x) := by
  have hn : n = 0 ∨ n = 1 := by revert n; decide
  unfold Thread.writePair
  split
  next h =>
    refine ⟨rfl, rfl, fun r _ => (if_neg ?_).symm⟩
    rintro ⟨rfl, hd, -⟩
    rcases h with h | h
    · exact absurd h (by decide)
    · omega
  next h =>
    simp only [not_or, Nat.not_le] at h
    have h0 : n = 0 := hn.resolve_right h.1
    refine ⟨rfl, by simp [Thread.setV, setNth_length], fun r hr => ?_⟩
    simp only [Thread.setV, nth_setNth, setNth_length, dwordWords, List.length_cons, List.length_nil, h0, h.2, true_and]
    by_cases h1 : r = d.toNat + 1
    · subst h1; simp [hr, nth]
    · by_cases h2 : r = d.toNat
      · subst h2; simp [hr, nth]
      · rw [if_neg (by tauto), if_neg (by tauto), if_neg (by omega)]

theorem Thread.takesWords_discard (y : Thread) (n : BitVec 1) (ws : List Word) : y.TakesWords y 0x7F n ws :=
  ⟨rfl, rfl, fun r _ => (if_neg fun h => absurd h.2.1 (by decide)).symm⟩

section Lane
variable (s : State) (w : LR) (glob : Bool) (i : Nat)

/-- The size of an atomic's words, its lane's address, and its operands (R284). -/
def atomSize : Nat := if (lxcExt w.lxc).testBit 7 then 8 else 4

def State.atomAddr (t : Thread) : Nat := if glob then (srcPair s.me t w.a).toNat else (srcVal s.me t w.a).toNat

def State.atomOperand (t : Thread) (f : BitVec 8) : Dword :=
  if (lxcExt w.lxc).testBit 7 then srcPair s.me t f else (srcVal s.me t f).setWidth 64

/-- The check of an atomic of one lane, and the atomic at a target (R117, R285). -/
def State.atomCheck : Check :=
  if glob then s.checkGlobal (s.atomAddr w glob (s.me.thread i)) (atomSize w) .atomic
  else s.checkSpad (s.me.thread i).blk (s.atomAddr w glob (s.me.thread i)) (atomSize w) .atomic

def State.atomDone (tg : Target) : AtomOut :=
  s.atomicAt i (lxcExt w.lxc % 16) (atomSize w) (lxcExt w.lxc / 16 % 8) tg (s.atomOperand w (s.me.thread i) w.b)
    (s.atomOperand w (s.me.thread i) (lxcC w.lxc)) (decide (w.d ≠ 0x7F))

/-- The machine after an atomic of lane `i` found `v` with the events `e` (R285). -/
def State.atomTakes (blk : Nat) (v : Dword) (e : Ev) : State :=
  if w.d = 0x7F then s.addEv s.me.grid blk (stationOf s.me.core) e
  else if (lxcExt w.lxc).testBit 7 then
    ((s.addEv s.me.grid blk (stationOf s.me.core) e).clearV (BitVec.ofNat 32 (2 ^ i)) w.d.toNat 2).onMe fun g =>
      g.onLanes (BitVec.ofNat 32 (2 ^ i)) fun _ y => y.writePair w.d w.n v
  else (s.addEv s.me.grid blk (stationOf s.me.core) e).onMe fun g =>
    g.onLanes (BitVec.ofNat 32 (2 ^ i)) fun _ y => y.writeBack w.d w.n (v.extractLsb' 0 32)

variable {s w glob i} {tg : Target}

theorem State.atomLane_conflict (hc : s.atomCheck w glob i = .ok tg) (hsp : spadConflict (lxcExt w.lxc / 16 % 8) tg = false)
    (hd : s.atomDone w i tg = .conflict) : s.atomLane w glob i = (.stop 0x08 (s.atomAddr w glob (s.me.thread i)) none, s) := by
  unfold State.atomCheck State.atomAddr atomSize at hc
  unfold State.atomDone State.atomOperand atomSize at hd
  unfold State.atomLane
  dsimp only
  rw [hc]
  dsimp only
  rw [if_neg (by rw [hsp]; decide), hd]
  rfl

theorem State.atomLane_old {v : Dword} {e : Ev} {u : State} (hc : s.atomCheck w glob i = .ok tg)
    (hsp : spadConflict (lxcExt w.lxc / 16 % 8) tg = false) (hd : s.atomDone w i tg = .old v e u) :
    s.atomLane w glob i = (.ok tg, u.atomTakes w i (s.me.thread i).blk v e) := by
  unfold State.atomCheck State.atomAddr atomSize at hc
  unfold State.atomDone State.atomOperand atomSize at hd
  unfold State.atomLane
  dsimp only
  rw [hc]
  dsimp only
  rw [if_neg (by rw [hsp]; decide), hd]
  rfl

/-- Taking the value found changes the lane's registers and their marks, and the event counters. -/
theorem State.atomTakes_eq (u : State) (w : LR) (i blk : Nat) (v : Dword) (e : Ev) : u.atomTakes w i blk v e =
    { u.addEv u.me.grid blk (stationOf u.me.core) e with
      me := (u.atomTakes w i blk v e).me, poison := (u.atomTakes w i blk v e).poison } := by
  unfold State.atomTakes
  split
  · rfl
  · split
    · rw [State.clearV_eq]; rfl
    · rfl

theorem State.atomTakes_lane (u : State) (w : LR) {i : Nat} (hi : i < 32) (blk : Nat) (v : Dword) (e : Ev) {y : Thread}
    (hy : u.me.lane i = some y) : ∃ b, (u.atomTakes w i blk v e).me.lane i = some b ∧
      y.TakesWords b w.d w.n (if (lxcExt w.lxc).testBit 7 then dwordWords v else [v.extractLsb' 0 32]) := by
  have hlane (t : State) (ht : t.me = u.me) (f : Nat → Thread → Thread) :
      (t.onMe fun g => g.onLanes (BitVec.ofNat 32 (2 ^ i)) f).me.lane i = some (f i y) := by
    rw [State.onMe_me, ht, Group.lane_onLanes, getLsbD_two_pow hi, hy]
    simp
  unfold State.atomTakes
  split
  next hd =>
    refine ⟨y, by rw [State.addEv_me, hy], ?_⟩
    rw [hd]
    exact y.takesWords_discard _ _
  next =>
    split
    · exact ⟨_, hlane _ (by rw [State.clearV_eq, State.addEv_me]) _, y.takesWords_writePair _ _ _⟩
    · exact ⟨_, hlane _ (State.addEv_me _ _ _ _ _) _, y.takesWords_writeBack _ _ _⟩

end Lane

/-- The effect of an atomic of the lanes `act`, which wakes the groups in a WAITA (R78, R285). -/
def State.atomEffect (s : State) (w : LR) (glob : Bool) (act : BitVec 32) : State :=
  let r := s.atomLanes w glob act
  let s1 := (r.2.recordBeyond true r.1).fillLanes (fun i => (srcPair s.me (s.me.thread i) w.a).toNat) r.1
  (s1.finishLanes .atomic r.1 globalKey (s1.switch (lrLen w) (occupancy false act)
    (if (lxcExt w.lxc) / 16 % 8 = 3 then 300 else lanesLatency s.latency r.1))).wakeWaita

theorem State.laneAtomic_next {s : State} {w : LR} {glob : Bool} (h : s.lanePoison (s.me.active w.lxc) (atomSrcs w glob) = 0)
    (hok : ∀ x ∈ (s.atomLanes w glob (s.me.active w.lxc)).1, x.2.isOk = true) :
    ∃ occ ready, s.laneAtomic w glob = .next
      (let r := s.atomLanes w glob (s.me.active w.lxc)
      let u := (r.2.recordBeyond true r.1).fillLanes (fun i => (srcPair s.me (s.me.thread i) w.a).toNat) r.1
      (u.switchAt (u.past (lrLen w)) occ ready).wakeWaita) := by
  have hrun : s.laneAtomic w glob = .next (s.atomEffect w glob (s.me.active w.lxc)) := s.laneRun_next w.lxc (atomSrcs w glob) (s.atomEffect w glob) h
  rw [hrun, State.atomEffect, State.finishLanes, State.finishParts_ok hok]
  exact ⟨_, _, rfl⟩

end Sys2Proof.Machine
end

section
/-! The statement on atomics of lanes (05, 13). -/

namespace Sys2Proof.Machine

theorem atomNew_words (a b c : Word) :
    let at_ (aop : Nat) : Word × Ev := ((atomNew aop 4 (a.setWidth 64) (b.setWidth 64) (c.setWidth 64)).1.setWidth 32,
      (atomNew aop 4 (a.setWidth 64) (b.setWidth 64) (c.setWidth 64)).2)
    at_ 0 = (a + b, Ev.none) ∧ at_ 2 = (if b.toInt < a.toInt then b else a, Ev.none) ∧
    at_ 3 = (if a.toInt < b.toInt then b else a, Ev.none) ∧ at_ 4 = (if b < a then b else a, Ev.none) ∧
    at_ 5 = (if a < b then b else a, Ev.none) ∧ at_ 6 = (a &&& b, Ev.none) ∧ at_ 7 = (a ||| b, Ev.none) ∧
    at_ 8 = (a ^^^ b, Ev.none) ∧ at_ 9 = (b, Ev.none) ∧ at_ 10 = (if a = c then b else a, Ev.none) := by
  have hnat (x : Word) : (x.setWidth 64).toNat = x.toNat := BitVec.toNat_setWidth_of_le (by decide)
  have hsum : (a.setWidth 64 + b.setWidth 64).setWidth 32 = a + b := by
    rw [BitVec.setWidth_add _ _ (by decide), setWidth_setWidth_word, setWidth_setWidth_word]
  refine ⟨?_, ?_, ?_, ?_, ?_, ?_, ?_, ?_, ?_, ?_⟩
  all_goals simp [atomNew, apply_ite (BitVec.setWidth 32), BitVec.lt_def, setWidth_dword_inj, hnat, hsum, -BitVec.toNat_setWidth]

/-- Settles O18: an atomic of lanes is the fold of `atomLane`, and one lane of it the atomic at its place and the write of its registers. -/
theorem laneAtomics : Obligations.LaneAtomics := by
  unfold Obligations.LaneAtomics
  refine ⟨fun w s glob => ?lanes, ⟨atomNew_words, fun a b c => ?dwords⟩, fun w s glob i a tg hi ha => ?lane⟩
  case lanes =>
    intro act r hp hok
    have hall : ∀ x ∈ r.1, x.2.isOk = true := fun x hx => List.all_eq_true.mp hok x hx
    obtain ⟨occ, ready, hexec⟩ := State.laneAtomic_next hp hall
    exact ⟨occ, ready, Eq.trans (by cases glob <;> rfl) hexec⟩
  case dwords => refine ⟨rfl, rfl, rfl, ?_, ?_, rfl, rfl, rfl, rfl, rfl⟩ <;> simp [atomNew, BitVec.lt_def]
  case lane =>
    intro x size val va done hchk hsp
    have hthread := Group.thread_of_lane ha
    have hcheck : s.atomCheck w glob i = .ok tg := by
      rw [State.atomCheck, hthread]
      cases glob <;> exact hchk
    have hdone : s.atomDone w i tg = done := by
      rw [State.atomDone, hthread]
      rfl
    refine ⟨fun hc => ?_, fun v e u y hold hy => ?_⟩
    · rw [State.atomLane_conflict hcheck hsp (hdone.trans hc), hthread]
      rfl
    · have hl := State.atomLane_old hcheck hsp (hdone.trans hold)
      rw [hthread] at hl
      rw [hl]
      exact ⟨rfl, u.atomTakes_eq w i a.blk v e, u.atomTakes_lane w hi a.blk v e hy⟩

end Sys2Proof.Machine
end

section
/-! SUPPORT. Atomic words (R117 to R119), and what receiving an edge may change (R109, R114). -/

namespace Sys2Proof.Machine

theorem findAtom_putAtom (a : AtomWord) (l : Loc) (as : List AtomWord) :
    findAtom l (putAtom a as) = if l = a.loc then some a else findAtom l as := by
  induction as with
  | nil => simp [putAtom, findAtom, eq_comm]
  | cons b r ih =>
    rw [putAtom]
    by_cases hb : b.loc = a.loc
    · rw [if_pos hb]
      by_cases hl : l = a.loc
      · simp [findAtom, hl]
      · simp [findAtom, hl, hb, Ne.symm hl]
    · rw [if_neg hb, findAtom, findAtom, ih]
      by_cases hl : l = a.loc
      · simp [hl, hb]
      · simp [hl]

theorem findAtom_loc {l : Loc} {as : List AtomWord} {a : AtomWord} (h : findAtom l as = some a) : a.loc = l := by
  induction as with
  | nil => cases h
  | cons b r ih =>
    rw [findAtom] at h
    split at h
    next hb => obtain rfl := Option.some.inj h; exact hb
    next => exact ih h

/-- A word enters atomic state with a value, under its holder where it has one (R117, R118). -/
theorem State.findAtom_setAtom (s : State) (h : Nat) (l m : Loc) (d : Holder) (v : Word) (hc : s.conflict l d = false) :
    ∃ a : AtomWord, a.val = v ∧ a.holder = d ∧ findAtom m (s.setAtom h l d v).atoms = if m = l then some a else findAtom m s.atoms := by
  unfold State.setAtom
  dsimp only
  unfold State.conflict at hc
  cases hl : findAtom l s.atoms with
  | none => exact ⟨⟨l, v, d, [h]⟩, rfl, rfl, findAtom_putAtom _ _ _⟩
  | some x =>
    rw [hl] at hc
    have hloc : x.loc = l := findAtom_loc hl
    refine ⟨{ x with val := v, grids := if x.grids.contains h then x.grids else h :: x.grids }, rfl, by simpa using hc, ?_⟩
    rw [findAtom_putAtom]
    dsimp only
    rw [hloc]

theorem State.setAtom_eq (s : State) (h : Nat) (l : Loc) (d : Holder) (v : Word) : s.setAtom h l d v = { s with atoms := (s.setAtom h l d v).atoms } := rfl

/-- The second word of a doubleword stands four bytes further (R74). -/
theorem atomWords_pair (l : Loc) : ∃ l2, atomWords l 8 = [l, l2] ∧ l2 ≠ l := by
  refine ⟨_, rfl, ?_⟩
  cases l <;> simp [Loc.span, List.range_succ]

theorem SameMemory.trans {s t u : State} (h : SameMemory s t) (h' : SameMemory t u) : SameMemory s u := by
  obtain ⟨h₁, h₂, h₃, h₄, h₅⟩ := h
  obtain ⟨h₁', h₂', h₃', h₄', h₅'⟩ := h'
  exact ⟨h₁'.trans h₁, h₂'.trans h₂, h₃'.trans h₃, h₄'.trans h₄, h₅'.trans h₅⟩

/-- Of `t`, everything but what the receipt of an edge changes is as in `s`. -/
def EdgeFrame (s t : State) : Prop := t = { s with
  me := t.me, atoms := t.atoms, grids := t.grids, frames := t.frames, doneOps := t.doneOps, doneMmas := t.doneMmas }

theorem EdgeFrame.trans {s t u : State} (h : EdgeFrame s t) (h' : EdgeFrame t u) : EdgeFrame s u := by
  unfold EdgeFrame at h'
  rw [h'] at *
  unfold EdgeFrame at h
  rw [h]
  rfl

theorem EdgeFrame.sameMemory {s t : State} (h : EdgeFrame s t) : SameMemory s t := by
  rw [h]
  exact ⟨rfl, rfl, rfl, rfl, rfl⟩

theorem State.receiveLanes_edge (s : State) (m : BitVec 32) (e : Edge) : EdgeFrame s (s.receiveLanes m e) := rfl

theorem State.foldSent_edge (s : State) (ss : List Sender) : EdgeFrame s (s.foldSent ss) := rfl

theorem State.observe_edge (s : State) (l : Loc) (v : Word) (m : BitVec 32) : EdgeFrame s (s.observe l v m) := by
  unfold State.observe
  refine List.foldlRecOn (motive := EdgeFrame s) _ _ rfl fun t ht o _ => ?_
  exact ht.trans ((t.receiveLanes_edge _ _).trans (State.foldSent_edge _ _))

theorem State.observeAll_edge (s : State) (ws : List (Loc × Word)) (m : BitVec 32) : EdgeFrame s (s.observeAll ws m) := by
  unfold State.observeAll
  exact List.foldlRecOn (motive := EdgeFrame s) _ _ rfl fun t ht x _ => ht.trans (t.observe_edge _ _ _)

/-- A word that keeps its value after what an atomic observes, or that is forgotten, is no memory (R114, R118). -/
theorem State.seen_sameMemory (v : State) (ws : List (Loc × Word)) (m : BitVec 32) (returns : Bool) (l : Loc) {c : Prop} [Decidable c] :
    SameMemory v (if c then (if returns then v.observeAll ws m else v) else (if returns then v.observeAll ws m else v).forgetWord l) := by
  have hseen : SameMemory v (if returns then v.observeAll ws m else v) := by
    split
    · exact (v.observeAll_edge ws m).sameMemory
    · exact ⟨rfl, rfl, rfl, rfl, rfl⟩
  split
  · exact hseen
  · exact hseen

/-- Where no completion shows the value found there is nothing to observe (R114). -/
theorem State.observeAll_self {s : State} {ws : List (Loc × Word)} (h : ∀ x ∈ ws, s.completions x.1 x.2 = []) (m : BitVec 32) :
    s.observeAll ws m = s := by
  unfold State.observeAll
  refine List.foldlRecOn (motive := fun t : State => t = s) _ _ rfl fun t ht x hx => ?_
  rw [ht, State.observe, h x hx]
  rfl

theorem State.seen_atoms {v : State} {ws : List (Loc × Word)} (h : ∀ x ∈ ws, v.completions x.1 x.2 = []) (m : BitVec 32) (returns : Bool)
    (l : Loc) {c : Prop} [Decidable c] :
    (if c then (if returns then v.observeAll ws m else v) else (if returns then v.observeAll ws m else v).forgetWord l).atoms = v.atoms := by
  rw [State.observeAll_self h, ite_self]
  split <;> rfl

/-- An atomic's effect on the words it names (R117). -/
theorem State.atomWrite_eq (s : State) (h : Nat) (l : Loc) (size : Nat) (d : Holder) (v : Dword) :
    s.atomWrite h l size d v = { s with atoms := (s.atomWrite h l size d v).atoms } := by
  unfold State.atomWrite
  split <;> rfl

section Write
variable {s : State} {h : Nat} {l : Loc} {size : Nat} {d : Holder} {v : Dword}

theorem State.findAtom_atomWrite (hs : size = 4 ∨ size = 8) (hc : ∀ x, x ∈ atomWords l size → s.conflict x d = false) :
    (∃ a, findAtom l (s.atomWrite h l size d v).atoms = some a ∧ a.val = v.extractLsb' 0 32 ∧ a.holder = d) ∧
      (size = 8 → ∃ l2 a, atomWords l size = [l, l2] ∧ findAtom l2 (s.atomWrite h l size d v).atoms = some a ∧
        a.val = v.extractLsb' 32 32 ∧ a.holder = d) ∧
      ∀ x, x ∉ atomWords l size → findAtom x (s.atomWrite h l size d v).atoms = findAtom x s.atoms := by
  rcases hs with rfl | rfl
  · have hw : atomWords l 4 = [l] := rfl
    have hcl : s.conflict l d = false := hc l (by rw [hw]; exact List.mem_singleton_self l)
    have hwrite : s.atomWrite h l 4 d v = s.setAtom h l d (v.extractLsb' 0 32) := rfl
    rw [hwrite, hw]
    refine ⟨?_, fun h8 => by omega, fun x hx => ?_⟩
    · obtain ⟨a, hval, hhold, hfind⟩ := s.findAtom_setAtom h l l d (v.extractLsb' 0 32) hcl
      exact ⟨a, by rw [hfind, if_pos rfl], hval, hhold⟩
    · obtain ⟨a, -, -, hfind⟩ := s.findAtom_setAtom h l x d (v.extractLsb' 0 32) hcl
      rw [hfind, if_neg (by simpa using hx)]
  · obtain ⟨l2, hw, hne⟩ := atomWords_pair l
    have hcl : s.conflict l d = false := hc l (by rw [hw]; simp)
    have hwrite : s.atomWrite h l 8 d v = (s.setAtom h l d (v.extractLsb' 0 32)).setAtom h l2 d (v.extractLsb' 32 32) := by
      rw [State.atomWrite, hw]
    have hcl2 : (s.setAtom h l d (v.extractLsb' 0 32)).conflict l2 d = false := by
      obtain ⟨a, -, -, hfind⟩ := s.findAtom_setAtom h l l2 d (v.extractLsb' 0 32) hcl
      have := hc l2 (by rw [hw]; simp)
      rwa [State.conflict, hfind, if_neg hne]
    rw [hwrite, hw]
    refine ⟨?_, fun _ => ?_, fun x hx => ?_⟩
    · obtain ⟨a, -, -, hfind⟩ := State.findAtom_setAtom _ h l2 l d (v.extractLsb' 32 32) hcl2
      obtain ⟨b, hval, hhold, hfind'⟩ := s.findAtom_setAtom h l l d (v.extractLsb' 0 32) hcl
      exact ⟨b, by rw [hfind, if_neg hne.symm, hfind', if_pos rfl], hval, hhold⟩
    · obtain ⟨a, hval, hhold, hfind⟩ := State.findAtom_setAtom _ h l2 l2 d (v.extractLsb' 32 32) hcl2
      exact ⟨l2, a, rfl, by rw [hfind, if_pos rfl], hval, hhold⟩
    · simp only [List.mem_cons, List.not_mem_nil, or_false, not_or] at hx
      obtain ⟨a, -, -, hfind⟩ := State.findAtom_setAtom _ h l2 x d (v.extractLsb' 32 32) hcl2
      obtain ⟨b, -, -, hfind'⟩ := s.findAtom_setAtom h l x d (v.extractLsb' 0 32) hcl
      rw [hfind, if_neg hx.2, hfind', if_neg hx.1]

end Write

/-- The machine after an atomic of lane `i` has written its word, which found `old` and leaves `r` (R117, R118). -/
def State.atomicOld (s : State) (i : Nat) (l : Loc) (tg : Target) (size : Nat) (d : Holder) (old : Dword) (r : Dword × Ev) (returns : Bool) : AtomOut :=
  let ws := atomWords l size
  let v := ((s.atomWrite s.me.grid l size d r.1).clearMem tg size).setParty i ((s.me.thread i).party.didAtomic ws)
  let u := if returns then v.observeAll (List.zip ws [old.extractLsb' 0 32, old.extractLsb' 32 32]) (BitVec.ofNat 32 (2 ^ i)) else v
  .old old r.2 (if r.1 = old then u else u.forgetWord l)

end Sys2Proof.Machine
end

section
/-! The statement on one atomic (05). -/

namespace Sys2Proof.Machine

/-- Settles O19: an atomic writes its words under their holder, and what it then observes or forgets is no memory. -/
theorem atomicEffect : Obligations.AtomicEffect := by
  unfold Obligations.AtomicEffect
  intro s i aop size dom b c returns hs t
  refine ⟨fun tg l hl hwin hdom => ?_, fun off => ⟨fun hdom => ?_, fun hdom hwf => ?_⟩⟩
  · intro d old new
    have hat : s.atomicAt i aop size dom tg b c returns =
        if dom = 4 ∨ (atomWords l size).any (fun x => s.conflict x d) then .conflict
        else s.atomicOld i l tg size d old (atomNew aop size old b c) returns := by
      cases tg with
      | glob p =>
        cases p with
        | win off => exact absurd rfl (hwin off)
        | mem pa ap => obtain rfl := Option.some.inj hl; rfl
        | sys va => obtain rfl := Option.some.inj hl; rfl
      | spad blk off => obtain rfl := Option.some.inj hl; rfl
      | priv pa => cases hl
      | beyond blk off => cases hl
    clear_value d
    constructor
    · rintro ⟨x, hx, hcx⟩
      exact hat.trans (if_pos (.inr (List.any_eq_true.mpr ⟨x, hx, hcx⟩)))
    intro hc found
    have hno : ¬(dom = 4 ∨ (atomWords l size).any (fun x => s.conflict x d) = true) := by
      rintro (h | h)
      · exact hdom h
      · obtain ⟨x, hx, hcx⟩ := List.any_eq_true.mp h
        rw [hc x hx] at hcx
        cases hcx
    obtain ⟨hself, hpair, hrest⟩ := State.findAtom_atomWrite (h := s.me.grid) (v := new) hs hc
    set v := ((s.atomWrite s.me.grid l size d new).clearMem tg size).setParty i ((s.me.thread i).party.didAtomic (atomWords l size)) with hv
    have hframe : v = { s with me := v.me, atoms := (s.atomWrite s.me.grid l size d new).atoms, poison := v.poison } := by
      rw [hv, State.clearMem_eq, State.atomWrite_eq]
      rfl
    have hatoms : v.atoms = (s.atomWrite s.me.grid l size d new).atoms := by rw [hframe]
    have hdone : v.doneOps = s.doneOps := by rw [hframe]
    refine ⟨_, v, hat.trans (if_neg hno), ?mem, rfl, hdone, ?same, by rwa [hatoms], by rwa [hatoms], by rwa [hatoms]⟩
    case mem =>
      have hmem : SameMemory s v := by rw [hframe]; exact ⟨rfl, rfl, rfl, rfl, rfl⟩
      exact hmem.trans (v.seen_sameMemory found _ returns l)
    case same =>
      intro hcomp
      refine State.seen_atoms (fun x hx => ?_) _ _ _
      exact (congrArg (List.filter _) hdone).trans (hcomp x hx)
  · exact if_pos hdom
  · intro old
    set v : State := { s.clearMem (.glob (.win off)) size with
      window := Memory.putBytes s.window off (natLe (atomNew aop size old b c).1.toNat size) } with hv
    have hframe : v = { s with poison := v.poison, window := Memory.putBytes s.window off (natLe (atomNew aop size old b c).1.toNat size) } := by
      rw [hv, State.clearMem_eq]
    have hmem := v.seen_sameMemory (List.zip (atomWords (winLoc off) size) [old.extractLsb' 0 32, old.extractLsb' 32 32])
      (BitVec.ofNat 32 (2 ^ i)) returns (winLoc off) (c := (atomNew aop size old b c).1 = old)
    have hst : StoredAt s.window v.window off (natLe (atomNew aop size old b c).1.toNat size) := by
      rw [hframe]; exact Memory.storedAt_putBytes hwf
    have hself : v.hbm = s.hbm ∧ v.sysMem = s.sysMem ∧ v.atoms = s.atoms ∧ v.doneOps = s.doneOps := by rw [hframe]; exact ⟨rfl, rfl, rfl, rfl⟩
    obtain ⟨hhbm, hsys, hwin, -, -⟩ := hmem
    obtain ⟨hhbm', hsys', hatoms, hdone⟩ := hself
    refine ⟨_, if_neg (not_not.mpr hdom), ?_, ?_, ?_, fun hcomp => ?_⟩
    · rw [← hwin] at hst; exact hst
    · exact hhbm.trans hhbm'
    · exact hsys.trans hsys'
    · refine (State.seen_atoms (fun x hx => ?_) _ _ _).trans hatoms
      exact (congrArg (List.filter _) hdone).trans (hcomp x hx)

end Sys2Proof.Machine
end

section
/-! The statement on uniform loads, stores and KATOM (04, 05, 14). -/

namespace Sys2Proof.Machine

theorem Group.setKs_eq (g : Group) (d : Nat) (ws : List Word) : g.setKs d ws = { g with k := (g.setKs d ws).k } := by
  induction ws generalizing g d with
  | nil => rfl
  | cons x r ih =>
    unfold Group.setKs
    split
    · rfl
    · rw [ih, Group.setK_eq]

theorem Group.setKs_switched (g : Group) (d : Nat) (ws : List Word) (x : Dword) (n : Nat) :
    Switched { g with k := (g.setKs d ws).k } ((g.setKs d ws).endRun ((g.setKs d ws).pc + x) n) (g.pc + x) := by
  have hpc : (g.setKs d ws).pc = g.pc := by rw [Group.setKs_eq]
  rw [← Group.setKs_eq, hpc]
  exact Group.endRun_switched _ _ _

theorem Group.setKs_length (g : Group) (d : Nat) (ws : List Word) : (g.setKs d ws).k.length = g.k.length := by
  induction ws generalizing g d with
  | nil => rfl
  | cons x r ih =>
    unfold Group.setKs
    split
    · rfl
    · rw [ih, Group.setK_length]

/-- Consecutive writes stop at k511, which discards. -/
theorem Group.nth_setKs (g : Group) (d : Nat) (ws : List Word) {r : Nat} (hr : r < g.k.length) :
    nth (g.setKs d ws).k r 0 =
      if d ≤ r ∧ r < d + ws.length ∧ (r < 511 ∨ 511 < d) then nth ws (r - d) 0 else nth g.k r 0 := by
  induction ws generalizing g d with
  | nil => rw [if_neg (by simp only [List.length_nil]; omega)]; rfl
  | cons x ws ih =>
    unfold Group.setKs
    split
    next hd => rw [if_neg (by omega)]
    next hd =>
      rw [ih _ _ (by rwa [Group.setK_length]), Group.setK_nth _ _ _ _ hr, List.length_cons]
      by_cases he : r = d
      · subst he
        rw [if_neg (by omega), if_pos ⟨rfl, hd⟩, if_pos (by omega), Nat.sub_self]
        rfl
      · rw [if_neg (fun h : r = d ∧ d ≠ 511 => he h.1)]
        by_cases hin : d + 1 ≤ r ∧ r < d + 1 + ws.length ∧ (r < 511 ∨ 511 < d + 1)
        · rw [if_pos hin, if_pos (by omega), show r - d = r - (d + 1) + 1 by omega]
          rfl
        · rw [if_neg hin, if_neg (by omega)]

/-- What a uniform access leaves before it takes effect: the log of its context and the translations of its core. -/
theorem State.fillUni_recordUni_eq (s : State) (wr : Bool) (tg : Target) (va : Nat) :
    (s.recordUni wr tg).fillUni tg va = { s with
      ctxs := ((s.recordUni wr tg).fillUni tg va).ctxs
      tlb := ((s.recordUni wr tg).fillUni tg va).tlb
      atsCache := ((s.recordUni wr tg).fillUni tg va).atsCache } := by
  cases tg with
  | glob p =>
    unfold State.recordUni State.fillUni
    dsimp only
    rw [State.fillTlb_eq]
  | _ => rfl

theorem State.fillUni_recordUni_ctxs (s : State) (wr : Bool) {tg : Target} (va : Nat) (h : ∀ b off, tg ≠ .beyond b off) :
    ((s.recordUni wr tg).fillUni tg va).ctxs = s.ctxs := by
  cases tg with
  | glob p =>
    unfold State.recordUni State.fillUni
    dsimp only
    rw [State.fillTlb_eq]
  | beyond b off => exact absurd rfl (h b off)
  | _ => rfl

theorem State.storeBytes_me (s : State) (h : Nat) (p : Party) (tg : Target) (bs : List Byte) : (s.storeBytes h p tg bs).2.me = s.me := by
  have hplace {l : Loc} (hl : tg.loc = some l) : (s.storeBytes h p tg bs).2.me = s.me := by
    obtain ⟨_, _, _, e⟩ := s.storeBytes_loc h p hl bs
    rw [e]
  cases tg with
  | glob q =>
    cases q with
    | win off =>
      obtain ⟨_, _, _, e⟩ := s.storeBytes_win h p off bs
      rw [e]
    | mem pa ap => exact hplace rfl
    | sys va => exact hplace rfl
  | spad b off => exact hplace rfl
  | priv pa =>
    obtain ⟨_, _, _, e⟩ := s.storeBytes_priv h p pa bs
    rw [e]
  | beyond b off =>
    obtain ⟨_, e⟩ := s.storeBytes_beyond h p b off bs
    rw [e]

theorem State.uniAccess_load {w : UM} {s : State} {glob : Bool} {tg : Target} (hg : kxPass s.me w.kx = true)
    (hp : s.kPoison [(w.a.toNat, if glob then 2 else 1)] = false)
    (hc : (if glob then s.checkGlobal (umAddress s.me w glob) (szBytes w.sz) .read
      else s.checkSpad s.anchorBlk (umAddress s.me w glob) (szBytes w.sz) .read) = .ok tg) :
    s.uniAccess w glob false = .next
      (let u := (s.recordUni false tg).fillUni tg (umAddress s.me w glob)
      ((u.clearK w.d.toNat (szRegs w.sz)).onMe fun g => g.setKs w.d.toNat
        (szWords w.sz (u.loadBytes u.me.grid (u.me.thread (lowLane u.me.cur)).party tg (szBytes w.sz)))).switch
        (kxLen w.kx) 1 (s.latency tg)) := by
  unfold State.uniAccess
  simp only [Bool.false_eq_true, if_false, Bool.false_and, State.logRoom, hc]
  rw [s.uniRun_next _ _ _ _ hg hp]
  rfl

theorem State.uniAccess_store {w : UM} {s : State} {glob : Bool} {tg : Target} {room : Check × State} (hg : kxPass s.me w.kx = true)
    (hp : s.kPoison [(w.a.toNat, if glob then 2 else 1), (w.d.toNat, szRegs w.sz)] = false)
    (hc : (if glob then s.checkGlobal (umAddress s.me w glob) (szBytes w.sz) .write
      else s.checkSpad s.anchorBlk (umAddress s.me w glob) (szBytes w.sz) .write) = .ok tg)
    (hr : s.logRoom s.me.grid (umAddress s.me w glob) (Check.ok tg).logged = room) (hroom : room.1.isOk = true) :
    ∃ occ ready, s.uniAccess w glob true = .next
      (let u := (room.2.recordUni true tg).fillUni tg (umAddress s.me w glob)
      let i := lowLane u.me.cur
      let r := u.storeBytes u.me.grid (u.me.thread i).party tg
        (szStore w.sz (fun x => kVal u.me (if w.d.toNat = 511 then 511 else x)) w.d.toNat)
      (r.2.setParty i r.1).switchAt (u.me.pc + BitVec.ofNat 64 (4 * kxLen w.kx)) occ ready) := by
  unfold State.uniAccess
  simp only [if_true, Bool.true_and, hc, hr]
  rw [if_neg (fun h : room.1.isOk = false => absurd (hroom.symm.trans h) (by decide)), s.uniRun_next _ _ _ _ hg hp]
  exact ⟨_, _, rfl⟩

/-- KATOM whose check passes and whose atomic finds a value: the log, the translations and the events of its group's anchor, then
the value found (R302). -/
theorem execKatom_next {w : UC} {s u : State} {tg : Target} {v : Dword} {e : Ev} {wide sp : Bool} {n va : Nat}
    (hwide : (kxImmHi w.kx).testBit 12 = wide) (hsp : (kxImmHi w.kx).testBit 11 = sp) (hn : (if wide then 2 else 1) = n)
    (hva : (if sp then (kVal s.me w.b.toNat).toNat else (kPair s.me w.b.toNat).toNat) = va) (hg : kxPass s.me w.kx = true)
    (hp : s.kPoison ([(w.b.toNat, if sp then 1 else 2), (w.fn.toNat, n)] ++
      (if kxExt4 w.kx = 10 then [(kxImmHi w.kx % 128, n)] else [])) = false)
    (hc : (if sp then s.checkSpad s.anchorBlk va (if wide then 8 else 4) .atomic
      else s.checkGlobal va (if wide then 8 else 4) .atomic) = .ok tg)
    (hs : spadConflict (kxImmHi w.kx / 8192) tg = false)
    (ho : s.atomicAt (lowLane s.me.cur) (kxExt4 w.kx) (if wide then 8 else 4) (kxImmHi w.kx / 8192) tg
      (if wide then kPair s.me w.fn.toNat else (kVal s.me w.fn.toNat).setWidth 64)
      (if wide then kPair s.me (kxImmHi w.kx % 128) else (kVal s.me (kxImmHi w.kx % 128)).setWidth 64)
      (decide (w.a ≠ 511)) = .old v e u) :
    let t := ((u.recordUni true tg).fillUni tg va).addEv u.me.grid s.anchorBlk (stationOf u.me.core) e
    ∃ lat, execKatom w s = .next ((if wide then (t.clearK w.a.toNat 2).onMe fun g => g.setKPair w.a.toNat v
      else t.onMe fun g => g.setK w.a.toNat (v.extractLsb' 0 32)).switch (kxLen w.kx) 1 lat).wakeWaita := by
  intro t
  unfold execKatom
  subst hn hva
  dsimp only
  rw [hwide, hsp, hc, s.uniRun_next _ _ _ _ hg hp]
  dsimp only
  rw [if_neg (by rw [hs]; decide), ho]
  exact ⟨_, rfl⟩

/-- Settles O20: a uniform access works on the machine with its log and translations, and a load writes its registers only. -/
theorem uniformMemory : Obligations.UniformMemory := by
  unfold Obligations.UniformMemory
  refine ⟨fun w s glob tg hg hp hc => ?load, fun w s glob tg hg hp hc => ?store, fun w s u tg v e hg => ?atomic⟩
  case load =>
    have hc' : (if glob then s.checkGlobal (umAddress s.me w glob) (szBytes w.sz) .read
        else s.checkSpad s.anchorBlk (umAddress s.me w glob) (szBytes w.sz) .read) = .ok tg := by cases glob <;> exact hc
    have hexec := State.uniAccess_load hg hp hc'
    have hframe := s.fillUni_recordUni_eq false tg (umAddress s.me w glob)
    generalize hu : (s.recordUni false tg).fillUni tg (umAddress s.me w glob) = u at hexec hframe ⊢
    have hme : u.me = s.me := by rw [hframe]
    have hbytes : u.loadBytes u.me.grid (u.me.thread (lowLane u.me.cur)).party tg (szBytes w.sz) =
        s.loadBytes s.me.grid (s.me.thread (lowLane s.me.cur)).party tg (szBytes w.sz) := by rw [hframe]; rfl
    dsimp only at hexec ⊢
    rw [hbytes] at hexec
    refine ⟨_, Eq.trans (by cases glob <;> rfl) hexec, rfl, fun hb => ?ctxs, ?group, ?length, fun r hr => ?regs⟩
    case ctxs =>
      change (u.clearK _ _).ctxs = _
      rw [State.clearK_eq, ← hu, s.fillUni_recordUni_ctxs _ _ hb]
    case group =>
      change Switched { s.me with k := (Group.setKs _ _ _).k } (Group.endRun (Group.setKs _ _ _) _ _) _
      simp only [State.onMe_me, State.clearK_me, hme]
      exact Group.setKs_switched _ _ _ _ _
    case length =>
      change (Group.setKs _ _ _).k.length = _
      rw [Group.setKs_length, State.clearK_me, hme]
    case regs =>
      change nth (Group.setKs _ _ _).k r 0 = _
      rw [State.clearK_me, hme, Group.nth_setKs _ _ _ hr]
  case store =>
    intro room u i bs hroom
    have hc' : (if glob then s.checkGlobal (umAddress s.me w glob) (szBytes w.sz) .write
        else s.checkSpad s.anchorBlk (umAddress s.me w glob) (szBytes w.sz) .write) = .ok tg := by cases glob <;> exact hc
    obtain ⟨occ, ready, hexec⟩ := State.uniAccess_store (room := room) hg hp hc' rfl hroom
    have harm : exec (if glob then .kst w else .ksts w) s = s.uniAccess w glob true := by cases glob <;> rfl
    have hpast : (((u.storeBytes u.me.grid (u.me.thread i).party tg bs).2.setParty i
        (u.storeBytes u.me.grid (u.me.thread i).party tg bs).1).past (kxLen w.kx)) = u.me.pc + BitVec.ofNat 64 (4 * kxLen w.kx) := by
      unfold State.past
      rw [State.setParty_me, State.storeBytes_me]
      rfl
    refine ⟨occ, ready, ?_⟩
    rw [hpast]
    exact harm.trans hexec
  case atomic =>
    intro hi wide sp n val hp hc hs ho va t
    have hchk : (if sp then s.checkSpad s.anchorBlk va (if wide then 8 else 4) .atomic
        else s.checkGlobal va (if wide then 8 else 4) .atomic) = .ok tg := by
      refine Eq.trans ?_ hc
      unfold va
      cases sp <;> rfl
    obtain ⟨lat, hexec⟩ := execKatom_next rfl rfl rfl rfl hg hp hchk hs ho
    exact ⟨_, _, hexec⟩

end Sys2Proof.Machine
end

section
/-! SUPPORT. What the lanes of a KVX leave, one after the other (R178, R286). -/

namespace Sys2Proof.Machine

theorem getLsbD_maskOf {f : Nat → Bool} {i : Nat} (hi : i < 32) : (maskOf f).getLsbD i = f i := by
  have hsum (n : Nat) : (List.range n).foldl (fun a i => if f i then a + 2 ^ i else a) 0 < 2 ^ n ∧
      ∀ j, ((List.range n).foldl (fun a i => if f i then a + 2 ^ i else a) 0).testBit j = (decide (j < n) && f j) := by
    induction n with
    | zero => exact ⟨Nat.one_pos, fun j => by simp⟩
    | succ n ih =>
      rw [List.range_succ, List.foldl_concat]
      generalize (List.range n).foldl (fun a i => if f i then a + 2 ^ i else a) 0 = x at ih
      obtain ⟨hlt, hbits⟩ := ih
      have hor : x + 2 ^ n = 2 ^ n ||| x := by rw [Nat.add_comm, ← Nat.mul_one (2 ^ n), Nat.two_pow_add_eq_or_of_lt hlt]
      refine ⟨?_, fun j => ?_⟩
      · rw [Nat.pow_succ]
        split <;> omega
      · rcases Nat.lt_trichotomy j n with h | rfl | h
        · have hne : n ≠ j := by omega
          split <;> simp [hor, Nat.testBit_or, hbits, hne, h, Nat.lt_succ_of_lt h]
        · split <;> simp_all [Nat.testBit_or]
        · have hne : n ≠ j := by omega
          split <;> simp [hor, Nat.testBit_or, hbits, hne, Nat.not_lt.mpr h.le, Nat.not_lt.mpr (Nat.succ_le_of_lt h)]
  unfold maskOf
  rw [BitVec.getLsbD_ofNat, (hsum 32).2]
  simp [hi]

/-- Looking up the outcome of a lane among the outcomes of the lanes of a mask. -/
theorem find_map_pair {α : Type} {l : List Nat} (f : Nat → α) {i : Nat} (hi : i ∈ l) :
    (l.map fun j => (j, f j)).find? (fun x => x.1 == i) = some (i, f i) := by
  rw [List.find?_map]
  cases h : l.find? ((fun x : Nat × α => x.1 == i) ∘ fun j => (j, f j)) with
  | none => exact absurd (List.find?_eq_none.mp h i hi) (by simp)
  | some j =>
    obtain rfl : j = i := by simpa using List.find?_some h
    rfl

theorem State.tlbFill_eq (s : State) (core ctx : Nat) (t : KvTuple) (fg : Nat) :
    s.tlbFill core ctx t fg = { s with kvTlb := (s.tlbFill core ctx t fg).kvTlb } := by
  unfold State.tlbFill
  split <;> rfl

/-- A filled KV TLB holds the token block (R178). -/
theorem State.tlbFind_tlbFill (s : State) (core ctx : Nat) (t : KvTuple) (fg : Nat) :
    ((s.tlbFill core ctx t fg).tlbFind core ctx t).isSome = true := by
  unfold State.tlbFill
  split
  next h => exact h
  next h =>
    unfold State.tlbFind
    rw [Option.isSome_map, List.find?_isSome]
    exact ⟨(core, ctx, t.seq, t.layer, t.pos / 64, fg), by simp, by simp⟩

/-- A thread that takes a pair and then ends its run (R20, R283). -/
theorem Thread.loadsPair_writePair (a : Thread) (d : BitVec 7) (n : BitVec 1) (x : Dword) :
    a.LoadsPair { a.writePair d n x with lat := List.replicate 8 0, clkHi := none } d n x := by
  have hn : n = 0 ∨ n = 1 := by revert n; decide
  unfold Thread.LoadsPair Thread.writePair
  split
  next h =>
    rw [if_neg (by rintro ⟨rfl, hd⟩; exact h.elim (by decide) (Nat.not_le.mpr hd))]
    exact a.loads_setVs d.toNat []
  next h =>
    rw [not_or, Nat.not_le] at h
    rw [if_pos ⟨hn.resolve_right h.1, h.2⟩]
    exact a.loads_setVs d.toNat [x.extractLsb' 0 32, x.extractLsb' 32 32]

section Lanes
variable (w : LR) (nf : Bool) (va : Nat → Nat) (found : Nat → Bool)

/-- What the thread of lane `i` takes (R178, R286). -/
def kvxTakes (i : Nat) (a : Thread) : Thread :=
  let b := if found i then a.writePair w.d w.n (BitVec.ofNat 64 (va i)) else a
  if nf then b.setPred (lxcExt w.lxc % 8) (found i) else b

/-- The mask of the marks that a lane which finds its element clears (R215, R421). -/
def kvxMask (i : Nat) : BitVec 32 := if w.n = 1 ∨ 0x78 ≤ w.d.toNat then 0 else BitVec.ofNat 32 (2 ^ i)

/-- The machine `t` is `s` after the KVX of the lanes `ls`. -/
structure KvxDone (s t : State) (ls : List Nat) : Prop where
  rest : t = { s with me := t.me, kvTlb := t.kvTlb, tlb := t.tlb, atsCache := t.atsCache, poison := t.poison }
  group : t.me = { s.me with lanes := t.me.lanes }
  marks : t.poison = s.poison.filter fun p => ls.all fun i => !found i || s.keepsMark (kvxMask w i) w.d.toNat 2 p
  lanes : ∀ i, t.me.lane i = (s.me.lane i).map fun a => if i ∈ ls then kvxTakes w nf va found i a else a

theorem KvxDone.refl (s : State) : KvxDone w nf va found s s [] :=
  ⟨rfl, rfl, by simp, fun i => by simp⟩

/-- A lane whose walk finds its element (R178, R421). -/
theorem State.kvxWrite_addr (t : State) (tup : KvTuple) (i fg x : Nat) : t.kvxWrite w nf tup i (.addr fg x) = { t with
    me := t.me.onLanes (BitVec.ofNat 32 (2 ^ i)) fun _ y =>
      if nf then (y.writePair w.d w.n (BitVec.ofNat 64 x)).setPred (lxcExt w.lxc % 8) true else y.writePair w.d w.n (BitVec.ofNat 64 x)
    kvTlb := (t.kvxWrite w nf tup i (.addr fg x)).kvTlb
    tlb := (t.kvxWrite w nf tup i (.addr fg x)).tlb
    atsCache := (t.kvxWrite w nf tup i (.addr fg x)).atsCache
    poison := t.poison.filter (t.keepsMark (kvxMask w i) w.d.toNat 2) } := by
  unfold State.kvxWrite
  dsimp only
  rw [State.clearV_filter, State.fillTlb_eq, State.tlbFill_eq]
  rfl

theorem Group.onLanes_id (g : Group) (m : BitVec 32) : g.onLanes m (fun _ y => y) = g := by
  have hmap (k : Nat) (l : List (Option Thread)) : mapFrom (fun i (t : Option Thread) => if m.getLsbD i then t.map fun y => y else t) k l = l := by
    induction l generalizing k with
    | nil => rfl
    | cons a r ih => rw [mapFrom, ih, Option.map_id', ite_self]
  unfold Group.onLanes
  rw [hmap]

/-- One whose walk finds none (R178). -/
theorem State.kvxWrite_wait (t : State) (tup : KvTuple) (i : Nat) {k : KvLane} (hk : k.check.isWait = true) :
    t.kvxWrite w nf tup i k = { t with
      me := t.me.onLanes (BitVec.ofNat 32 (2 ^ i)) fun _ y => if nf then y.setPred (lxcExt w.lxc % 8) false else y } := by
  unfold State.kvxWrite
  cases nf with
  | false =>
    simp only [Bool.false_eq_true, if_false, Bool.false_and, Group.onLanes_id]
    cases k with
    | addr fg x => cases hk
    | _ => rfl
  | true =>
    cases k with
    | addr fg x => cases hk
    | denied => cases hk
    | stop e => exact if_pos (by rw [hk]; rfl)

variable {w nf va found}

/-- What lane `l` of a KVX adds to what the lanes before it left. -/
theorem KvxDone.step {s t : State} {ls : List Nat} (h : KvxDone w nf va found s t ls) {l : Nat} (hl : l ∉ ls) (hlt : l < 32)
    (tup : KvTuple) {k : KvLane} {fg : Nat → Nat}
    (hk : if found l then k = .addr (fg l) (va l) else k.check.isWait = true) :
    KvxDone w nf va found s (t.kvxWrite w nf tup l k) (ls ++ [l]) := by
  obtain ⟨hrest, hgroup, hmarks, hlanes⟩ := h
  have hkeep : t.keepsMark (kvxMask w l) w.d.toNat 2 = s.keepsMark (kvxMask w l) w.d.toNat 2 := by
    unfold State.keepsMark
    rw [hgroup]
  have hlane (f : Thread → Thread) (i : Nat) (hf : ∀ a, f a = kvxTakes w nf va found l a) :
      (t.me.onLanes (BitVec.ofNat 32 (2 ^ l)) fun _ => f).lane i =
        (s.me.lane i).map fun a => if i ∈ ls ++ [l] then kvxTakes w nf va found i a else a := by
    rw [Group.lane_onLanes, getLsbD_two_pow hlt, hlanes]
    by_cases hi : l = i
    · subst hi
      cases s.me.lane l <;> simp [hl, hf]
    · cases s.me.lane i <;> simp [hi, Ne.symm hi]
  cases hfound : found l with
  | true =>
    rw [hfound, if_pos rfl] at hk
    subst hk
    rw [State.kvxWrite_addr]
    refine ⟨?_, ?_, ?_, fun i => hlane _ i fun a => ?_⟩
    · dsimp only
      rw [hrest]
    · change Group.onLanes t.me _ _ = _
      rw [hgroup]
      rfl
    · change t.poison.filter _ = _
      rw [hkeep, hmarks, List.filter_filter]
      refine List.filter_congr fun p _ => ?_
      rw [List.all_append, List.all_cons, List.all_nil, Bool.and_true, Bool.and_comm, hfound]
      rfl
    · unfold kvxTakes
      rw [hfound]
      rfl
  | false =>
    rw [hfound, if_neg (by decide)] at hk
    rw [State.kvxWrite_wait w nf t tup l hk]
    refine ⟨?_, ?_, ?_, fun i => hlane _ i fun a => ?_⟩
    · dsimp only
      rw [hrest]
    · change Group.onLanes t.me _ _ = _
      rw [hgroup]
      rfl
    · refine hmarks.trans (List.filter_congr fun p _ => ?_)
      rw [List.all_append, List.all_cons, hfound]
      simp
    · unfold kvxTakes
      rw [hfound]
      rfl

theorem KvxDone.foldl {s : State} {tup : Nat → KvTuple} {k : Nat → KvLane} {fg : Nat → Nat} {ls : List Nat} (hn : ls.Nodup)
    (hlt : ∀ l ∈ ls, l < 32) (hk : ∀ l ∈ ls, if found l then k l = .addr (fg l) (va l) else (k l).check.isWait = true) :
    KvxDone w nf va found s (ls.foldl (fun t l => t.kvxWrite w nf (tup l) l (k l)) s) ls := by
  induction ls using List.reverseRecOn with
  | nil => exact KvxDone.refl w nf va found s
  | append_singleton ls l ih =>
    rw [List.foldl_concat]
    have hnew : l ∉ ls := fun h => (List.nodup_append.mp hn).2.2 l h l (List.mem_singleton_self l) rfl
    have hmem : l ∈ ls ++ [l] := List.mem_append_right _ (List.mem_singleton_self l)
    exact (ih (List.nodup_append.mp hn).1 (fun x hx => hlt x (List.mem_append_left _ hx)) fun x hx => hk x (List.mem_append_left _ hx)).step
      hnew (hlt l hmem) (tup l) (hk l hmem)

/-- The marks that the lanes of `act` clear, lane by lane and at once (R215, R421). -/
theorem State.kvxMasks (s : State) (act : BitVec 32) (p : PoisonAt) :
    ((lanesOf act).all fun i => !found i || s.keepsMark (kvxMask w i) w.d.toNat 2 p) =
      s.keepsMark (if w.n = 1 ∨ 0x78 ≤ w.d.toNat then 0 else act &&& maskOf found) w.d.toNat 2 p := by
  have hlanes : lanesOf (act &&& maskOf found) = (lanesOf act).filter found := by
    rw [lanesOf, lanesOf, List.filter_filter]
    refine List.filter_congr fun i hi => ?_
    rw [BitVec.getLsbD_and, getLsbD_maskOf (List.mem_range.mp hi), Bool.and_comm]
  have hfilter (f : Nat → Bool) : ((lanesOf act).all fun i => !found i || f i) = (lanesOf (act &&& maskOf found)).all f := by
    rw [hlanes, List.all_filter]
  rw [hfilter]
  unfold kvxMask
  split
  next =>
    have hzero : s.keepsMark 0#32 w.d.toNat 2 p = true := by unfold State.keepsMark; cases p <;> simp
    simp [hzero]
  next => exact s.keepsMark_lanes _ _ _ p

/-- The machine after the lanes of `act` have written their pairs and predicates. -/
def State.kvxLanes (s : State) (w : LR) (nf : Bool) (r : List Byte) (act : BitVec 32) : State :=
  (lanesOf act).foldl (fun t i => t.kvxWrite w nf (kvxTuple s.me w i) i (s.kvxLane w r act i)) s

theorem State.kvxRun_root {s : State} {w : LR} {r : List Byte} (nf : Bool) {act : BitVec 32} (ha : s.me.active w.lxc = act)
    (hp : s.lanePoison act [(w.a, 1), (w.b, 1), (lxcC w.lxc, 1)] = 0) (hr : (s.grid s.me.grid).kvRoot = some r) :
    let outs := (lanesOf act).map fun i => (i, (s.kvxLane w r act i).outcome nf)
    ∃ key kv lat, (∀ i ∈ lanesOf act, (∀ va, key i va = (s.kvxLane w r act i).key (kvxTuple s.me w i) va) ∧
        kv i = (s.kvxLane w r act i).tuple (kvxTuple s.me w i)) ∧
      s.kvxRun w nf = .next ((s.kvxLanes w nf r act).finishParts .read outs (groupParts key kv outs)
        ((s.kvxLanes w nf r act).switch (lrLen w) (occupancy false act) lat)) := by
  intro outs
  subst ha
  unfold State.kvxRun
  rw [s.laneRun_next _ _ _ hp]
  dsimp only
  rw [hr]
  dsimp only
  rw [List.foldl_map, List.map_map]
  refine ⟨_, _, _, fun i hi => ?_, rfl⟩
  rw [find_map_pair _ hi]
  exact ⟨fun _ => rfl, rfl⟩

/-- One lane of a KVX: its outcome is the instruction's. -/
theorem State.kvxRun_one {s : State} {w : LR} {r : List Byte} (nf : Bool) {i : Nat} {k : KvLane} (hl : lanesOf (s.me.active w.lxc) = [i])
    (hp : s.lanePoison (s.me.active w.lxc) [(w.a, 1), (w.b, 1), (lxcC w.lxc, 1)] = 0) (hr : (s.grid s.me.grid).kvRoot = some r)
    (hk : s.kvxLane w r (s.me.active w.lxc) i = k) :
    let t := s.kvxWrite w nf (kvxTuple s.me w i) i k
    ∃ key kv lat, kv i = k.tuple (kvxTuple s.me w i) ∧ s.kvxRun w nf = .next
      (t.finishParts .read [(i, k.outcome nf)] (groupParts key kv [(i, k.outcome nf)]) (t.switch (lrLen w) (occupancy false (s.me.active w.lxc)) lat)) := by
  obtain ⟨key, kv, lat, hkey, hrun⟩ := s.kvxRun_root nf rfl hp hr
  obtain ⟨-, hkv⟩ := hkey i (by rw [hl]; exact List.mem_singleton_self i)
  unfold State.kvxLanes at hrun
  rw [hl] at hrun
  simp only [List.map_cons, List.map_nil, List.foldl_cons, List.foldl_nil, hk] at hrun hkv
  exact ⟨key, kv, lat, hkv, hrun⟩

end Lanes

theorem Thread.setPred_writePair (a : Thread) (d : BitVec 7) (n : BitVec 1) (x : Dword) (p : Nat) (y : Bool) :
    (a.writePair d n x).setPred p y = (a.setPred p y).writePair d n x := by
  unfold Thread.writePair
  split <;> rfl

end Sys2Proof.Machine
end

section
/-! The statement on KVX, KVX.nf and KVINV (08, 13, 15). -/

namespace Sys2Proof.Machine

/-- The last lane that finds its element leaves its token block in the KV TLB (R178). -/
theorem KvxDone.tlbFind_kvxWrite {w : LR} {nf : Bool} {va : Nat → Nat} {found : Nat → Bool} {s t : State} {ls : List Nat}
    (h : KvxDone w nf va found s t ls) (tup : KvTuple) (i fg x : Nat) :
    ((t.kvxWrite w nf tup i (.addr fg x)).tlbFind s.me.core s.myCtx tup).isSome = true := by
  obtain ⟨hrest, hgroup, -, -⟩ := h
  have hcore : t.me.core = s.me.core := by rw [hgroup]
  have hctx : t.myCtx = s.myCtx := by
    unfold State.myCtx
    rw [hgroup, hrest]
    rfl
  have htlb : (t.kvxWrite w nf tup i (.addr fg x)).kvTlb = (t.tlbFill s.me.core s.myCtx tup fg).kvTlb := by
    unfold State.kvxWrite
    dsimp only
    rw [State.clearV_filter, State.fillTlb_eq, hcore, hctx]
    rfl
  have hfill := t.tlbFind_tlbFill s.me.core s.myCtx tup fg
  unfold State.tlbFind at hfill ⊢
  rw [htlb]
  exact hfill

/-- A KVX none of whose lanes fails: each active lane takes its pair and its predicate, and the group goes on after its run. -/
theorem State.kvxRun_done {s : State} {w : LR} {r : List Byte} {nf : Bool} {va : Nat → Nat} {found : Nat → Bool} {act : BitVec 32}
    (ha : s.me.active w.lxc = act) (hp : s.lanePoison act [(w.a, 1), (w.b, 1), (lxcC w.lxc, 1)] = 0)
    (hr : (s.grid s.me.grid).kvRoot = some r) (h : KvxDone w nf va found s (s.kvxLanes w nf r act) (lanesOf act))
    (hok : ∀ i, act.getLsbD i = true → ((s.kvxLane w r act i).outcome nf).isOk = true) :
    ∃ t, s.kvxRun w nf = .next t ∧ OnlyMe (s.kvxLanes w nf r act) t ∧
      SwitchedBy s.me t.me (s.me.pc + BitVec.ofNat 64 (4 * lrLen w)) fun i a b =>
        b = { (if act.getLsbD i then kvxTakes w nf va found i a else a) with lat := List.replicate 8 0, clkHi := none } := by
  obtain ⟨key, kv, lat, -, hrun⟩ := s.kvxRun_root nf ha hp hr
  have hall : ∀ x ∈ (lanesOf act).map fun i => (i, (s.kvxLane w r act i).outcome nf), x.2.isOk = true := by
    intro x hx
    obtain ⟨i, hi, rfl⟩ := List.mem_map.mp hx
    exact hok i (mem_lanesOf.mp hi)
  rw [State.finishParts_ok hall] at hrun
  refine ⟨_, hrun, rfl, ?_⟩
  obtain ⟨-, hgroup, -, hlanes⟩ := h
  generalize s.kvxLanes w nf r act = u at hgroup hlanes ⊢
  change SwitchedBy s.me (u.me.endRun (u.me.pc + BitVec.ofNat 64 (4 * lrLen w)) _) _ _
  refine ⟨by rw [hgroup]; rfl, fun i => ?_⟩
  rw [Group.lane_endRun, hlanes]
  cases s.me.lane i with
  | none => rfl
  | some a =>
    refine ⟨_, rfl, ?_⟩
    simp only [mem_lanesOf]

theorem EachThread.mono {g h : Group} {R R' : Nat → Thread → Thread → Prop} (hr : ∀ i a b, R i a b → R' i a b) (e : EachThread g h R) :
    EachThread g h R' := by
  intro i
  have := e i
  cases hl : g.lane i with
  | none => rw [hl] at this; exact this
  | some a =>
    rw [hl] at this
    obtain ⟨b, hb, hrel⟩ := this
    exact ⟨b, hb, hr i a b hrel⟩

theorem SwitchedBy.mono {g h : Group} {pc : Dword} {R R' : Nat → Thread → Thread → Prop} (hr : ∀ i a b, R i a b → R' i a b)
    (e : SwitchedBy g h pc R) : SwitchedBy g h pc R' := ⟨e.1, e.2.mono hr⟩

/-- What an active lane of KVX takes. -/
theorem kvxTakes_found {w : LR} {va : Nat → Nat} {found : Nat → Bool} {i : Nat} (a : Thread) (h : found i = true) :
    a.LoadsPair { kvxTakes w false va found i a with lat := List.replicate 8 0, clkHi := none } w.d w.n (BitVec.ofNat 64 (va i)) := by
  unfold kvxTakes
  rw [h]
  exact a.loadsPair_writePair _ _ _

/-- What an active lane of KVX.nf takes. -/
theorem kvxTakes_nf (w : LR) (va : Nat → Nat) (found : Nat → Bool) (i : Nat) (a : Thread) :
    let b : Thread := { kvxTakes w true va found i a with lat := List.replicate 8 0, clkHi := none }
    a.TakesPred { a with p := b.p } (lxcExt w.lxc % 8) (some (found i)) ∧
      if found i then ({ a with p := b.p } : Thread).LoadsPair b w.d w.n (BitVec.ofNat 64 (va i))
      else b = { a with p := b.p, lat := b.lat, clkHi := none } := by
  unfold kvxTakes
  cases found i with
  | false => exact ⟨a.takesPred_active (lxcExt w.lxc % 8) false, rfl⟩
  | true =>
    simp only [if_true, Thread.setPred_writePair]
    have hpred : ({ a with p := ((a.setPred (lxcExt w.lxc % 8) true).writePair w.d w.n (BitVec.ofNat 64 (va i))).p } : Thread) =
        a.setPred (lxcExt w.lxc % 8) true := by
      unfold Thread.writePair
      split <;> rfl
    rw [hpred]
    exact ⟨a.takesPred_active (lxcExt w.lxc % 8) true, (a.setPred (lxcExt w.lxc % 8) true).loadsPair_writePair w.d w.n _⟩

/-- Settles O21: the lanes' writes are a fold, and one lane's outcome is its trap. -/
theorem kvTranslations : Obligations.KvTranslations := by
  unfold Obligations.KvTranslations
  refine ⟨fun w s r fg va found => ?walks, fun w s i hi => ?traps, fun w s hg => ?kvinv⟩
  case walks =>
    intro act past hp hr hfound u
    have hdone (nf : Bool) : KvxDone w nf va found s (u nf) (lanesOf act) :=
      KvxDone.foldl (fg := fg) (nodup_lanesOf act) (fun l => lt_of_mem_lanesOf) fun l hl => hfound l (mem_lanesOf.mp hl)
    refine ⟨fun nf => ?frame, fun i hlast hi nf => ?tlb, fun hall => ?kvx, ?kvxNf⟩
    case frame =>
      obtain ⟨hrest, -, hmarks, -⟩ := hdone nf
      refine hrest.trans ?_
      rw [hmarks, State.marksCleared, State.clearV_filter]
      simp only [s.kvxMasks]
    case tlb =>
      obtain ⟨init, hinit⟩ := List.getLast?_eq_some_iff.mp hlast
      have hlane := hfound i (mem_lanesOf.mp (by rw [hinit]; exact List.mem_append_right _ (List.mem_singleton_self i)))
      rw [if_pos hi] at hlane
      have hbefore : KvxDone w nf va found s (init.foldl (fun t l => t.kvxWrite w nf (kvxTuple s.me w l) l (s.kvxLane w r act l)) s) init := by
        have hsub (l : Nat) (hl : l ∈ init) : l ∈ lanesOf act := by rw [hinit]; exact List.mem_append_left _ hl
        exact KvxDone.foldl (fg := fg) (List.nodup_append.mp (hinit ▸ nodup_lanesOf act)).1 (fun l hl => lt_of_mem_lanesOf (hsub l hl))
          fun l hl => hfound l (mem_lanesOf.mp (hsub l hl))
      unfold u
      rw [hinit, List.foldl_concat, hlane]
      exact hbefore.tlbFind_kvxWrite _ _ _ _
    case kvx =>
      obtain ⟨t, hrun, hframe, hgroup⟩ := s.kvxRun_done rfl hp hr (hdone false) fun i hi => by
        have := hfound i hi
        rw [if_pos (hall i hi)] at this
        rw [this]
        rfl
      refine ⟨t, hrun, hframe, hgroup.mono fun i a b hb => ?_⟩
      subst hb
      split
      next hi => exact kvxTakes_found a (hall i hi)
      next => rfl
    case kvxNf =>
      obtain ⟨t, hrun, hframe, hgroup⟩ := s.kvxRun_done rfl hp hr (hdone true) fun i hi => by
        have := hfound i hi
        split at this
        · rw [this]; rfl
        · unfold KvLane.outcome
          generalize (s.kvxLane w r act i).check = c at this
          cases c with
          | wait _ _ _ => rfl
          | _ => cases this
      refine ⟨t, hrun, hframe, hgroup.mono fun i a b hb => ?_⟩
      subst hb
      cases hi : act.getLsbD i with
      | false => rfl
      | true => exact kvxTakes_nf w va found i a
  case traps =>
    intro act t denied hp hl
    have hact : act ≠ 0 := by rintro h; rw [h] at hl; cases hl
    refine ⟨fun hr => ?_, fun r hr => ⟨fun hrange => ?_, fun reason va hk => ?_, fun va hk => ?_⟩⟩
    · have hrun (nf : Bool) : denied (s.kvxRun w nf) := by
        unfold State.kvxRun
        rw [s.laneRun_next _ _ _ hp]
        dsimp only
        rw [hr]
        dsimp only
        rw [if_neg hact]
        exact ⟨_, _, rfl, rfl, rfl⟩
      exact ⟨hrun false, hrun true⟩
    · have hk : s.kvxLane w r act i = .denied := by
        unfold State.kvxLane
        refine if_pos ?_
        change KvTuple.ok t r = false
        unfold KvTuple.ok
        simp only [Bool.and_eq_false_iff, decide_eq_false_iff_not]
        omega
      have hrun (nf : Bool) : denied (s.kvxRun w nf) := by
        obtain ⟨key, kv, lat, -, hrun⟩ := s.kvxRun_one nf hl hp hr hk
        have hwrite : s.kvxWrite w nf (kvxTuple s.me w i) i .denied = s := by cases nf <;> rfl
        rw [hrun, hwrite]
        exact ⟨_, _, rfl, rfl, rfl⟩
      exact ⟨hrun false, hrun true⟩
    · obtain ⟨key, kv, lat, hkv, hrun⟩ := s.kvxRun_one false hl hp hr hk
      have hword : kv i = t.word reason := hkv
      rw [← hword]
      exact hrun
    · obtain ⟨key, kv, lat, hkv, hrun⟩ := s.kvxRun_one false hl hp hr hk
      have hword : kv i = 0 := hkv
      rw [← hword]
      exact hrun
  case kvinv =>
    refine ⟨_, s.uniRun_next _ _ _ _ hg s.kPoison_nil, rfl, ?_, fun e => ?_⟩
    · exact Group.endRun_switched _ _ _
    · change e ∈ s.kvTlb.filter _ ↔ _
      simp

end Sys2Proof.Machine
end

section
/-! SUPPORT. Blocks and tiles of a machine (R44, R144). -/

namespace Sys2Proof.Machine

theorem State.find_onBlock (s : State) (u v : Nat) {f : Block → Block} (hf : ∀ b, (f b).uid = b.uid) :
    (s.onBlock u f).blocks.find? (fun b => b.uid == v) =
      (s.blocks.find? fun b => b.uid == v).map fun b => if b.uid = u then f b else b := by
  unfold State.onBlock
  rw [List.find?_map]
  congr 2
  funext b
  change ((if b.uid = u then f b else b).uid == v) = (b.uid == v)
  split
  · rw [hf]
  · rfl

/-- A change of a block that stands (R44). -/
theorem State.block_onBlock_same {s : State} {u : Nat} {f : Block → Block} (hf : ∀ b, (f b).uid = b.uid)
    (hb : (s.blocks.find? fun b => b.uid == u).isSome = true) : (s.onBlock u f).block u = f (s.block u) := by
  obtain ⟨b, hb⟩ := Option.isSome_iff_exists.mp hb
  have hu : b.uid = u := by simpa using List.find?_some hb
  unfold State.block
  rw [s.find_onBlock u u hf, hb, Option.map_some, if_pos hu]
  rfl

/-- A block has tiles only if it stands. -/
theorem State.find_block_of_tiles {s : State} {u n : Nat} (h : n < (s.block u).tiles.length) :
    (s.blocks.find? fun b => b.uid == u).isSome = true := by
  unfold State.block at h
  cases hb : s.blocks.find? fun b => b.uid == u with
  | none => rw [hb] at h; exact absurd h (Nat.not_lt_zero n)
  | some b => rfl

/-- What a change of a tile that stands leaves there. -/
theorem State.tile_onTile_same {s : State} {u t : Nat} (f : Tile → Tile) (h : t < (s.block u).tiles.length) :
    (s.onTile u t f).tile u t = f (s.tile u t) := by
  unfold State.onTile State.tile
  rw [State.block_onBlock_same (by intro _; rfl) (State.find_block_of_tiles h)]
  exact (nth_setNth _ _ _ _ _).trans (if_pos ⟨rfl, h⟩)

/-- Events leave the tiles as they are (R251, R420). -/
theorem State.addEv_tile (s : State) (h b n : Nat) (e : Ev) (u t : Nat) : (s.addEv h b n e).tile u t = s.tile u t := by
  have hblock {s1 : State} (hs : s1.blocks = s.blocks) : s1.tile u t = s.tile u t := by
    unfold State.tile State.block
    rw [hs]
  have hon (w : Word → Word) : (s.onBlock b fun x => { x with fstat := w x.fstat }).tile u t = s.tile u t := by
    unfold State.tile State.block
    rw [s.find_onBlock b u (by intro _; rfl)]
    cases s.blocks.find? fun b => b.uid == u with
    | none => rfl
    | some x =>
      change nth (if x.uid = b then _ else x).tiles t _ = nth x.tiles t _
      split <;> rfl
  unfold State.addEv
  split
  · rfl
  · dsimp only
    split
    · exact hblock rfl
    · exact hon fun w => fstatAdd w e

end Sys2Proof.Machine
end

section
/-! SUPPORT. ACLD and ACST: their order of outcomes, and what one lane of each leaves (R163, R287, R288). -/

namespace Sys2Proof.Machine

theorem State.lanePoison_clean {s : State} (h : s.poison = []) (act : BitVec 32) (srcs : List (BitVec 8 × Nat)) :
    s.lanePoison act srcs = 0 := by simp [State.lanePoison, h]

section Cells
variable (s : State) (w : LR)

/-- The cell that a lane names (R287). -/
def State.cellOf (i : Nat) : Nat × Nat × Nat := cellSel (srcVal s.me (s.me.thread i) w.a)

/-- Lane `i` waits for the row of its cell (R163, R288). -/
def State.cellWaits (i : Nat) : Bool := decide ((s.tile (s.me.thread i).blk (s.cellOf w i).1).water ≤ (s.cellOf w i).2.1)

/-- The lanes whose tile does not exist; a group that waits for rows keeps those that it had (R288). -/
def State.cellBad (act : BitVec 32) : BitVec 32 :=
  match s.me.park with
  | some (.tile m) => m
  | _ => act &&& maskOf fun i => decide ((s.block (s.me.thread i).blk).tiles.length ≤ (s.cellOf w i).1)

/-- The latency of the farthest home core (R208). -/
def State.cellTime (good : BitVec 32) : Nat := (lanesOf good).foldl (fun a i => max a (s.homeLatency (s.me.thread i).blk)) 24

end Cells

section Run
variable {s : State} {w : LR} {srcs : List (BitVec 8 × Nat)} {store : Bool} {f : State → Nat → State} {bad : BitVec 32}
  (hp : s.lanePoison (s.me.active w.lxc) srcs = 0) (hb : s.cellBad w (s.me.active w.lxc) = bad)
include hp hb

theorem State.cellRun_park (h : ∃ i, (s.me.active w.lxc &&& ~~~bad).getLsbD i = true ∧ s.cellWaits w i = true) :
    s.cellRun w srcs store f = .next (s.parkMe (.tile bad) (occupancy false (s.me.active w.lxc))) := by
  obtain ⟨i, hi, hw⟩ := h
  subst hb
  unfold State.cellRun
  rw [s.laneRun_next _ _ _ hp]
  exact congrArg Host.Outcome.next (if_pos (List.any_eq_true.mpr ⟨i, mem_lanesOf.mpr hi, hw⟩))

theorem State.cellRun_effect (h : ∀ i, (s.me.active w.lxc &&& ~~~bad).getLsbD i = true → s.cellWaits w i = false)
    (hs : store = true ∨ s.poison = []) : s.cellRun w srcs store f = .next (
      let t := (lanesOf (s.me.active w.lxc &&& ~~~bad)).foldl f s
      if bad = 0 then t.switch (lrLen w) (occupancy false (s.me.active w.lxc)) (s.cellTime (s.me.active w.lxc &&& ~~~bad))
      else t.takeTrap cMatrixForm bad 0 0 0) := by
  have hwaits : ¬((lanesOf (s.me.active w.lxc &&& ~~~bad)).any fun i => s.cellWaits w i) = true := by
    rw [Bool.not_eq_true, List.any_eq_false]
    exact fun i hi => by rw [h i (mem_lanesOf.mp hi)]; decide
  have hwell {sick : BitVec 32} (hsick : sick = 0) (lat : Nat) :
      (let t := (lanesOf (s.me.active w.lxc &&& ~~~bad &&& ~~~sick)).foldl f s
      if sick ||| bad = 0 then t.switch (lrLen w) (occupancy false (s.me.active w.lxc)) lat
      else t.takeTrap (if sick.getLsbD (lowLane (sick ||| bad)) then cPoison else cMatrixForm) (sick ||| bad) 0 0 0) =
      let t := (lanesOf (s.me.active w.lxc &&& ~~~bad)).foldl f s
      if bad = 0 then t.switch (lrLen w) (occupancy false (s.me.active w.lxc)) lat else t.takeTrap cMatrixForm bad 0 0 0 := by
    have hnot : ~~~(0 : BitVec 32) = BitVec.allOnes 32 := by decide
    have hor : (0 : BitVec 32) ||| bad = bad := BitVec.zero_or
    subst hsick
    simp only [hnot, BitVec.and_allOnes, hor]
    rw [if_neg (c := (0 : BitVec 32).getLsbD (lowLane bad) = true) (by simp)]
  subst hb
  unfold State.cellRun
  rw [s.laneRun_next _ _ _ hp]
  refine congrArg Host.Outcome.next ((if_neg hwaits).trans (hwell ?_ _))
  rcases hs with rfl | hs
  · simp only [Bool.not_true, Bool.false_and, maskOf_false]
    exact BitVec.and_zero
  · simp only [hs, List.any_nil, Bool.and_false, maskOf_false]
    exact BitVec.and_zero

end Run

/-- Every lane's tile exists. -/
theorem State.cellBad_zero {s : State} {w : LR} {act : BitVec 32} (hpark : ∀ m, s.me.park = some (.tile m) → m = 0)
    (h : ∀ i, act.getLsbD i = true → (s.cellOf w i).1 < (s.block (s.me.thread i).blk).tiles.length) : s.cellBad w act = 0 := by
  unfold State.cellBad
  split
  next m hm => exact hpark m hm
  next =>
    refine BitVec.eq_of_getLsbD_eq fun i hi => ?_
    rw [BitVec.getLsbD_and, getLsbD_maskOf hi, BitVec.ofNat_eq_ofNat, BitVec.getLsbD_zero, Bool.and_eq_false_iff, decide_eq_false_iff_not]
    cases ha : act.getLsbD i with
    | false => exact .inl rfl
    | true => exact .inr (Nat.not_le.mpr (h i ha))

/-- A group that does not wait for rows looks at its lanes' tiles. -/
theorem State.cellBad_eq {s : State} (w : LR) (act : BitVec 32) (hpark : ∀ m, s.me.park ≠ some (.tile m)) :
    s.cellBad w act = act &&& maskOf fun i => decide ((s.block (s.me.thread i).blk).tiles.length ≤ (s.cellOf w i).1) := by
  unfold State.cellBad
  split
  next m hm => exact absurd hm (hpark m)
  next => rfl

theorem State.receiveRow_none {s : State} {lane blk t i : Nat} (h : s.rowSenders blk t i = []) : s.receiveRow lane blk t i = s := by
  unfold State.receiveRow
  dsimp only
  rw [h]
  rfl

/-- What ACLD leaves besides the row-final edge: the events of the conversion and the lane's registers with their marks (R287, R421). -/
theorem State.acldLane_eq {s : State} {w : LR} {i : Nat} {a y : Thread} (hi : i < 32) (ha : s.me.lane i = some a) :
    let c := cellSel (srcVal s.me a w.a)
    let kind := lxcExt w.lxc / 16
    let u := s.receiveRow i a.blk c.1 c.2.1
    let v := acldValue kind (u.tile a.blk c.1).tag (arithMode u.me (lxcExt w.lxc))
      (viewCell (u.grid u.me.grid) y.party a.blk c.1 c.2.1 c.2.2)
    u.me.lane i = some y →
    s.acldLane w i = { u.addEv u.me.grid a.blk (stationOf u.me.core) v.2 with me := (s.acldLane w i).me, poison := (s.acldLane w i).poison } ∧
      ∃ b, (s.acldLane w i).me.lane i = some b ∧ y.TakesWords b w.d w.n (if kind = 2 then dwordWords v.1 else [v.1.setWidth 32]) := by
  intro c kind u v hy
  have hlane (t : State) (ht : t.me = u.me) (f : Nat → Thread → Thread) :
      (t.onMe fun g => g.onLanes (BitVec.ofNat 32 (2 ^ i)) f).me.lane i = some (f i y) := by
    rw [State.onMe_me, ht, Group.lane_onLanes, getLsbD_two_pow hi, hy]
    simp
  have heq : s.acldLane w i = (let t := u.addEv u.me.grid a.blk (stationOf u.me.core) v.2
    if kind = 2 then
      (t.clearV (if w.n = 1 ∨ 0x78 ≤ w.d.toNat then 0 else BitVec.ofNat 32 (2 ^ i)) w.d.toNat 2).onMe fun g =>
        g.onLanes (BitVec.ofNat 32 (2 ^ i)) fun _ y => y.writePair w.d w.n v.1
    else t.onMe fun g => g.onLanes (BitVec.ofNat 32 (2 ^ i)) fun _ y => y.writeBack w.d w.n (v.1.setWidth 32)) := by
    unfold State.acldLane v u kind c
    rw [Group.thread_of_lane ha]
    dsimp only
    rw [Group.thread_of_lane hy]
  rw [heq]
  dsimp only
  by_cases hk : kind = 2
  · rw [if_pos hk, if_pos hk]
    refine ⟨?_, _, hlane _ ?_ _, y.takesWords_writePair _ _ _⟩
    · rw [State.clearV_eq]; rfl
    · rw [State.clearV_eq]; exact State.addEv_me _ _ _ _ _
  · rw [if_neg hk, if_neg hk]
    exact ⟨rfl, _, hlane _ (State.addEv_me _ _ _ _ _) _, y.takesWords_writeBack _ _ _⟩

theorem findCell_putCell (c : VCell) (v : List VCell) (l : Loc) :
    findCell l (putCell c v) = if c.loc = l then some c else findCell l v := by
  induction v with
  | nil => rfl
  | cons d r ih =>
    rw [putCell]
    by_cases hd : d.loc = c.loc
    · rw [if_pos hd, findCell, findCell, hd]
      split <;> rfl
    · rw [if_neg hd, findCell, findCell, ih]
      by_cases hl : d.loc = l
      · rw [if_pos hl, if_pos hl, if_neg (by rintro rfl; exact hd hl)]
      · rw [if_neg hl, if_neg hl]

section PutCells
variable (q : Quantum) (v : List VCell) (ls : List Loc) (bs : List Byte)

theorem findCell_foldl_out {m : Loc} (h : m ∉ ls) :
    findCell m ((List.zip ls bs).foldl (fun a x => putCell ⟨x.1, x.2, q⟩ a) v) = findCell m v := by
  induction ls generalizing v bs with
  | nil => rfl
  | cons l ls ih =>
    rw [List.mem_cons, not_or] at h
    cases bs with
    | nil => rfl
    | cons b bs => rw [List.zip_cons_cons, List.foldl_cons, ih _ _ h.2, findCell_putCell, if_neg (Ne.symm h.1)]

theorem findCell_foldl_in (hn : ls.Nodup) {j : Nat} {l : Loc} {b : Byte} (hl : ls[j]? = some l) (hb : bs[j]? = some b) :
    findCell l ((List.zip ls bs).foldl (fun a x => putCell ⟨x.1, x.2, q⟩ a) v) = some ⟨l, b, q⟩ := by
  induction ls generalizing v bs j with
  | nil => cases hl
  | cons m ls ih =>
    cases bs with
    | nil => cases hb
    | cons c bs =>
      rw [List.zip_cons_cons, List.foldl_cons]
      cases j with
      | zero =>
        obtain rfl := Option.some.inj hl
        obtain rfl := Option.some.inj hb
        rw [findCell_foldl_out _ _ _ _ (List.nodup_cons.mp hn).1, findCell_putCell, if_pos rfl]
      | succ j => exact ih _ _ (List.nodup_cons.mp hn).2 hl hb

end PutCells

theorem cellBytes_length (v : BitVec 36) : (cellBytes v).length = 5 := natLe_length _ _

/-- A lane of the group sees the cell where it has not written it itself (R105, R288). -/
theorem Party.read?_seeCell (p : Party) (q : Quantum) (blk t i j : Nat) (v : BitVec 36) {k : Nat} (hk : k < 5) :
    let at_ := Loc.acc blk t i j 0
    findByte (nth (at_.span 5) k at_) p.pend = none →
      (p.seeCell q blk t i j v).read? (nth (at_.span 5) k at_) = some (nth (cellBytes v) k 0) := by
  intro at_ hpend
  have hl : (at_.span 5)[k]? = some (nth (at_.span 5) k at_) := by
    rw [nth_eq_getD, List.getElem?_eq_getElem (by rwa [Loc.span_length]), Option.getD_some]
  have hb : (cellBytes v)[k]? = some (nth (cellBytes v) k 0) := by
    rw [nth_eq_getD, List.getElem?_eq_getElem (by rwa [cellBytes_length]), Option.getD_some]
  unfold Party.read? Party.seeCell
  dsimp only
  rw [hpend]
  dsimp only
  rw [findCell_foldl_in _ _ _ _ (at_.nodup_span 5) hl hb]
  rfl

section Acst
variable {s : State} {w : LR} {i : Nat} {a : Thread}

theorem State.acstLane_eq (ha : s.me.lane i = some a) :
    let c := cellSel (srcVal s.me a w.a)
    let kind := lxcExt w.lxc / 16
    let v := acstValue kind (s.tile a.blk c.1).tag (if kind = 2 then srcPair s.me a w.b else (srcVal s.me a w.b).setWidth 64)
    s.acstLane w i = ((s.onTile a.blk c.1 fun x => { x with cells := putCellAt x.cells c.2.1 c.2.2 v.1, tag := v.2.1 }).onMe fun g =>
      g.onAll fun l y => if l = i then { y with party := y.party.writeCell a.blk c.1 c.2.1 c.2.2 v.1 }
        else { y with party := y.party.seeCell (a.party.quantum.after (s.rowSenders a.blk c.1 c.2.1)) a.blk c.1 c.2.1 c.2.2 v.1 }).addEv
      s.me.grid a.blk (stationOf s.me.core) v.2.2 := by
  unfold State.acstLane
  rw [Group.thread_of_lane ha]

end Acst

/-- A fixed-point cell within 32 bits reads as it stands (R287). -/
theorem acldValue_fixed (r : Rnd) (c : BitVec 36) (h1 : -2 ^ 31 ≤ c.toInt) (h2 : c.toInt < 2 ^ 31) :
    (acldValue 1 2 r c).1 = BitVec.ofNat 64 (BitVec.ofInt 32 c.toInt).toNat := by
  have hscale : intToInt 36 32 true (ofScaled c.toInt 0 false) = (wrapInt 32 c.toInt, Ev.none) := by
    generalize c.toInt = x at h1 h2
    have hval : ∀ neg m, (if neg then -((m * 2 ^ 0 : Nat) : Int) else ((m * 2 ^ 0 : Nat) : Int)) = x →
        intToInt 36 32 true (.num neg m 0) = (wrapInt 32 x, Ev.none) := by
      intro neg m hx
      have hs : scaleTo neg m 0 0 = x := hx
      unfold intToInt
      dsimp only
      have hlo : (intRange 32 true).1 = -2 ^ 31 := by decide
      have hhi : (intRange 32 true).2 = 2 ^ 31 - 1 := by decide
      rw [hs, hlo, hhi, if_neg (by decide), if_neg (by omega), if_neg (by omega)]
    unfold ofScaled
    split
    next h0 => exact hval _ _ (by subst h0; rfl)
    next h0 => 
      refine hval _ _ ?_
      rw [Nat.pow_zero, Nat.mul_one]
      by_cases hx : x < 0
      · rw [if_pos (decide_eq_true hx)]
        omega
      · rw [if_neg (by simpa using hx)]
        omega
  unfold acldValue
  simp only
  rw [hscale]
  congr 1

end Sys2Proof.Machine
end

section
/-! The statement on ACLD and ACST (07, 13). -/

namespace Sys2Proof.Machine

/-- Settles O22: the run of a cell instruction by its outcomes, and one lane of it by the cell it names. -/
theorem accumulatorCells : Obligations.AccumulatorCells := by
  unfold Obligations.AccumulatorCells
  refine ⟨fun w s hpark => ?all, fun w s hpark hclean => ?some, fun w s i a hi ha => ?lane, fun tag r c x => ?values⟩
  case all =>
    intro act sel hexist
    have hbad : s.cellBad w act = 0 := State.cellBad_zero hpark hexist
    have hgood : act &&& ~~~(0 : BitVec 32) = act := by
      have hnot : ~~~(0 : BitVec 32) = BitVec.allOnes 32 := by decide
      rw [hnot, BitVec.and_allOnes]
    refine ⟨fun hw => ?_, fun hclean hw => ?_⟩
    · have hno (i : Nat) (h : (act &&& ~~~(0 : BitVec 32)).getLsbD i = true) : s.cellWaits w i = false :=
        decide_eq_false (Nat.not_le.mpr (hw i (hgood ▸ h)))
      refine ⟨fun hclean => ?_, fun hp => ?_⟩
      · have hrun := State.cellRun_effect (f := fun t i => t.acldLane w i) (s.lanePoison_clean hclean act [(w.a, 1)]) hbad hno (.inr hclean) (store := false)
        rw [hgood] at hrun
        exact ⟨_, _, hrun⟩
      · have hrun := State.cellRun_effect (f := fun t i => t.acstLane w i) hp hbad hno (.inl rfl)
        rw [hgood] at hrun
        exact ⟨_, _, hrun⟩
    · obtain ⟨i, hi, hwi⟩ := hw
      have hyes : ∃ i, (act &&& ~~~(0 : BitVec 32)).getLsbD i = true ∧ s.cellWaits w i = true :=
        ⟨i, by rw [hgood]; exact hi, decide_eq_true hwi⟩
      exact ⟨State.cellRun_park (s.lanePoison_clean hclean act _) hbad hyes, fun hp => State.cellRun_park hp hbad hyes⟩
  case some =>
    intro act sel bad good hne
    have hbad : s.cellBad w act = bad := s.cellBad_eq w act hpark
    have hp (srcs : List (BitVec 8 × Nat)) : s.lanePoison act srcs = 0 := s.lanePoison_clean hclean act srcs
    refine ⟨fun ⟨i, hi, hwi⟩ => ?_, fun hw => ?_⟩
    · have hyes : ∃ i, good.getLsbD i = true ∧ s.cellWaits w i = true := ⟨i, hi, decide_eq_true hwi⟩
      exact ⟨State.cellRun_park (hp _) hbad hyes, State.cellRun_park (hp _) hbad hyes⟩
    · have hno (i : Nat) (h : good.getLsbD i = true) : s.cellWaits w i = false := decide_eq_false (Nat.not_le.mpr (hw i h))
      have hrun (srcs : List (BitVec 8 × Nat)) (store : Bool) (f : State → Nat → State) :
          s.cellRun w srcs store f = .next (((lanesOf good).foldl f s).takeTrap cMatrixForm bad 0 0 0) := by
        rw [State.cellRun_effect (hp srcs) hbad hno (.inr hclean)]
        exact congrArg Host.Outcome.next (if_neg hne)
      exact ⟨hrun _ _ _, hrun _ _ _⟩
  case lane =>
    intro c kind
    refine ⟨fun y hy => ?_, fun htile => ?_⟩
    · obtain ⟨hframe, hlane⟩ := State.acldLane_eq hi ha hy
      exact ⟨State.receiveRow_none, hframe, hlane⟩
    · intro old v at_ t
      have ht : t = _ := State.acstLane_eq ha
      refine ⟨?_, ?_, ?_, fun j y hj hji hy => ?_⟩
      · rw [ht, State.addEv_eq]
        exact ⟨rfl, rfl, rfl, rfl, rfl⟩
      · rw [ht, State.addEv_tile]
        exact State.tile_onTile_same (fun x => { x with cells := putCellAt x.cells c.2.1 c.2.2 v.1, tag := v.2.1 }) htile
      · rw [ht, State.addEv_me, State.onMe_me, Group.lane_onAll]
        change ∃ b, (s.me.lane i).map _ = some b ∧ _
        rw [ha, Option.map_some, if_pos rfl]
        refine ⟨_, rfl, rfl, ?_⟩
        exact a.party.writeBytes_pendingAt at_ (cellBytes v.1)
      · rw [ht, State.addEv_me, State.onMe_me, Group.lane_onAll]
        change ∃ b, (s.me.lane j).map _ = some b ∧ _
        rw [hy, Option.map_some, if_neg hji]
        exact ⟨_, rfl, rfl, fun k hk hpend => y.party.read?_seeCell _ _ _ _ _ _ hk hpend⟩
  case values =>
    refine ⟨rfl, acldValue_fixed r c, fun h => ?_, rfl, rfl, rfl, rfl⟩
    unfold acldValue
    simp only [if_neg h]

end Sys2Proof.Machine
end

section
/-! SUPPORT. Future words: their atomic state, the edges of their fillers, and the groups that wait for them (R73 to R76, R109). -/

namespace Sys2Proof.Machine

theorem findByte_none {l : Loc} {ws : List (Loc × Byte)} (h : ∀ y ∈ ws, y.1 ≠ l) : findByte l ws = none := by
  induction ws with
  | nil => rfl
  | cons y r ih =>
    obtain ⟨m, b⟩ := y
    rw [findByte, if_neg (h _ List.mem_cons_self), ih fun y hy => h y (List.mem_cons_of_mem _ hy)]

/-- Atomic words after the direct writes of an edge that name none of their bytes (R109). -/
theorem settleWord_self {e : Edge} {chosen : Loc → Bool} {a : AtomWord}
    (h : ∀ x ∈ a.loc.span 4, ∀ s ∈ e.senders, ∀ y ∈ s.writes, y.1 ≠ x) : settleWord e chosen a = a := by
  have hnone : ∀ x ∈ wordBytesAt a.loc a.val, (if chosen x.1 then (directWinner e x.1).getD x.2 else x.2) = x.2 := by
    intro x hx
    have hd : directs x.1 e.senders = [] := by
      refine List.filterMap_eq_nil_iff.mpr fun s hs => ?_
      rw [findByte_none fun y hy => h x.1 (List.of_mem_zip hx).1 s hs y hy]
      rfl
    have hw : directWinner e x.1 = none := by
      unfold directWinner
      rw [hd]
      rfl
    rw [hw]
    split <;> rfl
  unfold settleWord
  have hbytes : (wordBytesAt a.loc a.val).map Prod.snd = word32Bytes a.val :=
    List.map_snd_zip (by rw [Loc.span_length, word32Bytes, natLe_length])
  have hval : BitVec.ofNat 32 (leNat (word32Bytes a.val)) = a.val := by
    rw [word32Bytes, leNat_natLe]
    exact BitVec.eq_of_toNat_eq (by rw [BitVec.toNat_ofNat]; omega)
  rw [List.map_congr_left hnone, hbytes, hval]

theorem findAtom_map {f : AtomWord → AtomWord} (hf : ∀ a, (f a).loc = a.loc) (l : Loc) (as : List AtomWord) :
    findAtom l (as.map f) = (findAtom l as).map f := by
  induction as with
  | nil => rfl
  | cons a r ih =>
    rw [List.map_cons, findAtom, findAtom, hf, ih]
    split <;> rfl

/-- A change of a lane's party leaves what its registers take. -/
theorem Thread.TakesWords.of_party {a b : Thread} {d : BitVec 7} {n : BitVec 1} {ws : List Word} (p : Party)
    (h : ({ a with party := p } : Thread).TakesWords b d n ws) : a.TakesWords b d n ws := by
  obtain ⟨hframe, hlen, hregs⟩ := h
  exact ⟨hframe, hlen, hregs⟩

/-- The lane's party has changed, and the words' atomic state, and of the futures who is owed what; nothing else. -/
def FutureFrame (i : Nat) (s t : State) : Prop :=
  t = { s with me := t.me, atoms := t.atoms, futures := t.futures } ∧
    ∃ f : Party → Party, t.me = s.me.onLanes (BitVec.ofNat 32 (2 ^ i)) fun _ x => { x with party := f x.party }

theorem Group.onLanes_onLanes (g : Group) (m : BitVec 32) (f f' : Nat → Thread → Thread) :
    (g.onLanes m f).onLanes m f' = g.onLanes m fun i x => f' i (f i x) := by
  have hmap (k : Nat) (l : List (Option Thread)) :
      mapFrom (fun i (t : Option Thread) => if m.getLsbD i then t.map (f' i) else t) k
        (mapFrom (fun i (t : Option Thread) => if m.getLsbD i then t.map (f i) else t) k l) =
      mapFrom (fun i (t : Option Thread) => if m.getLsbD i then t.map fun x => f' i (f i x) else t) k l := by
    induction l generalizing k with
    | nil => rfl
    | cons a r ih =>
      rw [mapFrom, mapFrom, mapFrom, ih]
      congr 1
      split
      · rw [Option.map_map]; rfl
      · rfl
  unfold Group.onLanes
  dsimp only
  rw [hmap]

theorem FutureFrame.refl (i : Nat) (s : State) : FutureFrame i s s := ⟨rfl, id, (s.me.onLanes_id _).symm⟩

theorem FutureFrame.trans {i : Nat} {s t u : State} (h : FutureFrame i s t) (h' : FutureFrame i t u) : FutureFrame i s u := by
  obtain ⟨hrest, f, hme⟩ := h
  obtain ⟨hrest', f', hme'⟩ := h'
  refine ⟨?_, f' ∘ f, ?_⟩
  · rw [hrest', hrest]
  · rw [hme', hme, Group.onLanes_onLanes]
    rfl

theorem State.futureEnter_frame (s : State) (i : Nat) (tg : Target) (v : Dword) : FutureFrame i s (s.futureEnter i tg v) := by
  unfold State.futureEnter
  split
  · rw [State.atomWrite_eq]
    exact ⟨rfl, fun p => p.didAtomic (atomWords _ 8), rfl⟩
  · exact FutureFrame.refl i s

theorem State.receiveShared_frame (s : State) (i : Nat) (e : Edge) :
    FutureFrame i s (s.receiveShared (BitVec.ofNat 32 (2 ^ i)) e).2 := ⟨rfl, fun p => p.receive _, rfl⟩

theorem Edge.foreign_writes {e : Edge} {b a : Grid} {x : Sender} (hx : x ∈ (e.foreign b a).senders) : ∃ y ∈ e.senders, x.writes = y.writes := by
  unfold Edge.foreign at hx
  split at hx
  · exact ⟨x, hx, rfl⟩
  · obtain ⟨y, hy, rfl⟩ := List.mem_map.mp hx
    exact ⟨y, hy, rfl⟩

/-- The words of a doubleword lie within its eight bytes. -/
theorem atomWords_span {l m x : Loc} (hm : m ∈ atomWords l 8) (hx : x ∈ m.span 4) : x ∈ l.span 8 := by
  cases l <;>
    simp only [atomWords, Loc.span, List.range_succ, List.range_zero, List.nil_append, List.map_cons, List.map_nil,
      List.cons_append, if_true, List.getLastD_cons, List.getLastD_nil, List.mem_cons, List.not_mem_nil, or_false] at hm hx ⊢ <;>
    rcases hm with rfl | rfl <;> simp only at hx ⊢ <;> rcases hx with rfl | rfl | rfl | rfl <;> simp

/-- A doubleword at its home (R74, R118). -/
theorem State.homeDword_atomWrite {s : State} {l : Loc} {v : Dword} (h : Nat) (hc : ∀ x, x ∈ atomWords l 8 → s.conflict x .home = false) :
    HomeDword (s.atomWrite h l 8 .home v) l v := by
  obtain ⟨⟨x, hx, hval, hhold⟩, hpair, -⟩ := State.findAtom_atomWrite (h := h) (v := v) (.inr rfl) hc
  obtain ⟨l2, y, hw, hy, hval', hhold'⟩ := hpair rfl
  exact ⟨l2, x, y, hw, hx, hy, hval, hval', hhold, hhold'⟩

theorem HomeDword.congr {s t : State} {l : Loc} {v : Dword} (h : HomeDword s l v)
    (ha : ∀ m ∈ atomWords l 8, findAtom m t.atoms = findAtom m s.atoms) : HomeDword t l v := by
  obtain ⟨l2, x, y, hw, hx, hy, hrest⟩ := h
  refine ⟨l2, x, y, hw, ?_, ?_, hrest⟩
  · rw [ha l (by rw [hw]; simp), hx]
  · rw [ha l2 (by rw [hw]; simp), hy]

/-- An edge that carries no direct write of a doubleword leaves its atomic state (R109). -/
theorem State.findAtom_receiveShared {s : State} {l : Loc} (m : BitVec 32) {e : Edge}
    (h : ∀ x ∈ e.senders, ∀ y ∈ x.writes, y.1 ∉ l.span 8) {k : Loc} (hk : k ∈ atomWords l 8) :
    findAtom k (s.receiveShared m e).2.atoms = findAtom k s.atoms := by
  unfold State.receiveShared
  dsimp only
  change findAtom k (s.atoms.map _) = _
  rw [findAtom_map (by intro _; rfl)]
  cases hf : findAtom k s.atoms with
  | none => rfl
  | some a =>
    obtain rfl := findAtom_loc hf
    rw [Option.map_some, settleWord_self]
    intro x hx s' hs' y hy he
    exact h s' hs' y hy (he ▸ atomWords_span hk hx)

theorem State.futureEnter_home {s : State} {i : Nat} {tg : Target} {l : Loc} (v : Dword) (hl : tg.future = some (l, 3))
    (hc : s.futureConflict tg = false) : HomeDword (s.futureEnter i tg v) l v := by
  unfold State.futureConflict at hc
  unfold State.futureEnter
  rw [hl] at hc ⊢
  exact State.homeDword_atomWrite _ fun x hx => by
    have := List.any_eq_false.mp hc x hx
    simpa using this

/-- The machine after lane `i` has received the edge of the filler of its full word (R74). -/
def State.freadEdge (s : State) (i : Nat) (tg : Target) : State :=
  match tg.future.bind fun x => s.futures.find? fun f => f.1 == x.1 with
  | some f =>
    let r := s.receiveShared (BitVec.ofNat 32 (2 ^ i)) (f.2.2.foreign (s.grid f.2.1) (s.grid s.me.grid))
    { r.2 with futures := r.2.futures.map fun (x : Loc × Nat × Edge) => if x.1 = f.1 then (x.1, x.2.1, { x.2.2 with rest := r.1.rest }) else x }
  | none => s

theorem State.freadEdge_frame (s : State) (i : Nat) (tg : Target) : FutureFrame i s (s.freadEdge i tg) := by
  unfold State.freadEdge
  split
  next f _ =>
    exact (s.receiveShared_frame i (f.2.2.foreign (s.grid f.2.1) (s.grid s.me.grid))).trans ⟨rfl, id, (Group.onLanes_id _ _).symm⟩
  next => exact FutureFrame.refl i s

theorem State.freadEdge_home {s : State} {i : Nat} {tg : Target} {l : Loc} {v : Dword} {d : Nat} (hl : tg.future = some (l, d)) (h : HomeDword s l v)
    (hw : ∀ f x y, f ∈ s.futures → f.1 = l → x ∈ f.2.2.senders → y ∈ x.writes → y.1 ∉ l.span 8) : HomeDword (s.freadEdge i tg) l v := by
  unfold State.freadEdge
  rw [hl]
  split
  next f hf =>
    have hmem := List.mem_of_find?_eq_some hf
    have hloc : f.1 = l := by simpa using List.find?_some hf
    refine h.congr fun m hm => ?_
    refine State.findAtom_receiveShared _ (fun x hx y hy => ?_) hm
    obtain ⟨z, hz, hzw⟩ := Edge.foreign_writes hx
    exact hw f z y hmem hloc hz (hzw ▸ hy)
  next => exact h

theorem State.freadOne_eq (s : State) (w : LR) (i : Nat) (tg : Target) : s.freadOne w i tg =
    (let v := s.futureWord (s.me.thread i).party tg
    if v.getLsbD 63 then (0, ((s.futureEnter i tg v).freadEdge i tg).futureResult w i v)
    else (BitVec.ofNat 32 (2 ^ i), s.futureEnter i tg v)) := rfl

theorem State.dropWaits_eq (s : State) (u : Nat) : s.dropWaits u = { s with waits := (s.dropWaits u).waits } := rfl

theorem filterMap_map_some {α β γ : Type} {l : List α} {g : α → β} {f : β → Option γ} {h : α → γ} (hf : ∀ a, f (g a) = some (h a)) :
    (l.map g).filterMap f = l.map h := by
  rw [List.filterMap_map, show f ∘ g = fun a => some (h a) from funext hf, List.filterMap_eq_map']

section Fread
variable {s : State} {w : LR} {tg : Nat → Target}

/-- The FREAD of the lanes `ls`, one after the other: the mask of those whose words are empty, and the machine (R74). -/
def State.freadAll (s : State) (w : LR) (tg : Nat → Target) (ls : List Nat) : BitVec 32 × State :=
  ls.foldl (fun (a : BitVec 32 × State) i => (a.1 ||| (a.2.freadOne w i (tg i)).1, (a.2.freadOne w i (tg i)).2)) (0, s)

theorem execFread_ok {ls : List Nat} (hl : lanesOf (s.freadLanes (s.me.active w.lxc)) = ls)
    (hp : s.lanePoison (s.me.active w.lxc) [(w.a, 2)] = 0)
    (hc : ∀ i, i ∈ ls → s.futureCheck (srcPair s.me (s.me.thread i) w.a).toNat = .ok (tg i)) :
    let va (i : Nat) : Nat := (srcPair s.me (s.me.thread i) w.a).toNat
    let r := s.freadAll w tg ls
    let u := r.2.fillLanes va (ls.map fun i => (i, .ok (tg i)))
    execFread w s = .next (if r.1 = 0 then
        ((u.clearV (if w.n = 1 ∨ 0x78 ≤ w.d.toNat then 0 else s.freadLanes (s.me.active w.lxc)) w.d.toNat 2).dropWaits s.me.uid).switch (lrLen w)
          (occupancy false (s.freadLanes (s.me.active w.lxc))) (lanesLatency s.latency (ls.map fun i => (i, .ok (tg i))))
      else u.freadPark r.1 (ls.map fun i => (i, va i, tg i)) (occupancy false (s.freadLanes (s.me.active w.lxc)))) := by
  intro va r u
  have houts : (ls.map fun i => (i, s.futureCheck (srcPair s.me (s.me.thread i) w.a).toNat)) = ls.map fun i => (i, Check.ok (tg i)) :=
    List.map_congr_left fun i hi => by rw [hc i hi]
  unfold execFread
  rw [s.laneRun_next _ _ _ hp]
  dsimp only
  rw [hl, houts, filterMap_map_some (g := fun i => (i, Check.ok (tg i))) (h := fun i => (i, va i, tg i)) (by intro _; rfl), List.foldl_map]
  rw [if_neg (by rw [List.length_map, List.length_map]; exact fun h => h rfl)]
  exact congrArg Host.Outcome.next rfl

end Fread

/-- One lane of an FFILL whose check has passed: its outcome joins the others' (R74). -/
def ffillStep (s : State) (w : LR) (a : List (Nat × Check) × State) (x : Nat × Check) : List (Nat × Check) × State :=
  match x.2 with
  | .ok t =>
    match a.2.ffillOne x.1 (srcPair s.me (s.me.thread x.1) w.a).toNat t (srcPair s.me (s.me.thread x.1) w.b) with
    | some u => (a.1 ++ [x], u)
    | none => (a.1 ++ [(x.1, Check.stop cDoubleFill (srcPair s.me (s.me.thread x.1) w.a).toNat none)], a.2)
  | _ => (a.1 ++ [x], a.2)

section Ffill
variable {s : State} {w : LR} {tg : Nat → Target}

theorem execFfill_checked {ls : List Nat} (hl : lanesOf (s.me.active w.lxc) = ls)
    (hp : s.lanePoison (s.me.active w.lxc) [(w.a, 2), (w.b, 2)] = 0)
    (hc : ∀ i, i ∈ ls → s.futureCheck (srcPair s.me (s.me.thread i) w.a).toNat = .ok (tg i)) :
    execFfill w s = .next (
      let r := (ls.map fun i => (i, Check.ok (tg i))).foldl (ffillStep s w) ([], s)
      let u := r.2.fillLanes (fun i => (srcPair s.me (s.me.thread i) w.a).toNat) r.1
      if r.1.all fun x => x.2.isOk then u.switch (lrLen w) (occupancy false (s.me.active w.lxc)) 8
      else u.finishLanes .atomic r.1 globalKey u) := by
  have houts : (ls.map fun i => (i, s.futureCheck (srcPair s.me (s.me.thread i) w.a).toNat)) = ls.map fun i => (i, Check.ok (tg i)) :=
    List.map_congr_left fun i hi => by rw [hc i hi]
  unfold execFfill
  rw [s.laneRun_next _ _ _ hp, hl, ← houts]
  rfl

/-- Lanes whose words are all empty fill them one after the other. -/
theorem ffillStep_foldl {ls : List Nat} (acc : List (Nat × Check)) {t u : State}
    (h : ls.foldlM (fun (t : State) i => t.ffillOne i (srcPair s.me (s.me.thread i) w.a).toNat (tg i) (srcPair s.me (s.me.thread i) w.b)) t = some u) :
    (ls.map fun i => (i, Check.ok (tg i))).foldl (ffillStep s w) (acc, t) = (acc ++ ls.map fun i => (i, Check.ok (tg i)), u) := by
  induction ls generalizing acc t with
  | nil =>
    obtain rfl := Option.some.inj h
    simp
  | cons i ls ih =>
    rw [List.foldlM_cons] at h
    obtain ⟨t', ht, h⟩ := Option.bind_eq_some_iff.mp h
    have hstep : ffillStep s w (acc, t) (i, .ok (tg i)) = (acc ++ [(i, .ok (tg i))], t') := by
      unfold ffillStep
      dsimp only
      rw [ht]
    rw [List.map_cons, List.foldl_cons, hstep, ih _ h, List.append_assoc]
    rfl

end Ffill

/-- The machine after lane `i` has written its future word, before its edge is recorded there (R74). -/
def State.ffillWord (s : State) (i : Nat) (tg : Target) (new : Dword) : State :=
  match tg with
  | .glob (.win off) => { (s.publishLanes (BitVec.ofNat 32 (2 ^ i))).2 with window := Memory.putBytes s.window off (natLe new.toNat 8) }
  | _ => (s.publishLanes (BitVec.ofNat 32 (2 ^ i))).2.futureEnter i tg new

/-- The machine after the word's new filler is recorded. -/
def State.ffillEdge (s : State) (l : Option (Loc × Nat)) (h : Nat) (e : Edge) : State :=
  match l with
  | some (l, _) => { s.forgetWord l with futures := (l, h, e) :: (s.forgetWord l).futures }
  | none => s

/-- What a fill leaves besides the word, the thread and the list of fillers: groups wake. -/
theorem State.ffillOne_empty {s : State} {i va : Nat} {tg : Target} {payload : Dword}
    (h : (s.futureWord (s.me.thread i).party tg).getLsbD 63 = false) :
    let new : Dword := 0x8000000000000000#64 ||| (payload &&& 0x7FFFFFFFFFFFFFFF#64)
    ∃ t, s.ffillOne i va tg payload = some t ∧
      let u := (s.ffillWord i tg new).ffillEdge tg.future (s.ffillWord i tg new).me.grid (s.publishLanes (BitVec.ofNat 32 (2 ^ i))).1
      t = { u with agenda := t.agenda, groups := t.groups, images := t.images } := by
  intro new
  unfold State.ffillOne
  dsimp only
  rw [if_neg (by rw [h]; decide)]
  exact ⟨_, rfl, rfl⟩

theorem State.ffillEdge_eq (s : State) (l : Option (Loc × Nat)) (h : Nat) (e : Edge) :
    s.ffillEdge l h e = { s with futures := (s.ffillEdge l h e).futures, doneOps := (s.ffillEdge l h e).doneOps } := by
  unfold State.ffillEdge
  split <;> rfl

/-- What a fill leaves of its word and its thread: the quantum has ended, and the word is at its home or in the window (R74). -/
structure Filled (s u : State) (i : Nat) (tg : Target) (new : Dword) : Prop where
  rest : u = { s with me := u.me, atoms := u.atoms, window := u.window }
  thread : ∃ f : Party → Party, u.me = s.me.onLanes (BitVec.ofNat 32 (2 ^ i)) (fun _ x => { x with party := f x.party }) ∧
    ∀ p, (f p).view = p.fold.view ∧ (f p).pend = []
  home : ∀ l, tg.future = some (l, 3) → s.futureConflict tg = false → HomeDword u l new ∧ u.window = s.window
  window : ∀ off, tg = .glob (.win off) → u.window = Memory.putBytes s.window off (natLe new.toNat 8)

theorem State.ffillWord_filled (s : State) (i : Nat) (tg : Target) (new : Dword) : Filled s (s.ffillWord i tg new) i tg new := by
  have hfold {u : State} (hu : u = (s.publishLanes (BitVec.ofNat 32 (2 ^ i))).2.futureEnter i tg new) (hwin : ∀ off, tg ≠ .glob (.win off)) :
      Filled s u i tg new := by
    obtain ⟨hrest, hthread⟩ : u = { s with me := u.me, atoms := u.atoms, window := u.window } ∧ ∃ f : Party → Party,
        u.me = s.me.onLanes (BitVec.ofNat 32 (2 ^ i)) (fun _ x => { x with party := f x.party }) ∧ ∀ p, (f p).view = p.fold.view ∧ (f p).pend = [] := by
      subst hu
      unfold State.futureEnter
      split
      next l _ =>
        rw [State.atomWrite_eq]
        exact ⟨rfl, fun p => p.fold.didAtomic (atomWords l 8), Group.onLanes_onLanes _ _ _ _, fun _ => ⟨rfl, rfl⟩⟩
      next => exact ⟨rfl, Party.fold, rfl, fun _ => ⟨rfl, rfl⟩⟩
    refine ⟨hrest, hthread, fun l hl hc => ⟨?_, ?_⟩, fun off he => absurd he (hwin off)⟩
    · rw [hu]
      exact State.futureEnter_home new hl hc
    · rw [hu, (State.futureEnter_frame _ i tg new).1]
      rfl
  cases tg with
  | glob p =>
    cases p with
    | win off =>
      refine ⟨rfl, ⟨Party.fold, rfl, fun _ => ⟨rfl, rfl⟩⟩, fun l hl => ?_, fun off' he => ?_⟩
      · have h43 : (4 : Nat) = 3 := congrArg Prod.snd (Option.some.inj hl)
        exact absurd h43 (by decide)
      · obtain rfl := Place.win.inj (Target.glob.inj he)
        rfl
    | mem pa ap => exact hfold rfl (by simp)
    | sys va => exact hfold rfl (by simp)
  | spad b off => exact hfold rfl (by simp)
  | priv pa => exact hfold rfl (by simp)
  | beyond b off => exact hfold rfl (by simp)

section Fread
variable (s : State) {w : LR} {i : Nat} {tg : Target} {v : Dword}

theorem State.freadOne_full (hv : s.futureWord (s.me.thread i).party tg = v) (h : v.getLsbD 63 = true) :
    s.freadOne w i tg = (0, ((s.futureEnter i tg v).freadEdge i tg).futureResult w i v) := by
  subst hv
  exact (s.freadOne_eq w i tg).trans (if_pos h)

theorem State.freadOne_empty (hv : s.futureWord (s.me.thread i).party tg = v) (h : v.getLsbD 63 = false) :
    s.freadOne w i tg = (BitVec.ofNat 32 (2 ^ i), s.futureEnter i tg v) := by
  subst hv
  exact (s.freadOne_eq w i tg).trans (if_neg (by rw [h]; decide))

end Fread

section LaneOf
variable (g : Group) {i : Nat} (hi : i < 32) (f : Nat → Thread → Thread)
include hi

theorem Group.lane_onLanes_other {j : Nat} (hj : j ≠ i) : (g.onLanes (BitVec.ofNat 32 (2 ^ i)) f).lane j = g.lane j := by
  rw [Group.lane_onLanes, getLsbD_two_pow hi, if_neg (by simpa using Ne.symm hj)]

theorem Group.lane_onLanes_self {a : Thread} (ha : g.lane i = some a) : (g.onLanes (BitVec.ofNat 32 (2 ^ i)) f).lane i = some (f i a) := by
  rw [Group.lane_onLanes, getLsbD_two_pow hi, if_pos (by simp), ha]
  rfl

end LaneOf

/-- What the FREAD of a lane whose word is full leaves: the word at its home, and the lane's registers (R74). -/
theorem State.freadFull_spec (s : State) (w : LR) (v : Dword) {i : Nat} (hi : i < 32) {a : Thread} (ha : s.me.lane i = some a) (tg : Target) :
    let t := ((s.futureEnter i tg v).freadEdge i tg).futureResult w i v
    SameMemory s t ∧ (∀ j, j ≠ i → t.me.lane j = s.me.lane j) ∧ (∃ b, t.me.lane i = some b ∧ a.TakesWords b w.d w.n (dwordWords v)) ∧
      ∀ l, tg.future = some (l, 3) → s.futureConflict tg = false →
        (∀ f x y, f ∈ s.futures → f.1 = l → x ∈ f.2.2.senders → y ∈ x.writes → y.1 ∉ l.span 8) → HomeDword t l v := by
  intro t
  obtain ⟨hrest, f, hme⟩ := (s.futureEnter_frame i tg v).trans (State.freadEdge_frame _ i tg)
  have hmem : SameMemory s ((s.futureEnter i tg v).freadEdge i tg) := by rw [hrest]; exact ⟨rfl, rfl, rfl, rfl, rfl⟩
  have ht : t.me = s.me.onLanes (BitVec.ofNat 32 (2 ^ i)) fun _ x => ({ x with party := f x.party } : Thread).writePair w.d w.n v := by
    change Group.onLanes (State.me _) _ _ = _
    rw [hme, Group.onLanes_onLanes]
  refine ⟨hmem, fun j hj => by rw [ht, Group.lane_onLanes_other _ hi _ hj], ?_, fun l hl hc hw => ?_⟩
  · rw [ht, Group.lane_onLanes_self _ hi _ ha]
    exact ⟨_, rfl, Thread.TakesWords.of_party (f a.party) (Thread.takesWords_writePair _ _ _ _)⟩
  · have hfut : (s.futureEnter i tg v).futures = s.futures := by
      unfold State.futureEnter
      split
      · rw [State.atomWrite_eq]; rfl
      · rfl
    exact State.freadEdge_home hl (s.futureEnter_home v hl hc) (by rw [hfut]; exact hw)

/-- Of a machine that has parked its group, only the group, its pipe and the trace differ (R22, R400). -/
theorem State.parkMe_frame (s : State) (why : Park) (occ : Nat) :
    HubFrame { s with me := (s.parkMe why occ).me, pipeBusy := (s.parkMe why occ).pipeBusy } (s.parkMe why occ) ∧
      (s.parkMe why occ).me = { s.me with
        park := some why, parkedAt := if s.me.park.isSome then s.me.parkedAt else s.now, readyAt := s.now } := by
  have hpark (t u : State) (ht : t = { s with pipeBusy := t.pipeBusy }) (hu : HubFrame t u) (v : State)
      (hv : v = u.onMe fun g => { g with park := some why, parkedAt := if g.park.isSome then g.parkedAt else s.now, readyAt := s.now }) :
      HubFrame { s with me := v.me, pipeBusy := v.pipeBusy } v ∧ v.me = { s.me with
        park := some why, parkedAt := if s.me.park.isSome then s.me.parkedAt else s.now, readyAt := s.now } := by
    have hme : u.me = s.me := hu.me.trans (by rw [ht])
    subst hv
    refine ⟨?_, by rw [State.onMe_me, hme]⟩
    unfold HubFrame at hu ⊢
    rw [hu, ht]
    rfl
  exact hpark (if s.me.park.isSome then s else s.occupy occ) _ (by split <;> rfl) (HubFrame.ite (HubFrame.refl _) (State.trace_hub _ _ _ _)) _ rfl

theorem State.parkMe_waits (s : State) (why : Park) (occ : Nat) : (s.parkMe why occ).waits = s.waits := by
  rw [(s.parkMe_frame why occ).1]

/-- The addresses of a wait-table entry are those of its words, each once (R75). -/
theorem mem_waitKeys {outs : List (Nat × Nat × Target)} {va : Nat} : va ∈ waitKeys outs ↔ ∃ i tg, (i, va, tg) ∈ outs := by
  have hfold (acc : List Nat) : va ∈ outs.foldl (fun l x => if l.contains x.2.1 then l else l ++ [x.2.1]) acc ↔
      va ∈ acc ∨ ∃ i tg, (i, va, tg) ∈ outs := by
    induction outs generalizing acc with
    | nil => simp
    | cons x r ih =>
      obtain ⟨i, y, tg⟩ := x
      rw [List.foldl_cons, ih]
      simp only [List.mem_cons, Prod.mk.injEq]
      by_cases hy : acc.contains y = true
      · rw [if_pos hy]
        have hmem : y ∈ acc := by simpa using hy
        constructor
        · rintro (h | ⟨j, tg', h⟩)
          · exact .inl h
          · exact .inr ⟨j, tg', .inr h⟩
        · rintro (h | ⟨j, tg', ⟨-, rfl, -⟩ | h⟩)
          · exact .inl h
          · exact .inl hmem
          · exact .inr ⟨j, tg', h⟩
      · rw [if_neg hy, List.mem_append, List.mem_singleton]
        constructor
        · rintro ((h | rfl) | ⟨j, tg', h⟩)
          · exact .inl h
          · exact .inr ⟨i, tg, .inl ⟨rfl, rfl, rfl⟩⟩
          · exact .inr ⟨j, tg', .inr h⟩
        · rintro (h | ⟨j, tg', ⟨-, rfl, -⟩ | h⟩)
          · exact .inl (.inl h)
          · exact .inl (.inr rfl)
          · exact .inr ⟨j, tg', h⟩
  exact (hfold []).trans (by simp)

theorem nodup_waitKeys (outs : List (Nat × Nat × Target)) : (waitKeys outs).Nodup := by
  unfold waitKeys
  refine List.foldlRecOn (motive := List.Nodup) _ _ List.nodup_nil fun l hl x _ => ?_
  split
  · exact hl
  next h =>
    refine List.nodup_append.mpr ⟨hl, List.nodup_singleton _, fun a ha b hb => ?_⟩
    obtain rfl := List.mem_singleton.mp hb
    rintro rfl
    exact h (by simpa using ha)

end Sys2Proof.Machine
end

section
/-! The statement on FREAD and FFILL (03). -/

namespace Sys2Proof.Machine

/-- Settles O23: the lanes' futures one after the other, each with its word, its thread and its edge, and the park that remains. -/
theorem futures : Obligations.Futures := by
  unfold Obligations.Futures
  refine ⟨fun w s tg => ?lanes, fun w s i a tg hi ha => ?fread, fun s i va a tg payload hi ha => ?ffill, fun s left outs occ => ?park⟩
  case lanes =>
    intro act va lanes r
    refine ⟨fun hp hc => ?_, fun hp hc => ⟨fun u hu => ?_, fun i hl hfull => ?_⟩⟩
    · intro u
      have hexec := execFread_ok rfl hp hc
      refine ⟨fun h0 => ?_, fun h0 => ?_⟩
      · exact ⟨_, _, hexec.trans (congrArg Host.Outcome.next (if_pos h0))⟩
      · exact hexec.trans (congrArg Host.Outcome.next (if_neg h0))
    · have hc' : ∀ i, i ∈ lanesOf act → s.futureCheck (srcPair s.me (s.me.thread i) w.a).toNat = .ok (tg i) := fun i hi => hc i (mem_lanesOf.mp hi)
      have hexec := execFfill_checked rfl hp hc'
      dsimp only at hexec
      rw [ffillStep_foldl [] hu, List.nil_append, if_pos (List.all_eq_true.mpr isOk_of_map)] at hexec
      exact ⟨_, _, hexec⟩
    · have hc' : ∀ j, j ∈ [i] → s.futureCheck (srcPair s.me (s.me.thread j) w.a).toNat = .ok (tg j) := fun j hj =>
        hc j (mem_lanesOf.mp (hl ▸ hj))
      have hexec := execFfill_checked hl hp hc'
      have hnone : s.ffillOne i (va i) (tg i) (srcPair s.me (s.me.thread i) w.b) = none := if_pos hfull
      have hstep : [(i, Check.ok (tg i))].foldl (ffillStep s w) ([], s) = ([(i, .stop cDoubleFill (va i) none)], s) := by
        rw [List.foldl_cons, List.foldl_nil]
        unfold ffillStep
        dsimp only
        rw [hnone]
        rfl
      rw [List.map_cons, List.map_nil, hstep] at hexec
      change _ = Host.Outcome.next (s.finishParts .atomic [(i, .stop cDoubleFill (va i) none)]
        (groupPages globalKey [(i, .stop cDoubleFill (va i) none)]) s) at hexec
      rw [State.finishParts_stop] at hexec
      exact hexec
  case fread =>
    intro v r
    have hthread := Group.thread_of_lane ha
    have hr : r = s.freadOne w i tg := rfl
    have hv : s.futureWord (s.me.thread i).party tg = v := by rw [hthread]
    clear_value v r
    subst hr
    cases hfull : v.getLsbD 63 with
    | true =>
      rw [s.freadOne_full hv hfull]
      obtain ⟨hmem, hother, hself, hhome⟩ := s.freadFull_spec w v hi ha tg
      exact ⟨hmem, hother, rfl, hself, fun l hl hc hw => hhome l hl hc (hw rfl)⟩
    | false =>
      rw [s.freadOne_empty hv hfull]
      obtain ⟨hrest, f, hme⟩ := s.futureEnter_frame i tg v
      have hmem : SameMemory s (s.futureEnter i tg v) := by rw [hrest]; exact ⟨rfl, rfl, rfl, rfl, rfl⟩
      refine ⟨hmem, fun j hj => ?_, rfl, ⟨{ a with party := f a.party }, ?_, ?_⟩, fun l hl hc _ => s.futureEnter_home v hl hc⟩
      · dsimp only
        rw [hme, Group.lane_onLanes_other _ hi _ hj]
      · dsimp only
        rw [hme, Group.lane_onLanes_self _ hi _ ha]
      · exact ⟨rfl, rfl, fun _ _ => (if_neg fun h => by simp at h; omega).symm⟩
  case ffill =>
    intro new
    have hthread := Group.thread_of_lane ha
    refine ⟨fun hfull => if_pos (by rw [hthread]; exact hfull), fun hempty => ?_⟩
    obtain ⟨t, ht, hframe⟩ := State.ffillOne_empty (va := va) (payload := payload) (i := i) (by rw [hthread]; exact hempty)
    refine ⟨t, ht, ?_⟩
    obtain ⟨hrest, ⟨f, hme, hf⟩, hhome, hwin⟩ := s.ffillWord_filled i tg new
    rw [State.ffillEdge_eq] at hframe
    have hgroup : t.me = s.me.onLanes (BitVec.ofNat 32 (2 ^ i)) (fun _ x => { x with party := f x.party }) := by rw [hframe]; exact hme
    have hatoms : t.atoms = (s.ffillWord i tg new).atoms := by rw [hframe]
    have hwindow : t.window = (s.ffillWord i tg new).window := by rw [hframe]
    refine ⟨?_, ?_, fun j hj => ?_, ⟨{ a with party := f a.party }, ?_, rfl, hf a.party⟩, fun l hl hc => ?_, fun off he hwf => ?_, fun l d hl => ?_⟩
    · rw [hframe, hrest]
    · rw [hframe, hrest]
    · rw [hgroup, Group.lane_onLanes_other _ hi _ hj]
    · rw [hgroup, Group.lane_onLanes_self _ hi _ ha]
    · obtain ⟨hword, hsame⟩ := hhome l hl hc
      exact ⟨hword.congr fun m _ => by rw [hatoms], hwindow.trans hsame⟩
    · rw [hwindow, hwin off he]
      exact Memory.storedAt_putBytes hwf
    · rw [hframe, hl]
      change some (l, (s.ffillWord i tg new).me.grid, _) = _
      rw [hme]
      rfl
  case park =>
    intro mine t inWindow addrs others full
    refine ⟨fun va => ?_, nodup_waitKeys _, ?_⟩
    · refine mem_waitKeys.trans (exists_congr fun i => exists_congr fun tg => ?_)
      rw [List.mem_filter]
      simp
    · have hcount : decide (1024 < (s.dropWaits s.me.uid).waitCount + addrs.length) = full := rfl
      have ht : t = if full then (s.dropWaits s.me.uid).parkMe (.future left true) occ
          else ({ s.dropWaits s.me.uid with waits := others ++ addrs.map fun a => (stationOf s.me.core * 2 ^ 32 + s.me.uid, s.myCtx, a) } : State).parkMe
            (.future left (mine.any inWindow)) occ := by
        cases hf : full with
        | true => exact if_pos (of_decide_eq_true (hcount.trans hf))
        | false => exact if_neg (of_decide_eq_false (hcount.trans hf))
      rw [ht]
      cases full with
      | true =>
        rw [if_pos rfl, if_pos rfl, State.parkMe_waits, (State.parkMe_frame _ _ _).2, Bool.or_true]
        exact ⟨rfl, rfl, rfl, rfl⟩
      | false =>
        rw [if_neg (by decide), if_neg (by decide), State.parkMe_waits, (State.parkMe_frame _ _ _).2, Bool.or_false]
        exact ⟨rfl, rfl, rfl, rfl⟩

end Sys2Proof.Machine
end

section
/-! SUPPORT. SPAWN: what a child with a frame and one without leave (R55 to R60). -/

namespace Sys2Proof.Machine

/-- Counting at a unit adds to the total (R56). -/
theorem foldl_countNode {p : Node → Dword} {unit : Nat} {sent received d : Dword} (hnew : p ⟨unit, sent, received⟩ = d)
    (hadd : ∀ x : Node, p ⟨unit, x.sent + sent, x.received + received⟩ = p x + d) (l : List Node) (z : Dword) :
    (countNode unit sent received l).foldl (fun a n => a + p n) z = l.foldl (fun a n => a + p n) z + d := by
  have hshift (r : List Node) (y : Dword) : r.foldl (fun a n => a + p n) (y + d) = r.foldl (fun a n => a + p n) y + d := by
    induction r generalizing y with
    | nil => rfl
    | cons x r ih => rw [List.foldl_cons, List.foldl_cons, ← ih]; congr 1; ac_rfl
  induction l generalizing z with
  | nil => rw [countNode, List.foldl_cons, List.foldl_nil, List.foldl_nil, hnew]
  | cons x r ih =>
    rw [countNode]
    split
    · rw [List.foldl_cons, List.foldl_cons, hadd, ← hshift]; congr 1; ac_rfl
    · rw [List.foldl_cons, List.foldl_cons, ih]

theorem Grid.sent_counts (g : Grid) (unit : Nat) (x y : Dword) : (g.counts unit x y).sent = g.sent + x :=
  foldl_countNode (p := Node.sent) rfl (fun _ => rfl) _ _

theorem Grid.received_counts (g : Grid) (unit : Nat) (x y : Dword) : (g.counts unit x y).received = g.received + y :=
  foldl_countNode (p := Node.received) rfl (fun _ => rfl) _ _

/-- Of a machine in which a child has entered its bin, the bins, the waiting groups and the names given may differ (R57). -/
theorem State.enterBin_eq (s : State) (stn grid : Nat) (entry : Dword) (cls : Nat) (c : Child) :
    s.enterBin stn grid entry cls c = { s with
      bins := (s.enterBin stn grid entry cls c).bins
      waiting := (s.enterBin stn grid entry cls c).waiting
      nextId := (s.enterBin stn grid entry cls c).nextId } := by
  unfold State.enterBin
  dsimp only
  split <;> rfl

theorem State.cross_eq (s : State) (core : Nat) (out : Bool) (start words : Nat) :
    (s.cross core out start words).2 = { s with ports := (s.cross core out start words).2.ports } := by
  unfold State.cross
  split <;> rfl

/-- The machine in which lane `lane` has sent its child's edge and its frame and grid count one child more (R56). -/
def State.spawnCounted (s : State) (lane : Nat) (tasks : Nat) : State :=
  let t := s.me.thread lane
  let u := (s.spawnEdge lane).2.fresh.2
  ((({ u with frames := if (s.frameOf t).isSome then u.frames else u.frames ++ [⟨t.party.pid, s.me.grid, stationOf s.me.core, 0, []⟩] } : State).onFrame
    t.party.pid fun x => { x with count := x.count + 1 }).onGrid s.me.grid fun x =>
      (x.onStation (stationOf s.me.core) fun y => { y with tasks := tasks }).counts (stationOf s.me.core) 1 0).onMe fun g =>
        g.onLanes (BitVec.ofNat 32 (2 ^ lane)) fun _ t => { t with hasFrame := true, spawnOrder := t.spawnOrder + 1 }

theorem State.spawnOne_eq (s : State) (w : LC) (lane : Nat) : ∃ tasks, s.spawnOne w lane = { s.spawnCounted lane tasks with
    ports := (s.spawnOne w lane).ports, bins := (s.spawnOne w lane).bins, waiting := (s.spawnOne w lane).waiting
    nextId := (s.spawnOne w lane).nextId } := by
  refine ⟨(nextTid ((s.liveThreads s.me.grid).map fun x => x.tid) (stationOf s.me.core) (s.liveThreads s.me.grid).length
    ((s.grid s.me.grid).station (stationOf s.me.core)).tasks).1, ?_⟩
  unfold State.spawnOne
  dsimp only
  rw [State.enterBin_eq, State.cross_eq]
  rfl

theorem find_frame_map {frames : List Frame} {pid : Nat} {f : Frame → Frame} (hf : ∀ x, (f x).holder = x.holder) :
    (frames.map f).find? (fun x => x.holder == pid) = (frames.find? fun x => x.holder == pid).map f := by
  rw [List.find?_map]
  congr 2
  funext x
  exact congrArg (· == pid) (hf x)

/-- The frame of a thread that has sent a child counts one child more (R56). -/
theorem find_frame_counted {frames : List Frame} {pid : Nat} (new : Frame) (hnew : new.holder = pid) (h0 : new.count = 0) :
    let before := match frames.find? (fun x => x.holder == pid) with | some f => f.count | none => 0
    let grown := if (frames.find? fun x => x.holder == pid).isSome then frames else frames ++ [new]
    ∃ f, (grown.map fun x => if x.holder = pid then { x with count := x.count + 1 } else x).find? (fun x => x.holder == pid) = some f ∧
      f.count = before + 1 := by
  intro before grown
  rw [find_frame_map (by intro x; split <;> rfl)]
  cases hf : frames.find? fun x => x.holder == pid with
  | some f =>
    have hpid : f.holder = pid := by simpa using List.find?_some hf
    have hgrown : grown = frames := by simp [grown, hf]
    have hbefore : before = f.count := by simp [before, hf]
    rw [hgrown, hf, hbefore]
    exact ⟨_, rfl, by dsimp only; rw [if_pos hpid]⟩
  | none =>
    have hgrown : grown = frames ++ [new] := by simp [grown, hf]
    have hbefore : before = 0 := by simp [before, hf]
    have hfind : [new].find? (fun x => x.holder == pid) = some new := by simp [hnew]
    rw [hgrown, List.find?_append, hf, hfind, hbefore]
    exact ⟨_, rfl, by dsimp only; rw [if_pos hnew, h0]⟩

section Spawn
variable (s : State) (w : LC) {i : Nat} {a : Thread}

theorem State.spawnCounted_me (tasks : Nat) : (s.spawnCounted i tasks).me = s.me.onLanes (BitVec.ofNat 32 (2 ^ i)) fun _ x =>
    { x with party := x.party.fold, hasFrame := true, spawnOrder := x.spawnOrder + 1 } := Group.onLanes_onLanes _ _ _ _

/-- The parent of a child that has a frame (R56). -/
theorem State.spawnOne_spec (hi : i < 32) (ha : s.me.lane i = some a) :
    let t := s.spawnOne w i
    let before := match s.frameOf a with | some f => f.count | none => 0
    SameMemory s t ∧
      (∃ b, t.me.lane i = some b ∧ b = { a with party := a.party.fold, hasFrame := true, spawnOrder := a.spawnOrder + 1 }) ∧
      (∃ f, t.frameOf { a with party := a.party.fold } = some f ∧ f.count = before + 1) ∧
      t.grids.map (fun g => g.sent) = s.grids.map fun g => if g.handle = s.me.grid then g.sent + 1 else g.sent := by
  intro t before
  obtain ⟨tasks, ht⟩ : ∃ tasks, t = _ := s.spawnOne_eq w i
  have hthread := Group.thread_of_lane ha
  clear_value t
  refine ⟨?_, ⟨_, ?_, rfl⟩, ?_, ?_⟩
  · rw [ht]
    exact ⟨rfl, rfl, rfl, rfl, rfl⟩
  · rw [ht]
    change (s.spawnCounted i tasks).me.lane i = _
    rw [s.spawnCounted_me, Group.lane_onLanes_self _ hi _ ha]
  · have hframes : t.frames = (if (s.frameOf a).isSome then s.frames else s.frames ++ [⟨a.party.pid, s.me.grid, stationOf s.me.core, 0, []⟩]).map
        fun x => if x.holder = a.party.pid then { x with count := x.count + 1 } else x := by
      rw [ht, ← hthread]
      rfl
    unfold State.frameOf
    rw [hframes]
    exact find_frame_counted _ rfl rfl
  · have hgrids : t.grids = s.grids.map fun g => if g.handle = s.me.grid then
        (g.onStation (stationOf s.me.core) fun y => { y with tasks := tasks }).counts (stationOf s.me.core) 1 0 else g := by
      rw [ht]
      rfl
    rw [hgrids, List.map_map]
    refine List.map_congr_left fun g _ => ?_
    rw [Function.comp_apply]
    split
    · rw [Grid.sent_counts]; rfl
    · rfl

end Spawn

/-- The paths of the lanes of a mask are none only where the mask is empty (R60). -/
theorem inlinePaths_ne_nil (g : Group) (a : BitVec 8) {m : BitVec 32} (hm : m ≠ 0) : inlinePaths g a m ≠ [] := by
  have hlanes : lanesOf m ≠ [] := by
    intro h
    refine hm (BitVec.eq_of_getLsbD_eq fun i hi => ?_)
    rw [BitVec.ofNat_eq_ofNat, BitVec.getLsbD_zero, Bool.eq_false_iff]
    intro hb
    have := mem_lanesOf.mpr hb
    rw [h] at this
    cases this
  unfold inlinePaths
  generalize lanesOf m = ls at hlanes
  cases ls using List.reverseRecOn with
  | nil => exact absurd rfl hlanes
  | append_singleton ls l =>
    rw [List.foldl_concat]
    dsimp only
    split
    next h => 
      obtain ⟨x, hx, -⟩ := List.any_eq_true.mp h
      intro hn
      rw [List.map_eq_nil_iff.mp hn] at hx
      cases hx
    next => simp

/-- Of `h`, the lanes alone may differ from `g`. -/
def LanesOnly (g h : Group) : Prop := h = { g with lanes := h.lanes }

theorem LanesOnly.refl (g : Group) : LanesOnly g g := rfl

theorem LanesOnly.trans {g h k : Group} (e : LanesOnly g h) (e' : LanesOnly h k) : LanesOnly g k := by
  unfold LanesOnly at e'
  rw [e'] at *
  unfold LanesOnly at e
  rw [e]
  rfl

theorem State.pushSave_lanes (s : State) (lane : Nat) (bs : List Byte) : LanesOnly s.me (s.pushSave lane bs).2.2.me := by
  have hme := (s.saveBytes_priv s.me.grid (s.me.thread lane) ((s.me.thread lane).pushAt bs.length) bs).me
  unfold State.pushSave
  dsimp only
  generalize s.saveBytes s.me.grid (s.me.thread lane) ((s.me.thread lane).pushAt bs.length) bs = x at hme ⊢
  obtain ⟨x, u⟩ := x
  dsimp only at hme
  cases x with
  | ok p => 
    change LanesOnly _ (Group.onLanes u.me _ _)
    rw [hme]
    rfl
  | _ => change LanesOnly _ u.me; rw [hme]; rfl

/-- What the lane of an inline child takes from its parent (R60). -/
theorem State.inlineOne_lanes (s : State) (w : LC) (acc : List SaveFail) (lane : Nat) : LanesOnly s.me (s.inlineOne w acc lane).2.me := by
  have hpush := s.pushSave_lanes lane (s.me.thread lane).saveImage
  unfold State.inlineOne
  dsimp only
  generalize s.pushSave lane (s.me.thread lane).saveImage = x at hpush ⊢
  obtain ⟨x, off, u⟩ := x
  cases x with
  | ok p => exact hpush.trans rfl
  | _ => exact hpush

theorem State.inlineLanes (s : State) (w : LC) (ls : List Nat) (acc : List SaveFail) :
    LanesOnly s.me (ls.foldl (fun a i => a.2.inlineOne w a.1 i) (acc, s)).2.me := by
  refine List.foldlRecOn (motive := fun x : List SaveFail × State => LanesOnly s.me x.2.me) _ _ (LanesOnly.refl _) fun x hx i _ => ?_
  exact hx.trans (x.2.inlineOne_lanes w x.1 i)

/-- A pushed entry is the top of the stack, and leaves the uniform registers (R25). -/
theorem State.pushEntry_top {s u : State} {e : DivEntry} {p : Place} (h : s.pushEntry e = (.ok p, u)) :
    u.me.stack.head? = some e ∧ u.me.k = s.me.k ∧ u.me.q = s.me.q := by
  unfold State.pushEntry at h
  dsimp only at h
  split at h
  · obtain ⟨-, rfl⟩ := Prod.mk.inj h
    exact ⟨rfl, rfl, rfl⟩
  · have hme := (s.saveBytes_priv s.me.grid (s.me.thread 0) ((s.me.thread 0).pushAt 64)
      (nth s.me.stack (s.me.stack.length - s.me.spilled - 1) ⟨0, 0, [], none, 0⟩).image).me
    split at h
    next hs =>
      rw [hs] at hme
      dsimp only at hme
      obtain ⟨-, rfl⟩ := Prod.mk.inj h
      rw [State.onMe_me, hme]
      exact ⟨rfl, rfl, rfl⟩
    next hx _ =>
      obtain ⟨rfl, -⟩ := Prod.mk.inj h
      exact absurd rfl (hx _)

/-- An inline call whose saves all reach their places (R60). -/
theorem State.inlineCall_spec {s : State} {w : LC} {m : BitVec 32} (hm : m ≠ 0) (h : (s.inlineCall w m).1 = []) :
    let g := (s.inlineCall w m).2.me
    ∃ entry lanes rest off, inlinePaths s.me w.a m = (entry, lanes) :: rest ∧ g.pc = entry ∧ g.path = lanes ∧
      g.stack.head? = some ⟨s.past (lcLen w), s.me.cur, rest, some (m, off), 0⟩ ∧ g.k = s.me.k ∧ g.q = s.me.q := by
  obtain ⟨⟨entry, lanes⟩, rest, hpaths⟩ := List.exists_cons_of_ne_nil (inlinePaths_ne_nil s.me w.a hm)
  unfold State.inlineCall at h ⊢
  dsimp only at h ⊢
  rw [hpaths] at h ⊢
  dsimp only [List.drop_succ_cons, List.drop_zero] at h ⊢
  split at h
  next p u hpush =>
    obtain ⟨htop, hk, hq⟩ := State.pushEntry_top hpush
    have hsave := u.pushSave_lanes 0 s.me.saveImage
    split at h
    next p' off v hs =>
      rw [hs] at hsave
      dsimp only at hsave ⊢
      have hcall := (v.onMe fun x => x.markInline m off).inlineLanes w (lanesOf m) []
      generalize ((lanesOf m).foldl (fun a i => a.2.inlineOne w a.1 i) ([], v.onMe fun x => x.markInline m off)) = r at hcall ⊢
      refine ⟨entry, lanes, rest, off, rfl, rfl, rfl, ?_, ?_, ?_⟩
      all_goals
        dsimp only [State.onMe_me] at hcall ⊢
        rw [hcall, hsave]
      · obtain ⟨tail, hstack⟩ : ∃ tail, u.me.stack = ⟨s.me.pc + BitVec.ofNat 64 (4 * lcLen w), s.me.cur, rest, none, 0⟩ :: tail := by
          cases hst : u.me.stack with
          | nil => rw [hst] at htop; cases htop
          | cons e tail =>
            rw [hst] at htop
            obtain rfl := Option.some.inj htop
            exact ⟨tail, rfl⟩
        unfold Group.markInline
        dsimp only
        rw [hstack]
        rfl
      · unfold Group.markInline
        dsimp only
        split
        · exact hk
        · exact hk
      · unfold Group.markInline
        dsimp only
        split
        · exact hq
        · exact hq
    next => cases h
  next => cases h

/-- One lane that runs its child inline: saved, it starts anew with its arguments; not saved, it joins the failed ones (R60). -/
theorem State.inlineOne_spec (s : State) (w : LC) (failed : List SaveFail) {i : Nat} {a : Thread} (hi : i < 32) (ha : s.me.lane i = some a) :
    let off := 2 ^ 24 - a.saved - a.saveImage.length
    let x := s.saveBytes s.me.grid a off a.saveImage
    let r := s.inlineOne w failed i
    (∀ p, x.1 = .ok p →
      r.1 = failed ∧ SameMemory x.2 r.2 ∧ r.2.frames = x.2.frames ∧ r.2.grids = x.2.grids ∧ (∀ j, j ≠ i → r.2.me.lane j = s.me.lane j) ∧
      ∃ b, r.2.me.lane i = some b ∧
        b = { a with
          v := (((a.v.drop w.b.toNat).take w.cnt.toNat) ++ List.replicate a.v.length 0).take a.v.length
          party := b.party
          rank := a.rank ++ [a.spawnOrder]
          spawnOrder := 0
          hasFrame := false
          inl := ⟨a.party.fold, a.rank, a.spawnOrder, off⟩ :: a.inl
          saves := (off, a.saveImage.length) :: a.saves }) ∧
    ((∀ p, x.1 ≠ .ok p) → r.1 = failed ++ [⟨BitVec.ofNat 32 (2 ^ i), off, a.tid.toNat, x.1⟩]) := by
  intro off x r
  have hoff : off = a.pushAt a.saveImage.length := rfl
  have hme : x.2.me = s.me := (s.saveBytes_priv s.me.grid a off a.saveImage).me
  have hx : s.saveBytes s.me.grid a (a.pushAt a.saveImage.length) a.saveImage = x := rfl
  have hr : r = s.inlineOne w failed i := rfl
  unfold State.inlineOne State.pushSave at hr
  dsimp only at hr
  rw [Group.thread_of_lane ha, hx, ← hoff] at hr
  clear_value x off r
  obtain ⟨why, u⟩ := x
  refine ⟨fun p hp => ?_, fun hp => ?_⟩
  · obtain rfl : why = .ok p := hp
    dsimp only at hr hme
    obtain ⟨party, hgroup⟩ : ∃ party, r.2.me = u.me.onLanes (BitVec.ofNat 32 (2 ^ i)) fun _ y =>
        { (y.push a.saveImage.length).fold with
          v := argRegs (a.args w.b.toNat w.cnt.toNat) a.v.length
          inl := ⟨y.party.fold, y.rank, y.spawnOrder, off⟩ :: y.inl
          party := party
          rank := y.rank ++ [y.spawnOrder]
          spawnOrder := 0
          hasFrame := false } := by
      subst hr
      exact ⟨_, (Group.onLanes_onLanes _ _ _ _).trans (Group.onLanes_onLanes _ _ _ _)⟩
    have hrest : r.1 = failed ∧ SameMemory u r.2 ∧ r.2.frames = u.frames ∧ r.2.grids = u.grids := by
      subst hr
      exact ⟨rfl, ⟨rfl, rfl, rfl, rfl, rfl⟩, rfl, rfl⟩
    obtain ⟨hfailed, hmem, hframes, hgrids⟩ := hrest
    refine ⟨hfailed, hmem, hframes, hgrids, fun j hj => ?_, ?_⟩
    · rw [hgroup, hme, Group.lane_onLanes_other _ hi _ hj]
    · rw [hgroup, hme, Group.lane_onLanes_self _ hi _ ha, hoff]
      exact ⟨_, rfl, rfl⟩
  · subst hr
    cases why with
    | ok p => exact absurd rfl (hp p)
    | _ => rfl

section Exec
variable {w : LC} {s : State}

/-- The lanes of a SPAWN, one after the other: the mask of those that find no frame, and the machine (R60). -/
def State.spawnAll (s : State) (w : LC) (act : BitVec 32) : BitVec 32 × State :=
  (lanesOf act).foldl (fun (a : BitVec 32 × State) i =>
    if a.2.hasRoom i then (a.1, a.2.spawnOne w i) else (a.1 ||| BitVec.ofNat 32 (2 ^ i), a.2)) (0, s)

variable (hp : s.lanePoison (s.me.active w.lxc) ((w.a, 2) :: if w.cnt = 0 then [] else [(w.b, w.cnt.toNat)]) = 0)
include hp

theorem execSpawn_misuse (ha : s.me.active w.lxc ≠ 0) (h : s.spawnMisuse w = true) :
    execSpawn w s = .next (s.takeTrap cYardMisuse (s.me.active w.lxc) 0 0 0) := by
  unfold execSpawn
  rw [s.laneRun_next _ _ _ hp]
  exact congrArg Host.Outcome.next (if_pos ⟨ha, h⟩)

theorem execSpawn_misaligned (h : s.spawnMisuse w = false)
    (hal : ∃ i, (s.me.active w.lxc).getLsbD i = true ∧ (srcPair s.me (s.me.thread i) w.a).toNat % 4 ≠ 0) :
    execSpawn w s = .next (s.takeTrap cMisaligned (s.me.active w.lxc) 0 0 0) := by
  obtain ⟨i, hi, hal⟩ := hal
  have hmis : ¬(s.me.active w.lxc ≠ 0 ∧ s.spawnMisuse w = true) := by rw [h]; simp
  unfold execSpawn
  rw [s.laneRun_next _ _ _ hp]
  exact congrArg Host.Outcome.next ((if_neg hmis).trans (if_pos (List.any_eq_true.mpr ⟨i, mem_lanesOf.mpr hi, decide_eq_true hal⟩)))

theorem execSpawn_lanes (hm : s.me.active w.lxc ≠ 0 → s.spawnMisuse w = false)
    (hl : ∀ i, (s.me.active w.lxc).getLsbD i = true → (srcPair s.me (s.me.thread i) w.a).toNat % 4 = 0 ∧ s.counterFull i = false) :
    execSpawn w s = .next (
      let r := s.spawnAll w (s.me.active w.lxc)
      if r.1 = 0 then r.2.switch (lcLen w) (occupancy false (s.me.active w.lxc)) 0
      else if r.2.savePoison r.1 ≠ 0 then r.2.takeTrap cPoison (r.2.savePoison r.1) 0 0 0
      else
        let c := r.2.inlineCall w r.1
        if c.1.isEmpty then c.2.switchTo c.2.me.pc (occupancy false (s.me.active w.lxc)) 0
        else (r.2.occupy (occupancy false (s.me.active w.lxc))).inlineFail r.1 c.1) := by
  have hmis : ¬(s.me.active w.lxc ≠ 0 ∧ s.spawnMisuse w = true) := by
    rintro ⟨ha, h⟩
    rw [hm ha] at h
    cases h
  have hno {f : Nat → Bool} (hf : ∀ i, (s.me.active w.lxc).getLsbD i = true → f i = false) : ¬(lanesOf (s.me.active w.lxc)).any f = true := by
    rw [Bool.not_eq_true, List.any_eq_false]
    exact fun i hi => by rw [hf i (mem_lanesOf.mp hi)]; decide
  unfold execSpawn
  rw [s.laneRun_next _ _ _ hp]
  exact congrArg Host.Outcome.next ((if_neg hmis).trans ((if_neg (hno fun i hi => decide_eq_false (not_not.mpr (hl i hi).1))).trans
    (if_neg (hno fun i hi => (hl i hi).2))))

end Exec

end Sys2Proof.Machine
end

section
/-! The statement on SPAWN (03, 19). -/

namespace Sys2Proof.Machine

/-- Settles O24: the outcomes of SPAWN in their order, and what one child with a frame, an inline call and one of its lanes leave. -/
theorem spawnCommand : Obligations.SpawnCommand := by
  unfold Obligations.SpawnCommand
  refine ⟨⟨fun w s => ?children, fun w s => ?inline, fun w s => ?misuse⟩, fun w s i a hi ha => s.spawnOne_spec w hi ha,
    fun w s m hm h => State.inlineCall_spec hm h, fun w s failed i a hi ha => s.inlineOne_spec w failed hi ha⟩
  case children =>
    intro act r hp hm hl hr
    exact ⟨_, _, (execSpawn_lanes hp hm hl).trans (congrArg Host.Outcome.next (if_pos hr))⟩
  case inline =>
    intro act r c hp hm hl hr
    have hexec := (execSpawn_lanes hp hm hl).trans (congrArg Host.Outcome.next (if_neg hr))
    refine ⟨fun hsick => hexec.trans (congrArg Host.Outcome.next (if_pos hsick)), fun hwell => ?_⟩
    have hcall := hexec.trans (congrArg Host.Outcome.next (if_neg (not_not.mpr hwell)))
    refine ⟨fun hc => ⟨_, _, hcall.trans (congrArg Host.Outcome.next (if_pos (List.isEmpty_iff.mpr hc)))⟩, fun hc => ?_⟩
    exact hcall.trans (congrArg Host.Outcome.next (if_neg (fun h => hc (List.isEmpty_iff.mp h))))
  case misuse =>
    intro act hp ha
    refine ⟨fun h => execSpawn_misuse hp ha ?_, fun h hal => execSpawn_misaligned hp h hal⟩
    unfold State.spawnMisuse
    rcases h with h | h
    · rw [decide_eq_true h]; rfl
    · rw [h, Bool.not_false, Bool.or_true]

end Sys2Proof.Machine
end

section
/-! The statement on AWAIT, EXIT and the end of a thread (01, 03, 13). -/

namespace Sys2Proof.Machine

/-- What the end of a thread counts in its own grid (R56, R62). -/
def Grid.threadEnded (g : Grid) (unit : Nat) (task : Bool) (snd : Sender) (opsOut : Bool) : Grid :=
  { (if task then g.counts unit 0 1 else g) with
    ended := g.ended ++ [snd], arrivedPhase := g.arrivedPhase ++ [(g.phases, snd)], opsOut := opsOut }

/-- What it counts in the frame of its parent (R56, R62). -/
def Frame.childEnded (f : Frame) (snd : Sender) : Frame := { f with count := f.count - 1, done := f.done ++ [snd] }

theorem Grid.threadEnded_received (g : Grid) (unit : Nat) (task : Bool) (snd : Sender) (opsOut : Bool) :
    (g.threadEnded unit task snd opsOut).received = if task = true then g.received + 1 else g.received := by
  cases task with
  | true => exact g.received_counts unit 0 1
  | false => rfl

theorem Grid.threadEnded_ended (g : Grid) (unit : Nat) (task : Bool) (snd : Sender) (opsOut : Bool) :
    (g.threadEnded unit task snd opsOut).ended = g.ended ++ [snd] := rfl

theorem State.ite_wake {c : Prop} [Decidable c] (u : State) (f : Group → Bool) :
    ∃ agenda, (if c then u.wake f else u) = { u with agenda := agenda } := by
  split
  · exact ⟨_, rfl⟩
  · exact ⟨_, rfl⟩

/-- The machine after the end of a thread: its lane, its grid, its parent's frame, and the groups that wake (R56, R62, R78). -/
theorem State.endThread_eq (s : State) {i : Nat} {a : Thread} (ha : s.me.lane i = some a) :
    ∃ opsOut agenda, s.endThread i = { s with
      me := s.me.onLanes (BitVec.ofNat 32 (2 ^ i)) fun _ t => { t.fold with exited := true }
      grids := s.grids.map fun g => if g.handle = s.me.grid then
        g.threadEnded (stationOf s.me.core) a.task (a.party.sender (Rank.thread a.rank)) opsOut else g
      frames := s.frames.map fun f => if a.parent = some f.holder then f.childEnded (a.party.sender (Rank.thread a.rank)) else f
      agenda := agenda } := by
  refine ⟨s.ops.any fun o => o.grid == s.me.grid, ?_⟩
  unfold State.endThread
  dsimp only
  rw [Group.thread_of_lane ha]
  cases hp : a.parent with
  | none =>
    have hframes : (s.frames.map fun f => if (none : Option Nat) = some f.holder then f.childEnded (a.party.sender (Rank.thread a.rank)) else f) = s.frames := by
      simp
    rw [hframes]
    exact ⟨_, rfl⟩
  | some p =>
    have hframes : (s.frames.map fun f => if some p = some f.holder then f.childEnded (a.party.sender (Rank.thread a.rank)) else f) =
        s.frames.map fun f => if f.holder = p then f.childEnded (a.party.sender (Rank.thread a.rank)) else f := by
      simp [eq_comm]
    rw [hframes]
    exact State.ite_wake _ _

theorem State.endThread_spec (s : State) {i : Nat} {a : Thread} (hi : i < 32) (ha : s.me.lane i = some a) :
    let t := s.endThread i
    SameMemory s t ∧ (∃ b, t.me.lane i = some b ∧ b = { a with party := a.party.fold, exited := true }) ∧
    t.me.live i = false ∧ (∀ j, j ≠ i → t.me.lane j = s.me.lane j) ∧
    t.grids.map (fun g => g.received) =
      s.grids.map (fun g => if g.handle = s.me.grid ∧ a.task = true then g.received + 1 else g.received) ∧
    t.grids.map (fun g => g.ended) =
      s.grids.map (fun g => if g.handle = s.me.grid then g.ended ++ [a.party.sender (Rank.thread a.rank)] else g.ended) ∧
    ∀ f, f ∈ s.frames → (∃ h, h ∈ t.frames ∧ h.holder = f.holder ∧
      h.count = if a.parent = some f.holder then f.count - 1 else f.count) := by
  obtain ⟨opsOut, agenda, ht⟩ := s.endThread_eq ha
  rw [ht]
  have hlane : (s.me.onLanes (BitVec.ofNat 32 (2 ^ i)) fun _ t => { t.fold with exited := true }).lane i = some { a.fold with exited := true } :=
    Group.lane_onLanes_self _ hi _ ha
  refine ⟨⟨rfl, rfl, rfl, rfl, rfl⟩, ⟨_, hlane, rfl⟩, ?_, fun j hj => Group.lane_onLanes_other _ hi _ hj, ?_, ?_, fun f hf => ?_⟩
  · unfold Group.live
    dsimp only
    rw [hlane]
    rfl
  · dsimp only
    rw [List.map_map]
    refine List.map_congr_left fun g _ => ?_
    rw [Function.comp_apply]
    by_cases hg : g.handle = s.me.grid
    · rw [if_pos hg, Grid.threadEnded_received]
      exact if_congr (and_iff_right hg).symm rfl rfl
    · rw [if_neg hg, if_neg fun h => hg h.1]
  · dsimp only
    rw [List.map_map]
    refine List.map_congr_left fun g _ => ?_
    rw [Function.comp_apply]
    split
    · rw [Grid.threadEnded_ended]
    · rfl
  · refine ⟨_, List.mem_map_of_mem hf, ?_, ?_⟩
    · split <;> rfl
    · split <;> rfl

theorem execAwait_next (w : LR) (s : State) : execAwait w s = .next (
    let act := s.me.active w.lxc
    if s.framesOpen act then s.parkMe .await (occupancy false act)
    else
      let x := (s.joinAll act).steal
      (x.2.switch (lrLen w) (occupancy false act) 0).onMe fun g => { g with readyAt := max g.readyAt x.1 }) := by
  unfold execAwait
  rw [s.laneRun_next _ _ _ (s.lanePoison_nil _)]

theorem execExit_next (w : LR) (s : State) : execExit w s = .next (
    let act := s.me.active w.lxc
    if act = 0 then s.switch (lrLen w) 8 0
    else if s.framesOpen act then s.parkMe .await (occupancy false act)
    else ((lanesOf act).foldl (fun t i => t.exitOne i) (s.joinAll act)).ifStays s.me.uid fun t =>
      t.exitDone (lrLen w) (occupancy false act)) := by
  unfold execExit
  rw [s.laneRun_next _ _ _ (s.lanePoison_nil _)]

/-- Settles O25: the outcomes of AWAIT and EXIT in their order, and what the end of one thread counts. -/
theorem awaitAndExit : Obligations.AwaitAndExit := by
  unfold Obligations.AwaitAndExit
  refine ⟨fun w s => ?commands, fun s i a hi ha => s.endThread_spec hi ha⟩
  intro act
  have hawait := execAwait_next w s
  have hexit := execExit_next w s
  refine ⟨fun h => ?_, fun h => ?_, fun h => ?_, fun ha h => ?_, fun ha h => ?_⟩
  · intro u
    have hopen : ¬s.framesOpen act = true := by rw [h]; decide
    have hrun := hawait.trans (congrArg Host.Outcome.next (if_neg hopen))
    have hu : u = (s.joinAll act).steal.2 := rfl
    clear_value u
    dsimp only at hrun
    generalize (s.joinAll act).steal = x at hrun hu
    subst hu
    exact ⟨_, hrun, rfl, rfl, Group.eachThread_onAll _ _ _ fun _ _ => rfl⟩
  · exact hawait.trans (congrArg Host.Outcome.next (if_pos h))
  · exact ⟨_, _, hexit.trans (congrArg Host.Outcome.next (if_pos h))⟩
  · have hopen : ¬s.framesOpen act = true := by rw [h]; decide
    exact hexit.trans (congrArg Host.Outcome.next ((if_neg ha).trans (if_neg hopen)))
  · exact hexit.trans (congrArg Host.Outcome.next ((if_neg ha).trans (if_pos h)))

end Sys2Proof.Machine
end

section
/-! The statements on REBIN (02) and on the ends of groups (01, 13). -/

namespace Sys2Proof.Machine

theorem nth_mapFrom {α β : Type} (f : Nat → α → β) (l : List α) (x : α) (y : β) {i : Nat} (hi : i < l.length) :
    nth (mapFrom f 0 l) i y = f i (nth l i x) := by
  rw [nth_eq_getD, nth_eq_getD, mapFrom_getElem?, List.getElem?_eq_getElem hi, Nat.zero_add]
  rfl

section Rebin
variable (w : LB) (s : State) (station : Bool)

/-- A REBIN that no earlier episode holds (R34, R37). -/
theorem State.rebin_next (h : s.rebinHeld s.me station = false)
    (hp : s.lanePoison (s.me.active none) ((w.a, 1) :: if w.cnt = 0 then [] else [(w.b, w.cnt.toNat)]) = 0) :
    s.rebin w station = .next (
      let act := s.me.active none
      let x := (s.occupy (occupancy false act)).cross s.me.core false s.now (countLanes act * (w.cnt.toNat + 4))
      if s.rebinMisuse w station then s.takeTrap cYardMisuse s.me.cur 0 0 0
      else (((((lanesOf act).foldl (fun t i => if t.me.uid = s.me.uid then t.enterOne w station x.1 i else t) x.2).dropMe).checkEpisodes
        s.me.grid).pruneBarriers s.me.grid).releaseCores) := by
  unfold State.rebin
  rw [if_neg (by rw [h]; decide), s.laneRun_next _ _ _ hp]
  rfl

theorem exec_rebin : exec (if station then .rebinS w else .rebinB w) s = s.rebin w station := by
  cases station <;> rfl

end Rebin

/-- Settles O26: the outcomes of REBIN in their order, and the record of one thread. -/
theorem rebinEntersYard : Obligations.RebinEntersYard := by
  unfold Obligations.RebinEntersYard
  refine ⟨fun w s station => ?command, fun t b cnt key => ?thread⟩
  case command =>
    intro act i held x
    refine ⟨fun h => ?_, fun h hp => ?_⟩
    · exact (exec_rebin w s station).trans (if_pos h)
    · have hrun := (exec_rebin w s station).trans (s.rebin_next w station h hp)
      refine ⟨fun hm => hrun.trans (congrArg Host.Outcome.next (if_pos hm)), fun hm => ?_⟩
      exact hrun.trans (congrArg Host.Outcome.next (if_neg (by rw [hm]; decide)))
  case thread =>
    intro u
    refine ⟨mapFrom_length _ _ _, rfl, rfl, rfl, rfl, rfl, rfl, rfl, fun r hr => ?_⟩
    exact nth_mapFrom _ _ 0 0 hr

theorem State.tailEnd_eq (s : State) : s.tailEnd =
    if (s.outstanding s.me.uid) = false then s.retireMe
    else if (s.trackers.filter fun x => x.1 == s.me.core).length < 16 then
      { s with trackers := s.trackers ++ [(s.me.core, s.me.uid)] }.retireMe
    else s.parkMe .tracker := rfl

/-- Settles O27: EXITG and TAIL in their outcomes; a group that retires is none, and leaves memory. -/
theorem groupEnds : Obligations.GroupEnds := by
  unfold Obligations.GroupEnds
  intro w s hg u drain
  have hexitg : exec (.exitg w) s = _ := s.uniRun_next w.kx [] true _ hg s.kPoison_nil
  have htail : exec (.tail w) s = _ := s.uniRun_next w.kx [] true _ hg s.kPoison_nil
  refine ⟨fun hopen hstays => ⟨?_, fun hpark => ?_⟩, fun hopen => ⟨?_, fun hpark => ?_⟩, fun hpark => ?_, fun t => ⟨rfl, rfl, rfl, rfl, rfl, rfl⟩⟩
  · exact hexitg.trans (congrArg Host.Outcome.next ((if_neg (by rw [hopen]; decide)).trans (if_pos hstays)))
  · exact htail.trans (congrArg Host.Outcome.next ((if_neg hpark).trans ((if_neg (by rw [hopen]; decide)).trans (if_pos hstays))))
  · exact hexitg.trans (congrArg Host.Outcome.next (if_pos hopen))
  · exact htail.trans (congrArg Host.Outcome.next ((if_neg hpark).trans (if_pos hopen)))
  · exact htail.trans (congrArg Host.Outcome.next (if_pos hpark))

end Sys2Proof.Machine
end

section
/-! The statement on engine commands (15, 05, 08). -/

namespace Sys2Proof.Machine

/-- The machine in which an engine command has put its operation, and the MMA that follows on it, into their queues (R313). -/
def State.issued (s : State) (kind : OpKind) (queue : Nat) (cmd : List Word) (rec : List Byte) (slot : Option Resv)
    (mma : Option (List Word)) : State :=
  match mma with
  | some c => (s.issueOp kind queue cmd rec slot).2.follow (s.issueOp kind queue cmd rec slot).1 c
  | none => (s.issueOp kind queue cmd rec slot).2

section Issue
variable {s : State} {kx : Option Kx} {lat : Nat} {kind : OpKind} {queue : Nat} {cmd : List Word} {rec : List Byte} {slot : Option Resv}
  {mma : Option (List Word)}

theorem State.issueWith_room (h : s.bufferFull (if mma.isSome then 2 else 1) = false) :
    s.issueWith kx lat kind queue cmd rec slot mma = (s.issued kind queue cmd rec slot mma).switch (kxLen kx) 1 lat :=
  if_neg (by rw [h]; decide)

/-- A command whose run ends in its issue, with room for it (R79, R313). -/
theorem State.issueWith_completes {u : State} {i : Instr} (he : exec i u = .next (s.issueWith kx lat kind queue cmd rec slot mma))
    (h : s.bufferFull (if mma.isSome then 2 else 1) = false) : Completes i u (s.issued kind queue cmd rec slot mma) (kxLen kx) :=
  ⟨_, _, he.trans (congrArg Host.Outcome.next (State.issueWith_room h))⟩

theorem State.issueWith_full (h : s.bufferFull (if mma.isSome then 2 else 1) = true) :
    s.issueWith kx lat kind queue cmd rec slot mma = s.parkMe .opBuffer := if_pos h

end Issue

section Exec
variable {w : UC} {s : State} (hg : kxPass s.me w.kx = true)
include hg

theorem execKvld_issue {mma : Bool} {c : List Word} (hm : w.fn.getLsbD 0 = mma) (hc : s.me.blockWords w.a.toNat (if mma then 12 else 8) = c)
    (hp : s.kPoison [(w.a.toNat, if mma then 12 else 8)] = false)
    (ht : kvldTrap s.me (s.block s.anchorBlk) (s.grid s.me.grid).kvRoot mma c = none) :
    execKvld w s = .next (s.issueWith w.kx 7 .kvld w.b.toNat c [] (if kvldPs c then nth s.me.slots (kvldSlot c) none else none)
      (if mma then some (c.drop 8) else none)) := by
  subst hm hc
  unfold execKvld
  dsimp only
  rw [s.uniRun_next _ _ _ _ hg hp, ht]

theorem execKvst_issue {c : List Word} (hc : [kVal s.me w.a.toNat, kVal s.me (w.a.toNat + 1), kVal s.me w.b.toNat] = c)
    (hp : s.kPoison [(w.a.toNat, 2), (w.b.toNat, 1)] = false) (ht : s.kvstTrap c = none) :
    execKvst w s = .next (s.issueWith w.kx 7 (.kvst (w.fn.getLsbD 4)) (w.fn.toNat % 16) c [] none none) := by
  subst hc
  unfold execKvst
  dsimp only
  rw [s.uniRun_next _ _ _ _ hg hp, ht]

theorem execMrg_issue {c : List Word} {rec : List Byte} (hc : s.me.blockWords w.a.toNat 4 = c) (hp : s.kPoison [(w.a.toNat, 4)] = false)
    (hform : descForm (nth c 2 0) = false) (hrec : recordAddr (cpyTsr c) 32 = none)
    (hread : s.readRecord (s.me.thread (lowLane s.me.cur)).party (cpyTsr c) 96 = .ok rec) (hinv : mrgInvalid rec = false)
    (hal : descMisaligned (nth c 2 0) = false) :
    execMrg w s = .next (s.issueWith w.kx 56 (.mrg (w.fn.getLsbD 1) (w.fn.getLsbD 0)) w.b.toNat c rec none none) := by
  subst hc
  unfold execMrg
  rw [s.uniRun_next _ _ _ _ hg hp, if_neg (by rw [hform]; decide)]
  generalize s.readRecord (s.me.thread (lowLane s.me.cur)).party (cpyTsr (s.me.blockWords w.a.toNat 4)) 96 = r at hread ⊢
  subst hread
  rw [hrec]
  dsimp only
  rw [if_neg (by rw [hinv]; decide), if_neg (by rw [hal]; decide)]

end Exec

/-- The identities that an operation follows come from the operations of its queue (R115). -/
theorem mem_foldl_after {l : List (Nat × Nat × List Nat × Bool)} {n : Nat} (acc : List Nat) (h : n ∈ acc ∨ ∃ x ∈ l, x.2.1 = n) :
    n ∈ l.foldl (fun a x => a ++ [x.2.1] ++ (if x.2.2.2 then x.2.2.1 else [])) acc := by
  induction l generalizing acc with
  | nil => exact h.resolve_right (by simp)
  | cons y r ih =>
    refine ih _ ?_
    rcases h with h | ⟨x, hx, hn⟩
    · exact .inl (by simp [h])
    · rcases List.mem_cons.mp hx with rfl | hx
      · exact .inl (by simp [hn])
      · exact .inr ⟨x, hx, hn⟩

theorem State.mem_behind {s : State} {grid qb queue : Nat} {x : Op} (hx : x ∈ s.ops) (hg : x.grid = grid) (hq : x.queue = queue)
    (hb : queueBlock x.grid x.blk x.core = qb) : x.id ∈ s.behind grid qb queue := by
  unfold State.behind
  refine mem_foldl_after [] (.inr ⟨(x.queue, x.id, x.after, match x.kind with | .qfen _ => true | _ => false), ?_, rfl⟩)
  refine List.mem_filter.mpr ⟨?_, by simp [hq]⟩
  unfold State.blockOps
  refine List.mem_append_left _ (List.mem_map.mpr ⟨x, List.mem_filter.mpr ⟨hx, decide_eq_true ⟨hg, hb⟩⟩, ?_⟩)
  cases x.kind <;> rfl

/-- An operation that is no marker enters its queue (R107, R230, R313). -/
theorem State.issueOp_spec (s : State) (kind : OpKind) (queue : Nat) (cmd : List Word) (rec : List Byte) (slot : Option Resv)
    (hk : ∀ m, kind ≠ .qfen m) :
    let r := s.issueOp kind queue cmd rec slot
    SameMemory s r.2 ∧ r.1 = s.nextId ∧
    (∃ o, r.2.ops = s.ops ++ [o] ∧ o.id = r.1 ∧ o.kind = kind ∧ o.queue = queue ∧ o.cmd = cmd ∧ o.record = rec ∧ o.slot = slot ∧
      o.grid = s.me.grid ∧ o.blk = s.anchorBlk ∧ o.pc = s.me.pc ∧ o.cvc = s.me.cvc ∧ o.stage = .queued ∧
      o.after = s.behind s.me.grid (queueBlock s.me.grid s.anchorBlk s.me.core) queue) ∧
    ∃ unit, r.2.grids = s.grids.map fun g => if g.handle = s.me.grid then g.counts unit 1 0 else g := by
  cases kind with
  | qfen m => exact absurd rfl (hk m)
  | _ => exact ⟨⟨rfl, rfl, rfl, rfl, rfl⟩, rfl, ⟨_, rfl, rfl, rfl, rfl, rfl, rfl, rfl, rfl, rfl, rfl, rfl, rfl, rfl⟩, _, rfl⟩

/-- Settles O28: the checks of each command in their order end in its issue, and an issue is the newest operation of its queue. -/
theorem engineCommandsIssue : Obligations.EngineCommandsIssue := by
  unfold Obligations.EngineCommandsIssue
  refine ⟨fun w s hg => ?commands, fun s kind queue cmd rec slot hk => ?issue⟩
  case issue =>
    intro r
    obtain ⟨hmem, hid, ⟨o, hops, h1, h2, h3, h4, h5, h6, h7, h8, h9, h10, h11, hafter⟩, unit, hgrids⟩ := s.issueOp_spec kind queue cmd rec slot hk
    refine ⟨hmem, hid, ⟨o, hops, h1, h2, h3, h4, h5, h6, h7, h8, h9, h10, h11, fun x hx hxg hxq hxb => ?_⟩, ?_⟩
    · rw [hafter]
      exact State.mem_behind hx hxg hxq hxb
    · rw [hgrids, List.map_map]
      refine List.map_congr_left fun g _ => ?_
      rw [Function.comp_apply]
      split
      · rw [Grid.sent_counts]
      · rfl
  case commands =>
    intro g issued copy
    have hcopy (mma : Bool) (i : Instr) (hi : exec i s = s.issueCopy w mma) : copy mma i := by
      unfold copy
      intro c kind mc slot hp hform hrec rec miss s1 htsr htrap
      have hrun : s.issueCopy w mma = .next (s1.issueWith w.kx (if miss then 63 else 7) (.cpy kind mc) w.b.toNat c rec slot
          (if mma then some (c.drop 8) else none)) := by
        unfold State.issueCopy
        rw [s.uniRun_next _ _ _ _ hg hp]
        refine congrArg Host.Outcome.next ((if_neg (by rw [hform]; decide)).trans ?_)
        rw [hrec]
        dsimp only
        rw [htsr]
        dsimp only
        rw [htrap]
      have hsome : (if (if mma then some (c.drop 8) else none : Option (List Word)).isSome then 2 else 1) = if mma then 2 else 1 := by
        cases mma <;> rfl
      refine ⟨fun hroom => State.issueWith_completes (hi.trans hrun) (by rw [hsome]; exact hroom), fun hfull => ?_⟩
      rw [hi, hrun, State.issueWith_full (by rw [hsome]; exact hfull)]
    refine ⟨hcopy false _ rfl, hcopy true _ rfl, fun hp hroom => ?_, ?_, ?_, ?_, ?_⟩
    · have hexec : execQfen w s = _ := s.uniRun_next w.kx [(w.a.toNat, 1)] true _ hg hp
      exact State.issueWith_completes (i := .qfen w) hexec hroom
    · intro mma c hp htrap hroom
      have hsome : (if (if mma then some (c.drop 8) else none : Option (List Word)).isSome then 2 else 1) = if mma then 2 else 1 := by
        cases mma <;> rfl
      exact State.issueWith_completes (i := .kvld w) (execKvld_issue hg rfl rfl hp htrap) (by rw [hsome]; exact hroom)
    · intro c hp htrap hroom
      exact State.issueWith_completes (i := .kvst w) (execKvst_issue hg rfl hp htrap) hroom
    · intro c hp hform hrec rec hread hinv hal hroom
      exact State.issueWith_completes (i := .mrg w) (execMrg_issue hg rfl hp hform hrec hread hinv hal) hroom
    · refine ⟨_, s.uniRun_next w.kx [] true _ hg s.kPoison_nil, rfl, Group.endRun_switched _ _ _, fun e => ?_⟩
      change e ∈ s.tsrCache.filter _ ↔ _
      simp

end Sys2Proof.Machine
end

section
/-! The statement on matrix commands (07, 15). -/

namespace Sys2Proof.Machine

theorem Completes.of_switch {i : Instr} {s u : State} {words occ lat : Nat} (h : exec i s = .next (u.switch words occ lat)) :
    Completes i s u words := ⟨_, _, h⟩

/-- A Boolean condition that fails. -/
theorem not_true_of_false {b : Bool} (h : b = false) : ¬b = true := by rw [h]; decide

theorem Group.setK_switched (g : Group) (d : Nat) (x : Word) (past : Dword) (n : Nat) :
    Switched { g with k := (g.setK d x).k } ((g.setK d x).endRun ((g.setK d x).pc + past) n) (g.pc + past) := by
  have hpc : (g.setK d x).pc = g.pc := by rw [Group.setK_eq]
  rw [← Group.setK_eq, hpc]
  exact Group.endRun_switched _ _ _

/-- A group that has taken the number of its open batch and opened the next (R166). -/
theorem Group.mfen_switched (g : Group) (d : Nat) (x : Word) (past : Dword) (n : Nat) :
    Switched { g with k := (g.setK d x).k, openBatch := g.openBatch + 1 }
      (Group.endRun { g.setK d x with openBatch := g.openBatch + 1 } ((g.setK d x).pc + past) n) (g.pc + past) := by
  have hpc : (g.setK d x).pc = g.pc := by rw [Group.setK_eq]
  have hframe : { g.setK d x with openBatch := g.openBatch + 1 } = { g with k := (g.setK d x).k, openBatch := g.openBatch + 1 } := by
    rw [Group.setK_eq]
  rw [hpc, hframe]
  exact Group.endRun_switched _ _ _

/-- A marker at the head of its group's queue clears its tile's counters and is gone (R168). -/
theorem State.settleQueue_marker {s : State} {uid t : Nat} {m : Mma} (hnone : s.queueOf uid = []) (hg : m.group = uid) (hc : m.clears = some t)
    (hid : ∀ x, x ∈ s.mmas → x.id ≠ m.id) :
    ({ s with mmas := s.mmas ++ [m] } : State).settleQueue uid = s.onTile m.blk t fun x => { x with ovf := 0, nan := 0, aln := 0 } := by
  have hqueue : ({ s with mmas := s.mmas ++ [m] } : State).queueOf uid = [m] := by
    unfold State.queueOf at hnone ⊢
    rw [List.filter_append, hnone]
    simp [hg]
  have hrest : (s.mmas ++ [m]).filter (fun x => x.id != m.id) = s.mmas := by
    rw [List.filter_append, List.filter_eq_self.mpr fun x hx => by simpa using hid x hx]
    simp
  have hdrained (u : State) (hu : u.mmas = s.mmas) : u.drainQueue uid 1 = u := by
    have : u.queueOf uid = [] := by unfold State.queueOf; rw [hu]; exact hnone
    rw [State.drainQueue, this]
  unfold State.settleQueue
  rw [hqueue]
  change State.drainQueue _ uid (1 + 1) = _
  rw [State.drainQueue, hqueue]
  dsimp only
  rw [hc, hrest]
  dsimp only
  exact hdrained _ rfl

section Commands
variable {w : UC} {s : State} (hg : kxPass s.me w.kx = true)
include hg

theorem execMres_set (hp : s.kPoison [(w.a.toNat, 2), (w.b.toNat, 2)] = false)
    (hbad : mresBad (s.block s.anchorBlk).sb (mresOf (kVal s.me w.a.toNat) (kVal s.me (w.a.toNat + 1)) (kVal s.me w.b.toNat)
      (kVal s.me (w.b.toNat + 1))) (kVal s.me w.b.toNat) = false)
    (hbusy : ((nth s.me.slots (w.fn.toNat % 8) none).isSome && s.slotBusy s.me.uid (w.fn.toNat % 8)) = false) :
    execMres w s = .next ((s.setSlot (w.fn.toNat % 8) (some (mresOf (kVal s.me w.a.toNat) (kVal s.me (w.a.toNat + 1)) (kVal s.me w.b.toNat)
      (kVal s.me (w.b.toNat + 1))))).switch (kxLen w.kx) 1 7) :=
  (s.uniRun_next _ _ _ _ hg hp).trans (congrArg Host.Outcome.next ((if_neg (not_true_of_false hbad)).trans (if_neg (not_true_of_false hbusy))))

theorem execMrel_next : execMrel w s = .next (
    if (nth s.me.slots (w.fn.toNat % 8) none).isSome && s.slotBusy s.me.uid (w.fn.toNat % 8) then s.parkMe .resv
    else (s.setSlot (w.fn.toNat % 8) none).switch (kxLen w.kx) 1 7) := s.uniRun_next _ _ _ _ hg s.kPoison_nil

theorem execMma_next (hp : s.kPoison [(w.a.toNat, 4)] = false) : execMma w s = .next (
    let c := s.me.blockWords w.a.toNat 4
    if mmaBad s.me (s.block s.anchorBlk) c then s.trapAll cMatrixForm 0
    else if s.bufferFull 1 then s.parkMe .opBuffer
    else
      let e := s.sendLanes s.me.cur
      let f := e.2.fresh
      (f.2.pushMma c none (Party.fresh f.1 e.1) f.1).switch (kxLen w.kx) 1 7) := s.uniRun_next _ _ _ _ hg hp

theorem execMma_completes (hp : s.kPoison [(w.a.toNat, 4)] = false)
    (hbad : mmaBad s.me (s.block s.anchorBlk) (s.me.blockWords w.a.toNat 4) = false) (hroom : s.bufferFull 1 = false) :
    let e := s.sendLanes s.me.cur
    Completes (.mma w) s (e.2.fresh.2.pushMma (s.me.blockWords w.a.toNat 4) none (Party.fresh e.2.fresh.1 e.1) e.2.fresh.1)
      (kxLen w.kx) := by
  have hexec : exec (.mma w) s = _ := execMma_next hg hp
  dsimp only at hexec
  rw [if_neg (not_true_of_false hbad), if_neg (not_true_of_false hroom)] at hexec
  exact Completes.of_switch hexec

theorem execMfen_next : ∃ t n, execMfen w s = .next t ∧ OnlyMe s t ∧
    t.me = Group.endRun { s.me.setK w.a.toNat (BitVec.ofNat 32 (s.me.openBatch % 65536)) with openBatch := s.me.openBatch + 1 }
      ((s.me.setK w.a.toNat (BitVec.ofNat 32 (s.me.openBatch % 65536))).pc + BitVec.ofNat 64 (4 * kxLen w.kx)) n :=
  ⟨_, _, s.uniRun_next _ _ _ _ hg s.kPoison_nil, rfl, rfl⟩

theorem execMwait_next (hp : s.kPoison [(w.a.toNat, 1)] = false) : execMwait w s = .next (
    let g := s.me
    let d := g.batchAge ((kVal g w.a.toNat).toNat % 65536)
    if d = 0 ∨ 32768 ≤ d then s.trapAll cMatrixForm 0
    else if (s.queueOf g.uid).any fun m => m.clears.isNone && g.waitedFor d m.batch then s.parkMe .mwait
    else
      let ss := (s.doneMmas.filter fun m => m.group == g.uid && g.waitedFor d m.batch).map fun m => m.sender
      ((s.receiveLanes g.cur ⟨ss, [], none⟩).foldSent ss).switch (kxLen w.kx) 1 0) := s.uniRun_next _ _ _ _ hg hp

end Commands

section Tiles
variable {w : UF} {s : State} (hg : kxPass s.me w.kx = true)
include hg

theorem execTwm_next : execTwm w s = .next (
    let b := s.block s.anchorBlk
    if b.tiles.length ≤ w.b.toNat then s.trapAll cMatrixForm 0
    else (s.onMe fun g => g.setK w.a.toNat (BitVec.ofNat 32 (s.tile b.uid w.b.toNat).water)).switch (kxLen w.kx) 1 s.tileLatency) :=
  s.uniRun_next _ _ _ _ hg s.kPoison_nil

theorem execTstat_next : execTstat w s = .next (
    let b := s.block s.anchorBlk
    if b.tiles.length ≤ w.b.toNat then s.trapAll cMatrixForm 0
    else if (s.queueOf s.me.uid).isEmpty = false then s.parkMe .queuePoint
    else
      let t := s.tile b.uid w.b.toNat
      ((s.clearK w.a.toNat 2).onMe fun g =>
        g.setKs w.a.toNat [BitVec.ofNat 32 (t.ovf + 65536 * t.nan), BitVec.ofNat 32 t.aln]).switch (kxLen w.kx) 1 s.tileLatency) :=
  s.uniRun_next _ _ _ _ hg s.kPoison_nil

theorem execTclr_misuse (hb : (s.block s.anchorBlk).tiles.length ≤ w.b.toNat) : execTclr w s = .next (s.trapAll cMatrixForm 0) :=
  (s.uniRun_next _ _ _ _ hg s.kPoison_nil).trans (congrArg Host.Outcome.next (if_pos hb))

/-- TCLR puts a marker into its group's queue (R168). -/
theorem execTclr_marker (hb : ¬(s.block s.anchorBlk).tiles.length ≤ w.b.toNat) :
    ∃ m : Mma, m.group = s.me.uid ∧ m.blk = (s.block s.anchorBlk).uid ∧ m.clears = some w.b.toNat ∧ m.id = s.nextId ∧
      execTclr w s = .next (({ s.fresh.2 with mmas := s.mmas ++ [m] }.settleQueue s.me.uid).switch (kxLen w.kx) 1 7) :=
  ⟨_, rfl, rfl, rfl, rfl, (s.uniRun_next _ _ _ _ hg s.kPoison_nil).trans (congrArg Host.Outcome.next (if_neg hb))⟩

end Tiles

/-- Settles O29: each command by its outcomes, and a marker that stands at the head of its queue. -/
theorem matrixCommands : Obligations.MatrixCommands := by
  unfold Obligations.MatrixCommands
  refine ⟨⟨fun w s hg => ?commands, fun w s hg => ?tiles⟩, fun w s b hg hblocks hb htile hqueue hids => ?clear⟩
  case commands =>
    intro g slot r set
    have hset {i : Instr} {x : Option Resv} (he : exec i s = .next ((s.setSlot slot x).switch (kxLen w.kx) 1 7)) : set i x :=
      ⟨_, he, rfl, Group.endRun_switched _ _ _⟩
    refine ⟨fun hp hbad hbusy => hset (execMres_set hg hp hbad hbusy), fun hbusy => hset ?_, fun hbusy => ?_, fun hp hbad hroom => ?_,
      fun hp hbad => ?_, ?_, fun hp => ?_⟩
    · exact (execMrel_next hg).trans (congrArg Host.Outcome.next (if_neg (not_true_of_false hbusy)))
    · exact (execMrel_next hg).trans (congrArg Host.Outcome.next (if_pos hbusy))
    · intro e
      exact execMma_completes hg hp hbad hroom
    · exact (execMma_next hg hp).trans (congrArg Host.Outcome.next (if_pos hbad))
    · obtain ⟨t, n, hexec, honly, hme⟩ := execMfen_next hg
      refine ⟨t, hexec, honly, ?_, fun i hi => ?_⟩ <;> rw [hme]
      · exact g.mfen_switched _ _ _ _
      · exact g.setK_nth _ _ _ hi
    · intro d left ss
      have hexec := execMwait_next hg hp
      refine ⟨fun h => hexec.trans (congrArg Host.Outcome.next (if_pos h)), fun h0 h1 hl => ?_, fun h0 h1 hl => ?_⟩
      all_goals have hd : ¬(d = 0 ∨ 32768 ≤ d) := fun h => h.elim (Nat.ne_of_gt h0) (Nat.not_le_of_lt h1)
      · exact hexec.trans (congrArg Host.Outcome.next ((if_neg hd).trans (if_pos hl)))
      · exact Completes.of_switch (hexec.trans (congrArg Host.Outcome.next ((if_neg hd).trans (if_neg (not_true_of_false hl)))))
  case tiles =>
    intro g b t0
    refine ⟨fun hb i hi => ?_, fun hb => ⟨?_, fun hq => ?_, fun hq => ?_, ?_⟩⟩
    · simp only [List.mem_cons, List.not_mem_nil, or_false] at hi
      rcases hi with rfl | rfl | rfl
      · exact (execTwm_next hg).trans (congrArg Host.Outcome.next (if_pos hb))
      · exact (execTstat_next hg).trans (congrArg Host.Outcome.next (if_pos hb))
      · exact execTclr_misuse hg hb
    all_goals have hb' : ¬b.tiles.length ≤ w.b.toNat := Nat.not_le.mpr hb
    · refine ⟨_, (execTwm_next hg).trans (congrArg Host.Outcome.next (if_neg hb')), rfl, Group.setK_switched _ _ _ _ _, fun i hi => ?_⟩
      exact g.setK_nth _ _ _ hi
    · refine (execTstat_next hg).trans (congrArg Host.Outcome.next ((if_neg hb').trans (if_pos ?_)))
      simpa using hq
    · have hempty : ¬(s.queueOf s.me.uid).isEmpty = false := by simp [show s.queueOf s.me.uid = [] from hq]
      exact Completes.of_switch ((execTstat_next hg).trans (congrArg Host.Outcome.next ((if_neg hb').trans (if_neg hempty))))
    · obtain ⟨m, h1, h2, h3, h4, hexec⟩ := execTclr_marker hg hb'
      exact ⟨m, h1, h2, h3, h4, _, _, hexec⟩
  case clear =>
    intro old
    have hblock : s.block s.anchorBlk = b := by
      unfold State.block
      rw [hblocks, hb]
      simp
    obtain ⟨m, hgroup, hblk, hclears, hid, hexec⟩ := execTclr_marker hg (by rw [hblock]; exact Nat.not_le.mpr htile)
    have hsettle := State.settleQueue_marker (s := s.fresh.2) hqueue hgroup hclears fun x hx => by rw [hid]; exact hids x hx
    rw [hblock] at hblk
    refine ⟨_, _, hexec.trans (congrArg (fun t : State => Host.Outcome.next (t.switch (kxLen w.kx) 1 7)) hsettle), ?_, rfl, rfl⟩
    change s.blocks.map _ = _
    rw [hblocks, hblk]
    exact congrArg (· :: []) (if_pos rfl)

end Sys2Proof.Machine
end

section
/-! SUPPORT. Barriers by their identity (R64), and the groups that an event wakes. -/

namespace Sys2Proof.Machine

theorem lanesOf_two_pow {i : Nat} (hi : i < 32) : lanesOf (BitVec.ofNat 32 (2 ^ i)) = [i] := by
  have hmem (j : Nat) : j ∈ lanesOf (BitVec.ofNat 32 (2 ^ i)) ↔ j ∈ [i] := by
    rw [mem_lanesOf, getLsbD_two_pow hi, decide_eq_true_iff, List.mem_singleton, eq_comm]
  have hperm := (List.perm_ext_iff_of_nodup (nodup_lanesOf _) (List.nodup_singleton i)).mpr hmem
  exact List.perm_singleton.mp hperm

theorem State.barrier_is (s : State) (grid level owner num : Nat) : (s.barrier grid level owner num).is grid level owner num = true := by
  unfold State.barrier
  cases h : s.barriers.find? fun b => b.is grid level owner num with
  | none => exact decide_eq_true ⟨rfl, rfl, rfl, rfl⟩
  | some b =>
    have := List.find?_some h
    exact this

/-- The barrier that was put under an identity is found there. -/
theorem State.barrier_putBarrier (s : State) (b : Barrier) {grid level owner num : Nat} (h : b.is grid level owner num = true) :
    (s.putBarrier b).barrier grid level owner num = b := by
  unfold State.putBarrier State.barrier
  dsimp only
  rw [List.find?_cons, h]
  rfl

/-- Putting a barrier leaves the others. -/
theorem State.mem_putBarrier {s : State} {b x : Barrier} (hx : x ∈ s.barriers) (h : ¬x.is b.grid b.level b.owner b.num = true) :
    x ∈ (s.putBarrier b).barriers :=
  List.mem_cons_of_mem _ (List.mem_filter.mpr ⟨hx, by simpa using h⟩)

theorem mem_insertParked {g x : Group} {l : List Group} : x ∈ insertParked g l ↔ x = g ∨ x ∈ l := by
  induction l with
  | nil => simp [insertParked]
  | cons y r ih =>
    unfold insertParked
    split
    · rw [List.mem_cons]
    · rw [List.mem_cons, ih, List.mem_cons]
      tauto

theorem mem_sortParked {gs : List Group} {x : Group} : x ∈ sortParked gs ↔ x ∈ gs := by
  have hfold (l acc : List Group) : x ∈ l.foldl (fun l g => insertParked g l) acc ↔ x ∈ l ∨ x ∈ acc := by
    induction l generalizing acc with
    | nil => simp
    | cons g r ih =>
      rw [List.foldl_cons, ih, mem_insertParked, List.mem_cons]
      tauto
  exact (hfold gs []).trans (by simp)

/-- A group that passes the test of an event tests its command again at once (R71). -/
theorem State.retry_mem_wake {s : State} {f : Group → Bool} {y : Group} (hy : y ∈ s.resident) (hf : f y = true) :
    Turn.retry y.uid ∈ (s.wake f).agenda :=
  List.mem_append_left _ (List.mem_map_of_mem (mem_sortParked.mpr (List.mem_filter.mpr ⟨List.mem_append_left _ hy, hf⟩)))

end Sys2Proof.Machine
end

section
/-! The statement on barrier commands (03, 02, 05). -/

namespace Sys2Proof.Machine

/-- What one arrival leaves (R66, R107). -/
theorem State.arriveOne_spec (s : State) (level num : Nat) {i : Nat} {a : Thread} (hi : i < 32) (ha : s.me.lane i = some a) :
    let own := s.barOwner s.me a level
    let b := s.barrier s.me.grid level own num
    let t := s.arriveOne level num i
    t = { s with me := t.me, barriers := t.barriers } ∧ (∀ j, j ≠ i → t.me.lane j = s.me.lane j) ∧
      (∃ c, t.me.lane i = some c ∧ c = { a with party := a.party.fold, arrivals := ⟨level, own, num, b.phase⟩ :: a.arrivals }) ∧
      t.barrier s.me.grid level own num = { b with arrived := b.arrived ++ [a.party.sender (barRank level i a)] } ∧
      ∀ x, x ∈ s.barriers → ¬(x.grid = s.me.grid ∧ x.level = level ∧ x.owner = own ∧ x.num = num) → x ∈ t.barriers := by
  intro own b t
  have ht : t = (s.putBarrier { b with arrived := b.arrived ++ [a.party.sender (barRank level i a)] }).onMe fun g =>
      g.onLanes (BitVec.ofNat 32 (2 ^ i)) fun _ t => { t.fold with arrivals := ⟨level, own, num, b.phase⟩ :: t.arrivals } := by
    change s.arriveOne level num i = _
    unfold State.arriveOne
    dsimp only
    rw [Group.thread_of_lane ha]
    rfl
  have his : b.is s.me.grid level own num = true := s.barrier_is _ _ _ _
  clear_value t b own
  subst ht
  refine ⟨rfl, fun j hj => Group.lane_onLanes_other _ hi _ hj, ⟨_, Group.lane_onLanes_self _ hi _ ha, rfl⟩, ?_, fun x hx hne => ?_⟩
  · exact s.barrier_putBarrier _ his
  · refine State.mem_putBarrier hx fun h => hne ?_
    obtain ⟨h1, h2, h3, h4⟩ := of_decide_eq_true his
    obtain ⟨g1, g2, g3, g4⟩ := of_decide_eq_true h
    exact ⟨g1.trans h1, g2.trans h2, g3.trans h3, g4.trans h4⟩

/-- The open phase of a barrier has ended: somebody has arrived, and every live member (R64, R66). -/
def State.phaseEnds (s : State) (b : Barrier) : Bool :=
  !b.arrived.isEmpty && (s.allPlaced b && (s.members b).all fun t => t.arrivedAt b b.phase)

theorem State.checkBarrier_open {s : State} {b : Barrier} (h : s.phaseEnds b = false) : s.checkBarrier b = s := by
  unfold State.phaseEnds at h
  unfold State.checkBarrier
  cases he : b.arrived.isEmpty with
  | true => rfl
  | false =>
    rw [he, Bool.not_false, Bool.true_and] at h
    rw [h]
    rfl

theorem State.checkBarrier_ends {s : State} {b : Barrier} (h : s.phaseEnds b = true) : s.checkBarrier b =
    (s.putBarrier { b with phase := b.phase + 1, arrived := [], edges := (b.phase, s.edge b.arrived []) :: b.edges }).wake fun g =>
      decide (g.grid = b.grid) && g.park == some (.barrier b.level b.num) := by
  obtain ⟨hsome, hall⟩ := Bool.and_eq_true_iff.mp h
  unfold State.checkBarrier
  rw [if_neg (by simpa using hsome), if_pos hall]

theorem State.phaseEnds_iff (s : State) (b : Barrier) : s.phaseEnds b = true ↔ b.arrived ≠ [] ∧
    (b.level = 3 → (s.grid b.grid).placed = (s.grid b.grid).dims.1 * (s.grid b.grid).dims.2.1 * (s.grid b.grid).dims.2.2) ∧
    ∀ x ∈ s.members b, ⟨b.level, b.owner, b.num, b.phase⟩ ∈ x.arrivals := by
  unfold State.phaseEnds State.allPlaced Thread.arrivedAt
  simp only [Bool.and_eq_true, Bool.not_eq_true', List.isEmpty_eq_false_iff, Bool.or_eq_true, decide_eq_true_eq, List.all_eq_true,
    List.contains_iff_mem]
  tauto

/-- The receipt of one arrival's edge (R66, R109). -/
def State.receiveArrival (s : State) (level num : Nat) (m : BitVec 32) (h : Nat) (a : Arrival) : State :=
  let b := s.barrier h level a.owner num
  match b.edges.find? fun e => e.1 == a.phase with
  | some e =>
    let r := s.receiveShared m e.2
    r.2.putBarrier { b with edges := b.edges.map fun x => if x.1 = a.phase then (x.1, r.1) else x }
  | none => s

theorem State.receiveArrival_frame (s : State) (level num i h : Nat) (a : Arrival) (hi : i < 32) :
    let t := s.receiveArrival level num (BitVec.ofNat 32 (2 ^ i)) h a
    t = { s with me := t.me, atoms := t.atoms, barriers := t.barriers } ∧ ∀ j, j ≠ i → t.me.lane j = s.me.lane j := by
  unfold State.receiveArrival
  dsimp only
  split
  · exact ⟨rfl, fun j hj => Group.lane_onLanes_other _ hi _ hj⟩
  · exact ⟨rfl, fun _ _ => rfl⟩

theorem State.receiveBarrier_eq (s : State) (level num : Nat) {i : Nat} {a : Thread} (ha : s.me.lane i = some a) :
    s.receiveBarrier level num i = (a.arrivalsAt level num).reverse.foldl
      (fun t x => t.receiveArrival level num (BitVec.ofNat 32 (2 ^ i)) s.me.grid x)
      (s.onMe fun g => g.onLanes (BitVec.ofNat 32 (2 ^ i)) fun _ t => t.noArrival level num) := by
  unfold State.receiveBarrier
  rw [Group.thread_of_lane ha]
  rfl

theorem State.receiveBarrier_frame (s : State) (level num : Nat) {i : Nat} {a : Thread} (hi : i < 32) (ha : s.me.lane i = some a) :
    let t := s.receiveBarrier level num i
    t = { s with me := t.me, atoms := t.atoms, barriers := t.barriers } ∧ ∀ j, j ≠ i → t.me.lane j = s.me.lane j := by
  rw [s.receiveBarrier_eq level num ha]
  refine List.foldlRecOn (motive := fun t : State => t = { s with me := t.me, atoms := t.atoms, barriers := t.barriers } ∧
    ∀ j, j ≠ i → t.me.lane j = s.me.lane j) _ _ ⟨rfl, fun j hj => Group.lane_onLanes_other _ hi _ hj⟩ fun t ht x _ => ?_
  obtain ⟨hframe, hother⟩ := ht
  obtain ⟨hframe', hother'⟩ := t.receiveArrival_frame level num i s.me.grid x hi
  exact ⟨by rw [hframe', hframe], fun j hj => (hother' j hj).trans (hother j hj)⟩

/-- A thread that has arrived at one phase receives its edge (R66, R109). -/
theorem State.receiveBarrier_one (s : State) (level num : Nat) {i : Nat} {a : Thread} (hi : i < 32) (ha : s.me.lane i = some a) {x : Arrival}
    {e : Edge} (hone : a.arrivalsAt level num = [x])
    (he : ((s.barrier s.me.grid level x.owner num).edges.find? fun y => y.1 == x.phase) = some (x.phase, e)) :
    let t := s.receiveBarrier level num i
    let e1 := s.offer e [a.party]
    t.me.lane i = some { a.noArrival level num with party := a.party.receive e1 } ∧
      t.atoms = s.atoms.map (settleWord e1 fun l => e.untaken l && (e1.own a.party l).isNone) ∧
      ((t.barrier s.me.grid level x.owner num).edges.find? fun y => y.1 == x.phase) = some (x.phase, e.takenBy [a.party]) := by
  intro t e1
  set u := s.onMe fun g => g.onLanes (BitVec.ofNat 32 (2 ^ i)) fun _ t => t.noArrival level num with hu
  have hlane : u.me.lane i = some (a.noArrival level num) := Group.lane_onLanes_self _ hi _ ha
  have hparties : u.me.laneParties (BitVec.ofNat 32 (2 ^ i)) = [a.party] := by
    unfold Group.laneParties
    rw [lanesOf_two_pow hi, List.map_singleton, Group.thread_of_lane hlane]
    rfl
  have hbar : u.barrier s.me.grid level x.owner num = s.barrier s.me.grid level x.owner num := rfl
  have hshare : u.receiveShared (BitVec.ofNat 32 (2 ^ i)) e = (e.takenBy [a.party],
      { u with
        atoms := s.atoms.map (settleWord e1 fun l => e.untaken l && (e1.own a.party l).isNone)
        me := u.me.onLanes (BitVec.ofNat 32 (2 ^ i)) fun _ t => t.receive e1 }) := by
    unfold State.receiveShared
    dsimp only
    rw [hparties]
    simp only [List.any_cons, List.any_nil, Bool.or_false]
    rfl
  have ht : t = u.receiveArrival level num (BitVec.ofNat 32 (2 ^ i)) s.me.grid x := by
    change s.receiveBarrier level num i = _
    rw [s.receiveBarrier_eq level num ha, hone]
    rfl
  unfold State.receiveArrival at ht
  dsimp only at ht
  rw [hbar, he] at ht
  dsimp only at ht
  rw [hshare] at ht
  clear_value t e1
  subst ht
  have hmap : ((s.barrier s.me.grid level x.owner num).edges.map fun y => if y.1 = x.phase then (y.1, e.takenBy [a.party]) else y).find?
      (fun y => y.1 == x.phase) = ((s.barrier s.me.grid level x.owner num).edges.find? fun y => y.1 == x.phase).map
        fun y => if y.1 = x.phase then (y.1, e.takenBy [a.party]) else y := by
    rw [List.find?_map]
    congr 2
    funext y
    rw [Function.comp_apply]
    split <;> rfl
  rw [he, Option.map_some, if_pos rfl] at hmap
  have hput (u : State) (es : List (Nat × Edge)) : ((u.putBarrier { s.barrier s.me.grid level x.owner num with edges := es }).barrier
      s.me.grid level x.owner num).edges = es :=
    congrArg Barrier.edges (u.barrier_putBarrier { s.barrier s.me.grid level x.owner num with edges := es }
      (s.barrier_is s.me.grid level x.owner num))
  exact ⟨Group.lane_onLanes_self _ hi _ hlane, rfl, (congrArg (List.find? fun y : Nat × Edge => y.1 == x.phase) (hput _ _)).trans hmap⟩

theorem State.waitBarrier_open {s : State} {level num words : Nat}
    (h : ((lanesOf s.me.cur).any fun i => s.arrivalOpen level num i) = true) : s.waitBarrier level num words = s.parkMe (.barrier level num) :=
  if_pos h

theorem State.waitBarrier_past {s : State} {level num words : Nat} (h : ((lanesOf s.me.cur).any fun i => s.arrivalOpen level num i) = false) :
    s.waitBarrier level num words = (let t := (lanesOf s.me.cur).foldl (fun t i => t.receiveBarrier level num i) s
    (t.pruneBarriers t.me.grid).switch words 1 0) := if_neg (not_true_of_false h)

theorem barNumbers_le_iff {level num : Nat} (hlevel : level < 4) (hnum : num < 16) :
    barNumbers level ≤ num ↔ (level = 0 ∧ 3 < num) ∨ (level = 2 ∧ 7 < num) ∨ (level = 3 ∧ 3 < num) := by
  interval_cases level <;> simp [barNumbers] <;> omega

theorem State.arrivalOpen_iff (s : State) (level num i : Nat) : s.arrivalOpen level num i = true ↔
    ∃ a r, ((s.me.thread i).arrivals.filter fun x => decide (x.level = level ∧ x.num = num)) = a :: r ∧
      (s.barrier s.me.grid level a.owner num).phase ≤ a.phase := by
  unfold State.arrivalOpen Thread.arrivalsAt
  split
  next a r h =>
    obtain ⟨rfl, rfl⟩ : a.level = level ∧ a.num = num :=
      of_decide_eq_true (List.of_mem_filter (p := fun x : Arrival => decide (x.level = level ∧ x.num = num)) (h ▸ List.mem_cons_self))
    rw [State.phaseOpen, decide_eq_true_iff]
    exact ⟨fun hp => ⟨a, r, h, hp⟩, fun ⟨_, _, hx, hp⟩ => by
      obtain ⟨rfl, rfl⟩ := List.cons_eq_cons.mp (h.symm.trans hx)
      exact hp⟩
  next h => exact ⟨fun hp => absurd hp Bool.false_ne_true, fun ⟨_, _, hx, _⟩ => nomatch h.symm.trans hx⟩

/-- The misuses of a barrier command (R67). -/
theorem State.barMisuse_iff (s : State) (w : UC) (arrives : Bool) :
    let level := w.fn.toNat / 32
    let num := w.fn.toNat % 16
    s.barMisuse level num arrives = true ↔
      (level = 0 ∧ 3 < num) ∨ (level = 1 ∧ s.me.task = true) ∨ (level = 2 ∧ 7 < num) ∨
        (level = 3 ∧ (3 < num ∨ (s.grid s.me.grid).flags.getLsbD 0 = false)) ∨
        (arrives = true ∧ ∃ i, i < 32 ∧ s.me.cur.getLsbD i = true ∧ ∃ a r,
          ((s.me.thread i).arrivals.filter fun x => decide (x.level = level ∧ x.num = num)) = a :: r ∧
            (s.barrier s.me.grid level a.owner num).phase ≤ a.phase) := by
  intro level num
  have hlevel : level < 4 := Nat.div_lt_of_lt_mul (Nat.lt_of_lt_of_le w.fn.isLt (by decide))
  have hnum : num < 16 := Nat.mod_lt _ (by decide)
  have hopens : ((lanesOf s.me.cur).any fun i => s.arrivalOpen level num i) = true ↔ ∃ i, i < 32 ∧ s.me.cur.getLsbD i = true ∧
      ∃ a r, ((s.me.thread i).arrivals.filter fun x => decide (x.level = level ∧ x.num = num)) = a :: r ∧
        (s.barrier s.me.grid level a.owner num).phase ≤ a.phase := by
    rw [List.any_eq_true]
    refine exists_congr fun i => ?_
    rw [mem_lanesOf, s.arrivalOpen_iff]
    exact ⟨fun ⟨hi, h⟩ => ⟨BitVec.lt_of_getLsbD hi, hi, h⟩, fun ⟨_, hi, h⟩ => ⟨hi, h⟩⟩
  have regroup {a b c d e f g : Prop} : (((a ∨ c ∨ (d ∧ e)) ∨ b) ∨ (d ∧ f)) ∨ g ↔ a ∨ b ∨ c ∨ (d ∧ (e ∨ f)) ∨ g := by tauto
  unfold State.barMisuse
  simp only [Bool.or_eq_true, Bool.and_eq_true, decide_eq_true_eq, hopens, barNumbers_le_iff hlevel hnum, Bool.not_eq_true']
  exact regroup

/-- Settles O30: the commands by their outcomes, one arrival, one phase's end, and one receipt. -/
theorem barrierCommands : Obligations.BarrierCommands := by
  unfold Obligations.BarrierCommands
  refine ⟨fun w s hg => ?commands, fun s level num i a hi ha => ?arrive, fun s b hb => ?phase, fun s level num i a hi ha => ?receive⟩
  case commands =>
    intro level num opens past
    have hbara : exec (.bara w) s = _ := s.uniRun_next w.kx [] true _ hg s.kPoison_nil
    have hbarw : exec (.barw w) s = _ := s.uniRun_next w.kx [] true _ hg s.kPoison_nil
    have hbars : exec (.bars w) s = _ := s.uniRun_next w.kx [] true _ hg s.kPoison_nil
    have hpast (t : State) (ho : opens t = false) {i : Instr} (h : exec i s = .next (t.waitBarrier level num (kxLen w.kx))) :
        Completes i s (past t) (kxLen w.kx) := ⟨_, _, h.trans (congrArg Host.Outcome.next (State.waitBarrier_past ho))⟩
    have hpark (t : State) (ho : opens t = true) {i : Instr} (h : exec i s = .next (t.waitBarrier level num (kxLen w.kx))) :
        exec i s = .next (t.parkMe (.barrier level num)) := h.trans (congrArg Host.Outcome.next (State.waitBarrier_open ho))
    refine ⟨fun hm => ?_, fun hm => ?_, fun hm => ?_, fun hp hm => ?_, fun hp => ?_, fun hm => ?_, fun hp hm => ?_, s.barMisuse_iff w⟩
    · exact ⟨_, _, hbara.trans (congrArg Host.Outcome.next (if_neg (not_true_of_false hm)))⟩
    · exact hbara.trans (congrArg Host.Outcome.next (if_pos hm))
    · have hrun := hbarw.trans (congrArg Host.Outcome.next (if_neg (not_true_of_false hm)))
      exact ⟨fun ho => hpast s ho hrun, fun ho => hpark s ho hrun⟩
    · have hrun := hbars.trans (congrArg Host.Outcome.next ((if_neg hp).trans (if_neg (not_true_of_false hm))))
      exact ⟨fun ho => hpast _ ho hrun, fun ho => hpark _ ho hrun⟩
    · have hrun := hbars.trans (congrArg Host.Outcome.next (if_pos hp))
      exact ⟨fun ho => hpast s ho hrun, fun ho => hpark s ho hrun⟩
    · exact hbarw.trans (congrArg Host.Outcome.next (if_pos hm))
    · exact hbars.trans (congrArg Host.Outcome.next ((if_neg hp).trans (if_pos hm)))
  case arrive =>
    intro own rank b t
    exact s.arriveOne_spec level num hi ha
  case phase =>
    intro arrived g ended t
    have hends : s.phaseEnds b = true ↔ ended := by
      rw [s.phaseEnds_iff b]
      refine and_congr Iff.rfl (and_congr Iff.rfl ?_)
      unfold State.members
      split <;> simp [arrived, State.stationOfBlk, and_imp] <;> grind
    refine ⟨fun hno => State.checkBarrier_open (by simpa using mt hends.mp hno), fun hyes => ?_⟩
    have ht : t = _ := State.checkBarrier_ends (hends.mpr hyes)
    have his : b.is b.grid b.level b.owner b.num = true := decide_eq_true ⟨rfl, rfl, rfl, rfl⟩
    clear_value t
    subst ht
    exact ⟨rfl, s.barrier_putBarrier _ his, fun y hy hgrid hpark =>
      State.retry_mem_wake hy (Bool.and_eq_true_iff.mpr ⟨decide_eq_true hgrid, beq_iff_eq.mpr hpark⟩)⟩
  case receive =>
    intro mine rest t
    obtain ⟨hframe, hother⟩ := s.receiveBarrier_frame level num hi ha
    refine ⟨hframe, hother, fun hnone => ?_, fun x e hone he => s.receiveBarrier_one level num hi ha hone he⟩
    have ht : t = s.onMe fun g => g.onLanes (BitVec.ofNat 32 (2 ^ i)) fun _ t => t.noArrival level num := by
      change s.receiveBarrier level num i = _
      rw [s.receiveBarrier_eq level num ha, show a.arrivalsAt level num = [] from hnone]
      rfl
    rw [ht]
    exact ⟨rfl, Group.lane_onLanes_self _ hi _ ha⟩

end Sys2Proof.Machine
end

section
/-! The statement on slot rings (03). -/

namespace Sys2Proof.Machine

/-- A counter moves over the publications that are set from it up, and stops at the first that is not (R71). -/
theorem pubMove_spec (pubs : List (Word × Edge)) (n : Nat) (old : Word) : ∃ k, k ≤ n ∧ pubMove pubs n old = old + BitVec.ofNat 32 k ∧
    (∀ j, j < k → ∃ p, p ∈ pubs ∧ p.1 = old + BitVec.ofNat 32 j) ∧ (k < n → ∀ p, p ∈ pubs → p.1 ≠ pubMove pubs n old) := by
  have hzero (f : Word) : f = f + BitVec.ofNat 32 0 := (BitVec.add_zero f).symm
  induction n generalizing old with
  | zero => exact ⟨0, Nat.le_refl _, hzero old, fun _ hj => absurd hj (Nat.not_lt_zero _), fun hk => absurd hk (Nat.lt_irrefl _)⟩
  | succ n ih =>
    unfold pubMove
    split
    next hset =>
      obtain ⟨p, hp, heq⟩ := List.any_eq_true.mp hset
      obtain ⟨k, hk, hnew, hbelow, hstop⟩ := ih (old + 1)
      have hstep (j : Nat) : old + 1 + BitVec.ofNat 32 j = old + BitVec.ofNat 32 (j + 1) := by
        rw [BitVec.add_assoc, Nat.add_comm, BitVec.ofNat_add]
        rfl
      refine ⟨k + 1, Nat.succ_le_succ hk, hnew.trans (hstep k), fun j hj => ?_, fun hlt => hstop (Nat.lt_of_succ_lt_succ hlt)⟩
      match j with
      | 0 => exact ⟨p, hp, (beq_iff_eq.mp heq).trans (hzero old)⟩
      | j + 1 =>
        obtain ⟨q, hq, hqj⟩ := hbelow j (Nat.lt_of_succ_lt_succ hj)
        exact ⟨q, hq, hqj.trans (hstep j)⟩
    next hset =>
      refine ⟨0, Nat.zero_le _, hzero old, fun _ hj => absurd hj (Nat.not_lt_zero _), fun _ p hp heq => hset ?_⟩
      exact List.any_eq_true.mpr ⟨p, hp, beq_iff_eq.mpr heq⟩

/-- A lone publication moves the counter only from its own index (R71). -/
theorem pubMove_single (i f : Word) (e : Edge) : pubMove [(i, e)] 65 f = if i = f then f + 1 else f := by
  have hone (n : Nat) (f : Word) : pubMove [(i, e)] (n + 1) f = if i = f then pubMove [(i, e)] n (f + 1) else f := by
    simp [pubMove]
  rw [hone]
  split
  next h =>
    rw [hone, if_neg]
    rw [h]
    exact fun hf => absurd (BitVec.self_eq_add_right.mp hf) (by decide)
  next => rfl

theorem pubSet_iff (first : Word) (pubs : List (Word × Edge)) (i : Word) : pubSet first pubs i = true ↔
    ∃ p, p ∈ pubs ∧ (p.1 - first).toNat < 2 ^ 31 ∧ p.1.toNat % 64 = i.toNat % 64 := by
  unfold pubSet wrapGe
  simp only [List.any_eq_true, Bool.and_eq_true, decide_eq_true_eq]

/-- What a try finds, from its two tests. -/
theorem slotTry_iff {wrong later : Bool} {t : SlotTry} (h : t = if wrong then .misuse else if later then .wait else .go) :
    (t = .misuse ↔ wrong = true) ∧ (t = .wait ↔ ¬wrong = true ∧ later = true) ∧ (t = .go ↔ ¬wrong = true ∧ ¬later = true) := by
  cases wrong <;> cases later <;> simp [h]

theorem wrapGe_iff (a b : Word) : wrapGe a b = true ↔ (a - b).toNat < 2 ^ 31 := decide_eq_true_iff

theorem Ring.tryFull_iff (x : Ring) (i : Word) :
    let wrong := x.n = 0 ∨ ¬((i - x.full).toNat < 2 ^ 31 ∧ ¬(i - x.ap).toNat < 2 ^ 31) ∨
      ∃ p, p ∈ x.pubFull ∧ (p.1 - x.full).toNat < 2 ^ 31 ∧ p.1.toNat % 64 = i.toNat % 64
    let later := (i - (x.full + 64)).toNat < 2 ^ 31
    (x.tryFull i = .misuse ↔ wrong) ∧ (x.tryFull i = .wait ↔ ¬wrong ∧ later) ∧ (x.tryFull i = .go ↔ ¬wrong ∧ ¬later) := by
  intro wrong later
  have hwrong : (decide (x.n = 0) || !(wrapGe i x.full && !wrapGe i x.ap) || pubSet x.full x.pubFull i) = true ↔ wrong := by
    simp only [Bool.or_eq_true, decide_eq_true_eq, Bool.not_eq_true', ← Bool.not_eq_true, Bool.and_eq_true, wrapGe_iff, pubSet_iff,
      or_assoc, wrong]
  have hlater : wrapGe i (x.full + 64) = true ↔ later := wrapGe_iff _ _
  rw [← hwrong, ← hlater]
  exact slotTry_iff rfl

theorem Ring.tryFree_iff (x : Ring) (i : Word) :
    let wrong := x.n = 0 ∨ ¬((i - (x.free - x.n)).toNat < 2 ^ 31 ∧ ¬(i - x.ac).toNat < 2 ^ 31) ∨
      ∃ p, p ∈ x.pubFree ∧ (p.1 - (x.free - x.n)).toNat < 2 ^ 31 ∧ p.1.toNat % 64 = i.toNat % 64
    let later := (i - (x.free - x.n + 64)).toNat < 2 ^ 31
    (x.tryFree i = .misuse ↔ wrong) ∧ (x.tryFree i = .wait ↔ ¬wrong ∧ later) ∧ (x.tryFree i = .go ↔ ¬wrong ∧ ¬later) := by
  intro wrong later
  have hwrong : (decide (x.n = 0) || !(wrapGe i (x.free - x.n) && !wrapGe i x.ac) || pubSet (x.free - x.n) x.pubFree i) = true ↔ wrong := by
    simp only [Bool.or_eq_true, decide_eq_true_eq, Bool.not_eq_true', ← Bool.not_eq_true, Bool.and_eq_true, wrapGe_iff, pubSet_iff,
      or_assoc, wrong]
  have hlater : wrapGe i (x.free - x.n + 64) = true ↔ later := wrapGe_iff _ _
  rw [← hwrong, ← hlater]
  exact slotTry_iff rfl

/-- Settles O31: the commands by what they find, one publication, the tries, and the counters' moves. -/
theorem slotCommands : Obligations.SlotCommands := by
  unfold Obligations.SlotCommands
  refine ⟨fun w s hg => ?commands, fun x i e hnone => ?publish, fun x i => ?tries, fun x i e => ?moves⟩
  case commands =>
    intro b x i trap took gave
    have hslotaFree : exec (.slotaFree w) s = _ := s.uniRun_next w.kx [] true _ hg s.kPoison_nil
    have hslotaFull : exec (.slotaFull w) s = _ := s.uniRun_next w.kx [] true _ hg s.kPoison_nil
    refine ⟨fun hn => ⟨?_, ?_⟩, fun hn => ⟨fun h => ?_, fun h => ?_, fun h => ?_, fun h => ?_⟩, fun hp => ?_⟩
    · exact hslotaFree.trans (congrArg Host.Outcome.next (if_pos hn))
    · exact hslotaFull.trans (congrArg Host.Outcome.next (if_pos hn))
    · exact hslotaFree.trans (congrArg Host.Outcome.next ((if_neg hn).trans (if_pos h)))
    · exact hslotaFree.trans (congrArg Host.Outcome.next ((if_neg hn).trans (if_neg h)))
    · exact hslotaFull.trans (congrArg Host.Outcome.next ((if_neg hn).trans (if_pos h)))
    · exact hslotaFull.trans (congrArg Host.Outcome.next ((if_neg hn).trans (if_neg h)))
    have hfull : exec (.slotrFull w) s = _ := s.uniRun_next w.kx [(w.a.toNat, 1)] true _ hg hp
    have hfree : exec (.slotrFree w) s = _ := s.uniRun_next w.kx [(w.a.toNat, 1)] true _ hg hp
    have hinit : exec (.slotrInit w) s = _ := s.uniRun_next w.kx [(w.a.toNat, 1)] true _ hg hp
    dsimp only at hfull hfree
    refine ⟨fun h => ?_, fun h => ?_, fun h => ?_, fun h => ?_, fun h => ?_, fun h => ?_, fun h1 h2 h3 h4 h5 h6 => ?_, fun h => ?_⟩
    · rw [hfull, h]
    · rw [hfull, h]
    · rw [hfull, h]
      rfl
    · rw [hfree, h]
    · rw [hfree, h]
    · rw [hfree, h]
      rfl
    · refine hinit.trans (congrArg Host.Outcome.next (if_neg ?_))
      rintro (h | h | h | h)
      · exact h1 h
      · exact Nat.not_lt_of_le h2 h
      · exact h3 (List.isEmpty_iff.mp h)
      · exact h ⟨h4, h5, h6⟩
    · refine hinit.trans (congrArg Host.Outcome.next (if_pos ?_))
      obtain h | h | h | h | h := h
      · exact .inl h
      · exact .inr (.inl h)
      all_goals exact .inr (.inr (.inr fun ⟨h4, h5, h6⟩ => by contradiction))
  case publish =>
    have hpubs : x.pubFull ++ [(i, e)] = [(i, e)] := by rw [hnone, List.nil_append]
    exact ⟨hpubs, (congrArg (fun l => pubMove l 65 x.full) hpubs).trans (pubMove_single i x.full e), rfl, rfl, rfl, rfl⟩
  case tries =>
    obtain ⟨hmisuse, hwait, hgo⟩ := x.tryFull_iff i
    obtain ⟨hmisuse', hwait', hgo'⟩ := x.tryFree_iff i
    exact ⟨hmisuse, hwait, hgo, hmisuse', hwait', hgo'⟩
  case moves =>
    intro moves
    have hfree : (x.giveBack i e).free - x.n = pubMove (x.pubFree ++ [(i, e)]) 65 (x.free - x.n) := BitVec.add_sub_cancel _ _
    refine ⟨rfl, pubMove_spec _ 65 _, rfl, ?_⟩
    rw [hfree]
    exact pubMove_spec _ 65 _

end Sys2Proof.Machine
end

section
/-! The statement on timed waits (03). -/

namespace Sys2Proof.Machine

theorem State.recordUni_mem (s : State) (wr : Bool) {t : Target} (h : ∀ b off, t ≠ .beyond b off) : s.recordUni wr t = s := by
  cases t with
  | beyond b off => exact absurd rfl (h b off)
  | _ => rfl

/-- The test of a WAITA on its word (R77, R78). -/
def State.waitaTest (s : State) (w : UC) (tg : Target) : State :=
  if waitaCond (w.fn.toNat % 4) (s.waitaWord tg) (kVal s.me w.b.toNat) = true then
    (match tg.loc with | some l => s.observe l (s.waitaWord tg) s.me.cur | none => s).waitaDone w true
  else
    match s.waitaDeadlineOf w with
    | some d => if d ≤ s.now then s.waitaDone w false else s.parkMe (.waita (some d))
    | none => s.parkMe (.waita none)

/-- A WAITA whose check passes tests its word. -/
theorem execWaita_next {w : UC} {s : State} {tg : Target} (hg : kxPass s.me w.kx = true)
    (hp : s.kPoison [(w.a.toNat, 1), (w.b.toNat, 2)] = false)
    (hc : s.checkSpad s.anchorBlk ((kVal s.me w.a.toNat).toNat % 2 ^ 24) 4 .read = .ok tg) (hb : ∀ b off, tg ≠ .beyond b off) :
    exec (.waita w) s = .next (s.waitaTest w tg) := by
  have hexec : exec (.waita w) s = _ := s.uniRun_next w.kx [(w.a.toNat, 1), (w.b.toNat, 2)] true _ hg hp
  dsimp only at hexec
  rw [hc] at hexec
  refine hexec.trans (congrArg (fun u : State => Host.Outcome.next (u.waitaTest w tg)) ?_)
  split
  · rfl
  · exact s.recordUni_mem false hb

/-- Settles O32: the condition, then the deadline. -/
theorem timedWaits : Obligations.TimedWaits := by
  unfold Obligations.TimedWaits
  intro w s tg hg hp hc hb v seen set
  have hexec := execWaita_next hg hp hc hb
  unfold State.waitaTest at hexec
  refine ⟨fun hmet => ?_, fun hunmet => ?_, fun a b => ⟨Bool.beq_eq_decide_eq a b, Bool.eq_iff_iff.mpr (by simp [waitaCond]), rfl⟩⟩
  · exact Completes.of_switch (hexec.trans (congrArg Host.Outcome.next (if_pos hmet)))
  · rw [if_neg (not_true_of_false hunmet)] at hexec
    refine ⟨fun d hd hpast => ?_, fun d hd hlater => ?_, fun hnone => ?_⟩
    · rw [hd] at hexec
      exact Completes.of_switch (hexec.trans (congrArg Host.Outcome.next (if_pos hpast)))
    · rw [hd] at hexec
      exact hexec.trans (congrArg Host.Outcome.next (if_neg (Nat.not_le_of_lt hlater)))
    · rw [hnone] at hexec
      exact hexec

end Sys2Proof.Machine
end

section
/-! The statement on grid commands (18, 15). -/

namespace Sys2Proof.Machine

section Gwait
variable {w : UF} {s : State} (hg : kxPass s.me w.kx = true)
  (hp : s.kPoison [(w.a.toNat, if (kxExt4 w.kx).testBit 0 then 2 else 1)] = false)
include hg hp

theorem execGwait_over {e : Option Edge} (hpark : s.me.park = some (.gwaitOver e)) : exec (.gwait w) s = .next
    ((match e with | none => s | some e => (s.receiveShared s.me.cur e).2).gwaitDone w e.isSome) := by
  have hexec : exec (.gwait w) s = _ := s.uniRun_next w.kx _ true _ hg hp
  rw [hpark] at hexec
  cases e <;> exact hexec

theorem execGwait_for (hpark : ∀ e, s.me.park ≠ some (.gwaitOver e)) : exec (.gwait w) s = .next
    (s.gwaitFor w ((kxExt4 w.kx).testBit 0) (kVal s.me w.a.toNat).toNat (kVal s.me (w.a.toNat + 1))) := by
  refine (s.uniRun_next w.kx _ true _ hg hp).trans (congrArg Host.Outcome.next ?_)
  split
  next h => exact absurd h (hpark none)
  next e h => exact absurd h (hpark (some e))
  next => rfl

end Gwait

theorem State.gwaitFor_none {s : State} {w : UF} {ph : Bool} {h : Nat} {n : Word}
    (hf : (s.grids.find? fun g => decide (g.handle = h ∧ g.ctx = s.myCtx ∧ g.handle ≠ 0) &&
      (g.named || decide (s.me.park = some .gwait))) = none) : s.gwaitFor w ph h n = s.gwaitDone w false := by
  unfold State.gwaitFor
  rw [hf]

theorem State.gwaitFor_some {s : State} {w : UF} {ph : Bool} {h : Nat} {n : Word} {g : Grid}
    (hf : (s.grids.find? fun g => decide (g.handle = h ∧ g.ctx = s.myCtx ∧ g.handle ≠ 0) &&
      (g.named || decide (s.me.park = some .gwait))) = some g) : s.gwaitFor w ph h n =
    if ph then
      if wrapGe (BitVec.ofNat 32 g.phases) n then (s.receivePhase h n.toNat).gwaitDone w true
      else if g.isLive then s.parkMe .gwait
      else s.gwaitDone w false
    else if g.isLive then s.parkMe .gwait
    else if g.state = 4 then (s.receiveEnd h).gwaitDone w true
    else s.gwaitDone w false := by
  unfold State.gwaitFor
  rw [hf]

theorem execPhend_waits {w : UF} {s : State} {n : Nat} (hg : kxPass s.me w.kx = true) (hpark : s.me.park = some (.phend n)) :
    exec (.phend w) s = .next
      (if n ≤ (s.grid s.me.grid).phases then (s.receivePhase s.me.grid n).switch (kxLen w.kx) 1 0 else s.parkMe (.phend n)) := by
  have hexec : exec (.phend w) s = _ := s.uniRun_next w.kx [] true _ hg s.kPoison_nil
  rw [hpark] at hexec
  exact hexec

theorem execPhend_first {w : UF} {s : State} (hg : kxPass s.me w.kx = true) (hpark : ∀ n, s.me.park ≠ some (.phend n)) :
    exec (.phend w) s = .next (if s.phendMisuse then s.trapAll cBarrierMisuse 0
      else ((lanesOf s.me.cur).foldl (fun t i => t.arrivePhase i) s).parkMe (.phend (s.grid s.me.grid).openPhase)) := by
  refine (s.uniRun_next w.kx [] true _ hg s.kPoison_nil).trans (congrArg Host.Outcome.next ?_)
  split
  next n h => exact absurd h (hpark n)
  next => rfl

section Glnch
variable {w : UF} {s : State} {r : List Byte} (hg : kxPass s.me w.kx = true) (hp : s.kPoison [(w.a.toNat, 2)] = false)
  (hva : recordAddr (kPair s.me w.a.toNat).toNat 256 = none)
  (hread : s.readRecord { Party.empty 0 with view := mergedView (s.edge (s.me.laneSenders s.me.cur) []) } (kPair s.me w.a.toNat).toNat 256
    = .ok r)
include hg hp hva hread

/-- A GLNCH whose record is live, or that finds no handle, gives 0 (R338). -/
theorem execGlnch_zero (h : s.rcbLive (s.placeKey s.myCtx (kPair s.me w.a.toNat).toNat) = true ∨ s.freeHandle = none) :
    exec (.glnch w) s = .next (s.glnchDone w 0) := by
  refine (s.uniRun_next w.kx [(w.a.toNat, 2)] true _ hg hp).trans (congrArg Host.Outcome.next ?_)
  dsimp only
  rw [hva]
  dsimp only
  rw [hread]
  dsimp only
  split
  · rfl
  next hlive =>
    rw [h.resolve_left hlive]

/-- The KV root that a GLNCH reads, where its record names one (R338). -/
def State.glnchKv (s : State) (r : List Byte) : Option (Except Check (List Byte)) :=
  if recNum r 0x60 8 = 0 ∨ 2 ^ 56 ≤ recNum r 0x60 8 ∨ recNum r 0x60 8 % 64 ≠ 0 then none
  else some (s.readRecord { Party.empty 0 with view := mergedView (s.edge (s.me.laneSenders s.me.cur) []) } (recNum r 0x60 8) 64)

variable {x : Nat} (hkey : s.rcbLive (s.placeKey s.myCtx (kPair s.me w.a.toNat).toNat) = false) (hx : s.freeHandle = some x)
include hkey hx

/-- A GLNCH that meets a page of a link waits for it (R354). -/
theorem execGlnch_waits {k : Check} (hwait : s.glnchWaits s.myCtx (s.grid s.me.grid).rcbVa (kPair s.me w.a.toNat).toNat
    (kPair s.me w.a.toNat).toNat (s.glnchKv r) = some k) : exec (.glnch w) s = .next (s.finishUni .read k s) := by
  refine (s.uniRun_next w.kx [(w.a.toNat, 2)] true _ hg hp).trans (congrArg Host.Outcome.next ?_)
  unfold State.glnchKv at hwait
  dsimp only
  rw [hva]
  dsimp only
  rw [hread]
  dsimp only
  rw [if_neg (not_true_of_false hkey), hx]
  dsimp only
  rw [hwait]

/-- The child of a GLNCH (R338, R375). -/
def State.glnchChild (s : State) (va : Nat) (r : List Byte) (h : Nat) : Grid :=
  let g := s.grid s.me.grid
  let f := Party.fresh 0 (s.edge (g.peerSenders ++ s.me.laneSenders s.me.cur) [])
  { gridOf h s.myCtx (s.placeKey s.myCtx va) va (g.region.child r) r with
    parent := g.handle, kvRoot := (kvRootOf (recNum r 0x60 8) fun _ => (s.glnchKv r).bind fun x => x.toOption).1, cvc := s.me.cvc
    srseed := s.me.srseed, dphase := s.me.dphase, snapMem := (s.childSnap g.handle).1, snapSys := (s.childSnap g.handle).2
    initView := f.view, initSeen := f.seen }

/-- A GLNCH that waits for nothing launches its child (R338). -/
theorem execGlnch_launches (hready : s.glnchWaits s.myCtx (s.grid s.me.grid).rcbVa (kPair s.me w.a.toNat).toNat
    (kPair s.me w.a.toNat).toNat (s.glnchKv r) = none) : exec (.glnch w) s = .next
    (((((((s.readCtx s.myCtx).settleEdge (s.edge (s.me.laneSenders s.me.cur) [])).onMe fun y => y.onLanes y.cur fun _ t => t.fold).linkGlnch
      s.myCtx (s.grid s.me.grid).rcbVa (kPair s.me w.a.toNat).toNat).accept (s.glnchChild (kPair s.me w.a.toNat).toNat r x)
        (kvRootOf (recNum r 0x60 8) fun _ => (s.glnchKv r).bind fun y => y.toOption).2 (rcbWithCtx r s.myCtx))).glnchDone w x) := by
  refine (s.uniRun_next w.kx [(w.a.toNat, 2)] true _ hg hp).trans (congrArg Host.Outcome.next ?_)
  unfold State.glnchChild
  unfold State.glnchKv at hready ⊢
  dsimp only
  rw [hva]
  dsimp only
  rw [hread]
  dsimp only
  rw [if_neg (not_true_of_false hkey), hx]
  dsimp only
  rw [hready]

end Glnch

/-- Settles O33: each command by what its group waits for and what it finds. -/
theorem gridCommands : Obligations.GridCommands := by
  unfold Obligations.GridCommands
  intro w s hg h found q ph va given
  refine ⟨fun hp hpark => ?gone, fun e hp hpark => ?ended, fun hp hpark => ?gwait, fun n hpark => ?phend, fun hpark => ?arrive,
    fun hp hva => ?glnch⟩
  case gone => exact Completes.of_switch (execGwait_over hg hp hpark)
  case ended => exact Completes.of_switch (execGwait_over hg hp hpark)
  case gwait =>
    have hexec := execGwait_for hg hp hpark
    refine ⟨fun hnone => Completes.of_switch (hexec.trans (congrArg Host.Outcome.next (State.gwaitFor_none hnone))), fun g hsome => ?_⟩
    rw [State.gwaitFor_some hsome] at hexec
    refine ⟨fun hph hlive => ?_, fun hph hdone => ?_, fun hph hlive hdone => ?_, fun hph hn => ?_, fun hph hn => ⟨fun hlive => ?_, fun hlive => ?_⟩⟩
    all_goals rw [show (kxExt4 w.kx).testBit 0 = _ from hph] at hexec
    · exact hexec.trans (congrArg Host.Outcome.next ((if_neg Bool.false_ne_true).trans (if_pos hlive)))
    · have hlive : ¬g.isLive = true := by simp [Grid.isLive, hdone]
      exact Completes.of_switch (hexec.trans (congrArg Host.Outcome.next
        ((if_neg Bool.false_ne_true).trans ((if_neg hlive).trans (if_pos hdone)))))
    · exact Completes.of_switch (hexec.trans (congrArg Host.Outcome.next
        ((if_neg Bool.false_ne_true).trans ((if_neg (not_true_of_false hlive)).trans (if_neg hdone)))))
    · exact Completes.of_switch (hexec.trans (congrArg Host.Outcome.next ((if_pos rfl).trans (if_pos hn))))
    · exact hexec.trans (congrArg Host.Outcome.next ((if_pos rfl).trans ((if_neg (not_true_of_false hn)).trans (if_pos hlive))))
    · exact Completes.of_switch (hexec.trans (congrArg Host.Outcome.next
        ((if_pos rfl).trans ((if_neg (not_true_of_false hn)).trans (if_neg (not_true_of_false hlive))))))
  case phend =>
    have hexec := execPhend_waits hg hpark
    exact ⟨fun hn => Completes.of_switch (hexec.trans (congrArg Host.Outcome.next (if_pos hn))),
      fun hn => hexec.trans (congrArg Host.Outcome.next (if_neg (Nat.not_le_of_lt hn)))⟩
  case arrive =>
    have hexec := execPhend_first hg hpark
    exact ⟨fun hm => hexec.trans (congrArg Host.Outcome.next (if_pos hm)),
      fun hm => hexec.trans (congrArg Host.Outcome.next (if_neg (not_true_of_false hm)))⟩
  case glnch =>
    intro c g e r hread
    refine ⟨fun hnone => Completes.of_switch (execGlnch_zero hg hp hva hread hnone), fun x hkey hx => ?_⟩
    intro kva kv
    refine ⟨fun page a hwait => execGlnch_waits hg hp hva hread hkey hx hwait, fun hready => ?_⟩
    exact ⟨s.glnchChild va r x, rfl, rfl, rfl, rfl, rfl, rfl, rfl,
      Completes.of_switch (execGlnch_launches hg hp hva hread hkey hx hready)⟩

end Sys2Proof.Machine
end

section
/-! The statement on system functions (14, 06). -/

namespace Sys2Proof.Machine

/-- Only the group goes on, past the words of its instruction. -/
def OnlyAdvances (i : Instr) (s : State) (pc : Dword) : Prop := ∃ t, exec i s = .next t ∧ OnlyMe s t ∧ t.me = { s.me with pc := pc }

theorem OnlyAdvances.of_advance {i : Instr} {s : State} {k : Option Kx} (h : exec i s = .next (s.advance (kxLen k) 1)) :
    OnlyAdvances i s (pastUni s k) := ⟨_, h, rfl, rfl⟩

theorem OnlySwitches.of_switch {i : Instr} {s : State} {k : Option Kx} {occ lat : Nat} (h : exec i s = .next (s.switch (kxLen k) occ lat)) :
    OnlySwitches i s (pastUni s k) := ⟨_, h, rfl, s.switchTo_switched _ _ _⟩

/-- A line that is present, on its way, or not to be fetched starts no fill (R304). -/
theorem State.prefetch_none {s : State} {va : Nat} (h : s.hasLine (stationOf s.me.core) s.myCtx (lineOf va) = true ∨
    (s.fillDue (stationOf s.me.core) s.myCtx (lineOf va)).isSome = true ∨ 2 ^ 56 ≤ va ∨
    (∀ p, translate s s.myCtx (s.master s.me.grid) va .fetch ≠ .ok p)) : s.prefetch va = s := by
  unfold State.prefetch
  split
  · rfl
  next hva =>
    split
    next p htr =>
      refine if_pos (Bool.or_eq_true_iff.mpr ?_)
      obtain h | h | h | h := h
      · exact .inl h
      · exact .inr h
      · exact absurd h hva
      · exact absurd htr (h p)
    next => rfl

/-- Any other line starts its fill (R304). -/
theorem State.prefetch_starts {s : State} {va : Nat} {p : Place} (hline : s.hasLine (stationOf s.me.core) s.myCtx (lineOf va) = false)
    (hdue : s.fillDue (stationOf s.me.core) s.myCtx (lineOf va) = none) (hva : va < 2 ^ 56)
    (htr : translate s s.myCtx (s.master s.me.grid) va .fetch = .ok p) :
    s.prefetch va = { s with fills := s.fills ++ [(stationOf s.me.core, s.myCtx, lineOf va, s.now + 160)] } := by
  unfold State.prefetch
  rw [if_neg (Nat.not_le_of_lt hva), htr]
  refine if_neg ?_
  rw [hline, hdue]
  exact Bool.false_ne_true

theorem execPref_next {w : UF} {s : State} (hg : kxPass s.me w.kx = true) : exec (.pref w) s = .next
    ((if s.kPoison (if w.a = 511 then [] else [(w.a.toNat, 2)]) then s else s.prefetch (s.prefTarget w)).advance (kxLen w.kx) 1) :=
  s.uniRun_next w.kx [] false _ hg s.kPoison_nil

/-! The CSRs (R310). -/

/-- A register of k low bits keeps those of what is written. -/
theorem setWidth_low (x : Word) : (x.setWidth 5).setWidth 32 = x &&& 0x1F := by
  refine BitVec.eq_of_toNat_eq ?_
  simp only [BitVec.toNat_setWidth, BitVec.toNat_and]
  rw [show (0x1F : Word).toNat = 2 ^ 5 - 1 from rfl, Nat.and_two_pow_sub_one_eq_mod]
  exact Nat.mod_eq_of_lt (Nat.lt_of_lt_of_le (Nat.mod_lt _ (by decide)) (by decide))

theorem State.ctx_onCtx_same {s : State} {c : Nat} (f : Ctx → Ctx) (hc : c < s.ctxs.length) : (s.onCtx c f).ctx c = f (s.ctx c) :=
  (nth_setNth _ _ _ _ _).trans (if_pos ⟨rfl, hc⟩)

/-- FSTAT of a placed block reads what was written of its defined bits (R4, R150, R310). -/
theorem State.setFstat_csr {s : State} (x : Word) (hb : s.anchorBlk ≠ 0) (hplaced : ∃ b, b ∈ s.blocks ∧ b.uid = s.anchorBlk) :
    (s.setCsr 4 x).csr 4 = x &&& 0xFFFFFF0F := by
  have hset : s.setCsr 4 x = s.onBlock s.anchorBlk fun b => { b with fstat := fstatMask x } := if_neg hb
  have hanchor : (s.onBlock s.anchorBlk fun b => { b with fstat := fstatMask x }).anchorBlk = s.anchorBlk := rfl
  rw [hset]
  change State.fstatOf _ = _
  unfold State.fstatOf
  rw [hanchor, if_neg hb, State.block_onBlock_same (by intro _; rfl)]
  · rfl
  · obtain ⟨b, hmem, hu⟩ := hplaced
    exact List.find?_isSome.mpr ⟨b, hmem, decide_eq_true hu⟩

/-- Settles O34: each function by its outcomes, and each CSR that is written. -/
theorem systemFunctions : Obligations.SystemFunctions := by
  unfold Obligations.SystemFunctions
  refine ⟨fun w s hg => ?functions, fun s x => ?csrs⟩
  case functions =>
    intro goes
    refine ⟨OnlyAdvances.of_advance (s.uniRun_next w.kx [] false _ hg s.kPoison_nil),
      OnlySwitches.of_switch (s.uniRun_next w.kx [] true _ hg s.kPoison_nil), ?pref, fun hp => ⟨?csrw, ?hsig⟩, fun hp => ?hflush⟩
    case pref =>
      intro va stn bad
      have hexec := execPref_next hg
      refine ⟨fun h => ?_, fun p hbad hline hdue hva htr => ?_⟩
      · refine OnlyAdvances.of_advance (hexec.trans (congrArg (fun u : State => Host.Outcome.next (u.advance (kxLen w.kx) 1)) ?_))
        by_cases hbad : bad = true
        · exact if_pos hbad
        · exact (if_neg hbad).trans (State.prefetch_none (h.resolve_left hbad))
      · rw [if_neg (not_true_of_false hbad), State.prefetch_starts hline hdue hva htr] at hexec
        exact ⟨_, hexec, rfl, rfl⟩
    case csrw => exact Completes.of_switch (s.uniRun_next w.kx [(w.a.toNat, 1)] true _ hg hp)
    case hsig => exact Completes.of_switch (s.uniRun_next w.kx [(w.a.toNat, 1)] true _ hg hp)
    case hflush =>
      intro base len
      have hexec : exec (.hflush w) s = _ := s.uniRun_next w.kx [(w.a.toNat, 2), (w.b.toNat, 1)] true _ hg hp
      dsimp only at hexec
      refine ⟨fun hlen => ?_, fun hlen hout => ?_, fun va hlen hbase hend hpoison => ?_, fun hlen hbase hend hclean => ?_⟩
      · exact OnlySwitches.of_switch (hexec.trans (congrArg Host.Outcome.next (if_pos hlen)))
      · exact hexec.trans (congrArg Host.Outcome.next ((if_neg hlen).trans (if_pos hout)))
      all_goals
        have hin : ¬(2 ^ 56 ≤ base ∨ 2 ^ 56 < base + len) := not_or.mpr ⟨Nat.not_le_of_lt hbase, Nat.not_lt_of_le hend⟩
        rw [if_neg hlen, if_neg hin] at hexec
      · rw [hpoison] at hexec
        exact hexec
      · rw [hclean] at hexec
        exact Completes.of_switch hexec
  case csrs =>
    refine ⟨setWidth_low x, rfl, setWidth_low x, s.setFstat_csr x, fun hc => ?_, rfl, rfl, rfl⟩
    have hsp (f : Ctx → Ctx) (sel : Ctx → Word) (hsel : sel (f (s.ctx s.myCtx)) = 0) : sel ((s.onCtx s.myCtx f).ctx s.myCtx) = 0 :=
      (congrArg sel (State.ctx_onCtx_same f hc)).trans hsel
    exact ⟨hsp _ Ctx.spstat rfl, hsp _ Ctx.spblk rfl, hsp _ Ctx.spstat rfl, hsp _ Ctx.spblk rfl, hsp _ Ctx.cpstat rfl⟩

end Sys2Proof.Machine
end

section
/-! SUPPORT. One record in a trap queue (R383). -/

namespace Sys2Proof.Machine

section Frame
variable {s t : State} (h : HubFrame s t)
include h

theorem HubFrame.window : t.window = s.window := by rw [h]

theorem HubFrame.groups : t.groups = s.groups := by rw [h]

theorem HubFrame.grids : t.grids = s.grids := by rw [h]

theorem HubFrame.blocks : t.blocks = s.blocks := by rw [h]

end Frame

/-- Where a function's next record goes. -/
def TrapQueue.place (q : TrapQueue) : Nat := field q.base.toNat 18 38 * 2 ^ 18 + 64 * (q.prod.toNat % 4096)

section PutPhys
variable (s : State) (a : Nat) (bs : List Byte)

theorem State.putPhys_hbm : (s.putPhys false a bs).hbm = Memory.putBytes s.hbm a bs := by
  rw [s.putPhys_mem a bs]

theorem State.putPhys_sysMem : (s.putPhys false a bs).sysMem = s.sysMem := by
  rw [s.putPhys_mem a bs]

theorem State.putPhys_queues : (s.putPhys false a bs).queues = s.queues := by
  rw [s.putPhys_mem a bs]

theorem State.putPhys_unrecorded : (s.putPhys false a bs).unrecorded = s.unrecorded := by
  rw [s.putPhys_mem a bs]

end PutPhys

section WriteRecord
variable (s : State) (f : Nat) (r : TrapRec)

/-- Memory after the hub has written a record, or logged its denial. -/
def State.recordPut : State :=
  s.putAs hubMaster ((s.queue f).base.getLsbD 63) (s.queue f).place (r.bytes (decide ((s.queue f).prod.toNat / 4096 % 2 = 0)))

theorem State.writeRecord_hbm : (s.writeRecord f r).hbm = (s.recordPut f r).hbm := by
  unfold State.writeRecord
  dsimp only
  split <;> rfl

theorem State.writeRecord_sysMem : (s.writeRecord f r).sysMem = (s.recordPut f r).sysMem := by
  unfold State.writeRecord
  dsimp only
  split <;> rfl

theorem State.writeRecord_unrecorded : (s.writeRecord f r).unrecorded = (s.recordPut f r).unrecorded := by
  unfold State.writeRecord
  dsimp only
  split <;> rfl

theorem State.writeRecord_queues : (s.writeRecord f r).queues =
    setNth (s.recordPut f r).queues f { s.queue f with prod := (s.queue f).prod + 1 } := by
  unfold State.writeRecord
  dsimp only
  split <;> rfl

theorem State.recordPut_mem (hdev : (s.queue f).base.getLsbD 63 = false)
    (hok : accessOk s ((s.queue f).place / 4096 % 8) hubMaster (s.queue f).place .write = true) : s.recordPut f r =
    s.putPhys false (s.queue f).place (r.bytes (decide ((s.queue f).prod.toNat / 4096 % 2 = 0))) := by
  unfold State.recordPut State.putAs
  rw [hdev]
  exact if_pos hok

end WriteRecord

/-- A record that the hub may write into a queue in device memory stands at its head, and the producer count rises (R383). -/
theorem State.writeRecord_stored (s : State) {f : Nat} (r : TrapRec) (hf : f < s.queues.length) (hdev : (s.queue f).base.getLsbD 63 = false)
    (hok : accessOk s ((s.queue f).place / 4096 % 8) hubMaster (s.queue f).place .write = true) (hwf : Memory.wf s.hbm = true) :
    let q := s.queue f
    let t := s.writeRecord f r
    StoredAt s.hbm t.hbm q.place (r.bytes (decide (q.prod.toNat / 4096 % 2 = 0))) ∧ (t.queue f).prod = q.prod + 1 ∧ t.sysMem = s.sysMem ∧
      t.unrecorded = s.unrecorded := by
  intro q t
  have hput := s.recordPut_mem f r hdev hok
  have hkept : (s.recordPut f r).queues = s.queues := (congrArg State.queues hput).trans (State.putPhys_queues _ _ _)
  have hhbm : t.hbm = _ := (s.writeRecord_hbm f r).trans ((congrArg State.hbm hput).trans (State.putPhys_hbm _ _ _))
  have hqueues : (s.writeRecord f r).queues = setNth s.queues f { s.queue f with prod := (s.queue f).prod + 1 } := by
    rw [s.writeRecord_queues f r, hkept]
  refine ⟨?_, ?_, (s.writeRecord_sysMem f r).trans ((congrArg State.sysMem hput).trans (State.putPhys_sysMem _ _ _)),
    (s.writeRecord_unrecorded f r).trans ((congrArg State.unrecorded hput).trans (State.putPhys_unrecorded _ _ _))⟩
  · exact (congrArg (fun m => StoredAt s.hbm m q.place (r.bytes (decide (q.prod.toNat / 4096 % 2 = 0)))) hhbm).mpr
      (Memory.storedAt_putBytes hwf)
  · exact congrArg TrapQueue.prod ((congrArg (fun l => nth l f ⟨0, 0, 0, 0⟩) hqueues).trans
      ((nth_setNth _ _ _ _ _).trans (if_pos ⟨rfl, hf⟩)))

/-- A queue with room by the hub's own count is not read first. -/
theorem State.refreshQueue_room {s : State} {f n : Nat} (h : 8 + n ≤ queueFree (s.queue f)) : s.refreshQueue f n = s :=
  if_neg fun hc => Nat.not_le_of_lt hc.1 h

end Sys2Proof.Machine
end

section
/-! The statement on replayable traps (19, 13). -/

namespace Sys2Proof.Machine

/-- What a replayable trap of some lanes leaves of its group, as it holds it (R385, R388). -/
def State.heldFor (s : State) (tk n cause va replays : Nat) (lanes : BitVec 32) : State :=
  { s with me := { s.me with
    park := some .held, parkedAt := s.now, heldItem := some ⟨tk, false, [(cause, va, n)], lanes, replays, false, []⟩ } }

/-- The record of a replayable trap. -/
def State.heldRec (s : State) (tk n cause va kv : Nat) (lanes : BitVec 32) : TrapRec :=
  { s.me.trapRec s cause with
    cause := cause, replay := true, token := tk, va := va, kv := kv, mask := lanes.toNat, tid := (s.me.thread (lowLane lanes)).tid.toNat
    nrec := 1, irec := 0, gen := n }

/-- The token of an item: a held one keeps it (R388). -/
def State.heldToken (s : State) : Nat :=
  match s.me.heldItem with | some h => h.token | none => s.freshToken

theorem State.trace_off {s : State} (h : s.sec.trBase.getLsbD 0 = false) (c stn gslot : Nat) : s.trace c stn gslot = s := by
  unfold State.trace
  rw [h]
  rfl

/-- One record for a queue with room and nothing that waits is written there and then. -/
theorem State.postHeld_one {u : State} {f h : Nat} {r : TrapRec} (hroom : 9 ≤ queueFree (u.queue f)) (hnone : u.unrecorded = []) :
    u.postHeld f h [r] = u.writeRecord f r := by
  have hwaits : ¬(u.unrecorded.any (fun x => x.fn == f) || decide (queueFree (u.queue f) < 8 + [r].length)) = true := by
    rw [hnone, List.any_nil, Bool.false_or, decide_eq_true_iff]
    exact Nat.not_lt_of_le hroom
  unfold State.postHeld
  rw [State.refreshQueue_room hroom]
  exact if_neg hwaits

section Replayable
variable {s : State} {cause : Nat} (va kv : Nat) (lanes : BitVec 32) (hc : replayable cause = true)
include hc

theorem State.takeTrap_held (hr : (s.me.trapRec s cause).rcnt ≠ 15) :
    let u := s.heldFor s.heldToken (genOf s.me.heldItem cause va) cause va (s.me.trapRec s cause).rcnt lanes
    s.takeTrap cause lanes va kv 0 = (u.trace (s.me.trapRec s cause).ctx (s.me.trapRec s cause).stn (s.me.trapRec s cause).gslot).postHeld
      (u.ctx (s.me.trapRec s cause).ctx).fn s.me.grid [s.heldRec s.heldToken (genOf s.me.heldItem cause va) cause va kv lanes] := by
  unfold State.takeTrap State.takeReplayable
  rw [if_pos hc]
  dsimp only [List.headD_cons]
  rw [if_neg hr]
  unfold State.heldFor State.heldRec State.heldToken
  simp only [mapFrom, List.foldl_cons, List.foldl_nil, BitVec.ofNat_eq_ofNat, BitVec.zero_or, List.map_cons, List.map_nil,
    List.length_singleton] <;> rfl

theorem State.takeTrap_limit {h : Held} (hh : s.me.heldItem = some h) (hr : h.replays = 15) : s.takeTrap cause lanes va kv 0 =
    s.takeFatal { s.me.trapRec s cause with
      cause := 0x10, va := va, mask := lanes.toNat, tid := (s.me.thread (lowLane lanes)).tid.toNat } := by
  have hrcnt : (s.me.trapRec s cause).rcnt = 15 := by simp [Group.trapRec, hh, hr]
  unfold State.takeTrap
  rw [if_pos hc]
  unfold State.takeReplayable
  dsimp only [List.headD_cons]
  rw [if_pos hrcnt]
  simp only [List.foldl_cons, List.foldl_nil, BitVec.ofNat_eq_ofNat, BitVec.zero_or]
  rfl

/-- The first trap of an item, with room in its queue and no trace. -/
theorem State.takeTrap_first (hh : s.me.heldItem = none) (hroom : 9 ≤ queueFree (s.queue (s.ctx s.myCtx).fn)) (hnone : s.unrecorded = [])
    (htrace : s.sec.trBase.getLsbD 0 = false) : s.takeTrap cause lanes va kv 0 =
      (s.heldFor s.freshToken 0 cause va 0 lanes).writeRecord (s.ctx s.myCtx).fn (s.heldRec s.freshToken 0 cause va kv lanes) := by
  have hrcnt : (s.me.trapRec s cause).rcnt = 0 := by simp [Group.trapRec, hh]
  have htoken : s.heldToken = s.freshToken := by simp [State.heldToken, hh]
  have hgen : genOf s.me.heldItem cause va = 0 := by simp [genOf, hh]
  have hheld := s.takeTrap_held va kv lanes hc (by rw [hrcnt]; decide)
  dsimp only at hheld
  rw [hrcnt, htoken, hgen] at hheld
  generalize hu : s.heldFor s.freshToken 0 cause va 0 lanes = u at hheld ⊢
  have htraceU : u.sec.trBase.getLsbD 0 = false := by rw [← hu]; exact htrace
  rw [State.trace_off htraceU] at hheld
  subst hu
  exact hheld.trans (State.postHeld_one hroom hnone)

end Replayable

/-- Of the same cause and address GEN is one higher, and 0 of another (R388). -/
theorem genOf_some (h : Held) (cause va : Nat) : (∀ m, h.faults = [(cause, va, m)] → genOf (some h) cause va = m + 1) ∧
    ((∀ m, (cause, va, m) ∉ h.faults) → genOf (some h) cause va = 0) := by
  unfold genOf
  refine ⟨fun m hm => ?_, fun hnone => ?_⟩
  · simp [hm]
  · have : (h.faults.find? fun y => y.1 == cause && y.2.1 == va) = none := by
      rw [List.find?_eq_none]
      rintro ⟨c, v, m⟩ hmem heq
      simp only [Bool.and_eq_true, beq_iff_eq] at heq
      obtain ⟨rfl, rfl⟩ := heq
      exact hnone m hmem
    simp [this]

/-- Settles O36: the first trap of an item and its record, and one that traps again. -/
theorem replayableTrap : Obligations.ReplayableTrap := by
  unfold Obligations.ReplayableTrap
  refine ⟨fun s cause va kv lanes hc hh => ?first, fun s cause va kv lanes h hc hh => ⟨fun hr => ?limit, fun hr => ?again⟩⟩
  case first =>
    intro c f q at_ tk hf hon hdev hroom hnone hok htrace hwf t entry
    have ht : t = (s.heldFor tk 0 cause va 0 lanes).writeRecord f (s.heldRec tk 0 cause va kv lanes) :=
      State.takeTrap_first va kv lanes hc hh hroom hnone htrace
    have hentry : s.heldRec tk 0 cause va kv lanes = entry := rfl
    have hframe := (s.heldFor tk 0 cause va 0 lanes).writeRecord_hub f (s.heldRec tk 0 cause va kv lanes)
    obtain ⟨hstored, hprod, hsys, hunrec⟩ :=
      (s.heldFor tk 0 cause va 0 lanes).writeRecord_stored (s.heldRec tk 0 cause va kv lanes) hf hdev hok hwf
    rw [← ht] at hframe hstored hprod hsys hunrec
    rw [hentry] at hstored
    exact ⟨hframe.me, hstored, hsys, hframe.window, hprod, hframe.groups, hframe.grids, hframe.blocks,
      hunrec.trans hnone⟩
  case limit => exact State.takeTrap_limit va kv lanes hc hh hr
  case again =>
    obtain ⟨hsame, hother⟩ := genOf_some h cause va
    refine ⟨genOf (some h) cause va, ?_, hsame, hother⟩
    have hrcnt : (s.me.trapRec s cause).rcnt = h.replays := by simp [Group.trapRec, hh]
    have htoken : s.heldToken = h.token := by simp [State.heldToken, hh]
    have hheld := s.takeTrap_held va kv lanes hc (by rw [hrcnt]; exact hr)
    dsimp only at hheld
    rw [hrcnt, htoken, hh] at hheld
    rw [hheld]
    exact ((State.trace_hub _ _ _ _).trans (State.postHeld_hub _ _ _ _)).me

end Sys2Proof.Machine
end

section
/-! The statement on REPLAY and RESUME (19, 14). -/

namespace Sys2Proof.Machine

/-- Without a guard the active threads are those of C, but for the lanes that a replay leaves out (R389). -/
theorem Group.active_none_eq (g : Group) : g.active none = g.cur &&& g.replayMask := by
  refine BitVec.eq_of_getLsbD_eq fun i hi => ?_
  unfold Group.active
  rw [BitVec.getLsbD_and, getLsbD_maskOf hi]
  exact Bool.and_true _

theorem Group.lane_released (g : Group) (now i : Nat) :
    (g.released now).lane i = (g.lane i).map fun a => { a with lat := List.replicate 8 0, clkHi := none } := Group.lane_onAll _ _ _

theorem Group.cur_released (g : Group) (now : Nat) : (g.released now).cur = g.cur := by
  have hlive : (g.released now).live = g.live := by
    funext i
    unfold Group.live
    rw [g.lane_released]
    cases g.lane i <;> rfl
  unfold Group.cur Group.liveMask
  rw [hlive]
  rfl

section Held
variable {g : Group} {h : Held} (now : Nat) (hh : g.heldItem = some h)
include hh

theorem Group.replayed_eq : g.replayed now =
    { g.released now with heldItem := some { h with replays := h.replays + 1, again := true } } := by
  unfold Group.replayed
  rw [hh]

theorem Group.replayed_active : (g.replayed now).active none = g.cur &&& h.mask := by
  rw [Group.active_none_eq, Group.replayed_eq now hh]
  exact congrArg (· &&& h.mask) (g.cur_released now)

end Held

theorem Group.resumed_active (g : Group) (now : Nat) : (g.resumed now).active none = g.cur := by
  rw [Group.active_none_eq]
  exact BitVec.and_allOnes.trans (g.cur_released now)

/-- An operation that was found under its number is found there in its new form. -/
theorem State.op_putOp {s : State} {o x : Op} (hx : x.id = o.id) (ho : o ∈ s.ops) : (s.putOp x).op o.id = some x := by
  unfold State.op State.putOp
  dsimp only
  obtain ⟨y, hy⟩ := Option.isSome_iff_exists.mp (List.find?_isSome.mpr ⟨o, ho, beq_self_eq_true o.id⟩ :
    (s.ops.find? fun p => p.id == o.id).isSome = true)
  have hyid : y.id = o.id := by simpa using List.find?_some hy
  have hkeep : ((fun p : Op => p.id == o.id) ∘ fun p => if p.id = x.id then x else p) = fun p => p.id == o.id := by
    funext p
    rw [Function.comp_apply]
    split
    next hp => rw [hx, hp, hx]
    next => rfl
  rw [List.find?_map, hkeep, hy, Option.map_some, if_pos (hyid.trans hx.symm)]

theorem State.mem_putOp {s : State} {x y : Op} (hy : y.id ≠ x.id) : y ∈ (s.putOp x).ops ↔ y ∈ s.ops := by
  unfold State.putOp
  rw [List.mem_map]
  constructor
  · rintro ⟨p, hp, heq⟩
    split at heq
    · exact absurd (congrArg Op.id heq).symm hy
    · exact heq ▸ hp
  · exact fun h => ⟨y, h, if_neg hy⟩

/-- Settles O38: by what the token names. -/
theorem replayAndResume : Obligations.ReplayAndResume := by
  unfold Obligations.ReplayAndResume
  refine fun s c tk => ⟨fun g hg => ?group, fun hg ho => ?none, fun o hg ho => ?op, fun g h now hh => ?begins⟩
  case group =>
    unfold State.doReplay State.doResume
    rw [hg]
    refine ⟨fun hr => ?_, fun hr => ?_⟩ <;> simp only [hr, if_true, Bool.false_eq_true, if_false, and_self]
  case none =>
    unfold State.doReplay State.doResume
    rw [hg, ho]
    exact ⟨rfl, rfl⟩
  case op =>
    unfold State.doReplay State.doResume
    rw [hg, ho]
    exact ⟨rfl, rfl, rfl, State.op_putOp (x := o.replayed) rfl (List.mem_of_find?_eq_some ho), fun x hx => State.mem_putOp (x := o.replayed) hx⟩
  case begins =>
    have hreplayed := Group.replayed_eq now hh
    refine ⟨by rw [hreplayed]; rfl, by rw [hreplayed], Group.replayed_active now hh, rfl, rfl, g.resumed_active now, fun x hx => ?_⟩
    obtain rfl | rfl : x = g.replayed now ∨ x = g.resumed now := by simpa using hx
    · rw [hreplayed]
      exact ⟨rfl, rfl, rfl, fun i => g.lane_released now i⟩
    · exact ⟨rfl, rfl, rfl, fun i => g.lane_released now i⟩

end Sys2Proof.Machine
end

section
/-! SUPPORT. What the hub's writes at the end of a grid may change: memory and what hangs on it, and what waits for the host. -/

namespace Sys2Proof.Machine

/-- Of `t`, everything but memory, atomic state and what waits for the host is as in `s`. -/
def ReachFrame (s t : State) : Prop :=
  t = { s with
    hbm := t.hbm, sysMem := t.sysMem, window := t.window, flushed := t.flushed, fixes := t.fixes, poison := t.poison, sec := t.sec
    msix := t.msix, atoms := t.atoms, hubWords := t.hubWords, hubWaits := t.hubWaits, priNext := t.priNext, priWaits := t.priWaits
    ctxs := t.ctxs, tlb := t.tlb, futures := t.futures }

theorem ReachFrame.refl (s : State) : ReachFrame s s := rfl

theorem ReachFrame.trans {s t u : State} (h : ReachFrame s t) (h' : ReachFrame t u) : ReachFrame s u := by
  unfold ReachFrame at h'
  rw [h'] at *
  unfold ReachFrame at h
  rw [h]
  rfl

theorem ReachFrame.ite {c : Prop} [Decidable c] {s t u : State} (ht : ReachFrame s t) (hu : ReachFrame s u) :
    ReachFrame s (if c then t else u) := by
  split <;> assumption

theorem ReachFrame.foldl {α : Type} {f : State → α → State} (hf : ∀ s a, ReachFrame s (f s a)) (l : List α) (s : State) :
    ReachFrame s (l.foldl f s) := by
  induction l generalizing s with
  | nil => rfl
  | cons a l ih => exact (hf s a).trans (ih _)

theorem State.dropFixes_reach (s : State) (l : Loc) (n : Nat) : ReachFrame s (s.dropFixes l n) := by
  unfold State.dropFixes; split <;> rfl

theorem State.clearWords_reach (s : State) (l : Loc) (b n : Nat) : ReachFrame s (s.clearWords l b n) := by
  unfold State.clearWords; split <;> rfl

theorem State.putPhys_reach (s : State) (sys : Bool) (a : Nat) (bs : List Byte) : ReachFrame s (s.putPhys sys a bs) := by
  have h := (s.dropFixes_reach (if sys then .sys a else .mem a) bs.length).trans
    (State.clearWords_reach _ (if sys then .sys 0 else .mem (a / 8)) (a % 8) bs.length)
  exact .ite (h.trans rfl) (h.trans rfl)

theorem State.logDenial_reach (s : State) (target master addr : Nat) (k : Access) : ReachFrame s (s.logDenial target master addr k) := by
  unfold State.logDenial; dsimp only; split <;> rfl

theorem State.putAs_reach (s : State) (master : Nat) (sys : Bool) (a : Nat) (bs : List Byte) : ReachFrame s (s.putAs master sys a bs) :=
  .ite (s.putPhys_reach sys a bs) (s.logDenial_reach _ _ _ _)

theorem State.readHub_reach (s : State) (sys : Bool) (a n : Nat) : ReachFrame s (s.readHub sys a n).2 := by
  unfold State.readHub
  split
  · rfl
  · exact s.logDenial_reach _ _ _ _

theorem State.putWin_reach (s : State) (off : Nat) (bs : List Byte) : ReachFrame s (s.putWin off bs) :=
  (s.clearWords_reach _ _ _).trans rfl

theorem State.hubWait_reach (s : State) (w : HubWait) : ReachFrame s (s.hubWait w) := by
  unfold State.hubWait State.askPage
  split <;> rfl

theorem State.settle_reach (s : State) (l : Loc) (bs : List Byte) : ReachFrame s (s.settle l bs) := by
  unfold State.settle
  split
  · exact s.putPhys_reach _ _ _
  · exact s.putPhys_reach _ _ _
  · rfl

theorem State.leaveBytes_reach (s : State) (p : Party) : ReachFrame s (s.leaveBytes p) :=
  ReachFrame.foldl (fun t (x : Loc × Byte) => t.settle_reach x.1 [x.2]) _ _

theorem State.tornViews_reach (s : State) (h : Nat) : ReachFrame s (s.tornViews h) :=
  (ReachFrame.foldl (fun t (c : VCell) => .ite (.refl t) (t.settle_reach c.loc [c.byte])) _ _).trans
    (ReachFrame.foldl (fun t (o : Op) => t.leaveBytes_reach o.party) _ _)

theorem State.dropAtom_reach (s : State) (live dead deadBlocks : List Nat) (a : AtomWord) :
    ReachFrame s (s.dropAtom live dead deadBlocks a) := by
  unfold State.dropAtom
  split
  · exact .ite rfl rfl
  · exact .ite (s.settle_reach _ _) rfl

theorem State.hubWrite_reach (s : State) (c va : Nat) (bs : List Byte) : ReachFrame s (s.hubWrite c va bs) := by
  unfold State.hubWrite
  split
  · exact s.putWin_reach _ _
  · exact s.putPhys_reach _ _ _
  · exact s.putPhys_reach _ _ _
  · exact s.logDenial_reach _ _ _ _
  · exact s.hubWait_reach _
  · rfl

/-- One word of an exchange by the hub (R374). -/
def State.exchangeOne (s : State) (c : Nat) (l : Loc) (x : Nat) : State :=
  match findAtom l s.atoms with
  | some a => { s with atoms := putAtom { a with val := BitVec.ofNat 32 x } s.atoms }
  | none =>
    let live := (s.grids.filter fun y => decide (y.ctx = c ∧ (y.state = 2 ∨ y.state = 3))).map fun y => y.handle
    { s.settle l (natLe x 4) with hubWords := (l, BitVec.ofNat 32 x, live) :: s.hubWords.filter fun y => y.1 != l }

theorem State.exchangeOne_reach (s : State) (c : Nat) (l : Loc) (x : Nat) : ReachFrame s (s.exchangeOne c l x) := by
  unfold State.exchangeOne
  split
  · rfl
  · exact (s.settle_reach _ _).trans rfl

theorem State.exchangeWord_reach (s : State) (c va v : Nat) : ReachFrame s (s.exchangeWord c va v) := by
  have hone (t : State) (l : Loc) (x : Nat) := t.exchangeOne_reach c l x
  unfold State.exchangeWord
  dsimp only
  split
  · exact s.putWin_reach _ _
  · exact ((hone s _ _).trans (hone _ _ _)).trans (State.clearWords_reach _ _ _ _)
  · exact (hone s _ _).trans (hone _ _ _)
  · exact s.logDenial_reach _ _ _ _
  · exact s.hubWait_reach _
  · rfl

theorem State.completionWord_reach (s : State) (h : Nat) (good : Bool) : ReachFrame s (s.completionWord h good) :=
  .ite rfl (s.exchangeWord_reach _ _ _)

theorem releaseRoom_reach (c : Ctx) (i n : Nat) (s : State) : ReachFrame s (releaseRoom c i n s).2 := by
  induction n generalizing i s with
  | zero => rfl
  | succ n ih =>
    unfold releaseRoom
    dsimp only
    split
    · exact (s.readHub_reach _ _ _).trans (ih _ _)
    · exact s.readHub_reach _ _ _

/-- Pages return to the pool (R359): of the grid, only those it holds change. -/
theorem State.releasePages_reach (s : State) (h : Nat) : ∃ u ps, ReachFrame s u ∧
    s.releasePages h = u.onGrid h fun x => { x with privPages := ps, vlogPages := [], privRoot := none, privFree := [] } := by
  refine ⟨_, _, ?_, rfl⟩
  exact ((releaseRoom_reach _ _ _ _).trans (ReachFrame.foldl (fun t x => t.putAs_reach _ _ _ _) _ _)).trans rfl

end Sys2Proof.Machine
end

section
/-! The statement on fatal traps (19, 18, 15). -/

namespace Sys2Proof.Machine

/-! What a teardown keeps of the grids. -/

/-- What a grid keeps when it or another one is torn down. -/
def Grid.tornKey (g : Grid) : Nat × Nat × Nat := (g.handle, g.ctx, g.phases)

/-- Grids whose keys stand are found with theirs. -/
theorem State.grid_tornKey {s t : State} (h : t.grids.map Grid.tornKey = s.grids.map Grid.tornKey) (n : Nat) :
    (t.grid n).tornKey = (s.grid n).tornKey := by
  have hfind (l : List Grid) : ((l.find? fun g => g.handle == n).getD Grid.empty).tornKey =
      ((l.map Grid.tornKey).find? fun k => k.1 == n).getD Grid.empty.tornKey := by
    rw [List.find?_map]
    change _ = (Option.map _ (l.find? fun g => g.handle == n)).getD _
    cases l.find? fun g => g.handle == n <;> rfl
  unfold State.grid
  rw [hfind, hfind, h]

theorem State.grid_ctx_of_keys {s t : State} (h : t.grids.map Grid.tornKey = s.grids.map Grid.tornKey) (n : Nat) :
    (t.grid n).ctx = (s.grid n).ctx := congrArg (fun k => k.2.1) (State.grid_tornKey h n)

theorem State.badEnd_of_keys {s t : State} (h : t.grids.map Grid.tornKey = s.grids.map Grid.tornKey) (n : Nat) :
    (t.grid n).badEnd = (s.grid n).badEnd := by
  have hphases : (t.grid n).phases = (s.grid n).phases := congrArg (fun k => k.2.2) (State.grid_tornKey h n)
  funext ph
  unfold Grid.badEnd
  rw [hphases]

/-- The grids of a teardown so far: every one is an old one, and those that were reached are TORN. -/
def TornGrids (s : State) (reached : List Nat) (t : State) : Prop :=
  ∀ g, g ∈ t.grids → ∃ g0, g0 ∈ s.grids ∧ g.handle = g0.handle ∧ g.fd = g0.fd ∧ (g.state = g0.state ∨ g.state = 6) ∧
    (g.handle ∈ reached → g.state = 6)

/-! What a group learns. -/

/-- A group that is released from its GWAIT, if it is (R339). -/
def Group.takeEnd (g : Group) : Option (Option Edge) → Group
  | some e => { g with park := some (.gwaitOver e) }
  | none => g

/-- What a group that waits for the end of one of some grids learns (R339). -/
def State.verdict (s : State) (hs : List Nat) (g : Group) : Option (Option Edge) :=
  g.gwaits.bind fun x => if x.1 ∈ hs ∧ (s.grid g.grid).ctx = (s.grid x.1).ctx then (s.grid x.1).badEnd x.2 else none

theorem Group.gwaits_takeEnd (g : Group) (e : Option Edge) : (g.takeEnd (some e)).gwaits = none := rfl

theorem State.verdict_of_not (s : State) (hs : List Nat) {g : Group} (hg : g.gwaits = none) : s.verdict hs g = none := by
  unfold State.verdict
  rw [hg]
  rfl

theorem State.verdict_of (s : State) (hs : List Nat) {g : Group} {n : Nat} {ph : Option Word} (hg : g.gwaits = some (n, ph)) :
    s.verdict hs g = if n ∈ hs ∧ (s.grid g.grid).ctx = (s.grid n).ctx then (s.grid n).badEnd ph else none := by
  unfold State.verdict
  rw [hg]
  rfl

theorem State.verdict_nil (s : State) (g : Group) : s.verdict [] g = none := by
  cases hg : g.gwaits with
  | none => exact s.verdict_of_not [] hg
  | some x => exact (s.verdict_of [] hg).trans (if_neg fun h => absurd h.1 List.not_mem_nil)

/-- One more grid of a teardown tells those that still wait. -/
theorem State.takeEnd_verdict (s : State) (hs : List Nat) (h : Nat) (g : Group) :
    (g.takeEnd (s.verdict hs g)).takeEnd (s.verdict [h] (g.takeEnd (s.verdict hs g))) = g.takeEnd (s.verdict (hs ++ [h]) g) := by
  cases hg : g.gwaits with
  | none => rw [s.verdict_of_not hs hg, s.verdict_of_not (hs ++ [h]) hg, Group.takeEnd, s.verdict_of_not [h] hg]; rfl
  | some x =>
    obtain ⟨n, ph⟩ := x
    have hall := s.verdict_of (hs ++ [h]) hg
    have hone := s.verdict_of [h] hg
    by_cases hn : n ∈ hs ∧ (s.grid g.grid).ctx = (s.grid n).ctx
    · rw [if_pos ⟨List.mem_append_left _ hn.1, hn.2⟩] at hall
      rw [s.verdict_of hs hg, if_pos hn, hall]
      cases hbad : (s.grid n).badEnd ph with
      | some e =>
        rw [s.verdict_of_not [h] (g.gwaits_takeEnd e)]
        rfl
      | none =>
        rw [Group.takeEnd, hone]
        split
        · rw [hbad]; rfl
        · rfl
    · rw [s.verdict_of hs hg, if_neg hn, Group.takeEnd, hone, hall]
      have hiff : (n ∈ hs ++ [h] ∧ (s.grid g.grid).ctx = (s.grid n).ctx) ↔ (n ∈ [h] ∧ (s.grid g.grid).ctx = (s.grid n).ctx) := by
        rw [List.mem_append]
        tauto
      rw [if_congr hiff rfl rfl]

/-- Grids with the same keys tell the same. -/
theorem State.verdict_of_keys {s t : State} (h : t.grids.map Grid.tornKey = s.grids.map Grid.tornKey) (hs : List Nat) (g : Group) :
    t.verdict hs g = s.verdict hs g := by
  unfold State.verdict
  congr 1
  funext x
  rw [State.grid_ctx_of_keys h, State.grid_ctx_of_keys h, State.badEnd_of_keys h]

/-! One grid. -/

/-- What ends one grid of a torn domain (R396). -/
def State.tearGrid (s : State) (h : Nat) : State :=
  (((s.releasePages h).setGridState h 6 0).completionWord h false).endWaits h fun _ => (s.grid h).badEnd

/-- What the end of a grid may change: memory, the groups that wait, and the grids. -/
def TornFrame (s t : State) : Prop :=
  t = { s with
    me := t.me, groups := t.groups, waiting := t.waiting, images := t.images, grids := t.grids, agenda := t.agenda
    hbm := t.hbm, sysMem := t.sysMem, window := t.window, flushed := t.flushed, fixes := t.fixes, poison := t.poison, sec := t.sec
    msix := t.msix, atoms := t.atoms, hubWords := t.hubWords, hubWaits := t.hubWaits, priNext := t.priNext, priWaits := t.priWaits
    ctxs := t.ctxs, tlb := t.tlb, futures := t.futures }

theorem TornFrame.trans {s t u : State} (h : TornFrame s t) (h' : TornFrame t u) : TornFrame s u := by
  unfold TornFrame at h'
  rw [h'] at *
  unfold TornFrame at h
  rw [h]
  rfl

theorem ReachFrame.torn {s t : State} (h : ReachFrame s t) : TornFrame s t := by
  unfold ReachFrame at h
  rw [h]
  rfl

theorem TornFrame.kept {s t : State} (h : TornFrame s t) : t.blocks = s.blocks ∧ t.episodes = s.episodes ∧ t.ops = s.ops ∧
    t.mmas = s.mmas ∧ t.fatal = s.fatal ∧ t.fatalV = s.fatalV ∧ t.queues = s.queues := by
  unfold TornFrame at h
  rw [h]
  exact ⟨rfl, rfl, rfl, rfl, rfl, rfl, rfl⟩

/-- The groups of a state, wherever they are, as another state has them but for a change. -/
def GroupsBy (f : Group → Group) (s t : State) : Prop :=
  t.me = f s.me ∧ t.groups = s.groups.map f ∧ t.waiting = s.waiting.map f ∧ t.images = s.images.map f

theorem GroupsBy.comp {f g : Group → Group} {s t u : State} (h : GroupsBy f s t) (h' : GroupsBy g t u) :
    GroupsBy (fun x => g (f x)) s u := by
  obtain ⟨hme, hgroups, hwaiting, himages⟩ := h
  obtain ⟨hme', hgroups', hwaiting', himages'⟩ := h'
  exact ⟨by rw [hme', hme], by rw [hgroups', hgroups, List.map_map]; rfl, by rw [hwaiting', hwaiting, List.map_map]; rfl,
    by rw [himages', himages, List.map_map]; rfl⟩

theorem GroupsBy.congr {f g : Group → Group} {s t : State} (h : GroupsBy f s t) (hfg : ∀ x, f x = g x) : GroupsBy g s t :=
  (funext hfg : f = g) ▸ h

/-- What a teardown so far has left of the groups and the grids. -/
structure Torn (s : State) (reached : List Nat) (t : State) : Prop where
  frame : TornFrame s t
  groups : GroupsBy (fun g => g.takeEnd (s.verdict reached g)) s t
  keys : t.grids.map Grid.tornKey = s.grids.map Grid.tornKey
  grids : TornGrids s reached t

/-- The grids that a change of one grid leaves. -/
theorem State.onGrid_keys (s : State) (h : Nat) {f : Grid → Grid} (hf : ∀ g, (f g).tornKey = g.tornKey) :
    (s.onGrid h f).grids.map Grid.tornKey = s.grids.map Grid.tornKey := by
  unfold State.onGrid
  rw [List.map_map]
  refine List.map_congr_left fun g _ => ?_
  rw [Function.comp_apply]
  split
  · exact hf g
  · rfl

theorem ReachFrame.groupsBy {s t : State} (h : ReachFrame s t) : GroupsBy id s t := by
  unfold ReachFrame at h
  rw [h]
  exact ⟨rfl, (List.map_id _).symm, (List.map_id _).symm, (List.map_id _).symm⟩

theorem ReachFrame.grids {s t : State} (h : ReachFrame s t) : t.grids = s.grids := by rw [h]

theorem GroupsBy.refl (s : State) : GroupsBy id s s := ⟨rfl, (List.map_id _).symm, (List.map_id _).symm, (List.map_id _).symm⟩

theorem TornGrids.trans {s t u : State} {l r : List Nat} (h : TornGrids s l t) (h' : TornGrids t r u) : TornGrids s (l ++ r) u := by
  intro g hg
  obtain ⟨g1, hg1, hhandle, hfd, hstate, hreached⟩ := h' g hg
  obtain ⟨g0, hg0, hhandle0, hfd0, hstate0, hreached0⟩ := h g1 hg1
  refine ⟨g0, hg0, hhandle.trans hhandle0, hfd.trans hfd0, ?_, fun hmem => ?_⟩
  · rcases hstate with h1 | h1
    · rwa [h1]
    · exact .inr h1
  · rcases List.mem_append.mp hmem with hl | hr
    · rcases hstate with h1 | h1
      · exact h1.trans (hreached0 (hhandle ▸ hl))
      · exact h1
    · exact hreached hr

/-- Grids that stand, or change neither name, domain nor state. -/
theorem TornGrids.of_map {s t : State} {f : Grid → Grid} (ht : t.grids = s.grids.map f)
    (hf : ∀ g, (f g).handle = g.handle ∧ (f g).fd = g.fd ∧ (f g).state = g.state) : TornGrids s [] t := by
  intro g hg
  rw [ht] at hg
  obtain ⟨g0, hg0, rfl⟩ := List.mem_map.mp hg
  obtain ⟨hhandle, hfd, hstate⟩ := hf g0
  exact ⟨g0, hg0, hhandle, hfd, .inl hstate, fun h => absurd h List.not_mem_nil⟩

theorem ReachFrame.tornGrids {s t : State} (h : ReachFrame s t) : TornGrids s [] t :=
  TornGrids.of_map (f := id) (h.grids.trans (List.map_id _).symm) fun _ => ⟨rfl, rfl, rfl⟩

theorem State.onGrid_tornGrids (s : State) (h : Nat) {f : Grid → Grid}
    (hf : ∀ g, (f g).handle = g.handle ∧ (f g).fd = g.fd ∧ (f g).state = g.state) : TornGrids s [] (s.onGrid h f) := by
  refine TornGrids.of_map (f := fun g => if g.handle = h then f g else g) rfl fun g => ?_
  split
  · exact hf g
  · exact ⟨rfl, rfl, rfl⟩

theorem State.tornState (s : State) (h : Nat) : TornGrids s [h] (s.onGrid h fun x => { x with state := 6 }) := by
  intro g hg
  obtain ⟨g0, hg0, rfl⟩ := List.mem_map.mp hg
  refine ⟨g0, hg0, ?_⟩
  by_cases hh : g0.handle = h
  · rw [if_pos hh]
    exact ⟨rfl, rfl, .inr rfl, fun _ => rfl⟩
  · rw [if_neg hh]
    exact ⟨rfl, rfl, .inl rfl, fun hmem => absurd (List.mem_singleton.mp hmem) hh⟩

/-- A grid's pages, its state and its completion word leave the groups, and of the grids only that one, TORN (R391, R396). -/
theorem State.tearStart_spec (s : State) (h : Nat) :
    let u := ((s.releasePages h).setGridState h 6 0).completionWord h false
    TornFrame s u ∧ GroupsBy id s u ∧ u.grids.map Grid.tornKey = s.grids.map Grid.tornKey ∧ TornGrids s [h] u := by
  intro u
  obtain ⟨a, ps, ha, hpages⟩ := s.releasePages_reach h
  have hu : ReachFrame ((s.releasePages h).setGridState h 6 0) u := State.completionWord_reach _ _ _
  clear_value u
  rw [hpages] at hu
  generalize hb : a.onGrid h (fun x => { x with privPages := ps, vlogPages := [], privRoot := none, privFree := [] }) = b at hu
  have hbFrame : TornFrame a b ∧ GroupsBy id a b := by rw [← hb]; exact ⟨rfl, .refl a⟩
  have hbKeys : b.grids.map Grid.tornKey = a.grids.map Grid.tornKey := by rw [← hb]; exact a.onGrid_keys h fun _ => rfl
  have hbGrids : TornGrids a [] b := by rw [← hb]; exact a.onGrid_tornGrids h fun _ => ⟨rfl, rfl, rfl⟩
  have hc : ReachFrame b (b.hubWrite (b.grid h).ctx ((b.grid h).rcbVa + 0x18) (stateWord (b.grid h) 6 0)) := b.hubWrite_reach _ _ _
  generalize hcs : b.hubWrite (b.grid h).ctx ((b.grid h).rcbVa + 0x18) (stateWord (b.grid h) 6 0) = c at hc
  have hd : b.setGridState h 6 0 = c.onGrid h fun x => { x with state := 6 } := by rw [← hcs]; rfl
  rw [hd] at hu
  have hdFrame : TornFrame c (c.onGrid h fun x => { x with state := 6 }) := rfl
  refine ⟨((((ha.torn.trans hbFrame.1).trans hc.torn).trans hdFrame).trans hu.torn),
    (((ha.groupsBy.comp hbFrame.2).comp hc.groupsBy).comp (GroupsBy.refl c)).comp hu.groupsBy, ?_, ?_⟩
  · rw [hu.grids, c.onGrid_keys h (by intro _; rfl), hc.grids, hbKeys, ha.grids]
  · have hall := ((ha.tornGrids.trans hbGrids).trans hc.tornGrids).trans ((c.tornState h).trans hu.tornGrids)
    simpa using hall

/-- Those that wait for the end of a grid are told (R339). -/
theorem State.endWaits_spec (s : State) (h : Nat) {f : Option Word → Option (Option Edge)} (hf : f = (s.grid h).badEnd) :
    let u := s.endWaits h fun _ => f
    TornFrame s u ∧ GroupsBy (fun g => g.takeEnd (s.verdict [h] g)) s u ∧ u.grids = s.grids := by
  intro u
  have hends (g : Group) : (match g.gwaits.bind fun x =>
      if x.1 = h ∧ (s.grid g.grid).ctx = (s.grid h).ctx then f x.2 else none with
      | some e => { g with park := some (.gwaitOver e) }
      | none => g) = g.takeEnd (s.verdict [h] g) := by
    have hbind : (g.gwaits.bind fun x => if x.1 = h ∧ (s.grid g.grid).ctx = (s.grid h).ctx then f x.2 else none) = s.verdict [h] g := by
      unfold State.verdict
      congr 1
      funext x
      rw [hf]
      by_cases hx : x.1 = h
      · rw [hx]
        simp
      · simp [hx]
    rw [hbind]
    rfl
  have hgroups : GroupsBy (fun g => match g.gwaits.bind fun x =>
      if x.1 = h ∧ (s.grid g.grid).ctx = (s.grid h).ctx then f x.2 else none with
      | some e => { g with park := some (.gwaitOver e) }
      | none => g) s u := ⟨rfl, rfl, rfl, rfl⟩
  exact ⟨rfl, hgroups.congr hends, rfl⟩

/-- One more grid of a teardown. -/
theorem Torn.step {s t : State} {reached : List Nat} (ht : Torn s reached t) (h : Nat) : Torn s (reached ++ [h]) (t.tearGrid h) := by
  obtain ⟨hframe, hgroups, hkeys, hgrids⟩ := t.tearStart_spec h
  generalize hu : ((t.releasePages h).setGridState h 6 0).completionWord h false = u at hframe hgroups hkeys hgrids
  have hbad : (t.grid h).badEnd = (u.grid h).badEnd := (State.badEnd_of_keys hkeys h).symm
  obtain ⟨hframe', hgroups', hgrids'⟩ := u.endWaits_spec h hbad
  have htear : t.tearGrid h = u.endWaits h fun _ => (t.grid h).badEnd := by rw [← hu]; rfl
  rw [htear]
  refine ⟨(ht.frame.trans hframe).trans hframe', ((ht.groups.comp hgroups).comp hgroups').congr fun g => ?_, ?_, ?_⟩
  · rw [id, State.verdict_of_keys (hkeys.trans ht.keys)]
    exact s.takeEnd_verdict reached h g
  · rw [hgrids', hkeys, ht.keys]
  · have := ht.grids.trans hgrids
    unfold TornGrids at this ⊢
    rwa [hgrids']

/-- All grids of a teardown. -/
theorem State.torn_foldl (s : State) (hs : List Nat) : Torn s hs (hs.foldl State.tearGrid s) := by
  have hgo (l : List Nat) : ∀ (pre : List Nat) (t : State), Torn s pre t → Torn s (pre ++ l) (l.foldl State.tearGrid t) := by
    induction l with
    | nil => intro pre t ht; rwa [List.append_nil]
    | cons h l ih =>
      intro pre t ht
      rw [List.append_cons, List.foldl_cons]
      exact ih (pre ++ [h]) _ (ht.step h)
  have hstart : Torn s [] s := by
    refine ⟨rfl, (GroupsBy.refl s).congr fun g => ?_, rfl, fun g hg => ⟨g, hg, rfl, rfl, .inl rfl, fun h => absurd h List.not_mem_nil⟩⟩
    rw [s.verdict_nil]
    rfl
  exact hgo hs [] s hstart

/-! A whole domain. -/

/-- What goes with the grids of a torn domain (R396). -/
def State.discard (s s0 : State) (dead : List Nat) : State :=
  let keep (g : Group) : Bool := !dead.contains g.grid
  { s0 with
    me := if keep s.me then s.me else Group.empty
    groups := s.groups.filter keep
    waiting := s.waiting.filter keep
    images := s.images.filter keep
    frames := s.frames.filter fun f => !dead.contains f.grid
    waits := s.waits.filter fun w => ((s.resident ++ s.waiting ++ s.images).filter keep).any fun g => g.uid == w.1 % 2 ^ 32
    barriers := s.barriers.filter fun b => !dead.contains b.grid
    episodes := s.episodes.filter fun e => !dead.contains e.grid
    bins := s.bins.filter fun b => !dead.contains b.grid
    ops := s.ops.filter fun o => !dead.contains o.grid
    doneOps := s.doneOps.filter fun o => !dead.contains o.grid
    mmas := s.mmas.filter fun m => !dead.contains m.grid
    doneMmas := s.doneMmas.filter fun m => !dead.contains m.grid
    corner := s.corner.filter fun c => !dead.contains c.grid
    unrecorded := s.unrecorded.filter fun u => !dead.contains u.grid
    blocks := s.blocks.filter fun b => !dead.contains b.grid
    binds := s.binds.map (tornBind dead)
    asked := s.asked.filter fun x => !s.asksFor dead x
    pagesTaken := s.pagesTaken.filter fun x => !s.asksFor dead x
    atoms := [] }

/-- A domain whose work is discarded, before its grids end. -/
def State.discarded (s : State) (d : Nat) : State :=
  let dead := s.gridsOf d
  let deadBlocks := (s.blocks.filter fun b => dead.contains b.grid).map fun b => b.uid
  let live := (s.grids.filter fun g => decide (g.state = 2 ∨ g.state = 3)).map fun g => g.handle
  ((s.atoms.foldl (fun t a => t.dropAtom live dead deadBlocks a)
    (s.discard (dead.foldl (fun (t : State) h => t.tornViews h) s) dead)).dropFills).endHandles dead false

theorem State.teardown_eq (s : State) (d : Nat) : s.teardown d = ((s.gridsOf d).foldl State.tearGrid (s.discarded d)).releaseCores := rfl

/-- What a discard leaves of what the statement names. -/
theorem State.discarded_spec (s : State) (d : Nat) :
    let dead := s.gridsOf d
    let t := s.discarded d
    (t.me = if dead.contains s.me.grid then Group.empty else s.me) ∧ t.groups = s.groups.filter (fun g => !dead.contains g.grid) ∧
      t.waiting = s.waiting.filter (fun g => !dead.contains g.grid) ∧ t.images = s.images.filter (fun g => !dead.contains g.grid) ∧
      t.blocks = s.blocks.filter (fun b => !dead.contains b.grid) ∧ t.episodes = s.episodes.filter (fun e => !dead.contains e.grid) ∧
      t.ops = s.ops.filter (fun o => !dead.contains o.grid) ∧ t.mmas = s.mmas.filter (fun m => !dead.contains m.grid) ∧
      t.fatal = s.fatal ∧ t.fatalV = s.fatalV ∧ t.queues = s.queues ∧
      t.grids = s.grids.map fun g => if dead.contains g.parent then { g with parent := tornParent } else g := by
  intro dead t
  generalize hs0 : dead.foldl (fun (t : State) h => t.tornViews h) s = s0
  have hreach0 : ReachFrame s s0 := by rw [← hs0]; exact ReachFrame.foldl (fun t h => t.tornViews_reach h) _ _
  generalize hs1 : s.discard s0 dead = s1
  generalize hu : s.atoms.foldl (fun t a => t.dropAtom ((s.grids.filter fun g => decide (g.state = 2 ∨ g.state = 3)).map fun g => g.handle)
    dead ((s.blocks.filter fun b => dead.contains b.grid).map fun b => b.uid) a) s1 = u
  have hreach : ReachFrame s1 u := by rw [← hu]; exact ReachFrame.foldl (fun t a => t.dropAtom_reach _ _ _ a) _ _
  have ht : t = u.dropFills.endHandles dead false := by rw [← hu, ← hs1, ← hs0]; rfl
  have hs1grids : s1.grids = s.grids := by rw [← hs1]; exact hreach0.grids
  have hs1fatal : s1.fatal = s.fatal ∧ s1.fatalV = s.fatalV ∧ s1.queues = s.queues := by
    rw [← hs1]
    unfold ReachFrame at hreach0
    rw [hreach0]
    exact ⟨rfl, rfl, rfl⟩
  obtain ⟨hfatal, hfatalV, hqueues⟩ := hs1fatal
  clear_value t
  rw [ht]
  have hgrids : (u.dropFills.endHandles dead false).grids = u.grids.map fun g => if dead.contains g.parent then { g with parent := tornParent } else g := by
    unfold State.endHandles State.dropFills
    dsimp only
    exact congrArg (List.map _) (List.filter_eq_self.mpr fun _ _ => rfl)
  rw [hgrids, hreach.grids, hs1grids]
  unfold ReachFrame at hreach
  rw [hreach]
  subst hs1
  refine ⟨?_, rfl, rfl, rfl, rfl, rfl, rfl, rfl, hfatal, hfatalV, hqueues, rfl⟩
  change (if (!dead.contains s.me.grid) = true then s.me else Group.empty) = _
  cases dead.contains s.me.grid <;> rfl

/-- What a teardown leaves of what the statement names (R339, R396). -/
theorem State.teardown_spec (s : State) (d : Nat) :
    let dead := s.gridsOf d
    let t := s.teardown d
    let told (g : Group) : Group := g.takeEnd (s.verdict dead g)
    (t.me = if dead.contains s.me.grid then Group.empty else told s.me) ∧
      t.groups = (s.groups.filter fun g => !dead.contains g.grid).map told ∧
      t.waiting = (s.waiting.filter fun g => !dead.contains g.grid).map told ∧
      t.images = (s.images.filter fun g => !dead.contains g.grid).map told ∧
      t.blocks = s.blocks.filter (fun b => !dead.contains b.grid) ∧ t.episodes = s.episodes.filter (fun e => !dead.contains e.grid) ∧
      t.ops = s.ops.filter (fun o => !dead.contains o.grid) ∧ t.mmas = s.mmas.filter (fun m => !dead.contains m.grid) ∧
      t.fatal = s.fatal ∧ t.fatalV = s.fatalV ∧ t.queues = s.queues ∧ t.gridsOf d = [] := by
  intro dead t told
  obtain ⟨hme, hgroups, hwaiting, himages, hblocks, hepisodes, hops, hmmas, hfatal, hfatalV, hqueues, hgrids⟩ := s.discarded_spec d
  have hkeys : (s.discarded d).grids.map Grid.tornKey = s.grids.map Grid.tornKey := by
    rw [hgrids, List.map_map]
    refine List.map_congr_left fun g _ => ?_
    rw [Function.comp_apply]
    split <;> rfl
  obtain ⟨hframe, ⟨tme, tgroups, twaiting, timages⟩, -, htorn⟩ := (s.discarded d).torn_foldl dead
  have ht : t = (dead.foldl State.tearGrid (s.discarded d)).releaseCores := s.teardown_eq d
  generalize dead.foldl State.tearGrid (s.discarded d) = u at hframe tme tgroups twaiting timages htorn ht
  clear_value t
  obtain ⟨ublocks, uepisodes, uops, ummas, ufatal, ufatalV, uqueues⟩ := hframe.kept
  have htold : (fun g : Group => g.takeEnd ((s.discarded d).verdict dead g)) = told := by
    funext g
    rw [State.verdict_of_keys hkeys]
  rw [htold] at tgroups twaiting timages
  subst ht
  refine ⟨?_, tgroups.trans (congrArg _ hgroups), twaiting.trans (congrArg _ hwaiting), timages.trans (congrArg _ himages),
    ublocks.trans hblocks, uepisodes.trans hepisodes, uops.trans hops, ummas.trans hmmas, ufatal.trans hfatal, ufatalV.trans hfatalV,
    uqueues.trans hqueues, ?_⟩
  · refine (tme.trans (congrFun htold _)).trans ?_
    rw [hme]
    split
    · exact congrArg Group.empty.takeEnd (s.verdict_of_not dead (g := Group.empty) rfl)
    · rfl
  · have hnone (g : Grid) (hg : g ∈ u.grids) : (decide (g.fd = d) && (decide (g.state = 2) || decide (g.state = 3))) = false := by
      obtain ⟨g1, hg1, hhandle, hfd, hstate, hreached⟩ := htorn g hg
      rw [hgrids] at hg1
      obtain ⟨g0, hg0, hold1⟩ := List.mem_map.mp hg1
      have hsame : g1.handle = g0.handle ∧ g1.fd = g0.fd ∧ g1.state = g0.state := by
        rw [← hold1]
        split <;> exact ⟨rfl, rfl, rfl⟩
      obtain ⟨hhandle0, hfd0, hstate0⟩ := hsame
      by_contra hlive
      simp only [Bool.not_eq_false, Bool.and_eq_true, Bool.or_eq_true, decide_eq_true_eq] at hlive
      obtain ⟨hd, hlive⟩ := hlive
      have hold : g.state = g0.state := by omega
      have hdead : g.handle ∈ dead := by
        refine List.mem_map.mpr ⟨g0, List.mem_filter.mpr ⟨hg0, ?_⟩, (hhandle.trans hhandle0).symm⟩
        rw [← hfd0, ← hfd, ← hold]
        simpa using ⟨hd, hlive⟩
      have := hreached hdead
      omega
    exact List.map_eq_nil_iff.mpr (List.filter_eq_nil_iff.mpr fun g hg => not_true_of_false (hnone g hg))

/-! The trap. -/

/-- Of `t`, everything but what a record in a queue, in FATAL or in the event log changes is as in `s`. -/
def RecordFrame (s t : State) : Prop :=
  t = { s with
    hbm := t.hbm, sysMem := t.sysMem, flushed := t.flushed, fixes := t.fixes, poison := t.poison, sec := t.sec, msix := t.msix
    queues := t.queues, unrecorded := t.unrecorded, draws := t.draws, fatal := t.fatal, fatalV := t.fatalV, evlog := t.evlog
    evProd := t.evProd }

theorem RecordFrame.kept {s t : State} (h : RecordFrame s t) : t.me = s.me ∧ t.groups = s.groups ∧ t.waiting = s.waiting ∧
    t.images = s.images ∧ t.blocks = s.blocks ∧ t.episodes = s.episodes ∧ t.ops = s.ops ∧ t.mmas = s.mmas ∧ t.grids = s.grids := by
  unfold RecordFrame at h
  rw [h]
  exact ⟨rfl, rfl, rfl, rfl, rfl, rfl, rfl, rfl, rfl⟩

theorem RecordFrame.of_hub {s t u : State} (h : HubFrame s t) (h' : RecordFrame t u) : RecordFrame s u := by
  unfold RecordFrame at h'
  rw [h'] at *
  unfold HubFrame at h
  rw [h]
  rfl

theorem HubFrame.record {s t : State} (h : HubFrame s t) : RecordFrame s t := by
  unfold HubFrame at h
  rw [h]
  rfl

theorem HubFrame.alarms {s t : State} (h : HubFrame s t) : t.fatal = s.fatal ∧ t.fatalV = s.fatalV ∧ t.evProd = s.evProd ∧
    t.window = s.window ∧ t.sbSram = s.sbSram ∧ t.flash = s.flash := by
  unfold HubFrame at h
  rw [h]
  exact ⟨rfl, rfl, rfl, rfl, rfl, rfl⟩

theorem State.postFatal_frame (s : State) (f : Nat) (r : TrapRec) : RecordFrame s (s.postFatal f r) := by
  refine RecordFrame.of_hub (s.refreshQueue_hub f 1) ?_
  unfold State.postFatal
  dsimp only
  split
  · split <;> rfl
  · exact (State.writeRecord_hub _ _ _).record

/-- Reading the consumer word changes no memory (R383). -/
theorem State.refreshQueue_mem (s : State) (f n : Nat) :
    (s.refreshQueue f n).hbm = s.hbm ∧ (s.refreshQueue f n).sysMem = s.sysMem ∧
      (s.refreshQueue f n).queues.length = s.queues.length := by
  unfold State.refreshQueue State.readHub State.logDenial
  dsimp only
  split
  · split
    · exact ⟨rfl, rfl, setNth_length _ _ _⟩
    · dsimp only
      split <;> exact ⟨rfl, rfl, setNth_length _ _ _⟩
  · exact ⟨rfl, rfl, rfl⟩

/-- What the statement says that a group is told. -/
theorem State.told_eq (s : State) (dead : List Nat) (g : Group) :
    (match g.gwaits with
      | some (h, ph) =>
        if dead.contains h && decide ((s.grid g.grid).ctx = (s.grid h).ctx) then
          match (s.grid h).badEnd ph with
          | some e => { g with park := some (.gwaitOver e) }
          | none => g
        else g
      | none => g) = g.takeEnd (s.verdict dead g) := by
  unfold State.verdict
  cases hg : g.gwaits with
  | none => rfl
  | some x =>
    rw [Option.bind_some]
    dsimp only
    by_cases h : x.1 ∈ dead ∧ (s.grid g.grid).ctx = (s.grid x.1).ctx
    · rw [if_pos h, if_pos (by simpa using h)]
      rfl
    · rw [if_neg h, if_neg (by simpa using h)]
      rfl

/-- Settles O37: a fatal trap is its record and a teardown. -/
theorem fatalTrap : Obligations.FatalTrap := by
  unfold Obligations.FatalTrap
  refine ⟨fun s r => ?discards, fun s r => ?none, fun s r => ?record, fun s f r => ?post, fun s cause va kv off lanes hc => ?causes⟩
  case discards =>
    intro t dead told
    obtain ⟨hme, hgroups, hwaiting, himages, hblocks, hepisodes, hops, hmmas, hgrids⟩ :=
      (RecordFrame.of_hub (s.trace_hub r.ctx r.stn r.gslot) (State.postFatal_frame _ (s.ctx r.ctx).fn { r with fatal := true, replay := false, token := 0 })).kept
    have ht : t = (((s.trace r.ctx r.stn r.gslot).postFatal (s.ctx r.ctx).fn { r with fatal := true, replay := false, token := 0 })).teardown r.fd := rfl
    generalize (s.trace r.ctx r.stn r.gslot).postFatal (s.ctx r.ctx).fn { r with fatal := true, replay := false, token := 0 } = u at *
    have hdead : u.gridsOf r.fd = dead := by unfold State.gridsOf; rw [hgrids]; rfl
    have htold (g : Group) : g.takeEnd (u.verdict dead g) = told g := by
      rw [State.verdict_of_keys (congrArg (List.map Grid.tornKey) hgrids)]
      exact (s.told_eq dead g).symm
    obtain ⟨tme, tgroups, twaiting, timages, tblocks, tepisodes, tops, tmmas, -⟩ := u.teardown_spec r.fd
    rw [← ht, hdead] at *
    simp only [htold] at tme tgroups twaiting timages
    rw [hme] at tme
    rw [hgroups] at tgroups
    rw [hwaiting] at twaiting
    rw [himages] at timages
    rw [hblocks] at tblocks
    rw [hepisodes] at tepisodes
    rw [hops] at tops
    rw [hmmas] at tmmas
    exact ⟨tme, tgroups, twaiting, timages, tblocks, tepisodes, tops, tmmas⟩
  case none =>
    obtain ⟨-, -, -, -, -, -, -, -, -, -, -, hnone⟩ := State.teardown_spec
      ((s.trace r.ctx r.stn r.gslot).postFatal (s.ctx r.ctx).fn { r with fatal := true, replay := false, token := 0 }) r.fd
    exact hnone
  case record =>
    refine ⟨rfl, fun d => ?_⟩
    obtain ⟨-, -, -, -, -, -, -, -, hfatal, hfatalV, hqueues, -⟩ := s.teardown_spec d
    exact ⟨hfatal, hfatalV, hqueues⟩
  case post =>
    intro u q at_ t
    obtain ⟨hhbm, hsys, hlength⟩ := s.refreshQueue_mem f 1
    obtain ⟨hfatal, hfatalV, hprod, hwindow, hsram, hflash⟩ := (s.refreshQueue_hub f 1).alarms
    have ht : t = if queueFree q = 0 then (if u.fatalV then u.logEvent 4 r.ctx r.fd r.stn r.cause
        else { u with fatal := r.bytes true, fatalV := true }.fire 0 33) else u.writeRecord f r := rfl
    refine ⟨fun hroom => State.refreshQueue_room hroom, fun hfree hf hdev hok hwf => ?_, fun hfull hv => ?_, fun hfull hv => ?_⟩
    · rw [if_neg (Nat.ne_of_gt hfree)] at ht
      obtain ⟨hstored, hcount, -, -⟩ := u.writeRecord_stored r (hlength.symm ▸ hf) hdev hok (hhbm.symm ▸ hwf)
      obtain ⟨wfatal, wfatalV, -⟩ := (u.writeRecord_hub f r).alarms
      rw [← ht] at hstored hcount wfatal wfatalV
      exact ⟨(congrArg (fun m => StoredAt m t.hbm at_ _) hhbm).mp hstored, hcount, wfatal.trans hfatal, wfatalV.trans hfatalV⟩
    · rw [if_pos hfull, if_neg (not_true_of_false (hfatalV.trans hv))] at ht
      rw [ht]
      exact ⟨rfl, rfl, rfl, hprod, hhbm, hsys, hwindow, hsram, hflash⟩
    · rw [if_pos hfull, if_pos (hfatalV.trans hv)] at ht
      rw [ht]
      exact ⟨rfl, hfatal⟩
  case causes =>
    have hkinds : ∀ c ∈ [0x01, 0x02, 0x03, 0x07, 0x08, 0x09, 0x0A, 0x0B, 0x0C, 0x0D, 0x0E, 0x10, 0x11, 0x12, 0x15],
        replayable c = false ∧ resumable c = false := by decide
    obtain ⟨hreplay, hresume⟩ := hkinds cause hc
    exact (if_neg (not_true_of_false hreplay)).trans (if_neg (not_true_of_false hresume))

end Sys2Proof.Machine
end

section
/-! The statement on the events of groups that wait (01, 02, 03, 09, 10, 15, 00, 19). -/

namespace Sys2Proof.Machine

/-! Lists that keep their first entries. -/

theorem mem_of_mem_keepFirst {α : Type} {p : α → Bool} {n : Nat} {l : List α} {x : α} (h : x ∈ keepFirst p n l) : x ∈ l := by
  induction l generalizing n with
  | nil => exact h
  | cons y r ih =>
    unfold keepFirst at h
    split at h
    · rcases List.mem_cons.mp h with rfl | h
      · exact List.mem_cons_self
      · exact List.mem_cons_of_mem _ (ih h)
    · split at h
      · exact List.mem_cons_of_mem _ (ih h)
      · rcases List.mem_cons.mp h with rfl | h
        · exact List.mem_cons_self
        · exact List.mem_cons_of_mem _ (ih h)

/-- What the bound does not count stays. -/
theorem mem_keepFirst_of_not {α : Type} {p : α → Bool} {n : Nat} {l : List α} {x : α} (h : x ∈ l) (hx : p x = false) : x ∈ keepFirst p n l := by
  induction l generalizing n with
  | nil => exact absurd h List.not_mem_nil
  | cons y r ih =>
    unfold keepFirst
    rcases List.mem_cons.mp h with rfl | h
    · rw [if_pos hx]
      exact List.mem_cons_self
    · split
      · exact List.mem_cons_of_mem _ (ih h)
      · split
        · exact ih h
        · exact List.mem_cons_of_mem _ (ih h)

/-- What the bound has room for stays. -/
theorem keepFirst_eq_self {α : Type} {p : α → Bool} {n : Nat} {l : List α} (h : (l.filter p).length ≤ n) : keepFirst p n l = l := by
  induction l generalizing n with
  | nil => rfl
  | cons y r ih =>
    unfold keepFirst
    cases hy : p y with
    | false =>
      rw [List.filter_cons_of_neg (not_true_of_false hy)] at h
      rw [if_pos rfl, ih h]
    | true =>
      rw [List.filter_cons_of_pos hy, List.length_cons] at h
      match n with
      | n + 1 =>
        rw [if_neg (by decide)]
        exact congrArg (y :: ·) (ih (Nat.le_of_succ_le_succ h))

/-! Stations that are awake. -/

theorem State.wakeStation_awake {s : State} {stn : Nat} (h : nth s.power.cur stn 0 = 0) (h' : nth s.power.dieOff (stn / 8) false = false) :
    s.wakeStation stn = (s, 0) := if_pos ⟨h, h'⟩

theorem State.select_power (s : State) (uid : Nat) : (s.select uid).power = s.power := by
  unfold State.select
  split
  · rfl
  · split <;> rfl

/-- A command that waits enters the buffer by its own effect. -/
theorem State.enterBuffer_insn {s : State} {i : Instr} {w : UC} {x : UC} (hi : s.me.insn = some i)
    (hmem : i ∈ [Instr.cpy w, .cpym w, .qfen w, .kvld w, .kvst w, .mrg w, .mma x]) : s.enterBuffer = exec i s := by
  unfold State.enterBuffer
  simp only [List.mem_cons, List.not_mem_nil, or_false] at hmem
  rcases hmem with rfl | rfl | rfl | rfl | rfl | rfl | rfl <;> rw [hi] <;> rfl

/-- An access that returns makes its group ready, if it was not (R32). -/
theorem Group.readyNow_eq (g : Group) (core gslot now : Nat) :
    (if g.core = core ∧ g.gslot = gslot ∧ g.park = none ∧ now < g.readyAt then { g with readyAt := now } else g) =
      if g.core = core ∧ g.gslot = gslot ∧ g.park = none then { g with readyAt := min g.readyAt now } else g := by
  by_cases hg : g.core = core ∧ g.gslot = gslot ∧ g.park = none
  · obtain ⟨hcore, hslot, hpark⟩ := hg
    rw [if_pos (c := g.core = core ∧ g.gslot = gslot ∧ g.park = none) ⟨hcore, hslot, hpark⟩]
    split
    next h => rw [Nat.min_eq_right (Nat.le_of_lt h.2.2.2)]
    next h => rw [Nat.min_eq_left (Nat.le_of_not_lt fun hlt => h ⟨hcore, hslot, hpark, hlt⟩)]
  · rw [if_neg hg, if_neg fun h => hg ⟨h.1, h.2.1, h.2.2.1⟩]

theorem State.resident_onGroups (s : State) {f : Group → Group} (hf : ∀ g, (f g).uid = g.uid) :
    (s.onGroups f).resident = s.resident.map f := by
  unfold State.resident State.onGroups
  dsimp only
  rw [hf, apply_ite (List.map f)]
  rfl

/-- A command admitted on a station that is awake (R313). -/
theorem State.admit_awake {s : State} {core gslot : Nat} {g : Group} {i : Instr} {w x : UC} (hg : s.groupAt core gslot = some g)
    (hpark : g.park = some .opBuffer) (hfull : (s.select g.uid).bufferFull 1 = false) (hawake : nth s.power.cur (stationOf core) 0 = 0)
    (hdie : nth s.power.dieOff (stationOf core / 8) false = false) (hinsn : (s.select g.uid).me.insn = some i)
    (hi : i ∈ [Instr.cpy w, .cpym w, .qfen w, .kvld w, .kvst w, .mrg w, .mma x]) :
    execOperationBufferAdmit core gslot s = exec i (s.select g.uid) := by
  have hwait : ¬(g.park ≠ some .opBuffer ∨ (s.select g.uid).bufferFull 1 = true) := by
    rw [hfull]
    exact not_or.mpr ⟨not_not.mpr hpark, Bool.false_ne_true⟩
  unfold execOperationBufferAdmit
  rw [hg]
  dsimp only
  rw [if_neg hwait, State.wakeStation_awake (by rw [s.select_power]; exact hawake) (by rw [s.select_power]; exact hdie)]
  dsimp only
  rw [State.enterBuffer_insn hinsn hi]
  split
  next t ht =>
    rw [ht]
    refine congrArg Host.Outcome.next ?_
    unfold State.ifStays
    split <;> rfl
  next => rfl

/-- The lanes of a group that is formed of a list of threads. -/
theorem nth_fillLanes (ts : List Thread) {l : Nat} (hl : l < 32) : nth (fillLanes ts) l none = ts[l]? := by
  unfold fillLanes
  rw [nth_eq_getD, List.getElem?_take_of_lt hl, List.getElem?_append, List.length_map, List.getElem?_map]
  split
  next h => rw [List.getElem?_eq_getElem h]; rfl
  next h =>
    rw [List.getElem?_eq_none (Nat.le_of_not_lt h), List.getElem?_replicate]
    split <;> rfl

/-- A line that arrives stands in its station's cache, among those that were there (R208). -/
theorem mem_keepFirst_icache {stn ctx line : Nat} {l : List (Nat × Nat × Nat)} :
    (stn, ctx, line) ∈ keepFirst (fun x => x.1 == stn) icacheLines ((stn, ctx, line) :: l) := by
  change _ ∈ keepFirst _ (4095 + 1) _
  unfold keepFirst
  rw [if_neg (by simp)]
  exact List.mem_cons_self

/-- Settles O39: each event by what it finds. -/
theorem waitingGroupEvents : Obligations.WaitingGroupEvents := by
  unfold Obligations.WaitingGroupEvents
  refine ⟨fun s core gslot => ?access, fun s stn ctx line => ?line, fun s core uid htracker hdone => ?tracker,
    fun s i b c hb hc hdue => ?bin, fun s i g c p hpipe hawake hdie hrest => ?admission, fun s malformed off hu => ?illegal⟩
  case access =>
    refine ⟨⟨_, rfl, rfl, ?_⟩, fun hnone => ?_, fun g hg => ⟨?_, fun hpark hfull hawake hdie hme i w x hinsn hi => ?_, fun left hpark hdue => ?_,
      fun d hpark hdue => ?_⟩⟩
    · rw [State.resident_onGroups]
      · exact List.map_congr_left fun g _ => Group.readyNow_eq g core gslot s.now
      · intro g
        split <;> rfl
    · change execOperationBufferAdmit core gslot s = _
      unfold execOperationBufferAdmit
      rw [hnone]
    · intro hno
      change execOperationBufferAdmit core gslot s = _
      unfold execOperationBufferAdmit
      rw [hg]
      exact if_pos hno
    · exact State.admit_awake hg hpark hfull hawake hdie ((congrArg Group.insn hme).trans hinsn) hi
    · change execFuturePoll core gslot s = _
      unfold execFuturePoll
      rw [hg]
      dsimp only
      rw [hpark]
      exact congrArg Host.Outcome.next (if_pos hdue)
    · change execWaitaDeadline core gslot s = _
      unfold execWaitaDeadline
      rw [hg]
      dsimp only
      rw [hpark]
      exact congrArg Host.Outcome.next (if_pos hdue)
  case line =>
    refine ⟨_, rfl, ?_⟩
    have hfills : ∀ x, x ∈ s.fills.filter (fun x => x.1 != stn || x.2.1 != ctx || x.2.2.1 != line) ↔
        x ∈ s.fills ∧ ¬(x.1 = stn ∧ x.2.1 = ctx ∧ x.2.2.1 = line) := by
      intro x
      rw [List.mem_filter]
      refine and_congr_right fun _ => ?_
      simp only [Bool.or_eq_true, bne_iff_ne]
      tauto
    by_cases hline : s.hasLine stn ctx line = true
    · rw [if_pos hline]
      exact ⟨rfl, hfills, fun _ => rfl, hline, fun _ h => .inr h, fun _ h _ => h, fun _ _ h => h⟩
    · rw [if_neg hline]
      refine ⟨rfl, hfills, fun h => absurd h hline, List.contains_iff_mem.mpr mem_keepFirst_icache, fun x hx => ?_, fun x hx hstn => ?_,
        fun hroom x hx => ?_⟩
      · have hkept : x ∈ keepFirst (fun x => x.1 == stn) icacheLines ((stn, ctx, line) :: s.icache) := hx
        exact List.mem_cons.mp (mem_of_mem_keepFirst hkept)
      · exact mem_keepFirst_of_not (List.mem_cons_of_mem _ hx) (by simpa using hstn)
      · have hall : (((stn, ctx, line) :: s.icache).filter fun x => x.1 == stn).length ≤ icacheLines := by
          rw [List.filter_cons_of_pos (by simp)]
          exact hroom
        change x ∈ keepFirst _ _ _
        rw [keepFirst_eq_self hall]
        exact List.mem_cons_of_mem _ hx
  case tracker =>
    obtain ⟨x, hx⟩ := Option.isSome_iff_exists.mp (List.find?_isSome.mpr ⟨(core, uid), htracker, by simp⟩ :
      (s.trackers.find? fun x => decide (x.1 = core ∧ x.2 = uid)).isSome = true)
    obtain rfl : x = (core, uid) := Prod.ext_iff.mpr (by simpa using List.find?_some hx)
    have hout : s.outstanding uid = false := by
      unfold State.outstanding
      rw [List.any_eq_false]
      exact fun o ho => by simpa using hdone o ho
    have hexec : exec (.retirementTrackerDrain core uid) s = .next (({ s with
        trackers := s.trackers.filter fun y => y != (core, uid) } : State).wake fun g =>
          decide (g.core = core) && decide (g.park = some .tracker)) := by
      change execRetirementTrackerDrain core uid s = _
      unfold execRetirementTrackerDrain
      rw [hx]
      exact congrArg Host.Outcome.next (if_neg (not_true_of_false hout))
    refine ⟨_, hexec, rfl, fun y => ?_, fun g hg hcore hpark => State.retry_mem_wake hg ?_⟩
    · exact List.mem_filter.trans (and_congr_right fun _ => by rw [bne_iff_ne])
    · rw [hcore, hpark]
      simp
  case bin =>
    have hexec : exec (.taskBinTimeout i) s = .next (s.emitBin b) := by
      change execTaskBinTimeout i s = _
      unfold execTaskBinTimeout
      rw [hb]
      dsimp only
      rw [hc]
      exact congrArg Host.Outcome.next (if_pos hdue)
    refine ⟨_, b.group (s.grid b.grid) s.nextId (b.kids.foldl (fun a c => max a c.at_) s.now), hexec, rfl, fun x => ?_, rfl, rfl, rfl, rfl, ?_, ?_,
      ?_, ?_, ?_, rfl, fun l hl => ?_⟩
    · exact List.mem_filter.trans (and_congr_right fun _ => by rw [Bool.not_eq_true'])
    · exact Nat.mul_div_cancel_left _ (by decide)
    · exact congrArg (fun o : Option Child => (o.map fun x => x.cvc).getD 8) hc
    · exact congrArg (fun o : Option Child => (o.map fun x => x.srseed).getD 0) hc
    · exact congrArg (fun o : Option Child => (o.map fun x => x.dphase).getD 0) hc
    · exact congrArg (fun o : Option Child => (o.map fun x => x.at_).getD 0) hc
    · refine (nth_fillLanes _ hl).trans ?_
      rw [mapFrom_getElem?, Nat.zero_add]
  case admission =>
    have hletIn (hi : s.waiting[i]? = some g) : s.letIn i =
        ({ (s.cross c true s.now g.words).2 with waiting := (s.cross c true s.now g.words).2.waiting.eraseIdx i } : State).install g c p
          (s.cross c true s.now g.words).1 := by
      unfold State.letIn
      rw [hi]
      dsimp only
      rw [if_neg (by rw [hrest]; decide), hpipe]
    have hup : ¬nth s.power.cur (stationOf g.core) 0 = 3 := by rw [hawake]; decide
    have hwake := State.wakeStation_awake hawake hdie
    refine ⟨fun hi => ?_, fun hi hpark hclean => ?_, fun ready => ?_⟩
    · intro x t
      refine ⟨?_, fun htask hfirst => ?_⟩
      · change execRebuiltGroupAdmission i s = _
        unfold execRebuiltGroupAdmission
        have hlt : i < s.waiting.length := (List.getElem?_eq_some_iff.mp hi).1
        dsimp only
        rw [List.getElem?_append_left hlt, hi]
        dsimp only
        rw [if_neg hup, if_pos hlt, hwake, hletIn hi]
      · change execTaskGroupPlacement i s = _
        unfold execTaskGroupPlacement
        rw [hi]
        dsimp only
        rw [if_pos ⟨htask, hfirst, hup⟩, hwake, hletIn hi]
    · have hreadmit : s.readmit i = ({ s with images := s.images.eraseIdx i } : State).install g c p s.now := by
        unfold State.readmit
        rw [hi]
        dsimp only
        have hmark : s.imageMark g = none := by
          unfold State.imagePoison at hclean
          exact Option.isNone_iff_eq_none.mp (Option.isSome_eq_false_iff.mp hclean)
        rw [if_neg (by rw [hrest, hpark]; decide), hmark]
        dsimp only
        rw [hpipe]
      change execRebuiltGroupAdmission (s.waiting.length + i) s = _
      unfold execRebuiltGroupAdmission
      dsimp only
      rw [List.getElem?_append_right (Nat.le_add_right _ _), Nat.add_sub_cancel_left, hi]
      dsimp only
      rw [if_neg hup, if_neg (by omega), hwake, hreadmit]
    · intro t
      refine ⟨?_, rfl⟩
      change State.install s g c p ready = _
      unfold t State.install State.claimCore
      dsimp only
      split <;> rfl
  case illegal =>
    refine congrArg Host.Outcome.next ((if_neg hu).trans ?_)
    cases malformed <;> rfl

end Sys2Proof.Machine
end

section
/-! The statement on the detectors of a station (19, 02, 01). -/

namespace Sys2Proof.Machine

/-! Eviction. -/

theorem eq_of_uid_eq {l : List Group} (hl : (l.map fun x => x.uid).Nodup) {g x : Group} (hg : g ∈ l) (hx : x ∈ l) (h : x.uid = g.uid) : x = g :=
  List.inj_on_of_nodup_map hl hx hg h

/-- Of groups with names of their own, one is found by its name alone. -/
theorem filter_uid_eq {l : List Group} (hl : (l.map fun x => x.uid).Nodup) {g : Group} (hg : g ∈ l) :
    (l.filter fun x => decide (x.uid = g.uid)) = [g] := by
  have hnodup : (l.filter fun x => decide (x.uid = g.uid)).Nodup := (List.Nodup.of_map _ hl).filter _
  refine List.perm_singleton.mp ((List.perm_ext_iff_of_nodup hnodup (List.nodup_singleton g)).mpr fun x => ?_)
  rw [List.mem_filter, decide_eq_true_iff, List.mem_singleton]
  exact ⟨fun h => eq_of_uid_eq hl hg h.1 h.2, fun h => by rw [h]; exact ⟨hg, rfl⟩⟩

theorem State.resident_off (s : State) (h : s.me.uid = 0) : s.resident = s.groups := if_pos h

theorem State.resident_on (s : State) (h : s.me.uid ≠ 0) : s.resident = s.me :: s.groups := if_neg h

/-- The groups that stay when those of a name are saved. -/
theorem State.mem_resident_saveWhere (s : State) (u : Nat) {x : Group} :
    x ∈ (s.saveWhere fun y => decide (y.uid = u)).resident ↔ x ∈ s.resident ∧ x.uid ≠ u := by
  have hgroups : x ∈ (s.groups.filter fun y => !decide (y.uid = u)) ↔ x ∈ s.groups ∧ x.uid ≠ u := by simp
  by_cases h0 : s.me.uid = 0
  · have hme : (s.saveWhere fun y => decide (y.uid = u)).me = s.me := if_neg fun h => h.1 h0
    rw [s.resident_off h0, State.resident_off _ ((congrArg Group.uid hme).trans h0)]
    exact hgroups
  · rw [s.resident_on h0, List.mem_cons, or_and_right]
    by_cases hu : s.me.uid = u
    · have hme : (s.saveWhere fun y => decide (y.uid = u)).me = Group.empty := if_pos ⟨h0, decide_eq_true hu⟩
      rw [State.resident_off _ (congrArg Group.uid hme)]
      refine hgroups.trans (or_iff_right fun h => ?_).symm
      exact h.2 (h.1 ▸ hu)
    · have hme : (s.saveWhere fun y => decide (y.uid = u)).me = s.me := if_neg fun h => hu (of_decide_eq_true h.2)
      rw [State.resident_on _ (fun h => h0 ((congrArg Group.uid hme).symm.trans h)), List.mem_cons, hme]
      refine or_congr (iff_self_and.mpr fun h => ?_) hgroups
      rw [h]
      exact hu

/-- Evicting groups leaves the telemetry and the event log (R392). -/
theorem State.evictSome_frame (stn : Nat) (ws : List Work) (from_ : List Nat) (n : Nat) (s : State) :
    (s.evictSome stn ws from_ n).2.fleet = s.fleet ∧ (s.evictSome stn ws from_ n).2.evProd = s.evProd := by
  induction n generalizing s from_ with
  | zero => exact ⟨rfl, rfl⟩
  | succ n ih =>
    unfold State.evictSome
    split
    · exact ⟨rfl, rfl⟩
    · split
      · exact ih _ _
      · exact ⟨rfl, rfl⟩

theorem State.logEvents_frame (f : Nat → Nat × Nat × Nat × Nat) (l : List Nat) (s : State) :
    let t := l.foldl (fun (t : State) h => t.logEvent 2 (f h).1 (f h).2.1 (f h).2.2.1 (f h).2.2.2) s
    t.resident = s.resident ∧ t.images = s.images ∧ t.fleet = s.fleet ∧ t.evProd = s.evProd + BitVec.ofNat 32 l.length := by
  induction l generalizing s with
  | nil => exact ⟨rfl, rfl, rfl, (BitVec.add_zero _).symm⟩
  | cons h l ih =>
    obtain ⟨hres, himages, hfleet, hprod⟩ := ih (s.logEvent 2 (f h).1 (f h).2.1 (f h).2.2.1 (f h).2.2.2)
    refine ⟨hres, himages, hfleet, hprod.trans ?_⟩
    change s.evProd + 1 + _ = _
    rw [List.length_cons, Nat.add_comm, BitVec.ofNat_add, BitVec.add_assoc]
    rfl

/-! The domain that a detector stops. -/

/-- A search that keeps an element or takes the next finds one, of a list that is not empty. -/
theorem foldl_search {α : Type} {step : Option α → α → Option α} (hstep : ∀ a g, ∃ y, step a g = some y ∧ (y = g ∨ a = some y))
    (l : List α) (a : Option α) (h : l ≠ [] ∨ a.isSome = true) : ∃ x, l.foldl step a = some x ∧ (x ∈ l ∨ a = some x) := by
  induction l generalizing a with
  | nil =>
    obtain ⟨x, hx⟩ := Option.isSome_iff_exists.mp (h.resolve_left fun h => h rfl)
    exact ⟨x, hx, .inr hx⟩
  | cons g l ih =>
    obtain ⟨y, hy, hmem⟩ := hstep a g
    obtain ⟨x, hx, hx'⟩ := ih (some y) (.inr rfl)
    refine ⟨x, by rw [List.foldl_cons, hy, hx], ?_⟩
    rcases hx' with h1 | h1
    · exact .inl (List.mem_cons_of_mem _ h1)
    · obtain rfl := Option.some.inj h1
      exact hmem.imp_left fun h : _ = g => by rw [h]; exact List.mem_cons_self

theorem lowestOf_some {fd : Nat → Nat} {d : Nat} {gs : List Group} (hne : gs ≠ []) (hd : ∀ g, g ∈ gs → fd g.grid = d) :
    ∃ g, lowestOf fd d gs = some g ∧ g ∈ gs := by
  have hall : gs.filter (fun g => decide (fd g.grid = d)) = gs := List.filter_eq_self.mpr fun g hg => decide_eq_true (hd g hg)
  unfold lowestOf
  dsimp only
  rw [hall]
  refine (foldl_search (fun a g => ?_) gs none (.inl hne)).imp fun g h => ⟨h.1, h.2.resolve_right fun h => nomatch h⟩
  cases a with
  | none => exact ⟨g, rfl, .inl rfl⟩
  | some x =>
    dsimp only
    split
    · exact ⟨g, rfl, .inl rfl⟩
    · exact ⟨x, rfl, .inr rfl⟩

/-- Groups of one domain name it once. -/
theorem foldl_domains {l : List Nat} {d : Nat} (hne : l ≠ []) (hd : ∀ x, x ∈ l → x = d) :
    l.foldl (fun a x => if a.contains x then a else a ++ [x]) [] = [d] := by
  have hgo (r : List Nat) (hr : ∀ x, x ∈ r → x = d) : r.foldl (fun a x => if a.contains x then a else a ++ [x]) [d] = [d] := by
    induction r with
    | nil => rfl
    | cons x r ih =>
      obtain rfl := hr x List.mem_cons_self
      rw [List.foldl_cons, if_pos (by simp)]
      exact ih fun y hy => hr y (List.mem_cons_of_mem _ hy)
  match l with
  | [] => exact absurd rfl hne
  | x :: r =>
    obtain rfl := hd x List.mem_cons_self
    exact hgo r fun y hy => hd y (List.mem_cons_of_mem _ hy)

/-- Where all groups are of one domain, it is that which stops (R31, R393). -/
theorem State.stopDomains_one (s : State) {gs : List Group} {d : Nat} (stn cause : Nat) (hne : gs ≠ []) (hd : ∀ g, g ∈ gs → s.fdOf g.grid = d) :
    ∃ r, s.stopDomains gs stn cause = s.takeFatal r ∧ r.cause = cause ∧ r.fd = d ∧ r.stn = stn := by
  obtain ⟨g, hg, hmem⟩ := lowestOf_some hne hd
  have hfds : (gs.map fun g => s.fdOf g.grid).foldl (fun l d => if l.contains d then l else l ++ [d]) [] = [d] :=
    foldl_domains (by simpa using hne) fun x hx => by
      obtain ⟨y, hy, rfl⟩ := List.mem_map.mp hx
      exact hd y hy
  refine ⟨s.domainRec g stn cause, ?_, rfl, hd g hmem, rfl⟩
  unfold State.stopDomains
  dsimp only
  rw [hfds, List.foldl_cons, List.foldl_nil, hg]

/-- Settles O40: the detector, the watchdog, and an eviction. -/
theorem stationDetectors : Obligations.StationDetectors := by
  unfold Obligations.StationDetectors
  intro s stn d u
  refine ⟨fun hparked => ⟨fun hwork => ?evicts, fun hwork hwaits => ?outside, fun hwork hwaits hd => ?deadlock⟩, fun hparked => ?awake,
    fun hasked hne hd => ?stops, fun hasked => ?quiet, fun g hg hu hnames => ?evict⟩
  case evicts =>
    refine ⟨_, _, (congrArg Host.Outcome.next ((if_neg ?_).trans (if_pos ?_))), rfl, ?_⟩
    · rw [hparked]; decide
    · exact List.isEmpty_eq_false_iff.mpr hwork
    obtain ⟨hres, himages, hfleet, hprod⟩ := State.logEvents_frame (fun h => ((u.grid h).ctx, (u.grid h).fd, stn, h))
      (u.evictSome stn (u.wantedWork stn) [] (u.onStation stn).length).1 (u.evictSome stn (u.wantedWork stn) [] (u.onStation stn).length).2
    obtain ⟨hfleet', hprod'⟩ := u.evictSome_frame stn (u.wantedWork stn) [] (u.onStation stn).length
    exact ⟨hres, himages, hfleet.trans hfleet', hprod.trans (congrArg (· + _) hprod')⟩
  case outside =>
    exact congrArg Host.Outcome.next ((if_neg (by rw [hparked]; decide)).trans ((if_neg fun h => Bool.noConfusion ((List.isEmpty_iff.mpr hwork).symm.trans h)).trans (if_pos hwaits)))
  case deadlock =>
    have hne : u.stationGroups stn ≠ [] := by
      unfold State.allParked at hparked
      unfold State.stationGroups
      intro hnone
      obtain ⟨⟨hcore, hyard⟩, hoff⟩ : (s.onStation stn = [] ∧ s.inYard stn = []) ∧ s.offCore stn = [] := by
        rwa [List.append_eq_nil_iff, List.append_eq_nil_iff] at hnone
      rw [hcore, hyard, hoff] at hparked
      exact absurd hparked (by simp)
    obtain ⟨r, hr, hcause, hfd, hstn⟩ := u.stopDomains_one stn cDeadlock hne hd
    exact ⟨r, (congrArg Host.Outcome.next ((if_neg (by rw [hparked]; decide)).trans ((if_neg fun h => Bool.noConfusion ((List.isEmpty_iff.mpr hwork).symm.trans h)).trans
      ((if_neg (not_true_of_false hwaits)).trans hr)))), hcause, hfd, hstn⟩
  case awake => exact congrArg Host.Outcome.next (if_pos hparked)
  case stops =>
    obtain ⟨slot, at_, hmem, hlate, hunquiet⟩ := hasked
    obtain ⟨r, hr, hcause, hfd, hstn⟩ := s.stopDomains_one stn cWatchdog hne hd
    refine ⟨r, congrArg Host.Outcome.next ((if_pos (List.any_eq_true.mpr ⟨_, hmem, ?_⟩)).trans hr), hcause, hfd, hstn⟩
    exact Bool.and_eq_true_iff.mpr ⟨decide_eq_true ⟨rfl, hlate⟩, hunquiet⟩
  case quiet =>
    refine congrArg Host.Outcome.next (if_neg fun hlate => ?_)
    obtain ⟨⟨n, slot, at_⟩, hmem, hx⟩ := List.any_eq_true.mp hlate
    obtain ⟨htime, hunquiet⟩ := Bool.and_eq_true_iff.mp hx
    obtain ⟨rfl, hpast⟩ := of_decide_eq_true htime
    exact Nat.not_le_of_lt (hasked slot at_ hmem hunquiet) hpast
  case evict =>
    have hall : g ∈ s.resident ++ s.waiting := List.mem_append_left _ hg
    refine ⟨congrArg (fun l : List Group => s.images ++ l.map Group.toImage) (filter_uid_eq hnames hall), fun x => ?_⟩
    refine (s.mem_resident_saveWhere g.uid).trans (and_congr_right fun hx => not_congr ⟨fun h => ?_, fun h => congrArg Group.uid h⟩)
    exact eq_of_uid_eq hnames hall (List.mem_append_left _ hx) h

end Sys2Proof.Machine
end

section
/-! The statement on the placement of blocks (19, 09, 01, 04, 06, 18, 20). -/

namespace Sys2Proof.Machine

/-- A group where it is put: on a core, or waiting for one. -/
def PutAs (g x : Group) : Prop := ∃ c p n r, x = { g with core := c, pipe := p, gslot := n, readyAt := r }

theorem PutAs.refl (g : Group) : PutAs g g := ⟨g.core, g.pipe, g.gslot, g.readyAt, rfl⟩

/-- Of `t`, everything but the groups, their slots and the cores they claim is as in `s`. -/
def SeatFrame (s t : State) : Prop :=
  t = { s with groups := t.groups, waiting := t.waiting, poison := t.poison, coreWord := t.coreWord }

theorem SeatFrame.trans {s t u : State} (h : SeatFrame s t) (h' : SeatFrame t u) : SeatFrame s u := by
  unfold SeatFrame at h'
  rw [h'] at *
  unfold SeatFrame at h
  rw [h]
  rfl

theorem State.claimCore_seat (s : State) (c : Nat) (w : Word) : SeatFrame s (s.claimCore c w) := by
  unfold State.claimCore
  split <;> rfl

theorem State.claimCore_groups (s : State) (c : Nat) (w : Word) : (s.claimCore c w).groups = s.groups ∧ (s.claimCore c w).waiting = s.waiting := by
  unfold State.claimCore
  split <;> exact ⟨rfl, rfl⟩

/-- A group that is placed is resident or waits, and nothing else of the others changes. -/
theorem State.installOn_spec (s : State) (cores : List Nat) (g : Group) (ready : Nat) : SeatFrame s (s.installOn cores g ready) ∧
    ∃ gs ws x, (s.installOn cores g ready).groups = s.groups ++ gs ∧ (s.installOn cores g ready).waiting = s.waiting ++ ws ∧ x ∈ gs ++ ws ∧
      PutAs g x := by
  unfold State.installOn
  split
  next c hc =>
    obtain ⟨hgroups, hwaiting⟩ := s.claimCore_groups c (s.grid g.grid).word
    refine ⟨(s.claimCore_seat c (s.grid g.grid).word).trans rfl, [_], [], _, rfl, ?_, List.mem_singleton_self _, ⟨_, _, _, _, rfl⟩⟩
    rw [List.append_nil]
    exact hwaiting
  next => exact ⟨rfl, [], [g], g, (List.append_nil _).symm, rfl, List.mem_singleton_self _, PutAs.refl g⟩

theorem State.installs_spec (f : Nat → Group) (cores : List Nat) (ready n : Nat) (s : State) :
    let t := (List.range n).foldl (fun (t : State) i => t.installOn cores (f i) ready) s
    SeatFrame s t ∧ ∃ gs ws, t.groups = s.groups ++ gs ∧ t.waiting = s.waiting ++ ws ∧ ∀ i, i < n → ∃ x, x ∈ gs ++ ws ∧ PutAs (f i) x := by
  induction n with
  | zero => exact ⟨rfl, [], [], (List.append_nil _).symm, (List.append_nil _).symm, fun i hi => absurd hi (Nat.not_lt_zero _)⟩
  | succ n ih =>
    obtain ⟨hframe, gs, ws, hgs, hws, hall⟩ := ih
    rw [List.range_succ, List.foldl_append, List.foldl_cons, List.foldl_nil]
    generalize (List.range n).foldl (fun (t : State) i => t.installOn cores (f i) ready) s = u at hframe hgs hws
    obtain ⟨hframe', gs', ws', x, hgs', hws', hx, hput⟩ := u.installOn_spec cores (f n) ready
    refine ⟨hframe.trans hframe', gs ++ gs', ws ++ ws', ?_, ?_, fun i hi => ?_⟩
    · rw [hgs', hgs, List.append_assoc]
    · rw [hws', hws, List.append_assoc]
    · have hmem {y : Group} (hy : y ∈ gs ++ ws ∨ y ∈ gs' ++ ws') : y ∈ gs ++ gs' ++ (ws ++ ws') := by
        simp only [List.mem_append] at hy ⊢
        tauto
      rcases Nat.lt_succ_iff_lt_or_eq.mp hi with h | rfl
      · obtain ⟨y, hy, hput'⟩ := hall i h
        exact ⟨y, hmem (.inl hy), hput'⟩
      · exact ⟨x, hmem (.inr hx), hput⟩

/-- A block's group as R202 has it start. -/
theorem firstGroup_spec (g : Grid) (uid pid blk idx i epS : Nat) {x : Group} (hx : PutAs (firstGroup g uid pid blk idx i epS) x) :
    x.grid = g.handle ∧ x.blk = blk ∧ x.pc = g.entry ∧ x.path = BitVec.allOnes 32 ∧ x.cvc = g.cvc ∧ x.srseed = g.srseed ∧
      x.dphase = g.dphase ∧
      (6 ≤ g.kn → x.k.length = g.kn ∧ ∀ r, nth x.k r 0 =
        if r = 4 then g.param.extractLsb' 0 32 else if r = 5 then g.param.extractLsb' 32 32 else 0) ∧
      ∀ l, l < 32 → ∃ a, x.lane l = some a ∧ a.btid = 32 * i + l ∧ a.exited = false ∧ a.v = List.replicate g.v 0 ∧ a.p = 0 ∧
        a.tid = BitVec.ofNat 32 (idx * (32 * g.groups) + 32 * i + l) := by
  obtain ⟨c, p, n, r, rfl⟩ := hx
  refine ⟨rfl, rfl, rfl, rfl, rfl, rfl, rfl, fun hk => ⟨?_, fun r => ?_⟩, fun l hl => ?_⟩
  · change (setNth (setNth _ _ _) _ _).length = _
    rw [setNth_length, setNth_length, List.length_replicate]
  · change nth (setNth (setNth (List.replicate g.kn 0) 4 _) 5 _) r 0 = _
    have h4 : 4 < g.kn := Nat.lt_of_lt_of_le (by decide) hk
    have h5 : 5 < g.kn := Nat.lt_of_lt_of_le (by decide) hk
    rw [nth_setNth, nth_setNth, setNth_length, List.length_replicate, nth_replicate_eq]
    simp only [h4, h5, and_true]
    by_cases hr : r = 5
    · rw [if_pos hr, if_neg (by omega), if_pos hr]
    · rw [if_neg hr]
      congr 1
      rw [if_neg hr]
  · refine ⟨firstThread g (pid + l) blk idx (32 * i + l) epS, ?_, rfl, rfl, rfl, rfl, ?_⟩
    · change nth ((List.range 32).map fun l => some (firstThread g (pid + l) blk idx (32 * i + l) epS)) l none = _
      rw [nth_eq_getD, List.getElem?_map, List.getElem?_range hl]
      rfl
    · exact congrArg (BitVec.ofNat 32) (Nat.add_assoc _ _ _).symm

theorem SeatFrame.kept {s t : State} (h : SeatFrame s t) :
    (∀ {a : State}, SameMemory a s → SameMemory a t) ∧ t.me = s.me ∧ t.blocks = s.blocks := by
  unfold SeatFrame at h
  rw [h]
  exact ⟨fun {_} h => h, rfl, rfl⟩

section NewBlock
variable (s : State) (g : Grid) (stn slot idx home : Nat) (cores : List Nat)

/-- A block before its groups are placed. -/
def State.blockStart : State :=
  ({ s with
    blocks := s.blocks ++ [s.lodged g
      { uid := s.nextId, grid := g.handle, index := idx, station := stn, home := home, cores := cores, groups := g.groups, sb := g.sb,
        tiles := List.replicate g.ntiles Tile.fresh, rings := List.replicate 16 Ring.fresh, fstat := 0, bind := some (stn, slot),
        saved := false, spOff := 0, tileOff := 0 }]
    nextId := s.nextId + 1 + 33 * g.groups }.onGrid g.handle fun x =>
      { x.onStation stn (fun y => y) with placed := x.placed + 1 }).claimCore home g.word

/-- Group i of a new block. -/
def State.blockGroup (i : Nat) : Group :=
  firstGroup g (s.nextId + 1 + 33 * i) (s.nextId + 1 + 33 * i + 1) s.nextId idx i (g.firstEpS stn)

theorem State.blockStart_spec : let t := s.blockStart g stn slot idx home cores
    SameMemory s t ∧ t.me = s.me ∧ t.blocks = s.blocks ++ [s.lodged g
      { uid := s.nextId, grid := g.handle, index := idx, station := stn, home := home, cores := cores, groups := g.groups, sb := g.sb,
        tiles := List.replicate g.ntiles Tile.fresh, rings := List.replicate 16 Ring.fresh, fstat := 0, bind := some (stn, slot),
        saved := false, spOff := 0, tileOff := 0 }] ∧ t.groups = s.groups ∧ t.waiting = s.waiting := by
  unfold State.blockStart State.claimCore
  dsimp only
  split <;> exact ⟨⟨rfl, rfl, rfl, rfl, rfl⟩, rfl, rfl, rfl, rfl⟩

end NewBlock

/-- Settles O41: what dispatch serves, what a placement makes ready, and what a new block starts with. -/
theorem blockPlacement : Obligations.BlockPlacement := by
  unfold Obligations.BlockPlacement
  refine ⟨fun s stn slot hnone => ?unplaceable, fun s stn slot idx home cores hplace hserves => ?placeable,
    fun s g stn slot idx home ready cores => ?block⟩
  case unplaceable =>
    intro b g first
    have hexec : exec (.blockPlacement stn slot) s =
        .next (if s.placesUnfit stn slot then s.rejectLate (s.bind stn slot).handle else s.bindWaiting) := by
      change execBlockPlacement stn slot s = _
      unfold execBlockPlacement
      rw [hnone, ite_self]
    have hfirst : s.placesUnfit stn slot = true ↔ first := by
      unfold State.placesUnfit State.unfit
      simp only [Bool.and_eq_true, decide_eq_true_eq, Bool.not_eq_true', and_assoc]
      exact Iff.rfl
    exact ⟨fun h => hexec.trans (congrArg Host.Outcome.next (if_pos (hfirst.mpr h))),
      fun h => hexec.trans (congrArg Host.Outcome.next (if_neg fun hu => h (hfirst.mp hu)))⟩
  case placeable =>
    intro b g unfit
    have hexec : exec (.blockPlacement stn slot) s = .next
        (if s.unfit g then s.rejectLate g.handle else (s.placeBlock stn slot idx home cores).bindWaiting) := by
      change execBlockPlacement stn slot s = _
      unfold execBlockPlacement
      rw [if_pos hserves, hplace]
    have hunfit : s.unfit g = true ↔ unfit := by
      unfold State.unfit
      simp only [Bool.and_eq_true, decide_eq_true_eq, Bool.not_eq_true', and_assoc]
      exact Iff.rfl
    refine ⟨fun h => hexec.trans (congrArg Host.Outcome.next (if_pos (hunfit.mpr h))),
      fun h => hexec.trans (congrArg Host.Outcome.next (if_neg fun hu => h (hunfit.mp hu))), fun hawake hdie => ?_⟩
    intro s1 s2 u
    have hplaced : s.placeBlock stn slot idx home cores = match u.blockAt g.handle idx with
        | some old => u.restoreBlock old stn slot home cores s.now
        | none => u.newBlock (u.grid g.handle) stn slot idx home cores s.now := by
      unfold State.placeBlock
      rw [State.wakeStation_awake hawake hdie]
      rfl
    refine ⟨fun hnew => hplaced.trans ?_, fun old hold => hplaced.trans ?_⟩
    · rw [hnew]
    · rw [hold]
  case block =>
    intro t
    have ht : t = (List.range g.groups).foldl (fun (u : State) i => u.installOn cores (s.blockGroup g stn idx i) ready)
      (s.blockStart g stn slot idx home cores) := rfl
    obtain ⟨hmem, hme, hblocks, hgroups, hwaiting⟩ := s.blockStart_spec g stn slot idx home cores
    obtain ⟨hframe, gs, ws, hgs, hws, hall⟩ :=
      State.installs_spec (s.blockGroup g stn idx) cores ready g.groups (s.blockStart g stn slot idx home cores)
    rw [← ht] at hframe hgs hws
    generalize s.blockStart g stn slot idx home cores = u at hmem hme hblocks hgroups hwaiting hframe hgs hws
    obtain ⟨kmem, kme, kblocks⟩ := hframe.kept
    refine ⟨kmem hmem, kme.trans hme, ⟨_, kblocks.trans hblocks, rfl, rfl, rfl, rfl, rfl, rfl, rfl, rfl, rfl, rfl, rfl, fun o ho => ?_, fun o ho => ?_⟩,
      gs, ws, hgs.trans (congrArg (· ++ gs) hgroups), hws.trans (congrArg (· ++ ws) hwaiting), fun i hi => ?_⟩
    · exact congrArg (fun x : Option Nat => x.getD 0) ho
    · exact congrArg (fun x : Option Nat => x.getD 0) ho
    · obtain ⟨x, hx, hput⟩ := hall i hi
      exact ⟨x, hx, firstGroup_spec _ _ _ _ _ _ _ hput⟩

end Sys2Proof.Machine
end

section
/-! The statement on retirement and sweeps (03, 15, 18, 01). -/

namespace Sys2Proof.Machine

/-! Binding. -/

/-- Of `t`, everything but the bind records, the quarantine and the event log is as in `s`. -/
def BindFrame (s t : State) : Prop :=
  t = { s with binds := t.binds, bindTimes := t.bindTimes, fleet := t.fleet, evlog := t.evlog, evProd := t.evProd, msix := t.msix }

theorem BindFrame.refl (s : State) : BindFrame s s := rfl

theorem BindFrame.trans {s t u : State} (h : BindFrame s t) (h' : BindFrame t u) : BindFrame s u := by
  unfold BindFrame at h'
  rw [h'] at *
  unfold BindFrame at h
  rw [h]
  rfl

theorem BindFrame.foldl {α : Type} {f : State → α → State} (hf : ∀ s a, BindFrame s (f s a)) (l : List α) (s : State) :
    BindFrame s (l.foldl f s) := by
  induction l generalizing s with
  | nil => rfl
  | cons a l ih => exact (hf s a).trans (ih _)

theorem State.bindRange_bind (s : State) (g : Grid) (stn first k slice : Nat) : BindFrame s (s.bindRange g stn first k slice) := by
  unfold State.bindRange
  split <;> rfl

theorem State.bindOver_bind (g : Grid) (slice : Nat) (l : List Nat) (first left : Nat) (s : State) :
    BindFrame s (s.bindOver g slice first left l) := by
  induction l generalizing first left s with
  | nil => rfl
  | cons n r ih =>
    unfold State.bindOver
    dsimp only
    split
    · rfl
    · exact (s.bindRange_bind _ _ _ _ _).trans (ih _ _ _)

theorem State.bindOne_bind (s : State) (g : Grid) : BindFrame s (s.bindOne g) := by
  unfold State.bindOne
  split
  · exact State.bindOver_bind _ _ _ _ _ _
  · rfl

theorem State.rebind_bind (s : State) (stn slot : Nat) : BindFrame s (s.rebind stn slot) := by
  unfold State.rebind State.rebindOn
  split
  · dsimp only
    split <;> rfl
  · rfl

theorem State.bindWaiting_bind (s : State) : BindFrame s s.bindWaiting := by
  unfold State.bindWaiting
  split
  · rfl
  · refine (BindFrame.foldl (fun t c => ?_) _ _).trans ((BindFrame.foldl (fun t i => ?_) _ _).trans (BindFrame.foldl (fun t x => ?_) _ _))
    · rfl
    · exact BindFrame.foldl (fun u g => u.bindOne_bind g) _ _
    · exact t.rebind_bind _ _

/-! What stays of the groups and of the grids. -/

/-- The groups and the turns that are due stand. -/
structure GroupsStay (s t : State) : Prop where
  me : t.me = s.me
  groups : t.groups = s.groups
  waiting : t.waiting = s.waiting
  agenda : t.agenda = s.agenda

theorem GroupsStay.trans {s t u : State} (h : GroupsStay s t) (h' : GroupsStay t u) : GroupsStay s u :=
  ⟨h'.me.trans h.me, h'.groups.trans h.groups, h'.waiting.trans h.waiting, h'.agenda.trans h.agenda⟩

theorem GroupsStay.resident {s t : State} (h : GroupsStay s t) : t.resident = s.resident := by
  unfold State.resident
  rw [h.me, h.groups]

theorem ReachFrame.stay {s t : State} (h : ReachFrame s t) : GroupsStay s t := by
  unfold ReachFrame at h
  rw [h]
  exact ⟨rfl, rfl, rfl, rfl⟩

theorem BindFrame.stay {s t : State} (h : BindFrame s t) : GroupsStay s t := by
  unfold BindFrame at h
  rw [h]
  exact ⟨rfl, rfl, rfl, rfl⟩

theorem BindFrame.kept {s t : State} (h : BindFrame s t) : t.blocks = s.blocks ∧ t.ops = s.ops ∧ t.atoms = s.atoms ∧ t.grids = s.grids := by
  unfold BindFrame at h
  rw [h]
  exact ⟨rfl, rfl, rfl, rfl⟩

theorem HubFrame.kept {s t : State} (h : HubFrame s t) : t.me = s.me ∧ t.groups = s.groups ∧ t.waiting = s.waiting ∧ t.ops = s.ops ∧
    t.atoms = s.atoms ∧ t.grids = s.grids := by
  unfold HubFrame at h
  rw [h]
  exact ⟨rfl, rfl, rfl, rfl, rfl, rfl⟩

theorem ReachFrame.kept {s t : State} (h : ReachFrame s t) : t.blocks = s.blocks ∧ t.ops = s.ops := by
  unfold ReachFrame at h
  rw [h]
  exact ⟨rfl, rfl⟩

/-- The hub's own write leaves atomic state (R374). -/
theorem State.hubWrite_atoms (s : State) (c va : Nat) (bs : List Byte) : (s.hubWrite c va bs).atoms = s.atoms := by
  unfold State.hubWrite
  split
  · exact (s.clearWords_hub _ _ _).kept.2.2.2.2.1
  · exact (s.putPhys_hub _ _ _).kept.2.2.2.2.1
  · exact (s.putPhys_hub _ _ _).kept.2.2.2.2.1
  · exact (s.logDenial_hub _ _ _ _).kept.2.2.2.2.1
  · unfold State.hubWait State.askPage
    split <;> rfl
  · rfl

/-! Retirement. -/

theorem Loc.inBlock_iff (l : Loc) (uid : Nat) :
    (!l.inBlock uid) = true ↔ (∀ off, l ≠ .spad uid off) ∧ ∀ tile i j k, l ≠ .acc uid tile i j k := by
  cases l with
  | acc b tile row col n =>
    simp only [Loc.inBlock, Bool.not_eq_true', decide_eq_false_iff_not, ne_eq, reduceCtorEq, not_false_eq_true, implies_true, true_and,
      Loc.acc.injEq, not_and]
    exact ⟨fun h _ _ _ _ hb => absurd hb h, fun h hb => h _ _ _ _ hb rfl rfl rfl rfl⟩
  | _ => simp [Loc.inBlock]

/-- What a block that leaves takes with it (R29). -/
def State.blockGone (s : State) (uid : Nat) (b : Block) : State :=
  { (s.trace (s.grid b.grid).ctx b.station 0).onGrid b.grid fun g => { g with doneBlocks := b.index :: g.doneBlocks } with
    blocks := s.blocks.filter fun x => x.uid != uid
    atoms := s.atoms.filter fun a => !a.loc.inBlock uid
    poison := s.poison.filter fun p => !poisonIn uid p
    barriers := s.barriers.filter fun x => !decide (x.level = 1 ∧ x.owner = uid) }

/-- Its grid counts it, its records may retire, and the grids that wait are bound. -/
def State.blockCounted (s : State) (g : Grid) : State :=
  let s2 := s.hubWrite g.ctx (g.rcbVa + 0x80) (natLe g.doneBlocks.length 4)
  ({ s2 with binds := s2.binds.map (retireBind g) } : State).dropAsked.releaseCores

theorem State.recordsRetired_spec (s : State) (bs : List (Nat × Nat × List Byte)) :
    let t := ({ s with binds := bs } : State).dropAsked.releaseCores
    GroupsStay s t ∧ t.blocks = s.blocks ∧ t.ops = s.ops ∧ t.atoms = s.atoms ∧ t.grids = s.grids := ⟨⟨rfl, rfl, rfl, rfl⟩, rfl, rfl, rfl, rfl⟩

theorem State.blockCounted_spec (s : State) (g : Grid) : let t := s.blockCounted g
    GroupsStay s t ∧ t.blocks = s.blocks ∧ t.ops = s.ops ∧ t.atoms = s.atoms ∧ t.grids = s.grids := by
  intro t
  have hreach := s.hubWrite_reach g.ctx (g.rcbVa + 0x80) (natLe g.doneBlocks.length 4)
  have hatoms := s.hubWrite_atoms g.ctx (g.rcbVa + 0x80) (natLe g.doneBlocks.length 4)
  have ht : t = s.blockCounted g := rfl
  unfold State.blockCounted at ht
  generalize s.hubWrite g.ctx (g.rcbVa + 0x80) (natLe g.doneBlocks.length 4) = u at hreach hatoms ht
  clear_value t
  subst ht
  obtain ⟨hstay, hblocks, hops, hatoms', hgrids⟩ := u.recordsRetired_spec (u.binds.map (retireBind g))
  exact ⟨hreach.stay.trans hstay, hblocks.trans hreach.kept.1, hops.trans hreach.kept.2, hatoms'.trans hatoms, hgrids.trans hreach.grids⟩

/-- A block that has nothing left to do leaves (R29). -/
theorem execBlockRetirement_over {s : State} {uid : Nat} {b : Block} (hb : s.blocks.find? (fun x => x.uid == uid) = some b)
    (hover : s.blockOver b = true) : exec (.blockRetirement uid) s =
      .next ((s.blockGone uid b).blockCounted ((s.blockGone uid b).grid b.grid)).bindWaiting := by
  change execBlockRetirement uid s = _
  unfold execBlockRetirement
  rw [hb]
  dsimp only
  rw [if_neg (by rw [hover]; decide)]
  rfl

/-- What the retirement of a block leaves. -/
theorem State.blockRetired_spec (s : State) (uid : Nat) (b : Block) (g : Grid) :
    let t := ((s.blockGone uid b).blockCounted g).bindWaiting
    t.me = s.me ∧ t.groups = s.groups ∧ t.waiting = s.waiting ∧ t.blocks = s.blocks.filter (fun x => x.uid != uid) ∧ t.ops = s.ops ∧
      t.atoms = s.atoms.filter (fun a => !a.loc.inBlock uid) ∧
      t.grids = s.grids.map fun g => if g.handle = b.grid then { g with doneBlocks := b.index :: g.doneBlocks } else g := by
  intro t
  obtain ⟨hme, hgroups, hwaiting, hops, -, hgrids⟩ := (s.trace_hub (s.grid b.grid).ctx b.station 0).kept
  have hbind := ((s.blockGone uid b).blockCounted g).bindWaiting_bind
  obtain ⟨hstay1, hblocks1, hops1, hatoms1, hgrids1⟩ := (s.blockGone uid b).blockCounted_spec g
  have hstay := hstay1.trans hbind.stay
  obtain ⟨hblocks2, hops2, hatoms2, hgrids2⟩ := hbind.kept
  exact ⟨hstay.me.trans hme, hstay.groups.trans hgroups, hstay.waiting.trans hwaiting, hblocks2.trans hblocks1,
    (hops2.trans hops1).trans hops, hatoms2.trans hatoms1, (hgrids2.trans hgrids1).trans (congrArg (List.map _) hgrids)⟩

/-! Sweeps. -/

theorem State.grid_single {s : State} {g : Grid} (h : s.grids = [g]) : s.grid g.handle = g := by
  unfold State.grid
  rw [h, List.find?_cons_of_pos (by simp)]
  rfl

/-- A grid whose phase has ended (R80). -/
def Grid.phaseOver (g : Grid) (e : Edge) : Grid :=
  { g with
    phases := g.phases + 1, phaseEdges := (g.phases + 1, e) :: g.phaseEdges, arrivedPhase := [], lastSweep := none, swept := false
    opsOut := false }

theorem State.phaseOver_spec {s : State} {g : Grid} (h : s.grids = [g]) (e : Edge) (ss : List Sender) :
    let t := (s.onGrid g.handle fun x => x.phaseOver e).foldSent ss
    GroupsStay s t ∧ ∃ es, t.grids = [{ g.phaseOver e with ended := es }] := by
  refine ⟨⟨rfl, rfl, rfl, rfl⟩, foldThose (ss.map fun x => x.q.pid) g.ended, ?_⟩
  have hgrid : (s.onGrid g.handle fun x => x.phaseOver e).grids = [g.phaseOver e] := by
    unfold State.onGrid
    rw [h, List.map_singleton, if_pos rfl]
  unfold State.foldSent
  dsimp only
  rw [hgrid]
  rfl

/-- The end of a phase (R80). -/
theorem State.endPhase_spec {s : State} {g : Grid} (h : s.grids = [g]) : let t := s.endPhase g.handle
    ∃ x, t.grids = [x] ∧ x.handle = g.handle ∧ x.phases = g.phases + 1 ∧ x.state = g.state ∧ x.arrivedPhase = [] ∧ x.lastSweep = none ∧
      (x.phaseEdges.map fun e => e.1) = (g.phases + 1) :: g.phaseEdges.map (fun e => e.1) ∧
      ∀ y, y ∈ s.resident → (y.park = some .gwait ∨ ∃ n, y.park = some (.phend n)) → .retry y.uid ∈ t.agenda := by
  intro t
  obtain ⟨hstay, es, hgrids⟩ := State.phaseOver_spec h (s.edge (g.arrivedPhase.map fun x => x.2) []) (g.arrivedPhase.map fun x => x.2)
  have ht : t = s.endPhase g.handle := rfl
  unfold State.endPhase at ht
  dsimp only at ht
  rw [State.grid_single h] at ht
  generalize hu : (s.onGrid g.handle fun x => x.phaseOver (s.edge (g.arrivedPhase.map fun x => x.2) [])).foldSent
    (g.arrivedPhase.map fun x => x.2) = u at hstay hgrids
  have hreach := u.hubWrite_reach g.ctx (g.rcbVa + 0x84) (natLe ((g.phases + 1) % 2 ^ 32) 4)
  obtain ⟨f, hf, ht'⟩ : ∃ f : Group → Bool, (∀ y : Group, (y.park = some .gwait ∨ ∃ n, y.park = some (.phend n)) → f y = true) ∧
      t = (u.hubWrite g.ctx (g.rcbVa + 0x84) (natLe ((g.phases + 1) % 2 ^ 32) 4)).wake f := by
    refine ⟨_, fun y hpark => ?_, by rw [← hu]; exact ht⟩
    rcases hpark with hp | ⟨n, hp⟩ <;> rw [hp]
  generalize u.hubWrite g.ctx (g.rcbVa + 0x84) (natLe ((g.phases + 1) % 2 ^ 32) 4) = r at hreach ht'
  clear_value t
  subst ht'
  refine ⟨_, hreach.grids.trans hgrids, rfl, rfl, rfl, rfl, rfl, rfl, fun y hy hpark => State.retry_mem_wake ?_ (hf y hpark)⟩
  rw [(hstay.trans hreach.stay).resident]
  exact hy

/-! Completion. -/

/-- Every grid under the handle is DONE and keeps its completion edge. -/
def State.DoneAt (s : State) (h : Nat) : Prop := ∀ x, x ∈ s.grids → x.handle = h → x.state = 4 ∧ x.endEdge.isSome = true

theorem State.DoneAt.of_grids {s t : State} {h : Nat} (hs : s.DoneAt h) (ht : t.grids = s.grids) : t.DoneAt h := fun x hx => hs x (ht ▸ hx)

/-- What the events of grids may do to them: each is an old one, with its number, state and completion edge. -/
def GridsFrom (s t : State) : Prop :=
  ∀ x, x ∈ t.grids → ∃ y, y ∈ s.grids ∧ x.handle = y.handle ∧ x.state = y.state ∧ x.endEdge = y.endEdge

theorem State.DoneAt.of_from {s t : State} {h : Nat} (hs : s.DoneAt h) (ht : GridsFrom s t) : t.DoneAt h := fun x hx hxh => by
  obtain ⟨y, hy, hhandle, hstate, hedge⟩ := ht x hx
  rw [hstate, hedge]
  exact hs y hy (hhandle ▸ hxh)

theorem GridsFrom.trans {s t u : State} (h : GridsFrom s t) (h' : GridsFrom t u) : GridsFrom s u := fun x hx => by
  obtain ⟨y, hy, hh, hs, he⟩ := h' x hx
  obtain ⟨z, hz, hh', hs', he'⟩ := h y hy
  exact ⟨z, hz, hh.trans hh', hs.trans hs', he.trans he'⟩

theorem GridsFrom.of_grids {s t : State} (h : t.grids = s.grids) : GridsFrom s t := fun x hx => ⟨x, h ▸ hx, rfl, rfl, rfl⟩

theorem State.onGrid_from (s : State) (h : Nat) {f : Grid → Grid}
    (hf : ∀ g, (f g).handle = g.handle ∧ (f g).state = g.state ∧ (f g).endEdge = g.endEdge) : GridsFrom s (s.onGrid h f) := fun x hx => by
  obtain ⟨y, hy, rfl⟩ := List.mem_map.mp hx
  refine ⟨y, hy, ?_⟩
  split
  · exact hf y
  · exact ⟨rfl, rfl, rfl⟩

theorem State.endHandles_from (s : State) (hs : List Nat) (good : Bool) : GridsFrom s (s.endHandles hs good) := fun x hx => by
  obtain ⟨y, hy, rfl⟩ := List.mem_map.mp hx
  refine ⟨y, (List.mem_filter.mp hy).1, ?_⟩
  split <;> exact ⟨rfl, rfl, rfl⟩

theorem State.dropGrid_spec (s : State) (h : Nat) : GroupsStay s (s.dropGrid h) ∧ GridsFrom s (s.dropGrid h) := by
  refine ⟨⟨rfl, rfl, rfl, rfl⟩, (s.endHandles_from [h] true).trans fun x hx => ?_⟩
  obtain ⟨y, hy, rfl⟩ := List.mem_map.mp hx
  refine ⟨y, hy, ?_⟩
  split <;> exact ⟨rfl, rfl, rfl⟩

theorem State.closeGrid_spec (s : State) (h : Nat) : GroupsStay s (s.closeGrid h) ∧ GridsFrom s (s.closeGrid h) := by
  obtain ⟨u, ps, hu, hpages⟩ := s.releasePages_reach h
  have hr : GroupsStay s (s.releasePages h) ∧ GridsFrom s (s.releasePages h) := by
    rw [hpages]
    exact ⟨hu.stay.trans ⟨rfl, rfl, rfl, rfl⟩, (GridsFrom.of_grids hu.grids).trans (u.onGrid_from h fun _ => ⟨rfl, rfl, rfl⟩)⟩
  unfold State.closeGrid
  dsimp only
  split
  · have hword := (s.releasePages h).completionWord_reach h true
    exact ⟨hr.1.trans hword.stay, hr.2.trans (.of_grids hword.grids)⟩
  · exact hr

theorem State.releaseCores_stay (s : State) : GroupsStay s s.releaseCores := ⟨rfl, rfl, rfl, rfl⟩

theorem State.onGrid_stay (s : State) (h : Nat) (f : Grid → Grid) : GroupsStay s (s.onGrid h f) := ⟨rfl, rfl, rfl, rfl⟩

/-- The end of a completion, after the groups that wait have been told. -/
theorem State.gridClosed_spec (s : State) (h : Nat) :
    let t := ((s.dropGrid h).closeGrid h).releaseCores.bindWaiting
    GroupsStay s t ∧ GridsFrom s t := by
  intro t
  obtain ⟨hstay1, hfrom1⟩ := s.dropGrid_spec h
  obtain ⟨hstay2, hfrom2⟩ := (s.dropGrid h).closeGrid_spec h
  have ht : t = ((s.dropGrid h).closeGrid h).releaseCores.bindWaiting := rfl
  generalize (s.dropGrid h).closeGrid h = u at hstay2 hfrom2 ht
  clear_value t
  subst ht
  have hbind := u.releaseCores.bindWaiting_bind
  have hgrids : u.releaseCores.bindWaiting.grids = u.grids := hbind.kept.2.2.2
  exact ⟨((hstay1.trans hstay2).trans (State.releaseCores_stay _)).trans hbind.stay, (hfrom1.trans hfrom2).trans (.of_grids hgrids)⟩

theorem State.commit_reach (s : State) (e : Edge) : ReachFrame s (s.commit e) :=
  ReachFrame.foldl (f := fun t (c : VCell) => if c.by_.pid = 0 then t else t.settle c.loc [c.byte])
    (fun t c => ReachFrame.ite (.refl t) (t.settle_reach c.loc [c.byte])) _ _

/-- The start of a completion: what the grid's words leave is dropped (R109), and its edge is kept. -/
def State.completeStart (s : State) (g : Grid) (ws : List AtomWord) (e : Edge) : State :=
  let s2 := ({ s.fresh.2 with atoms := s.atoms.filter fun a => !ws.any fun x => decide (x.loc = a.loc) } : State).dropFills
  let s3 := (s2.commit e).onGrid g.handle fun x => { x with endEdge := some e }
  (s3.hubWrite g.ctx (g.rcbVa + 0x90) (natLe s.now 8)).setGridState g.handle 4 0

theorem State.setGridState_reach (s : State) (h st reason : Nat) : ∃ u, ReachFrame s u ∧
    s.setGridState h st reason = u.onGrid h fun x => { x with state := st } := ⟨_, s.hubWrite_reach _ _ _, rfl⟩

theorem State.completeStart_spec (s : State) (g : Grid) (ws : List AtomWord) (e : Edge) : let t := s.completeStart g ws e
    GroupsStay s t ∧ t.grids.map Grid.tornKey = s.grids.map Grid.tornKey ∧ t.DoneAt g.handle := by
  intro t
  have ht : t = s.completeStart g ws e := rfl
  unfold State.completeStart at ht
  dsimp only at ht
  generalize hs2 : ({ s.fresh.2 with atoms := s.atoms.filter fun a => !ws.any fun x => decide (x.loc = a.loc) } : State).dropFills = s2 at ht
  have hstay2 : GroupsStay s s2 := hs2 ▸ ⟨rfl, rfl, rfl, rfl⟩
  have hgrids2 : s2.grids = s.grids := hs2 ▸ rfl
  have hreach3 := s2.commit_reach e
  generalize s2.commit e = s3 at hreach3 ht
  have hreach4 := (s3.onGrid g.handle fun x => { x with endEdge := some e }).hubWrite_reach g.ctx (g.rcbVa + 0x90) (natLe s.now 8)
  generalize (s3.onGrid g.handle fun x => { x with endEdge := some e }).hubWrite g.ctx (g.rcbVa + 0x90) (natLe s.now 8) = s4 at hreach4 ht
  obtain ⟨u, hu, hset⟩ := s4.setGridState_reach g.handle 4 0
  rw [hset] at ht
  clear_value t
  subst ht
  have hgrids : u.grids = (s3.onGrid g.handle fun x => { x with endEdge := some e }).grids := hu.grids.trans hreach4.grids
  refine ⟨(((hstay2.trans hreach3.stay).trans (s3.onGrid_stay _ _)).trans hreach4.stay).trans (hu.stay.trans (u.onGrid_stay _ _)), ?_,
    fun x hx hxh => ?_⟩
  · rw [u.onGrid_keys _ (by intro _; rfl), hgrids, s3.onGrid_keys _ (by intro _; rfl), hreach3.grids, hgrids2]
  · obtain ⟨y, hy, rfl⟩ := List.mem_map.mp hx
    rw [hgrids] at hy
    obtain ⟨z, hz, rfl⟩ := List.mem_map.mp hy
    by_cases hzh : z.handle = g.handle
    · simp [hzh]
    · simp [hzh] at hxh

theorem State.endWaits_told {s : State} {h : Nat} {f : Group → Option Word → Option (Option Edge)} {y : Group} {e : Edge}
    (hy : y ∈ s.resident) (hwaits : y.gwaits = some (h, none)) (hctx : (s.grid y.grid).ctx = (s.grid h).ctx)
    (he : f y none = some (some e)) :
    .retry y.uid ∈ (s.endWaits h f).agenda ∧ { y with park := some (.gwaitOver (some e)) } ∈ (s.endWaits h f).resident := by
  obtain ⟨tell, wakes, hres, htell, hwakes, ht⟩ : ∃ tell wakes, (∀ x : Group, (tell x).uid = x.uid) ∧
      tell y = { y with park := some (.gwaitOver (some e)) } ∧ (∀ x : Group, x.park = some (.gwaitOver (some e)) → wakes x = true) ∧
      s.endWaits h f = (s.onGroups tell).wake wakes := by
    refine ⟨_, _, fun x => ?_, ?_, fun x hx => ?_, rfl⟩
    · dsimp only
      split <;> rfl
    · dsimp only
      rw [hwaits, Option.bind_some, if_pos ⟨rfl, hctx⟩, he]
    · rw [hx]
  have hmem : { y with park := some (.gwaitOver (some e)) } ∈ (s.onGroups tell).resident := by
    rw [State.resident_onGroups _ hres, ← htell]
    exact List.mem_map_of_mem hy
  rw [ht]
  exact ⟨State.retry_mem_wake (y := { y with park := some (.gwaitOver (some e)) }) hmem (hwakes _ rfl), hmem⟩

/-- The edge goes to those that wait, who read the grid's words (R339). -/
def State.endTaken (s : State) (h : Nat) (e : Edge) : State :=
  let ps := s.endWaiters h
  if ps.isEmpty then s
  else (s.settleWhere e fun l => ps.any fun p => (e.own p l).isNone).onGrid h fun x => { x with endEdge := some (e.takenBy ps) }

theorem State.endTaken_spec (s : State) (h : Nat) (e : Edge) : let t := s.endTaken h e
    GroupsStay s t ∧ t.grids.map Grid.tornKey = s.grids.map Grid.tornKey ∧ (s.DoneAt h → t.DoneAt h) := by
  unfold State.endTaken
  dsimp only
  split
  · exact ⟨⟨rfl, rfl, rfl, rfl⟩, rfl, id⟩
  · refine ⟨⟨rfl, rfl, rfl, rfl⟩, State.onGrid_keys _ _ (by intro _; rfl), fun hdone x hx hxh => ?_⟩
    obtain ⟨y, hy, rfl⟩ := List.mem_map.mp hx
    by_cases hyh : y.handle = h
    · simp [hyh, (hdone y hy hyh).1]
    · simp [hyh] at hxh

/-- The end of a grid tells those that wait for it (R339). -/
theorem State.endGrid_spec (s : State) (h : Nat) (e : Edge) : let t := s.endGrid h e
    (s.DoneAt h → t.DoneAt h) ∧ ∀ y, y ∈ s.resident → y.gwaits = some (h, none) → (s.grid y.grid).ctx = (s.grid h).ctx →
      .retry y.uid ∈ t.agenda ∧ ∃ e, { y with park := some (.gwaitOver (some e)) } ∈ t.resident := by
  intro t
  obtain ⟨hstay, hkeys, hdone⟩ := s.endTaken_spec h e
  obtain ⟨f, hf, ht⟩ : ∃ f : Group → Option Word → Option (Option Edge), (∀ y, ∃ e', f y none = some (some e')) ∧
      t = (s.endTaken h e).endWaits h f := by
    have ht : t = s.endGrid h e := rfl
    have htaken := State.endTaken.eq_1 s h e
    unfold State.endGrid at ht
    dsimp only at ht htaken
    rw [← htaken] at ht
    exact ⟨_, fun y => ⟨_, rfl⟩, ht⟩
  generalize s.endTaken h e = u at hstay hkeys hdone ht
  clear_value t
  subst ht
  refine ⟨fun h4 => hdone h4, fun y hy hwaits hctx => ?_⟩
  obtain ⟨e', he'⟩ := hf y
  obtain ⟨hretry, hres⟩ := State.endWaits_told (f := f) (by rw [hstay.resident]; exact hy) hwaits
    (by rw [State.grid_ctx_of_keys hkeys, State.grid_ctx_of_keys hkeys]; exact hctx) he'
  exact ⟨hretry, e', hres⟩

theorem execGridCompletion_over {s : State} {g : Grid} (hg : s.grids.find? (fun x => x.handle == g.handle) = some g)
    (hover : s.gridOver g = true) : ∃ ws e, exec (.gridCompletion g.handle) s =
      .next (((((s.completeStart g ws e).endGrid g.handle e).dropGrid g.handle).closeGrid g.handle).releaseCores.bindWaiting) := by
  refine ⟨s.lastWords g.handle, s.fresh.2.edge (wordSender s.fresh.1 (s.lastWords g.handle) :: g.ended) [], ?_⟩
  change execGridCompletion g.handle s = _
  unfold execGridCompletion
  rw [hg]
  exact congrArg Host.Outcome.next (if_pos hover)

/-- Settles O42: retirement, one sweep, and a completion. -/
theorem retirementAndSweeps : Obligations.RetirementAndSweeps := by
  unfold Obligations.RetirementAndSweeps
  refine ⟨fun s uid b hb hover => ?retires, fun s g hgrids hlive => ?sweeps, fun s g hg hover => ?completes⟩
  case retires =>
    have hexec := execBlockRetirement_over hb hover
    obtain ⟨hme, hgroups, hwaiting, hblocks, hops, hatoms, hgrids⟩ := s.blockRetired_spec uid b ((s.blockGone uid b).grid b.grid)
    refine ⟨_, hexec, hme, hgroups, hwaiting, hblocks, hops, fun a => ?_, ?_⟩
    · rw [hatoms, List.mem_filter, Loc.inBlock_iff]
    · rw [hgrids, List.map_map]
      refine List.map_congr_left fun g _ => ?_
      rw [Function.comp_apply]
      split <;> rfl
  case sweeps =>
    intro same full
    have hgrid := State.grid_single hgrids
    have hexec : exec .chimneySweep s = .next (if full then s.endPhase g.handle
        else s.onGrid g.handle fun x => { x with lastSweep := some (x.sent, x.received), swept := same }) := by
      change execChimneySweep s = _
      unfold execChimneySweep
      rw [hgrids, List.filter_cons_of_pos hlive, List.filter_nil, List.foldl_cons, List.foldl_nil]
      unfold State.sweepGrid
      rw [hgrid]
    refine ⟨fun hno => ?_, fun hyes => ?_⟩
    · rw [if_neg (not_true_of_false hno)] at hexec
      refine hexec.trans (congrArg Host.Outcome.next ?_)
      unfold State.onGrid
      rw [hgrids, List.map_singleton, if_pos rfl]
    · rw [if_pos hyes] at hexec
      obtain ⟨x, hx⟩ := State.endPhase_spec hgrids
      exact ⟨_, x, hexec, hx⟩
  case completes =>
    obtain ⟨ws, e, hexec⟩ := execGridCompletion_over hg hover
    obtain ⟨hstay1, hkeys, hdone1⟩ := s.completeStart_spec g ws e
    obtain ⟨hdone2, htold⟩ := (s.completeStart g ws e).endGrid_spec g.handle e
    obtain ⟨hstay3, hfrom⟩ := ((s.completeStart g ws e).endGrid g.handle e).gridClosed_spec g.handle
    have hctx : (s.grid g.handle).ctx = g.ctx := by
      unfold State.grid
      rw [hg]
      rfl
    refine ⟨_, hexec, (hdone2 hdone1).of_from hfrom, fun y hy hwaits hyctx => ?_⟩
    rw [hstay3.agenda, hstay3.resident]
    refine htold y (by rw [hstay1.resident]; exact hy) hwaits ?_
    rw [State.grid_ctx_of_keys hkeys, State.grid_ctx_of_keys hkeys, hyctx, hctx]

end Sys2Proof.Machine
end

section
/-! SUPPORT. Bind records in memory: what is written is read back (R376), and which record a write changes. -/

namespace Sys2Proof.Machine

theorem take_natLe (x n m : Nat) : (natLe x m).take n = natLe x (min n m) := by
  induction m generalizing x n with
  | zero => simp [natLe]
  | succ m ih =>
    cases n with
    | zero => simp [natLe]
    | succ n => rw [natLe, List.take_succ_cons, ih, Nat.add_min_add_right, natLe]

theorem drop_natLe (x k m : Nat) : (natLe x m).drop k = natLe (x / 256 ^ k) (m - k) := by
  induction k generalizing x m with
  | zero => simp
  | succ k ih =>
    cases m with
    | zero => simp [natLe]
    | succ m => rw [natLe, List.drop_succ_cons, ih, Nat.div_div_eq_div_mul, ← Nat.pow_succ', Nat.add_sub_add_right]

/-- A field of a record that lies after its first part. -/
theorem recNum_append_right (a b : List Byte) {off n : Nat} (h : a.length ≤ off) : recNum (a ++ b) off n = recNum b (off - a.length) n := by
  unfold recNum
  rw [List.drop_append, List.drop_eq_nil_of_le h, List.nil_append]

/-- A field of a record that lies in its first part. -/
theorem recNum_natLe_append (x m : Nat) (b : List Byte) {off n : Nat} (h : off + n ≤ m) :
    recNum (natLe x m ++ b) off n = x / 256 ^ off % 2 ^ (8 * n) := by
  unfold recNum
  rw [List.drop_append_of_le_length (by rw [natLe_length]; omega), drop_natLe,
    List.take_append_of_le_length (by rw [natLe_length]; omega), take_natLe, Nat.min_eq_left (by omega), leNat_natLe]

/-- A bind record as its 32 bytes hold it (R376). -/
def Bind.wire (b : Bind) : Bind :=
  { b with
    cmask := b.cmask % 16, prio := b.prio % 16, handle := b.handle % 4096, first := b.first % 2 ^ 32, count := b.count % 2 ^ 32
    word := b.word % 2 ^ 32, slice := b.slice % 2 ^ 32, gang := b.gang % 65536, stat := b.stat % 256, ctx := b.ctx % 64
    start := b.start % 2 ^ 64 }

theorem bindOf_bytes (b : Bind) : bindOf b.bytes = b.wire := by
  have hlast (x m : Nat) {off n : Nat} (h : off + n ≤ m) : recNum (natLe x m) off n = x / 256 ^ off % 2 ^ (8 * n) := by
    simpa using recNum_natLe_append x m [] h
  have hskip (x : Nat) (r : List Byte) {off n : Nat} (h : 4 ≤ off) : recNum (natLe x 4 ++ r) off n = recNum r (off - 4) n := by
    rw [recNum_append_right _ _ (by rw [natLe_length]; exact h), natLe_length]
  have hbit (c : Bool) : bit c = 0 ∧ c = false ∨ bit c = 1 ∧ c = true := by cases c <;> decide
  unfold bindOf Bind.bytes
  simp only [List.append_assoc]
  simp (disch := decide) only [hskip, recNum_natLe_append, hlast, Nat.reduceSub, Nat.reduceMul, Nat.reducePow, Nat.pow_zero, Nat.div_one]
  unfold Bind.wire field
  congr 1
  · rw [Nat.testBit_eq_decide_div_mod_eq]
    rcases hbit b.v with ⟨h, hv⟩ | ⟨h, hv⟩ <;> rcases hbit b.gng with ⟨h', -⟩ | ⟨h', -⟩ <;> rw [h, h', hv] <;> simp <;> omega
  · rw [Nat.testBit_eq_decide_div_mod_eq]
    rcases hbit b.v with ⟨h, -⟩ | ⟨h, -⟩ <;> rcases hbit b.gng with ⟨h', hv⟩ | ⟨h', hv⟩ <;> rw [h, h', hv] <;> simp <;> omega
  all_goals omega

theorem Bind.wire_start (b : Bind) : b.wire.start = b.start % 2 ^ 64 := rfl

/-- What a bind record in memory holds fits its fields. -/
structure Bind.Fits (b : Bind) : Prop where
  cmask : b.cmask < 16
  prio : b.prio < 16
  handle : b.handle < 4096
  first : b.first < 2 ^ 32
  count : b.count < 2 ^ 32
  word : b.word < 2 ^ 32
  slice : b.slice < 2 ^ 32
  gang : b.gang < 65536
  stat : b.stat < 256
  ctx : b.ctx < 64
  start : b.start < 2 ^ 64

theorem Bind.Fits.wire_eq {b : Bind} (h : b.Fits) : b.wire = b := by
  unfold Bind.wire
  rw [Nat.mod_eq_of_lt h.cmask, Nat.mod_eq_of_lt h.prio, Nat.mod_eq_of_lt h.handle, Nat.mod_eq_of_lt h.first, Nat.mod_eq_of_lt h.count,
    Nat.mod_eq_of_lt h.word, Nat.mod_eq_of_lt h.slice, Nat.mod_eq_of_lt h.gang, Nat.mod_eq_of_lt h.stat, Nat.mod_eq_of_lt h.ctx,
    Nat.mod_eq_of_lt h.start]

theorem leNat_lt (l : List Byte) : leNat l < 256 ^ l.length := by
  induction l with
  | nil => exact Nat.one_pos
  | cons b r ih =>
    have hb := b.isLt
    rw [leNat, List.length_cons, Nat.pow_succ]
    omega

theorem recNum_lt (r : List Byte) (off n : Nat) : recNum r off n < 256 ^ n :=
  (leNat_lt _).trans_le (Nat.pow_le_pow_right (by decide) (List.length_take_le _ _))

theorem field_lt (x lo n : Nat) : field x lo n < 2 ^ n := Nat.mod_lt _ (Nat.two_pow_pos _)

theorem bindOf_fits (l : List Byte) : (bindOf l).Fits where
  cmask := field_lt _ _ _
  prio := field_lt _ _ _
  handle := field_lt _ _ _
  first := recNum_lt _ _ _
  count := recNum_lt _ _ _
  word := recNum_lt _ _ _
  slice := recNum_lt _ _ _
  gang := recNum_lt _ _ _
  stat := recNum_lt _ _ _
  ctx := Nat.mod_lt _ (by decide)
  start := recNum_lt _ _ _

theorem State.bind_fits (s : State) (stn slot : Nat) : (s.bind stn slot).Fits := by
  unfold State.bind
  split <;> exact bindOf_fits _

theorem mem_insertBind {x y : Nat × Nat × List Byte} {l : List (Nat × Nat × List Byte)} : y ∈ insertBind x l ↔ y = x ∨ y ∈ l := by
  induction l with
  | nil => simp [insertBind]
  | cons z r ih =>
    unfold insertBind
    split
    · exact List.mem_cons
    · rw [List.mem_cons, ih, List.mem_cons]
      tauto

theorem find_insertBind_self {p : Nat × Nat × List Byte → Bool} {x : Nat × Nat × List Byte} {l : List (Nat × Nat × List Byte)}
    (hx : p x = true) (hl : ∀ y, y ∈ l → p y = false) : (insertBind x l).find? p = some x := by
  induction l with
  | nil => exact List.find?_cons_of_pos hx
  | cons z r ih =>
    unfold insertBind
    split
    · exact List.find?_cons_of_pos hx
    · rw [List.find?_cons_of_neg (by rw [hl z List.mem_cons_self]; decide)]
      exact ih fun y hy => hl y (List.mem_cons_of_mem _ hy)

theorem find_insertBind_other {p : Nat × Nat × List Byte → Bool} {x : Nat × Nat × List Byte} {l : List (Nat × Nat × List Byte)}
    (hx : p x = false) : (insertBind x l).find? p = l.find? p := by
  induction l with
  | nil => exact List.find?_cons_of_neg (by rw [hx]; decide)
  | cons z r ih =>
    unfold insertBind
    split
    · exact List.find?_cons_of_neg (by rw [hx]; decide)
    · rw [List.find?_cons, List.find?_cons, ih]

/-- A search finds in a filtered list what it finds in the list, where the filter keeps all that it may find. -/
theorem find_filter_of_imp {α : Type} {p q : α → Bool} {l : List α} (h : ∀ x, q x = true → p x = true) : (l.filter p).find? q = l.find? q := by
  induction l with
  | nil => rfl
  | cons a r ih =>
    by_cases ha : p a = true
    · rw [List.filter_cons_of_pos ha, List.find?_cons, List.find?_cons, ih]
    · rw [List.filter_cons_of_neg ha, ih, List.find?_cons_of_neg fun hq => ha (h a hq)]

theorem State.bind_putBind_same (s : State) (stn slot : Nat) (b : Bind) : (s.putBind stn slot b).bind stn slot = b.wire := by
  unfold State.bind State.putBind
  dsimp only
  rw [find_insertBind_self (by simp) (fun y hy => by simpa only [Bool.not_eq_true'] using (List.mem_filter.mp hy).2)]
  exact bindOf_bytes b

theorem State.bind_putBind_other (s : State) {stn slot n i : Nat} (b : Bind) (h : ¬(n = stn ∧ i = slot)) :
    (s.putBind stn slot b).bind n i = s.bind n i := by
  unfold State.bind State.putBind
  dsimp only
  rw [find_insertBind_other (by simpa using fun h1 h2 => h ⟨h1.symm, h2.symm⟩), find_filter_of_imp fun x hx => ?_]
  obtain ⟨rfl, rfl⟩ := of_decide_eq_true hx
  rw [Bool.not_eq_true']
  exact decide_eq_false h

/-- Writing bind records changes nothing else. -/
def BindsFrame (s t : State) : Prop := t = { s with binds := t.binds }

theorem State.putBind_binds (s : State) (stn slot : Nat) (b : Bind) : BindsFrame s (s.putBind stn slot b) := rfl

theorem BindsFrame.trans {s t u : State} (h : BindsFrame s t) (h' : BindsFrame t u) : BindsFrame s u := by
  unfold BindsFrame at h'
  rw [h'] at *
  unfold BindsFrame at h
  rw [h]
  rfl

theorem BindsFrame.coreMask {s t : State} (h : BindsFrame s t) (n : Nat) : t.coreMask n = s.coreMask n := by
  unfold State.coreMask
  rw [h]

end Sys2Proof.Machine
end

section
/-! The statement on slices, priority waits and gangs (R380 to R382, R394, R395). -/

namespace Sys2Proof.Machine

/-! Pre-emption. -/

/-- No group that is saved stays on its core or in its bin. -/
theorem State.saveWhere_gone {s : State} {mine : Group → Bool} {x : Group}
    (hx : x ∈ (s.saveWhere mine).resident ++ (s.saveWhere mine).waiting) : mine x = false := by
  have hoff {l : List Group} (h : x ∈ l.filter fun g => !mine g) : mine x = false := by simpa using (List.mem_filter.mp h).2
  rcases List.mem_append.mp hx with h | h
  · unfold State.resident at h
    split at h
    next => exact hoff h
    next hme =>
      rcases List.mem_cons.mp h with rfl | hg
      · have hmeEq : (s.saveWhere mine).me = if s.me.uid ≠ 0 ∧ mine s.me = true then Group.empty else s.me := rfl
        rw [hmeEq] at hme ⊢
        split at hme
        next => exact absurd rfl hme
        next hno => rw [if_neg hno]; exact Bool.eq_false_iff.mpr fun h => hno ⟨hme, h⟩
      · exact hoff hg
  · exact hoff h

section
variable (s : State) (stn slot : Nat)

/-- The blocks of a bind record that are on their station. -/
def State.bindBlocks : List Block := s.blocks.filter fun x => !x.saved && decide (x.bind = some (stn, slot))

/-- The station after it has stopped them. -/
def State.quiesced : State :=
  s.quiesce stn (s.grid (s.bind stn slot).handle) ((s.bindBlocks stn slot).map fun x => x.uid)

/-- The record after its blocks are saved. -/
def State.blocksSaved (u : State) (pages : Nat) : State :=
  let uids := (s.bindBlocks stn slot).map fun x => x.uid
  let t := (u.takePages (s.grid (s.bind stn slot).handle).handle pages).saveGroups uids
  { t with
    blocks := t.blocks.map fun x => if uids.contains x.uid then { x with saved := true, cores := [] } else x
    asked := t.asked.filter fun x => !decide (x.1 = stn ∧ x.2.1 = slot)
    pagesTaken := t.pagesTaken.filter fun x => !decide (x.1 = stn ∧ x.2.1 = slot) }

theorem State.preempt_saves (hlive : ((s.quiesced stn slot).bind stn slot).live = true)
    (hpool : imagePages (s.grid (s.bind stn slot).handle) (s.bindBlocks stn slot) ≤
      ((s.quiesced stn slot).ctx (s.grid (s.bind stn slot).handle).ctx).poolLeft) :
    ∃ pages, s.preempt stn slot = (((s.blocksSaved stn slot (s.quiesced stn slot) pages).trace (s.grid (s.bind stn slot).handle).ctx stn 0).putBind
      stn slot { s.bind stn slot with stat := 3 }).releaseCores := by
  refine ⟨_, (if_neg fun h => absurd (hlive.symm.trans h) (by decide)).trans (if_neg ?_)⟩
  exact Nat.not_lt.mpr ((Nat.sub_le _ _).trans hpool)

theorem State.blocksSaved_spec (u : State) (pages : Nat) : let t := s.blocksSaved stn slot u pages
    (∀ x y, x ∈ t.resident ++ t.waiting → y ∈ s.bindBlocks stn slot → x.inBlock y.uid = false) ∧
      ∀ x y, x ∈ t.blocks → y ∈ s.bindBlocks stn slot → x.uid = y.uid → x.saved = true := by
  intro t
  refine ⟨fun x y hx hy => ?_, fun x y hx hy huid => ?_⟩
  · have hmine := State.saveWhere_gone (s := u.takePages (s.grid (s.bind stn slot).handle).handle pages)
      (mine := fun g => ((s.bindBlocks stn slot).map fun x => x.uid).any fun u => g.inBlock u) hx
    exact Bool.eq_false_iff.mpr fun h => Bool.eq_false_iff.mp hmine (List.any_eq_true.mpr ⟨_, List.mem_map_of_mem hy, h⟩)
  · obtain ⟨z, -, rfl⟩ := List.mem_map.mp hx
    split
    next => rfl
    next hno =>
      rw [if_neg hno] at huid
      exact absurd (List.contains_iff_mem.mpr (huid ▸ List.mem_map_of_mem (f := fun x : Block => x.uid) hy)) hno

end

/-- What the shared end of a save leaves. -/
theorem State.savedEnd_spec (s : State) (c stn slot : Nat) (b : Bind) : let t := ((s.trace c stn 0).putBind stn slot b).releaseCores
    t.bind stn slot = b.wire ∧ t.resident ++ t.waiting = s.resident ++ s.waiting ∧ t.blocks = s.blocks := by
  have hhub := s.trace_hub c stn 0
  obtain ⟨hme, hgroups, hwaiting, -⟩ := hhub.kept
  have hblocks := hhub.blocks
  generalize s.trace c stn 0 = u at hme hgroups hwaiting hblocks
  have hres : u.resident = s.resident := by
    unfold State.resident
    rw [hme, hgroups]
  exact ⟨u.bind_putBind_same stn slot b, congrArg₂ _ hres hwaiting, hblocks⟩

/-! Slices and waits. -/

theorem execSliceExpiry_over {s : State} {stn slot : Nat} (hlive : (s.bind stn slot).live = true) (hstat : (s.bind stn slot).stat = 1)
    (hslice : (s.bind stn slot).slice ≠ 0) (hover : s.bindTime stn slot + (s.bind stn slot).slice * 1400 ≤ s.now) :
    exec (.sliceExpiry stn slot) s = .next ((s.preempt stn slot).rebind stn slot) := by
  refine congrArg Host.Outcome.next (if_neg ?_)
  rintro (h | h | h | h)
  · rw [hlive] at h
    exact absurd h (by decide)
  · exact h hstat
  · exact hslice h
  · exact Nat.not_lt.mpr hover h

theorem execPriorityWaitExpiry_waits {s : State} {stn slot : Nat} (h : s.lacksRoom stn slot = false) :
    exec (.priorityWaitExpiry stn slot) s = .next s := congrArg Host.Outcome.next (if_pos (.inl h))

theorem execPriorityWaitExpiry_over {s : State} {stn slot : Nat} (h : s.lacksRoom stn slot = true)
    (hover : s.bindTime stn slot + 140000 ≤ s.now) : exec (.priorityWaitExpiry stn slot) s = .next (s.makeRoom stn slot 64) := by
  refine congrArg Host.Outcome.next (if_neg ?_)
  rintro (hno | hnow)
  · rw [h] at hno
    exact absurd hno (by decide)
  · exact Nat.not_lt.mpr hover hnow

theorem State.lacksRoom_iff (s : State) (stn slot : Nat) : s.lacksRoom stn slot = true ↔
    (s.bind stn slot).live = true ∧ s.wantsRoom (s.bind stn slot) = true ∧ s.placeable stn slot = none := by
  unfold State.lacksRoom
  rw [Bool.and_eq_true, Bool.and_eq_true, Option.isNone_iff_eq_none, and_assoc]

theorem State.wantsRoom_iff (s : State) (b : Bind) : s.wantsRoom b = true ↔ (b.v = true ∧ b.stat ≠ 2 ∧ b.stat < 4) ∧ b.start ≤ s.now ∧
    ∃ i, s.nextOf b = some i ∧ s.withinBudget (s.grid b.handle) (s.groupsOf (s.grid b.handle) i) = true := by
  unfold State.wantsRoom
  rw [Bool.and_eq_true, Bool.and_eq_true, Bool.and_eq_true, decide_eq_true_eq, decide_eq_true_eq, and_assoc]
  refine and_congr_right fun _ => and_congr_right fun _ => ?_
  cases s.nextOf b <;> simp

theorem Bind.live_iff (b : Bind) : b.live = true ↔ b.v = true ∧ b.stat < 2 := by
  unfold Bind.live
  rw [Bool.and_eq_true, decide_eq_true_eq]

theorem State.nextBlock_nonempty {s : State} {g : Grid} {last n i j : Nat} (h : s.nextBlock g last n i = some j) : i < last := by
  cases n with
  | zero => exact absurd h (by unfold State.nextBlock; exact nofun)
  | succ n =>
    unfold State.nextBlock at h
    split at h
    next => exact absurd h nofun
    next hlt => exact Nat.lt_of_not_le hlt

theorem State.nextOf_count {s : State} {b : Bind} {i : Nat} (h : s.nextOf b = some i) : b.count ≠ 0 := fun h0 => by
  have hlt := State.nextBlock_nonempty h
  omega

/-- One more round of making room (R381). -/
theorem State.makeRoom_succ {s : State} {stn slot : Nat} (n : Nat) (hwants : s.wantsRoom (s.bind stn slot) = true)
    (hplace : s.placeable stn slot = none) (hcount : (s.bind stn slot).count ≠ 0) : s.makeRoom stn slot (n + 1) =
      match s.victim stn (s.bind stn slot).prio with
      | some i => ((s.preempt stn i).rebind stn i).makeRoom stn slot n
      | none => s := by
  have hfits : s.restFits stn slot (s.bind stn slot).count = false := by
    obtain ⟨k, hk⟩ := Nat.exists_eq_succ_of_ne_zero hcount
    rw [hk, State.restFits, if_neg (by rw [hwants]; decide), hplace]
  rw [State.makeRoom]
  exact if_neg (by rw [hfits]; decide)

/-! Gangs. -/

/-- A record that a gang's message names (R382). -/
def Bind.joined (b : Bind) (mask gang start : Nat) : Bind := { b with cmask := b.cmask &&& mask, gng := true, gang := gang, start := start }

theorem Bind.Fits.joined {b : Bind} (h : b.Fits) (mask : Nat) {gang start : Nat} (hgang : gang < 65536) (hstart : start < 2 ^ 64) :
    (b.joined mask gang start).Fits :=
  { h with cmask := Nat.and_le_left.trans_lt h.cmask, gang := hgang, start := hstart }

/-- The message at one of its records. -/
def State.gangOne (s : State) (gang start : Nat) (x : Nat × Nat) : State :=
  if (s.bind x.1 x.2).live && decide ((s.bind x.1 x.2).stat = 0) then
    s.putBind x.1 x.2 ((s.bind x.1 x.2).joined (s.coreMask x.1) gang start)
  else s

theorem State.gangOne_pending {s : State} (gang start : Nat) {x : Nat × Nat} (hx : (s.bind x.1 x.2).live = true ∧ (s.bind x.1 x.2).stat = 0) :
    s.gangOne gang start x = s.putBind x.1 x.2 ((s.bind x.1 x.2).joined (s.coreMask x.1) gang start) :=
  if_pos (by rw [hx.1, hx.2]; rfl)

/-- The message's records join the gang one by one (R382). -/
theorem State.joins_spec {gang start : Nat} (hgang : gang < 65536) (hstart : start < 2 ^ 64) {rs : List (Nat × Nat)} (hnodup : rs.Nodup)
    {s : State} (hpending : ∀ r, r ∈ rs → (s.bind r.1 r.2).live = true ∧ (s.bind r.1 r.2).stat = 0) :
    let t := rs.foldl (fun u x => u.gangOne gang start x) s
    BindsFrame s t ∧ ∀ n i, t.bind n i = if (n, i) ∈ rs then (s.bind n i).joined (s.coreMask n) gang start else s.bind n i := by
  induction rs generalizing s with
  | nil => exact ⟨rfl, fun n i => (if_neg List.not_mem_nil).symm⟩
  | cons r rs ih =>
    obtain ⟨hr, hnodup'⟩ := List.nodup_cons.mp hnodup
    have hone := State.gangOne_pending gang start (hpending r List.mem_cons_self)
    have hframe : BindsFrame s (s.gangOne gang start r) := hone ▸ s.putBind_binds _ _ _
    have hother {n i : Nat} (h : (n, i) ≠ r) : (s.gangOne gang start r).bind n i = s.bind n i := by
      rw [hone]
      exact s.bind_putBind_other _ fun he => h (Prod.ext he.1 he.2)
    have hne {x : Nat × Nat} (hx : x ∈ rs) : x ≠ r := fun h => hr (h ▸ hx)
    obtain ⟨hframe', hbind⟩ := ih hnodup' (s := s.gangOne gang start r) fun x hx => by
      rw [hother (hne hx)]
      exact hpending x (List.mem_cons_of_mem _ hx)
    refine ⟨hframe.trans hframe', fun n i => (hbind n i).trans ?_⟩
    by_cases hin : (n, i) = r
    · rw [if_neg (hin ▸ hr), if_pos (hin ▸ List.mem_cons_self), hone, ← hin, State.bind_putBind_same]
      exact ((s.bind_fits n i).joined _ hgang hstart).wire_eq
    · rw [hother hin, hframe.coreMask]
      simp only [List.mem_cons, hin, false_or]

/-- A record of a late gang is named anew (R382). -/
def State.delayOne (s : State) (start : Nat) (y : Nat × Nat) : State :=
  s.putBind y.1 y.2 { s.bind y.1 y.2 with cmask := (s.bind y.1 y.2).cmask &&& s.coreMask y.1, start := start }

/-- The records that are named anew have the new START, and no other record is written. -/
theorem State.delays_spec (start : Nat) (l : List (Nat × Nat)) (s : State) : let t := l.foldl (fun u y => u.delayOne start y) s
    (∀ y, y ∈ l → (t.bind y.1 y.2).start = start % 2 ^ 64) ∧ (∀ n i, (n, i) ∉ l → t.bind n i = s.bind n i) ∧
      ∀ e, e ∈ t.binds → e ∈ s.binds ∨ (e.1, e.2.1) ∈ l := by
  induction l generalizing s with
  | nil => exact ⟨nofun, fun _ _ _ => rfl, fun e he => .inl he⟩
  | cons x l ih =>
    obtain ⟨hset, hkept, hmem⟩ := ih (s.delayOne start x)
    refine ⟨fun y hy => ?_, fun n i hni => ?_, fun e he => ?_⟩
    · by_cases hyl : y ∈ l
      · exact hset y hyl
      · obtain rfl := (List.mem_cons.mp hy).resolve_right hyl
        refine (congrArg Bind.start (hkept y.1 y.2 hyl)).trans ?_
        unfold State.delayOne
        rw [State.bind_putBind_same]
        rfl
    · obtain ⟨hx, hl⟩ := not_or.mp (mt List.mem_cons.mpr hni)
      exact (hkept n i hl).trans (s.bind_putBind_other _ fun he => hx (Prod.ext he.1 he.2))
    · rcases hmem e he with h | h
      · rcases mem_insertBind.mp h with rfl | h
        · exact .inr List.mem_cons_self
        · exact .inl (List.mem_filter.mp h).1
      · exact .inr (List.mem_cons_of_mem _ h)

theorem State.mem_gangAll {s : State} {gang : Nat} {y : Nat × Nat} : y ∈ s.gangAll gang ↔ ∃ e, e ∈ s.binds ∧ (e.1, e.2.1) = y ∧
    ((bindOf e.2.2).v && decide ((bindOf e.2.2).stat ≠ 2 ∧ (bindOf e.2.2).stat < 4) && (bindOf e.2.2).gng &&
      decide ((bindOf e.2.2).gang = gang)) = true := by
  unfold State.gangAll
  rw [List.mem_map]
  refine exists_congr fun e => ?_
  rw [List.mem_filter]
  tauto

/-- The running records of a gang are pre-empted (R382). -/
def State.gangStopped (s : State) (gang : Nat) : State :=
  (s.gangRecords gang).foldl (fun t y => if (t.bind y.1 y.2).stat = 1 then (t.preempt y.1 y.2).rebind y.1 y.2 else t) s

theorem execGangLate_late {s : State} {gang : Nat} {x : Nat × Nat} (hx : x ∈ s.gangRecords gang)
    (hlate : (s.bind x.1 x.2).start + s.gangTol * 1400 < s.now) : ∃ (u : State) (c f n : Nat), exec (.gangLate gang) s =
      .next (((u.gangAll gang).foldl (fun t y => t.delayOne (s.now + 140000) y) u).logEvent 1 c f n gang) := by
  obtain ⟨z, hz⟩ : ∃ z, (s.gangRecords gang).find? (fun x => decide ((s.bind x.1 x.2).start + s.gangTol * clkPerUs < s.now)) = some z :=
    Option.isSome_iff_exists.mp (List.find?_isSome.mpr ⟨x, hx, decide_eq_true hlate⟩)
  refine ⟨s.gangStopped gang, (s.bind z.1 z.2).ctx, (s.grid (s.bind z.1 z.2).handle).fd, z.1, ?_⟩
  change execGangLate gang s = _
  unfold execGangLate
  rw [hz]
  rfl

/-- Settles O43: slices, priority waits, pre-emption, the gang's message and its lateness. -/
theorem slicesAndGangs : Obligations.SlicesAndGangs := by
  unfold Obligations.SlicesAndGangs
  refine ⟨fun s stn slot => ?_, fun s gang start rs hnodup hgang hstart hpending => ?message, fun s gang x hx hlate => ?late⟩
  · intro b
    refine ⟨fun hlive hstat hslice hover => ?slice, fun h => ?roomy, fun h => ?held, fun idx hlive hstart hplace hnext hbudget hover => ?waits, ?_⟩
    case slice => exact execSliceExpiry_over hlive hstat hslice hover
    case roomy =>
      refine execPriorityWaitExpiry_waits (Bool.eq_false_iff.mpr fun hlacks => ?_)
      obtain ⟨-, hwants, hplace⟩ := (s.lacksRoom_iff stn slot).mp hlacks
      obtain ⟨-, -, i, hi, -⟩ := (s.wantsRoom_iff _).mp hwants
      rcases h with h | h
      · rw [hplace] at h
        exact absurd h (by decide)
      · exact absurd (h.symm.trans hi) nofun
    case held =>
      refine execPriorityWaitExpiry_waits (Bool.eq_false_iff.mpr fun hlacks => ?_)
      obtain ⟨-, hwants, -⟩ := (s.lacksRoom_iff stn slot).mp hlacks
      obtain ⟨-, hstart, i, hi, hbudget⟩ := (s.wantsRoom_iff _).mp hwants
      rcases h with h | h
      · exact Nat.not_lt.mpr hstart h
      · exact Bool.eq_false_iff.mp (h i hi) hbudget
    case waits =>
      obtain ⟨hv, hstat⟩ := b.live_iff.mp hlive
      have hwants : s.wantsRoom b = true := (s.wantsRoom_iff b).mpr ⟨⟨hv, by omega, by omega⟩, hstart, idx, hnext, hbudget⟩
      have hexec := execPriorityWaitExpiry_over ((s.lacksRoom_iff stn slot).mpr ⟨hlive, hwants, hplace⟩) hover
      rw [State.makeRoom_succ 63 hwants hplace (State.nextOf_count hnext)] at hexec
      refine ⟨fun hnone => ?_, fun i hi => ?_⟩
      · rw [hnone] at hexec
        exact hexec
      · rw [hi] at hexec
        exact hexec
    intro bs g hlive hpool t
    obtain ⟨pages, ht⟩ := s.preempt_saves stn slot hlive hpool
    obtain ⟨hgone, hsaved⟩ := s.blocksSaved_spec stn slot (s.quiesced stn slot) pages
    obtain ⟨hbind, hgroups, hblocks⟩ := (s.blocksSaved stn slot (s.quiesced stn slot) pages).savedEnd_spec
      (s.grid (s.bind stn slot).handle).ctx stn slot { s.bind stn slot with stat := 3 }
    rw [← ht] at hbind hgroups hblocks
    refine ⟨congrArg Bind.stat hbind, ?_, ?_⟩
    · rw [hgroups]
      exact hgone
    · rw [hblocks]
      exact hsaved
  case message =>
    obtain ⟨hframe, hbind⟩ := State.joins_spec hgang hstart hnodup hpending
    exact ⟨fun hsoon => congrArg Host.Outcome.next (if_pos hsoon),
      fun hahead => ⟨_, congrArg Host.Outcome.next (if_neg (Nat.not_lt.mpr hahead)), hframe, hbind⟩⟩
  case late =>
    obtain ⟨u, c, f, n, hexec⟩ := execGangLate_late hx hlate
    obtain ⟨hset, -, hmem⟩ := State.delays_spec (s.now + 140000) (u.gangAll gang) u
    refine ⟨_, c, f, n, hexec, fun y hy => hset y ?_⟩
    obtain ⟨e, he, rfl, htest⟩ := State.mem_gangAll.mp hy
    exact (hmem e he).elim (fun h => State.mem_gangAll.mpr ⟨e, h, rfl, htest⟩) id

end Sys2Proof.Machine
end

section
/-! The statement on the events of operations (R113, R116, R182, R322 to R324, R341, R354, R390, R421). -/

namespace Sys2Proof.Machine

/-! Starts. -/

/-- What the record of an operation holds for the engine that reads it (R421). -/
def State.recPoisoned (s : State) (id : Nat) : Bool := s.poison.any fun p => match p with | .engineRec i _ => i == id | _ => false

theorem State.recPoisoned_iff (s : State) (id : Nat) : s.recPoisoned id = true ↔ ∃ i, .engineRec id i ∈ s.poison := by
  unfold State.recPoisoned
  rw [List.any_eq_true]
  constructor
  · rintro ⟨p, hp, htest⟩
    split at htest
    next i j => exact ⟨j, eq_of_beq htest ▸ hp⟩
    next => exact absurd htest nofun
  · rintro ⟨i, hi⟩
    exact ⟨_, hi, beq_self_eq_true id⟩

/-- An operation that takes an engine for the first time. -/
def State.firstStart (s : State) (o : Op) (e : Nat) : State :=
  let ss := (s.doneOps.filter fun d => o.after.contains d.id && !d.marker && !d.aborted).map fun d => d.sender
  let edge := s.edge ss []
  let o1 := { o with
    stage := .running, began := true, engine := e, targets := s.opTargets o, due := s.now + 56,
    party := if ss.isEmpty then o.party else o.party.receive edge }
  ((s.settleEdge edge).foldSent ss).putOp o1

section
variable {s : State} {o : Op} (ho : s.op o.id = some o)
include ho

theorem execOperationStart_marker (hgo : ¬(o.stage ≠ .queued ∨ s.opReady o = false ∨ s.still o.blk = true ∨
    nth s.power.cur (stationOf o.core) 0 = 3)) {m : Nat} (hk : o.kind = .qfen m) : exec (.operationStart o.id) s =
      .next { s with ops := s.ops.filter (fun x => x.id != o.id), doneOps := s.doneOps ++ [o.markerDone] } := by
  change execOperationStart o.id s = _
  unfold execOperationStart
  rw [ho]
  dsimp only
  rw [if_neg hgo, hk]

theorem execOperationStart_engine (hgo : ¬(o.stage ≠ .queued ∨ s.opReady o = false ∨ s.still o.blk = true ∨
    nth s.power.cur (stationOf o.core) 0 = 3)) (hk : ∀ m, o.kind ≠ .qfen m) {e : Nat} (he : s.freeEngine o = some e) :
    exec (.operationStart o.id) s = .next (if s.recPoisoned o.id then s.abortOp o cPoison 0 none
      else if o.began then s.putOp { o with stage := .running, engine := e, due := s.now + 56 } else s.firstStart o e) := by
  change execOperationStart o.id s = _
  unfold execOperationStart State.firstStart
  rw [ho]
  dsimp only
  rw [if_neg hgo]
  cases hkind : o.kind with
  | qfen m => exact absurd hkind (hk m)
  | _ => dsimp only; rw [he]; rfl

theorem State.op_firstStart (e : Nat) : let t := s.firstStart o e
    SameMemory s t ∧ ∃ x, t.op o.id = some x ∧ x = { o with
      stage := .running, began := true, engine := e, targets := s.opTargets o, due := s.now + 56, party := x.party } := by
  intro t
  refine ⟨⟨rfl, rfl, rfl, rfl, rfl⟩, ?_⟩
  have hmem : o ∈ s.ops := List.mem_of_find?_eq_some ho
  have hput := State.op_putOp (s := s) (o := o) (x := { o with
    stage := .running, began := true, engine := e, targets := s.opTargets o, due := s.now + 56,
    party := if ((s.doneOps.filter fun d => o.after.contains d.id && !d.marker && !d.aborted).map fun d => d.sender).isEmpty then o.party
      else o.party.receive (s.edge ((s.doneOps.filter fun d => o.after.contains d.id && !d.marker && !d.aborted).map fun d => d.sender) []) })
    rfl hmem
  exact ⟨_, hput, rfl⟩

/-! The end of a run. -/

theorem execOperationCompletion_lands (hrun : o.stage = .running) (hstop : (s.opRun o).stop = none)
    (hkind : ∀ c, (s.opRun o).o.kind ≠ .kvst c) : exec (.operationCompletion o.id) s = .next ((s.opRun o).s.landOp (s.opRun o).o) := by
  change execOperationCompletion o.id s = _
  unfold execOperationCompletion
  rw [ho]
  dsimp only
  rw [hrun]
  dsimp only
  rw [hstop, if_neg (by decide)]
  unfold Run.landed
  cases hk : (s.opRun o).o.kind with
  | kvst c => exact absurd hk (hkind c)
  | _ => rfl

theorem execOperationCompletion_publishing (hpub : o.stage = .publishing) : exec (.operationCompletion o.id) s = .next (s.finishOp o) := by
  change execOperationCompletion o.id s = _
  unfold execOperationCompletion
  rw [ho]
  dsimp only
  rw [hpub]

theorem execOperationFault_stopped (hrun : o.stage = .running) {x : OpStop} (hstop : (s.opRun o).stop = some x)
    (hx : (∃ c va kv, x = .fault c va kv) ∨ ∃ page va, x = .pri page va) :
    exec (.operationFault o.id) s = .next ((s.opRun o).stopped x) := by
  change execOperationFault o.id s = _
  unfold execOperationFault
  rw [ho]
  dsimp only
  rw [if_neg (not_not_intro hrun), hstop]
  rcases hx with ⟨c, va, kv, rfl⟩ | ⟨page, va, rfl⟩ <;> rfl

theorem execOperationAbort_stopped (hrun : o.stage = .running) {c va : Nat} {log : Option (Nat × Nat × Nat × Access)}
    (hstop : (s.opRun o).stop = some (.abort c va log)) : exec (.operationAbort o.id c) s = .next ((s.opRun o).stopped (.abort c va log)) := by
  change execOperationAbort o.id c s = _
  unfold execOperationAbort
  rw [ho]
  dsimp only
  rw [if_neg (not_not_intro hrun), hstop]
  exact congrArg Host.Outcome.next (if_pos rfl)

end

/-! Completion and faults. -/

theorem State.finishOp_noValue (s : State) {o : Op} (hp : descP o.desc.1 = false) (hz : descZ o.desc.1 = true) :
    s.finishOp o = s.retireOp o [] := by
  unfold State.finishOp
  dsimp only
  rw [if_neg (not_true_of_false hp), if_pos hz]

theorem State.addEv_ops (s : State) (h blk station : Nat) (e : Ev) : (s.addEv h blk station e).ops = s.ops := by
  unfold State.addEv
  split
  · rfl
  · dsimp only
    split <;> rfl

theorem State.retireOp_ops (s : State) (o : Op) (words : List (Option Loc)) :
    (s.retireOp o words).ops = s.ops.filter fun x => x.id != o.id := by
  unfold State.retireOp
  exact State.addEv_ops _ _ _ _ _

theorem State.landOp_alone (s : State) {o : Op} (h : ∀ m, m ∈ s.mmas → m.follows ≠ some o.id) : s.landOp o = s.finishOp o := by
  have hnone : s.mmas.find? (fun m => m.follows == some o.id) = none :=
    List.find?_eq_none.mpr fun m hm => by simpa using h m hm
  unfold State.landOp State.startFollow
  rw [hnone]

/-- A fault holds its operation (R323). -/
theorem State.faultOp_held {s : State} {o : Op} (ho : s.op o.id = some o) (hreplays : ∀ h, o.heldItem = some h → h.replays ≠ 15)
    (c va kv : Nat) : ∃ h n, (s.faultOp o c va kv).op o.id = some { o with stage := .heldFault, heldItem := some h } ∧
      h.faults = [(c, va, n)] ∧ h.resumable = false := by
  obtain ⟨tk, rc, rs, hf⟩ : ∃ tk rc rs, s.faultOp o c va kv =
      ((s.putOp { o with stage := .heldFault, heldItem := some ⟨tk, false, [(c, va, genOf o.heldItem c va)], 0, rc, false, []⟩ }).trace o.ctx
        (stationOf o.core) o.gslot).postHeld (s.ctx o.ctx).fn o.grid rs := by
    refine ⟨_, _, _, if_neg ?_⟩
    cases hh : o.heldItem with
    | none => exact Nat.zero_ne_add_one 14
    | some h => exact hreplays h hh
  refine ⟨⟨tk, false, [(c, va, genOf o.heldItem c va)], 0, rc, false, []⟩, _, ?_, rfl, rfl⟩
  rw [hf]
  have hops (u : State) (c stn g f h : Nat) : ((u.trace c stn g).postHeld f h rs).ops = u.ops :=
    ((u.trace_hub c stn g).trans (State.postHeld_hub _ f h rs)).kept.2.2.2.1
  unfold State.op
  rw [hops]
  exact State.op_putOp (o := o) (x := { o with
    stage := .heldFault, heldItem := some ⟨tk, false, [(c, va, genOf o.heldItem c va)], 0, rc, false, []⟩ }) rfl (List.mem_of_find?_eq_some ho)

/-- Settles O44: starts, ends, faults and aborts of operations, and the frames of the corner-turn buffer. -/
theorem operationEvents : Obligations.OperationEvents := by
  unfold Obligations.OperationEvents
  refine ⟨fun s o ho => ⟨fun hqueued hready hstill hpower => ?starts, fun hrun => ?runs, execOperationCompletion_publishing ho⟩,
    fun s o => ⟨fun hp hz x => ?leaves, s.landOp_alone, fun hop hreplays => State.faultOp_held hop hreplays⟩, fun s core i c hc => ?corner⟩
  case starts =>
    have hgo : ¬(o.stage ≠ .queued ∨ s.opReady o = false ∨ s.still o.blk = true ∨ nth s.power.cur (stationOf o.core) 0 = 3) := by
      rw [hready, hstill]
      simp [hqueued, hpower]
    refine ⟨fun m hk => execOperationStart_marker ho hgo hk, fun hk e he => ?_⟩
    have hexec := execOperationStart_engine ho hgo hk he
    refine ⟨fun hpoison => ?_, fun hbegan hclean => ?_, fun hfirst hclean => ?_⟩
    · rwa [if_pos ((s.recPoisoned_iff o.id).mpr hpoison)] at hexec
    · rwa [if_neg (fun h => ((s.recPoisoned_iff o.id).mp h).elim hclean), if_pos hbegan] at hexec
    · rw [if_neg (fun h => ((s.recPoisoned_iff o.id).mp h).elim hclean), if_neg (not_true_of_false hfirst)] at hexec
      obtain ⟨hmem, x, hx, hxeq⟩ := State.op_firstStart ho e
      exact ⟨_, x, hexec, hx, hmem, hxeq⟩
  case runs =>
    exact ⟨execOperationCompletion_lands ho hrun, fun c va kv hstop => execOperationFault_stopped ho hrun hstop (.inl ⟨c, va, kv, rfl⟩),
      fun page va hstop => execOperationFault_stopped ho hrun hstop (.inr ⟨page, va, rfl⟩),
      fun c va log hstop => execOperationAbort_stopped ho hrun hstop⟩
  case leaves =>
    rw [s.finishOp_noValue hp hz, State.retireOp_ops, List.mem_filter, bne_iff_ne]
  case corner =>
    change execCornerTurnTimeout core i s = _
    unfold execCornerTurnTimeout
    rw [hc]
    rfl

end Sys2Proof.Machine
end

section
/-! The statement on the matrix array's events (R162, R164, R165, R167, R170, R421). -/

namespace Sys2Proof.Machine

theorem SameMemory.refl (s : State) : SameMemory s s := ⟨rfl, rfl, rfl, rfl, rfl⟩

/-! Starts. -/

theorem mem_of_nextHead {slot : Mma → Nat} {last : Nat} {l : List Mma} {m : Mma} (h : nextHead slot last l = some m) : m ∈ l := by
  induction l generalizing m with
  | nil => exact absurd h nofun
  | cons a r ih =>
    unfold nextHead at h
    split at h
    next x hx =>
      obtain rfl := Option.some.inj h
      split
      · exact List.mem_cons_of_mem _ (ih hx)
      · exact List.mem_cons_self
    next =>
      obtain rfl := Option.some.inj h
      exact List.mem_cons_self

theorem State.mem_of_nextMma {s : State} {core : Nat} {m : Mma} (h : s.nextMma core = some m) : m ∈ s.mmas := by
  have hheads : m ∈ s.heads core := by
    unfold State.nextMma at h
    split at h
    next => exact absurd h nofun
    next =>
      have hserved := (Option.filter_eq_some_iff.mp h).1
      unfold State.nextServed at hserved
      split at hserved
      next x hx =>
        obtain rfl := Option.some.inj hserved
        exact List.mem_of_find?_eq_some hx
      next => exact mem_of_nextHead hserved
  exact (List.mem_filter.mp (List.mem_filter.mp hheads).1).1

theorem State.mem_putMma {s : State} {m x : Mma} (hx : x ∈ s.mmas) (hid : x.id = m.id) : m ∈ (s.putMma m).mmas :=
  List.mem_map.mpr ⟨x, hx, if_pos hid⟩

/-- An MMA that an array takes: it starts from the tile's cells, with the edges of its queue (R115, R165). -/
def State.mmaTaken (s : State) (m : Mma) : Mma :=
  { m with running := true, party := if (s.queueSenders m).isEmpty then m.party else m.party.receive (s.edge (s.queueSenders m) []),
           acc := (s.tile m.blk (mmaTile m.cmd)).cells,
           due := s.now + if m.kdone < mmaKb m.cmd then m.clk else 1 }

/-- An array takes the head that it serves next (R165). -/
def State.arrayTakes (s : State) (core : Nat) (m : Mma) : State :=
  let ss := s.queueSenders m
  let e := s.edge ss []
  { (((s.settleEdge e).foldSent ss).foldRunning ss).putMma (s.mmaTaken m) with
    arrays := (core, s.mmaSlot m) :: s.arrays.filter fun x => x.1 != core }

theorem execMmaStart_next {s : State} {core : Nat} {m : Mma} (h : s.nextMma core = some m) :
    exec (.mmaStart core) s = .next (if s.cellPoison m then s.mmaAbort m 0 else s.arrayTakes core m) := by
  change execMmaStart core s = _
  unfold execMmaStart
  rw [h]
  rfl

theorem State.mem_foldRunning {s : State} {m : Mma} (hm : m ∈ s.mmas) (ss : List Sender) : ∃ x, x ∈ (s.foldRunning ss).mmas ∧ x.id = m.id := by
  refine ⟨_, List.mem_map_of_mem hm, ?_⟩
  split <;> rfl

/-- An array that takes an MMA changes no memory and no block, and what it does to the other MMAs. -/
theorem State.arrayTaken_kept (s : State) (e : Edge) (ss : List Sender) (x : Mma) (a : List (Nat × Nat)) :
    let u := (s.settleEdge e).foldSent ss
    let t : State := { (u.foldRunning ss).putMma x with arrays := a }
    SameMemory s t ∧ t.arrays = a ∧ t.blocks = s.blocks ∧ t.mmas = ((u.foldRunning ss).putMma x).mmas ∧ u.mmas = s.mmas := by
  intro u
  have hu : SameMemory s u ∧ u.blocks = s.blocks ∧ u.mmas = s.mmas := ⟨⟨rfl, rfl, rfl, rfl, rfl⟩, rfl, rfl⟩
  clear_value u
  obtain ⟨hmem, hblocks, hmmas⟩ := hu
  exact ⟨hmem.trans ⟨rfl, rfl, rfl, rfl, rfl⟩, rfl, hblocks, rfl, hmmas⟩
theorem State.lastServed_of {s : State} {core slot : Nat} {r : List (Nat × Nat)} (h : s.arrays = (core, slot) :: r) :
    s.lastServed core = slot := by
  unfold State.lastServed
  rw [h]
  simp

theorem State.arrayTakes_spec {s : State} {m : Mma} (hm : m ∈ s.mmas) (core : Nat) : let t := s.arrayTakes core m
    SameMemory s t ∧ t.lastServed core = s.mmaSlot m ∧ t.blocks = s.blocks ∧ ∃ x, x ∈ t.mmas ∧ x = { m with
      running := true, party := x.party, acc := (s.tile m.blk (mmaTile m.cmd)).cells,
      due := s.now + if m.kdone < mmaKb m.cmd then m.clk else 1 } := by
  intro t
  obtain ⟨hmem, harrays, hblocks, hmmas, hu⟩ := s.arrayTaken_kept (s.edge (s.queueSenders m) []) (s.queueSenders m) (s.mmaTaken m)
    ((core, s.mmaSlot m) :: s.arrays.filter fun x => x.1 != core)
  obtain ⟨x, hx, hid⟩ := State.mem_foldRunning (hu.symm ▸ hm) (s.queueSenders m)
  refine ⟨hmem, ?_, hblocks, s.mmaTaken m, ?_, rfl⟩
  · exact State.lastServed_of harrays
  · rw [show t.mmas = _ from hmmas]
    exact State.mem_putMma hx hid

/-! Steps. -/

theorem State.mmaPoison_one (s : State) (m : Mma) : s.mmaPoison m 1 = s.stepPoison m m.kdone := rfl

theorem State.mmaPoison_none {s : State} {m : Mma} {k : Nat} (h : ∀ i, i < k → s.stepPoison m (m.kdone + i) = none) :
    s.mmaPoison m k = none := by
  induction k with
  | zero => rfl
  | succ k ih =>
    unfold State.mmaPoison
    rw [ih fun i hi => h i (Nat.lt_succ_of_lt hi)]
    exact h k (Nat.lt_succ_self k)

theorem State.arrayStep_poison {s : State} {core va : Nat} {m : Mma} (h : s.stepping core = some m)
    (hva : s.stepPoison m m.kdone = some va) : s.arrayStep core = s.mmaAbort m va := by
  unfold State.arrayStep
  rw [h]
  dsimp only
  rw [s.mmaPoison_one, hva]

theorem State.arrayStep_clean {s : State} {core : Nat} {m : Mma} (h : s.stepping core = some m) (hclean : s.stepPoison m m.kdone = none) :
    let r := s.mmaAdvance m (m.kdone + 1) 1
    s.arrayStep core = r.2.putMma { r.1 with due := if r.1.kdone < mmaKb m.cmd then s.now + m.clk else s.writeFrom core + 1 } := by
  unfold State.arrayStep
  rw [h]
  dsimp only
  rw [s.mmaPoison_one, hclean]

/-- The trap record of poison that the array reads (R421). -/
theorem State.mmaAbort_fatal (s : State) (m : Mma) (va : Nat) :
    ∃ r : TrapRec, (r.cause = 0x11 ∧ r.fd = s.fdOf m.grid ∧ r.va = va ∧ r.core = m.core) ∧ s.mmaAbort m va = s.takeFatal r :=
  ⟨_, ⟨rfl, rfl, rfl, rfl⟩, rfl⟩

/-! Write-back. -/

section
variable {s : State} {core : Nat} {m : Mma} (hstep : s.stepping core = some m) (hnone : s.firstWriteback core = none)
include hstep hnone

theorem execMmaWriteback_poison {va : Nat} (hva : s.mmaPoison m (mmaKb m.cmd - m.kdone) = some va) :
    exec (.mmaWriteback core) s = .next (s.mmaAbort m va) := by
  change execMmaWriteback core s = _
  unfold execMmaWriteback
  rw [hnone, hstep]
  dsimp only
  rw [hva]

theorem execMmaWriteback_clean (hclean : s.mmaPoison m (mmaKb m.cmd - m.kdone) = none) : exec (.mmaWriteback core) s =
    .next ((s.mmaAdvance m (mmaKb m.cmd) (mmaKb m.cmd)).2.writeRows (s.mmaAdvance m (mmaKb m.cmd) (mmaKb m.cmd)).1) := by
  change execMmaWriteback core s = _
  unfold execMmaWriteback
  rw [hnone, hstep]
  dsimp only
  rw [hclean]

end

theorem execMmaWriteback_writing {s : State} {core : Nat} {m : Mma} (h : s.firstWriteback core = some m) :
    exec (.mmaWriteback core) s = .next (s.writeRows m) := by
  change execMmaWriteback core s = _
  unfold execMmaWriteback
  rw [h]

/-- What completes at the head of a queue changes no memory, adds no MMA and takes no completed one away. -/
theorem State.drainQueue_spec (uid n : Nat) (s : State) : let t := s.drainQueue uid n
    SameMemory s t ∧ (∀ x, x ∈ t.mmas → x ∈ s.mmas) ∧ ∀ d, d ∈ s.doneMmas → d ∈ t.doneMmas := by
  induction n generalizing s with
  | zero => exact ⟨.refl s, fun _ h => h, fun _ h => h⟩
  | succ n ih =>
    have hrest {u : State} (hu : SameMemory s u ∧ (∀ x, x ∈ u.mmas → x ∈ s.mmas) ∧ ∀ d, d ∈ s.doneMmas → d ∈ u.doneMmas) :
        SameMemory s (u.drainQueue uid n) ∧ (∀ x, x ∈ (u.drainQueue uid n).mmas → x ∈ s.mmas) ∧
          ∀ d, d ∈ s.doneMmas → d ∈ (u.drainQueue uid n).doneMmas := by
      obtain ⟨hmem, hmmas, hdone⟩ := ih u
      exact ⟨hu.1.trans hmem, fun x hx => hu.2.1 x (hmmas x hx), fun d hd => hdone d (hu.2.2 d hd)⟩
    have hsame : SameMemory s s ∧ (∀ x, x ∈ s.mmas → x ∈ s.mmas) ∧ ∀ d, d ∈ s.doneMmas → d ∈ s.doneMmas :=
      ⟨.refl s, fun _ h => h, fun _ h => h⟩
    unfold State.drainQueue
    split
    next => exact hsame
    next m _ _ =>
      dsimp only
      split
      next => exact hrest ⟨⟨rfl, rfl, rfl, rfl, rfl⟩, fun x hx => (List.mem_filter.mp hx).1, fun d hd => hd⟩
      next =>
        split
        next => exact hrest ⟨⟨rfl, rfl, rfl, rfl, rfl⟩, fun x hx => (List.mem_filter.mp hx).1, fun d hd => List.mem_append_left _ hd⟩
        next => exact hsame

/-- The rows that a write-back step writes, the clearing of their marks and the MMA with its cursor moved (R167). -/
def State.rowsWritten (s : State) (m : Mma) (rows : Nat) (p : Party) : State :=
  let cs := rowsOf m.rows rows m.acc (mmaM m.cmd) (mmaN m.cmd)
  ((s.onTile m.blk (mmaTile m.cmd) fun t =>
      let u := t.putCells cs
      if t.lastMma = m.id then { u with water := if rows = mmaM m.cmd then 64 else rows } else u).clearRows m.blk (mmaTile m.cmd) m.rows rows
        (mmaN m.cmd)).putMma { m with rows := rows, party := p, due := s.now + 1 }

theorem State.clearRows_mem (s : State) (blk t lo hi n : Nat) : SameMemory s (s.clearRows blk t lo hi n) ∧
    (s.clearRows blk t lo hi n).mmas = s.mmas := by
  unfold State.clearRows
  split <;> exact ⟨⟨rfl, rfl, rfl, rfl, rfl⟩, rfl⟩

theorem State.onTile_mmas (s : State) (blk t : Nat) (f : Tile → Tile) : (s.onTile blk t f).mmas = s.mmas := rfl

theorem State.rowsWritten_spec {s : State} {m : Mma} (hm : m ∈ s.mmas) (rows : Nat) (p : Party) : let t := s.rowsWritten m rows p
    SameMemory s t ∧ ∃ x, x ∈ t.mmas ∧ x.id = m.id ∧ x.rows = rows := by
  obtain ⟨hmem, hmmas⟩ := (s.onTile m.blk (mmaTile m.cmd) fun t =>
    if t.lastMma = m.id then { t.putCells (rowsOf m.rows rows m.acc (mmaM m.cmd) (mmaN m.cmd)) with
      water := if rows = mmaM m.cmd then 64 else rows } else t.putCells (rowsOf m.rows rows m.acc (mmaM m.cmd) (mmaN m.cmd))).clearRows_mem
    m.blk (mmaTile m.cmd) m.rows rows (mmaN m.cmd)
  exact ⟨SameMemory.trans ⟨rfl, rfl, rfl, rfl, rfl⟩ (hmem.trans ⟨rfl, rfl, rfl, rfl, rfl⟩), _, State.mem_putMma (x := m) (by rw [hmmas, State.onTile_mmas]; exact hm) rfl, rfl, rfl⟩

/-- The last rows end their MMA (R167). -/
def State.rowsEnd (s : State) (m : Mma) (rows : Nat) (p : Party) : State :=
  ({ s with
    mmas := s.mmas.filter fun x => x.id != m.id
    doneMmas := s.doneMmas ++ [{ m with rows := rows, party := p }.done] } : State).settleQueue m.group

theorem State.rowsEnd_spec (s : State) (m : Mma) (rows : Nat) (p : Party) : let t := s.rowsEnd m rows p
    SameMemory s t ∧ (∀ x, x ∈ t.mmas → x.id ≠ m.id) ∧ ∃ d, d ∈ t.doneMmas ∧ d.id = m.id ∧ d.rows = rows := by
  obtain ⟨hmem, hmmas, hdone⟩ := State.drainQueue_spec m.group _ ({ s with
    mmas := s.mmas.filter fun x => x.id != m.id
    doneMmas := s.doneMmas ++ [{ m with rows := rows, party := p }.done] } : State)
  refine ⟨SameMemory.trans ⟨rfl, rfl, rfl, rfl, rfl⟩ hmem, fun x hx => ?_, _, hdone _ (List.mem_append_right _ (List.mem_singleton_self _)), rfl, rfl⟩
  exact bne_iff_ne.mp (List.mem_filter.mp (hmmas x hx)).2

theorem State.writeRows_eq (s : State) (m : Mma) : ∃ p, s.writeRows m =
    (if min (mmaM m.cmd) (m.rows + 8) = mmaM m.cmd then
      (s.rowsWritten m (min (mmaM m.cmd) (m.rows + 8)) p).rowsEnd m (min (mmaM m.cmd) (m.rows + 8)) p
    else s.rowsWritten m (min (mmaM m.cmd) (m.rows + 8)) p).wakeMatrix := ⟨_, rfl⟩

/-- Settles O45: starts, steps and write-backs of the array, and the poison that it reads. -/
theorem mmaEvents : Obligations.MmaEvents := by
  unfold Obligations.MmaEvents
  refine ⟨fun s core m hnext hpoison => ?consumes, fun s core m hnext hclean => ?starts,
    fun s core m => ⟨fun hstep => ?steps, execMmaWriteback_writing⟩, fun s m hm hclears hrows => ?writes⟩
  case consumes =>
    obtain ⟨r, ⟨hcause, hfd, -, hcore⟩, habort⟩ := s.mmaAbort_fatal m 0
    refine ⟨r, hcause, hfd, hcore, ?_⟩
    rw [execMmaStart_next hnext, if_pos hpoison, habort]
  case starts =>
    have hexec := execMmaStart_next hnext
    rw [if_neg (not_true_of_false hclean)] at hexec
    exact ⟨_, hexec, State.arrayTakes_spec (State.mem_of_nextMma hnext) core⟩
  case steps =>
    intro fatal left
    refine ⟨fun va hva => ?_, fun hclean => ?_, fun hnone => ⟨fun va hva => ?_, fun hclean => ?_⟩⟩
    · obtain ⟨r, hr, habort⟩ := s.mmaAbort_fatal m va
      refine ⟨r, hr, ?_⟩
      rw [State.arrayStep_poison hstep hva]
      exact habort
    · exact State.arrayStep_clean hstep hclean
    · obtain ⟨r, hr, habort⟩ := s.mmaAbort_fatal m va
      refine ⟨r, hr, ?_⟩
      rw [execMmaWriteback_poison hstep hnone hva, habort]
    · exact execMmaWriteback_clean hstep hnone (State.mmaPoison_none hclean)
  case writes =>
    intro t
    obtain ⟨p, ht⟩ := s.writeRows_eq m
    obtain ⟨hmem, x, hx, hid, hxrows⟩ := State.rowsWritten_spec hm (min (mmaM m.cmd) (m.rows + 8)) p
    have ht' : t = _ := ht
    by_cases hlast : mmaM m.cmd ≤ m.rows + 8
    · rw [if_pos (Nat.min_eq_left hlast), Nat.min_eq_left hlast] at ht'
      rw [Nat.min_eq_left hlast] at hmem
      obtain ⟨hmem', hgone, hdone⟩ := (s.rowsWritten m (mmaM m.cmd) p).rowsEnd_spec m (mmaM m.cmd) p
      rw [ht']
      exact ⟨hmem.trans hmem', fun h => absurd hlast (Nat.not_le.mpr h), fun _ => ⟨hgone, hdone⟩⟩
    · have hrows' : min (mmaM m.cmd) (m.rows + 8) = m.rows + 8 := by omega
      rw [if_neg (by omega), hrows'] at ht'
      rw [hrows'] at hmem hx hxrows
      rw [ht']
      exact ⟨hmem, fun _ => ⟨x, hx, hid, hxrows⟩, fun h => absurd h hlast⟩

end Sys2Proof.Machine
end

section
/-! The statement on the rings of arms and commands (R353, R354, R356, R371 to R373, R389). -/

namespace Sys2Proof.Machine

/-! What a host write to the window leaves. -/

theorem foldl_kept {α β γ : Type} {p : β → γ} {f : β → α → β} (hf : ∀ b a, p (f b a) = p b) (l : List α) (b : β) : p (l.foldl f b) = p b := by
  induction l generalizing b with
  | nil => rfl
  | cons a l ih => exact (ih _).trans (hf b a)

theorem State.logDenial_ctxs (s : State) (target master addr : Nat) (k : Access) : (s.logDenial target master addr k).ctxs = s.ctxs := by
  rw [s.logDenial_hub target master addr k]

theorem State.clearMem_ctxs (s : State) (l : Target) (n : Nat) : (s.clearMem l n).ctxs = s.ctxs := by
  unfold State.clearMem
  split <;> rfl

theorem State.putWindow_ctxs (s : State) (off : Nat) (bs : List Byte) : (s.putWindow off bs).ctxs = s.ctxs :=
  (foldl_kept (p := State.ctxs) (f := fun t i => t.forgetWord (winLoc (off / 8 * 8 + 4 * i))) (fun _ _ => rfl) _ _).trans (s.clearMem_ctxs _ _)

theorem State.hostWindow_ctxs (s : State) (fn off : Nat) (bs : List Byte) : (s.hostWindow fn off bs).ctxs = s.ctxs :=
  (foldl_kept (p := State.ctxs) (fun t _ => t.putWindow_ctxs _ _) _ _).trans
    (foldl_kept (p := State.ctxs) (fun t _ => t.logDenial_ctxs _ _ _ _) _ _)

theorem State.hostWindow_ctx (s : State) (fn off : Nat) (bs : List Byte) (c : Nat) : (s.hostWindow fn off bs).ctx c = s.ctx c := by
  unfold State.ctx
  rw [s.hostWindow_ctxs]

/-! Slots. -/

theorem meets_slot {a i j : Nat} : meets (a + 8 * i) 8 (a + 8 * j) 8 = true ↔ i = j := by
  unfold meets
  rw [Bool.and_eq_true, decide_eq_true_eq, decide_eq_true_eq]
  omega

theorem State.commandSlot_eq {s : State} (c slot : Nat) (w : BitVec 64) (hup : s.hostUp = true) :
    let x := s.ctx c
    let off := x.armoff + 0x200 + 8 * (slot % 64)
    let t := s.hostWindow (if decide (x.woff * 65536 ≤ off ∧ off + 8 ≤ (x.woff + x.wsz) * 65536) then x.fn else 0) off (natLe w.toNat 8)
    s.commandSlot c slot w = if x.valid then (t.markCmds c off 8).drainCmds c 64 else t := by
  intro x off t
  have hslot : s.commandSlot c slot w = t.commands c off 8 := if_neg (by rw [hup]; decide)
  rw [hslot]
  unfold State.commands
  rw [s.hostWindow_ctx]
  have hmeets : meets off 8 ((s.ctx c).armoff + 0x200) 0x200 = true := by
    unfold meets
    have hlt : slot % 64 < 64 := Nat.mod_lt _ (by decide)
    have hoff : off = (s.ctx c).armoff + 0x200 + 8 * (slot % 64) := rfl
    rw [Bool.and_eq_true, decide_eq_true_eq, decide_eq_true_eq]
    omega
  rw [hmeets, Bool.and_true]

/-! Arms. -/

section
variable (s : State) (c n : Nat)

theorem State.drainArms_succ : s.drainArms c (n + 1) =
    let x := (s.readCtx c).ctx c
    let off := x.armoff + 8 * x.armNext
    let v := s.readSlot off
    if v.1 % 2 = 0 then v.2
    else
      match v.2.armBlocked c v.1 with
      | some page => v.2.askPage page
      | none =>
        let r := v.2.wakeDies.arm c v.1
        (r.2.armDone c off r.1).drainArms c n := rfl

theorem State.drainCmds_idle (h : (s.ctx c).cmdFull.getLsbD (s.ctx c).cmdNext = false) : s.drainCmds c n = s := by
  cases n with
  | zero => rfl
  | succ n => exact if_pos h

theorem State.drainCmds_succ (h : (s.ctx c).cmdFull.getLsbD (s.ctx c).cmdNext = true) : s.drainCmds c (n + 1) =
    let off := (s.ctx c).cmdSlot (s.ctx c).cmdNext
    let v := s.readSlot off
    if v.1 = 0 then v.2
    else
      let r := v.2.command c v.1
      ((r.2.putSlot off r.1).onCtx c fun y =>
        { y with cmdNext := (y.cmdNext + 1) % 64, cmdFull := putBit y.cmdFull (s.ctx c).cmdNext false }).drainCmds c n :=
  if_neg (by rw [h]; decide)

end

theorem getLsbD_putBit (x : BitVec 64) {i j : Nat} (hj : j < 64) (b : Bool) : (putBit x i b).getLsbD j = if j = i then b else x.getLsbD j := by
  unfold putBit
  by_cases h : j = i
  · subst h
    cases b <;> simp [hj]
  · have h' : ¬(i ≤ j ∧ j - i = 0) := by omega
    cases b <;> by_cases hle : i ≤ j <;> simp [hj, h, hle] <;> omega

theorem getLsbD_markFold (x : BitVec 64) (touched full : Nat → Bool) (n : Nat) {j : Nat} (hj : j < 64) :
    ((List.range n).foldl (fun m i => if touched i then putBit m i (full i) else m) x).getLsbD j =
      if j < n ∧ touched j = true then full j else x.getLsbD j := by
  induction n with
  | zero => simp
  | succ n ih =>
    rw [List.range_succ, List.foldl_append, List.foldl_cons, List.foldl_nil]
    by_cases hn : touched n = true
    · rw [if_pos hn, getLsbD_putBit _ hj, ih]
      by_cases hjn : j = n
      · subst hjn
        simp [hn]
      · simp only [if_neg hjn, show (j < n + 1 ↔ j < n) by omega]
    · rw [if_neg hn, ih]
      by_cases hjn : j = n
      · subst hjn
        simp [hn]
      · simp only [show (j < n + 1 ↔ j < n) by omega]

theorem State.markCmds_bit {s : State} {c i j : Nat} (hc : c < s.ctxs.length) (hi : i < 64) (hj : j < 64) :
    let off := (s.ctx c).armoff + 0x200 + 8 * i
    ((s.markCmds c off 8).ctx c).cmdFull.getLsbD j =
      if j = i then decide (Memory.num s.window off 8 ≠ 0) else (s.ctx c).cmdFull.getLsbD j := by
  intro off
  unfold State.markCmds
  rw [State.ctx_onCtx_same _ hc]
  refine (getLsbD_markFold _ (fun k => meets off 8 ((s.ctx c).cmdSlot k) 8)
    (fun k => decide (Memory.num s.window ((s.ctx c).cmdSlot k) 8 ≠ 0)) 64 hj).trans ?_
  have hslot : (s.ctx c).cmdSlot j = (s.ctx c).armoff + 0x200 + 8 * j := by
    unfold Ctx.cmdSlot
    rw [Nat.mod_eq_of_lt hj]
  rw [hslot]
  by_cases hji : j = i
  · subst hji
    rw [if_pos ⟨hj, meets_slot.mpr rfl⟩, if_pos rfl]
  · rw [if_neg fun h => hji (meets_slot.mp h.2).symm, if_neg hji]

/-! Command words. -/

section
variable (s : State) (c : Nat) {tk fd : Nat} (htk : tk < 2 ^ 20) (hfd : fd < 64)
include htk hfd

/-- The fields of a command word (R389). -/
theorem command_fields {k : Nat} (hk : k < 16) : let w := k * 2 ^ 60 + tk * 2 ^ 32 + fd
    field w 60 4 = k ∧ field w 32 20 = tk ∧ w % 64 = fd ∧ field w 52 8 = 0 ∧ field w 6 26 = 0 := by
  unfold field
  refine ⟨?_, ?_, ?_, ?_, ?_⟩ <;> omega

theorem State.command_replay : s.command c (1 * 2 ^ 60 + tk * 2 ^ 32 + fd) = if fd ≠ 0 then (2, s) else s.doReplay c tk := by
  obtain ⟨hop, htok, hlow, hz1, hz2⟩ := command_fields htk hfd (k := 1) (by decide)
  unfold State.command
  dsimp only
  rw [hop, htok, hlow, hz1, hz2, if_neg (by decide)]
  rfl

theorem State.command_resume : s.command c (2 * 2 ^ 60 + tk * 2 ^ 32 + fd) = if fd ≠ 0 then (2, s) else s.doResume c tk := by
  obtain ⟨hop, htok, hlow, hz1, hz2⟩ := command_fields htk hfd (k := 2) (by decide)
  unfold State.command
  dsimp only
  rw [hop, htok, hlow, hz1, hz2, if_neg (by decide)]
  rfl

theorem State.command_teardown : s.command c (3 * 2 ^ 60 + tk * 2 ^ 32 + fd) = if tk ≠ 0 then (2, s) else (0, s.teardown fd) := by
  obtain ⟨hop, htok, hlow, hz1, hz2⟩ := command_fields htk hfd (k := 3) (by decide)
  unfold State.command
  dsimp only
  rw [hop, htok, hlow, hz1, hz2, if_neg (by decide)]
  rfl

end

/-! Arm words. -/

/-- The context as the hub finds it when it takes an arm word (R106, R360). -/
def State.armed (s0 : State) (c : Nat) : State := (s0.readCtx c).syncPages c

theorem State.arm_bad {s0 : State} {c va : Nat} (h : 2 ^ 56 ≤ va ∨ ((s0.armed c).ctx c).valid = false) : s0.arm c (va + 1) = (2, s0.armed c) := if_pos (.inr h)

section
variable {s0 : State} {c va : Nat} (hva : va % 256 = 0) (hlt : va < 2 ^ 56) (hvalid : ((s0.armed c).ctx c).valid = true)
include hva hlt hvalid

theorem State.arm_good : ¬((va + 1) % 256 ≠ 1 ∨ 2 ^ 56 ≤ va + 1 - 1 ∨ ((s0.armed c).ctx c).valid = false) := by
  rintro (h | h | h)
  · omega
  · omega
  · exact absurd (hvalid.symm.trans h) (by decide)

variable {r : List Byte} {t : State} (hread : (s0.armed c).hubRead c va 256 = (some r, t))
include hread

theorem State.arm_live (hlive : t.rcbLive (t.placeKey c va) = true) : s0.arm c (va + 1) = (4, t) := by
  refine (if_neg (State.arm_good hva hlt hvalid)).trans ?_
  rw [Nat.add_sub_cancel, show ((s0.readCtx c).syncPages c).hubRead c va 256 = _ from hread]
  exact if_pos hlive

variable (hdead : t.rcbLive (t.placeKey c va) = false)
include hdead

theorem State.arm_full (hnone : t.freeHandle = none) : s0.arm c (va + 1) = (6, t) := by
  refine (if_neg (State.arm_good hva hlt hvalid)).trans ?_
  rw [Nat.add_sub_cancel, show ((s0.readCtx c).syncPages c).hubRead c va 256 = _ from hread]
  refine (if_neg (not_true_of_false hdead)).trans ?_
  rw [hnone]

theorem State.arm_takes {h : Nat} (hfree : t.freeHandle = some h) :
    let kva := recNum r 0x60 8
    let rd := if kva = 0 ∨ 2 ^ 56 ≤ kva ∨ kva % 64 ≠ 0 then t else (t.hubRead c kva 64).2
    let rg := (rd.linkHost c va r).region c r
    ∃ g kv, s0.arm c (va + 1) = (0, rg.2.accept g kv r) ∧ g.handle = h ∧ g.ctx = c ∧ g.rcbVa = va ∧ g.region = rg.1 ∧
      g.snapMem = t.hbm ∧ g.snapSys = t.sysMem := by
  intro kva rd rg
  have harm : s0.arm c (va + 1) = _ := if_neg (State.arm_good hva hlt hvalid)
  rw [Nat.add_sub_cancel, show ((s0.readCtx c).syncPages c).hubRead c va 256 = _ from hread] at harm
  dsimp only at harm
  rw [if_neg (not_true_of_false hdead), hfree] at harm
  have hrd : (if kva = 0 ∨ 2 ^ 56 ≤ kva ∨ kva % 64 ≠ 0 then (none, t) else t.hubRead c kva 64).2 = rd := apply_ite Prod.snd _ _ _
  dsimp only at harm
  rw [hrd] at harm
  exact ⟨_, _, harm, rfl, rfl, rfl, rfl, rfl, rfl⟩

end

/-- Settles O46: the rings of arms and commands, and what the hub takes from them. -/
theorem ringCommands : Obligations.RingCommands := by
  unfold Obligations.RingCommands
  refine ⟨fun s ctx slot v hup => ?hosts, fun s c n => ?arms, fun s c n => ?cmds, fun s off v => ?slots, fun s c tk fd htk hfd => ?words,
    fun s0 c va hva => ?arm⟩
  case hosts =>
    intro x off inSlice y
    refine ⟨congrArg Host.Outcome.next (if_neg (by rw [hup]; decide)), fun i hi => ?_⟩
    intro t
    have hslot := State.commandSlot_eq ctx slot v hup
    have hexec : exec i s = .next (s.commandSlot ctx slot v) := by
      simp only [List.mem_cons, List.not_mem_nil, or_false] at hi
      rcases hi with rfl | rfl | rfl <;> rfl
    rw [hexec, hslot]
    exact ⟨fun hvalid => congrArg Host.Outcome.next (if_pos hvalid), fun hinvalid => congrArg Host.Outcome.next (if_neg (not_true_of_false hinvalid))⟩
  case arms =>
    intro x arm v
    rw [State.drainArms_succ]
    refine ⟨fun h0 => if_pos h0, fun h1 => ⟨fun page hpage => ?_, fun hnone => ?_⟩⟩
    · refine (if_neg (show ¬v.1 % 2 = 0 by omega)).trans ?_
      rw [show v.2.armBlocked c v.1 = some page from hpage]
    · refine (if_neg (show ¬v.1 % 2 = 0 by omega)).trans ?_
      rw [show v.2.armBlocked c v.1 = none from hnone]
      rfl
  case cmds =>
    intro x cmd left
    refine ⟨s.drainCmds_idle c n, fun hfull => ?_, fun hc i j hi hj => State.markCmds_bit hc hi hj⟩
    intro v
    rw [s.drainCmds_succ c n hfull]
    exact ⟨fun h0 => if_pos h0, fun h1 => if_neg h1⟩
  case slots =>
    exact ⟨fun h => if_pos h, fun h => if_neg (not_true_of_false h), fun h => if_pos h, fun h => if_neg (not_true_of_false h)⟩
  case words =>
    refine ⟨?_, ?_, ?_, fun hne => ?_⟩
    · have h := s.command_replay c htk (fd := 0) (by decide)
      rwa [Nat.add_zero, if_neg (not_not_intro rfl)] at h
    · have h := s.command_resume c htk (fd := 0) (by decide)
      rwa [Nat.add_zero, if_neg (not_not_intro rfl)] at h
    · have h := s.command_teardown c (tk := 0) (by decide) hfd
      rwa [Nat.zero_mul, Nat.add_zero, if_neg (not_not_intro rfl)] at h
    · exact (s.command_teardown c htk hfd).trans (if_pos hne)
  case arm =>
    intro s
    refine ⟨State.arm_bad, fun hlt hvalid r t hread => ?_⟩
    exact ⟨State.arm_live hva hlt hvalid hread, State.arm_full hva hlt hvalid hread, fun hdead h => State.arm_takes hva hlt hvalid hread hdead⟩

end Sys2Proof.Machine
end

section
/-! The statement on the hub's own registers and turns (R100, R359, R360, R362, R366, R368, R377). -/

namespace Sys2Proof.Machine

theorem State.regEffect_takes {s : State} {fn off : Nat} (h : s.takesWrite fn off) (f : State → State) : s.regEffect fn off f = f s := by
  obtain ⟨hup, hok⟩ := h
  unfold State.regEffect
  rw [if_neg (by rw [hup]; decide), if_pos hok]

/-! Denials. -/

/-- Of `t`, everything but the denial log and the interrupts is as in `s` (R407). -/
def LogFrame (s t : State) : Prop := t = { s with sec := t.sec, msix := t.msix }

theorem LogFrame.refl (s : State) : LogFrame s s := rfl

theorem LogFrame.trans {s t u : State} (h : LogFrame s t) (h' : LogFrame t u) : LogFrame s u := by
  unfold LogFrame at h'
  rw [h'] at *
  unfold LogFrame at h
  rw [h]
  rfl

theorem LogFrame.foldl {α : Type} {f : State → α → State} (hf : ∀ s a, LogFrame s (f s a)) (l : List α) (s : State) :
    LogFrame s (l.foldl f s) := by
  induction l generalizing s with
  | nil => rfl
  | cons a l ih => exact (hf s a).trans (ih _)

theorem LogFrame.sameMemory {s t : State} (h : LogFrame s t) : SameMemory s t := by
  rw [h]
  exact ⟨rfl, rfl, rfl, rfl, rfl⟩

theorem State.logDenial_log (s : State) (target master addr : Nat) (k : Access) : LogFrame s (s.logDenial target master addr k) := by
  unfold State.logDenial
  dsimp only
  split <;> rfl

theorem State.readHub_log (s : State) (sys : Bool) (a n : Nat) : LogFrame s (s.readHub sys a n).2 := by
  unfold State.readHub
  split
  · rfl
  · exact s.logDenial_log _ _ _ _

/-! PTSYNC. -/

theorem mem_ptContexts {v c : Nat} : c ∈ ptContexts v ↔ if v.testBit 8 then c < 64 else c = v % 64 := by
  unfold ptContexts
  split
  · exact List.mem_range
  · exact List.mem_singleton

theorem State.startSync_ctxs (s : State) (v c : Nat) : c ∈ (s.startSync v).ptCtxs ↔
    (s.ptBusy = true ∧ c ∈ s.ptCtxs) ∨ if v.testBit 8 then c < 64 else c = v % 64 := by
  have hctxs : (s.startSync v).ptCtxs =
    (if s.ptBusy then s.ptCtxs else []) ++ (ptContexts v).filter fun c => !(s.ptBusy && s.ptCtxs.contains c) := rfl
  rw [hctxs, List.mem_append, List.mem_filter, ← mem_ptContexts]
  cases s.ptBusy with
  | false => simp
  | true => by_cases hc : c ∈ s.ptCtxs <;> simp [hc]

/-- One context of a synchronisation (R362). -/
def State.syncOne (s : State) (c : Nat) : State := ((s.dropTlb c).readCtx c).syncPages c

/-- Reading an entry of the context table again. -/
theorem State.readCtx_spec (s : State) (c : Nat) : let t := s.readCtx c
    SameMemory s t ∧ t.ptDone = s.ptDone ∧ t.tlb = s.tlb ∧ t.atsCache = s.atsCache := by
  intro t
  obtain ⟨f, ht⟩ : ∃ f, t = (if s.ctxBase.getLsbD 0 then s.readHub false (s.ctxEntry c) 64 else (0, s)).2.onCtx c f := by
    have ht := State.readCtx.eq_1 s c
    dsimp only at ht
    exact ⟨_, ht⟩
  have hu : LogFrame s (if s.ctxBase.getLsbD 0 then s.readHub false (s.ctxEntry c) 64 else (0, s)).2 := by
    split
    · exact s.readHub_log _ _ _
    · rfl
  generalize (if s.ctxBase.getLsbD 0 then s.readHub false (s.ctxEntry c) 64 else (0, s)).2 = u at hu ht
  rw [ht]
  refine ⟨hu.sameMemory.trans ⟨rfl, rfl, rfl, rfl, rfl⟩, ?_⟩
  rw [hu]
  exact ⟨rfl, rfl, rfl⟩

theorem State.syncOne_spec (s : State) (c : Nat) : let t := s.syncOne c
    SameMemory s t ∧ t.ptDone = s.ptDone ∧ (∀ x, x ∈ t.tlb → x.2.1 ≠ c) ∧ ∀ x, x ∈ t.atsCache → x.1 ≠ c := by
  intro t
  obtain ⟨hmem, hdone, htlb, hats⟩ := (s.dropTlb c).readCtx_spec c
  have ht : t = ((s.dropTlb c).readCtx c).syncPages c := rfl
  generalize (s.dropTlb c).readCtx c = u at hmem hdone htlb hats ht
  rw [ht]
  refine ⟨hmem.trans ⟨rfl, rfl, rfl, rfl, rfl⟩, hdone, fun x hx => ?_, fun x hx => ?_⟩
  · have hx' : x ∈ u.tlb := hx
    rw [htlb] at hx'
    have hkept := (List.mem_filter.mp hx').2
    unfold State.tlbOf at hkept
    rintro rfl
    simp at hkept
  · have hx' : x ∈ u.atsCache := hx
    rw [hats] at hx'
    exact bne_iff_ne.mp (List.mem_filter.mp hx').2

theorem State.syncAll_spec (l : List Nat) (s : State) : SameMemory s (l.foldl State.syncOne s) ∧ (l.foldl State.syncOne s).ptDone = s.ptDone := by
  induction l generalizing s with
  | nil => exact ⟨.refl s, rfl⟩
  | cons c l ih =>
    obtain ⟨hmem, hdone, -⟩ := s.syncOne_spec c
    exact ⟨hmem.trans (ih _).1, (ih _).2.trans hdone⟩

/-- The end of a synchronisation (R362). -/
def State.syncEnd (s : State) : State := { s with ptBusy := false, ptAll := false, ptCtxs := [], ptDone := s.ptDone + 1 }

theorem execPtsyncCompletion_busy {s : State} (h : s.ptBusy = true) :
    exec .ptsyncCompletion s = .next (s.ptCtxs.foldl State.syncOne s).syncEnd :=
  congrArg Host.Outcome.next (if_neg (by rw [h]; decide))

/-! Coalescers. -/

theorem State.coalOf_putCoal (s : State) (x : Coal) (f n : Nat) :
    (s.putCoal x).coalOf f n = if x.fn = f ∧ x.vector = n then x else s.coalOf f n := by
  unfold State.coalOf State.putCoal
  dsimp only
  split
  next h => rw [List.find?_cons_of_pos (by simpa using h)]; rfl
  next h =>
    rw [List.find?_cons_of_neg (by simpa using h), find_filter_of_imp fun y hy => ?_]
    obtain ⟨rfl, rfl⟩ := of_decide_eq_true hy
    rw [Bool.not_eq_true']
    exact decide_eq_false fun he => h ⟨he.1.symm, he.2.symm⟩

theorem State.coalOf_key (s : State) (f n : Nat) : (s.coalOf f n).fn = f ∧ (s.coalOf f n).vector = n := by
  unfold State.coalOf
  cases h : s.coal.find? fun c => decide (c.fn = f ∧ c.vector = n) with
  | none => exact ⟨rfl, rfl⟩
  | some c =>
    have hc := List.find?_some h
    exact of_decide_eq_true hc

/-- A coalescer whose time has come at a tick (R368). -/
def Coal.isDue (now : Nat) (c : Coal) : Bool :=
  c.en && decide (0 < c.pending) && (decide (c.cnt ≤ c.pending) || decide (c.win * 1400 ≤ now - c.t0))

theorem State.tickCoal_due {s : State} {c : Coal} (h : c.isDue s.now = true) :
    s.tickCoal c = (s.putCoal { c with pending := 0 }).fire c.fn c.vector := if_pos h

theorem State.tickCoal_early {s : State} {c : Coal} (h : c.isDue s.now = false) : s.tickCoal c = s := if_neg (not_true_of_false h)

theorem State.ticks_spec (l : List Coal) (s : State) : let t := l.foldl (fun u c => u.tickCoal c) s
    let due := l.filter (Coal.isDue s.now)
    t = { s with coal := t.coal, msix := s.msix ++ due.map fun c => (c.fn, c.vector) } ∧
      ∀ f n, (t.coalOf f n = s.coalOf f n ∧ ∀ c, c ∈ due → ¬(c.fn = f ∧ c.vector = n)) ∨ (t.coalOf f n).pending = 0 := by
  induction l generalizing s with
  | nil =>
    refine ⟨?_, fun f n => .inl ⟨rfl, nofun⟩⟩
    rw [List.filter_nil, List.map_nil, List.append_nil]
    rfl
  | cons c l ih =>
    cases hdue : c.isDue s.now with
    | false =>
      rw [List.foldl_cons, State.tickCoal_early hdue, List.filter_cons_of_neg (not_true_of_false hdue)]
      exact ih s
    | true =>
      rw [List.foldl_cons, State.tickCoal_due hdue, List.filter_cons_of_pos hdue]
      obtain ⟨ht, hcoal⟩ := ih ((s.putCoal { c with pending := 0 }).fire c.fn c.vector)
      refine ⟨ht.trans ?_, fun f n => ?_⟩
      · rw [List.map_cons, ← List.singleton_append, ← List.append_assoc]
        rfl
      · refine (hcoal f n).elim (fun h => ?_) .inr
        have hput : ((s.putCoal { c with pending := 0 }).fire c.fn c.vector).coalOf f n = _ := s.coalOf_putCoal { c with pending := 0 } f n
        by_cases hkey : c.fn = f ∧ c.vector = n
        · right
          rw [h.1, hput, if_pos hkey]
        · left
          refine ⟨h.1.trans (hput.trans (if_neg hkey)), fun x hx => ?_⟩
          rcases List.mem_cons.mp hx with rfl | hx
          · exact hkey
          · exact h.2 x hx

/-- Settles O47: the hub's registers, its coalescers and the training of a link. -/
theorem hubRegisters : Obligations.HubRegisters := by
  unfold Obligations.HubRegisters
  refine ⟨fun s v => ⟨fun htakes => ?sync, fun hbusy => ?synced, fun c hc htakes => ?pool, fun f n hf hn htakes => ?coal, fun htakes => ?fatal⟩,
    fun s => ?tick, fun s port h hport => ?train⟩
  case sync =>
    refine ⟨_, congrArg Host.Outcome.next (State.regEffect_takes htakes _), rfl, fun c => ?_⟩
    rw [State.startSync_ctxs]
    rfl
  case synced =>
    obtain ⟨hmem, hdone⟩ := State.syncAll_spec s.ptCtxs s
    refine ⟨_, execPtsyncCompletion_busy hbusy, hmem.trans ⟨rfl, rfl, rfl, rfl, rfl⟩, rfl, rfl, congrArg (fun x => x + 1) hdone, fun c hc => ?_⟩
    rw [hc]
    obtain ⟨-, -, htlb, hats⟩ := s.syncOne_spec c
    exact ⟨rfl, htlb, hats⟩
  case pool =>
    intro u
    have hexec : exec (.ppheadWrite c v) s = .next (u.resumeSaves c) :=
      congrArg Host.Outcome.next ((if_neg (Nat.not_le.mpr hc)).trans (State.regEffect_takes htakes _))
    refine ⟨hexec, fun hnone => hexec.trans (congrArg Host.Outcome.next ?_)⟩
    have hasked : (u.asked.filter fun x => decide ((u.bind x.1 x.2.1).ctx = c) && (u.bind x.1 x.2.1).live) = [] :=
      List.filter_eq_nil_iff.mpr fun x hx h => hnone x hx (of_decide_eq_true (Bool.and_eq_true _ _ ▸ h).1)
    unfold State.resumeSaves
    rw [hasked]
    rfl
  case coal =>
    have htakes' : s.takesWrite 0 (0x50000 + 16 * (32 * f + n)) := by
      rw [show 0x50000 + 16 * (32 * f + n) = 0x50000 + 512 * f + 16 * n by omega]
      exact htakes
    have hplace : ¬(8 ≤ f ∨ 32 ≤ n) := by omega
    obtain ⟨hfn, hvector⟩ := s.coalOf_key f n
    refine ⟨_, congrArg Host.Outcome.next ((if_neg hplace).trans (State.regEffect_takes htakes' _)), rfl, fun g m hne => ?_, ?_⟩
    · refine (s.coalOf_putCoal _ g m).trans (if_neg fun h => hne ?_)
      exact ⟨h.1.symm.trans hfn, h.2.symm.trans hvector⟩
    · exact (s.coalOf_putCoal _ f n).trans (if_pos ⟨hfn, hvector⟩)
  case fatal =>
    refine congrArg Host.Outcome.next ((State.regEffect_takes htakes _).trans ?_)
    cases h : v.getLsbD 0 <;> simp
  case tick =>
    intro due
    obtain ⟨ht, hcoal⟩ := State.ticks_spec s.coal s
    refine ⟨_, rfl, ht, fun c hc => ?_⟩
    exact (hcoal c.fn c.vector).elim (fun h => absurd ⟨rfl, rfl⟩ (h.2 c hc)) id
  case train =>
    refine ⟨_, rfl, rfl, fun q hq => ?_, ?_⟩
    · exact (nth_setNth _ _ _ _ _).trans (if_neg fun h => hq h.1)
    · exact (nth_setNth _ _ _ _ _).trans (if_pos ⟨rfl, hport⟩)

end Sys2Proof.Machine
end

section
/-! The refutation of the statement on peers, the trap queue and PRI (R366, R367, R414). -/

namespace Sys2Proof.Machine

/-- A device that is up, with die 0 off, and a transfer that a fault holds at port 0, which no longer takes any. -/
def heldPort : State :=
  { State.reset with
    sec := { State.reset.sec with stage := 4 }
    power := { State.reset.power with dieOff := [true, false, false, false] }
    inbound := [⟨0, 0, [], 0, 0, 0, none⟩] }

theorem heldPort_takes : heldPort.takesWrite 0 (0x60000 + 32 * 0 + 16) :=
  ⟨rfl, (accessOk_unwritten rfl (by decide) (by decide)).mpr (.inl rfl)⟩

/-- A write to PEERRES wakes the dies before the transfer is tried again (R414). -/
theorem execPeerresWrite_wakes (x : Inbound) (hx : heldPort.inbound.find? (fun y => y.port == 0) = some x) (hrequest : x.request = none) :
    exec (.peerresWrite 0) heldPort = .next (heldPort.wakeDies.peerTry { x with releases := x.releases + 1 }) := by
  refine congrArg Host.Outcome.next ((if_neg (by decide)).trans ((State.regEffect_takes heldPort_takes _).trans ?_))
  unfold State.releasePeer
  rw [hx]
  exact if_neg (by rw [hrequest]; decide)

/-- A port that takes no transfer drops it, and the power state stands. -/
theorem State.peerTry_closed {s : State} {x : Inbound} (h : s.peerIn x.port = none) : (s.peerTry x).power = s.power := by
  unfold State.peerTry
  rw [h]
  dsimp only
  rw [State.logDenial_log]

/-- Refutes O48: a write to PEERRES wakes the dies that are off (R414), and the statement's state has them off still. -/
theorem not_peersQueuesAndPri : ¬ Obligations.PeersQueuesAndPri := by
  unfold Obligations.PeersQueuesAndPri
  rintro ⟨-, hrelease, -⟩
  have hexec := hrelease heldPort 0 ⟨0, 0, [], 0, 0, 0, none⟩ (by decide) heldPort_takes rfl rfl
  rw [execPeerresWrite_wakes _ rfl rfl] at hexec
  have hpower := congrArg (fun t => t.power.dieOff) (Host.Outcome.next.inj hexec)
  dsimp only at hpower
  rw [State.peerTry_closed rfl, State.peerTry_closed rfl] at hpower
  exact absurd hpower (by decide)

end Sys2Proof.Machine
end

section
/-! SUPPORT. The pieces of an access, within one page each, and what writing them piece by piece leaves (R353, R407). -/

namespace Sys2Proof.Machine

/-- A place lies in a piece. -/
def InPiece (y : Nat) (p : Nat × Nat) : Prop := p.1 ≤ y ∧ y < p.1 + p.2

/-- The pieces of a range cover it and nothing else, and each lies in one page. -/
theorem mem_pageCuts {fuel va n : Nat} (h : n ≠ 0 → va % 4096 + n ≤ 4096 * fuel) :
    (∀ p, p ∈ pageCuts fuel va n → va ≤ p.1 ∧ 0 < p.2 ∧ p.1 + p.2 ≤ va + n ∧ p.1 % 4096 + p.2 ≤ 4096) ∧
      ∀ y, va ≤ y → y < va + n → ∃ p, p ∈ pageCuts fuel va n ∧ InPiece y p := by
  induction fuel generalizing va n with
  | zero =>
    have hn : n = 0 := by_contra fun hn => by have := h hn; omega
    exact ⟨nofun, fun y hlo hhi => by omega⟩
  | succ fuel ih =>
    unfold pageCuts
    split
    next hn => exact ⟨nofun, fun y hlo hhi => by omega⟩
    next hn =>
      generalize hk : min n (4096 - va % 4096) = k
      have hmod : va % 4096 < 4096 := Nat.mod_lt _ (by decide)
      have hfuel := h hn
      have hrest : n - k ≠ 0 → (va + k) % 4096 + (n - k) ≤ 4096 * fuel := by omega
      obtain ⟨hin, hcover⟩ := ih hrest
      dsimp only
      refine ⟨fun p hp => ?_, fun y hlo hhi => ?_⟩
      · rcases List.mem_cons.mp hp with rfl | hp
        · dsimp only
          omega
        · obtain ⟨h1, h2, h3, h4⟩ := hin p hp
          omega
      · by_cases hy : y < va + k
        · exact ⟨_, List.mem_cons_self, hlo, hy⟩
        · obtain ⟨p, hp, hyp⟩ := hcover y (by omega) (by omega)
          exact ⟨p, List.mem_cons_of_mem _ hp, hyp⟩

/-- A piece of an access: where it lies. -/
theorem of_mem_cutsOf {va n : Nat} {p : Nat × Nat} (hp : p ∈ cutsOf va n) :
    va ≤ p.1 ∧ 0 < p.2 ∧ p.1 + p.2 ≤ va + n ∧ p.1 % 4096 + p.2 ≤ 4096 := (mem_pageCuts fun _ => by omega).1 p hp

theorem exists_cutsOf {va n y : Nat} (hlo : va ≤ y) (hhi : y < va + n) : ∃ p, p ∈ cutsOf va n ∧ InPiece y p :=
  (mem_pageCuts fun _ => by omega).2 y hlo hhi

/-- A place in a piece of an access lies in the page of the piece. -/
theorem InPiece.page {va n y : Nat} {p : Nat × Nat} (hp : p ∈ cutsOf va n) (hy : InPiece y p) : p.1 / 4096 = y / 4096 := by
  obtain ⟨-, -, -, hpage⟩ := of_mem_cutsOf hp
  obtain ⟨hlo, hhi⟩ := hy
  omega

/-- A test that looks at the page alone: a place of the access lies in a piece that passes it exactly when it passes it. -/
theorem exists_piece_iff {va n y : Nat} {ok : Nat → Bool} (hok : ∀ a b, a / 4096 = b / 4096 → ok a = ok b) :
    (∃ p, p ∈ (cutsOf va n).filter (fun p => ok p.1) ∧ InPiece y p) ↔ (va ≤ y ∧ y < va + n) ∧ ok y = true := by
  constructor
  · rintro ⟨p, hp, hy⟩
    obtain ⟨hcut, htest⟩ := List.mem_filter.mp hp
    obtain ⟨hlo, -, hhi, -⟩ := of_mem_cutsOf hcut
    exact ⟨⟨hlo.trans hy.1, hy.2.trans_le hhi⟩, (hok _ _ (hy.page hcut)) ▸ htest⟩
  · rintro ⟨⟨hlo, hhi⟩, htest⟩
    obtain ⟨p, hp, hy⟩ := exists_cutsOf hlo hhi
    exact ⟨p, List.mem_filter.mpr ⟨hp, (hok _ _ (hy.page hp)).trans htest⟩, hy⟩

theorem accessOk_page {s : State} {target master : Nat} {k : Access} (a b : Nat) (h : a / 4096 = b / 4096) :
    accessOk s target master a k = accessOk s target master b k := by
  unfold accessOk
  rw [h]

/-- Pieces of a range, each of which lies in it. -/
def PiecesIn (a n : Nat) (ps : List (Nat × Nat)) : Prop := ∀ p, p ∈ ps → a ≤ p.1 ∧ p.1 + p.2 ≤ a + n

theorem piecesIn_filter (a n : Nat) (ok : Nat × Nat → Bool) : PiecesIn a n ((cutsOf a n).filter ok) := fun p hp => by
  obtain ⟨hlo, -, hhi, -⟩ := of_mem_cutsOf (List.mem_filter.mp hp).1
  exact ⟨hlo, hhi⟩

/-- The bytes of a piece. -/
def pieceOf (a : Nat) (bs : List Byte) (p : Nat × Nat) : List Byte := (bs.drop (p.1 - a)).take p.2

theorem pieceOf_length {a : Nat} {bs : List Byte} {p : Nat × Nat} (h : a ≤ p.1 ∧ p.1 + p.2 ≤ a + bs.length) : (pieceOf a bs p).length = p.2 := by
  unfold pieceOf
  rw [List.length_take, List.length_drop]
  omega

theorem nth_pieceOf {a y : Nat} {bs : List Byte} {p : Nat × Nat} (h : a ≤ p.1 ∧ p.1 + p.2 ≤ a + bs.length) (hy : InPiece y p) :
    nth (pieceOf a bs p) (y - p.1) 0 = nth bs (y - a) 0 := by
  obtain ⟨hlo, hhi⟩ := hy
  unfold pieceOf
  rw [nth_eq_getD, nth_eq_getD, List.getElem?_take, if_pos (by omega), List.getElem?_drop]
  congr 2
  omega

/-- Memory after the pieces of a write. -/
def Memory.putPieces (m : Memory) (a : Nat) (bs : List Byte) (ps : List (Nat × Nat)) : Memory :=
  ps.foldl (fun m p => Memory.putBytes m p.1 (pieceOf a bs p)) m

theorem Memory.putPieces_wf {m : Memory} (h : Memory.wf m = true) (a : Nat) (bs : List Byte) (ps : List (Nat × Nat)) :
    Memory.wf (Memory.putPieces m a bs ps) = true := by
  unfold Memory.putPieces
  induction ps generalizing m with
  | nil => exact h
  | cons p ps ih => exact ih (Memory.putBytes_wf h)

/-- A byte is the written one where a piece holds it, and stands elsewhere. -/
theorem Memory.get_putPieces {m : Memory} (h : Memory.wf m = true) {a : Nat} {bs : List Byte} {ps : List (Nat × Nat)}
    (hps : PiecesIn a bs.length ps) (y : Nat) :
    ((∃ p, p ∈ ps ∧ InPiece y p) → (Memory.putPieces m a bs ps).get y = nth bs (y - a) 0) ∧
      ((∀ p, p ∈ ps → ¬InPiece y p) → (Memory.putPieces m a bs ps).get y = m.get y) := by
  unfold Memory.putPieces
  induction ps generalizing m with
  | nil => exact ⟨nofun, fun _ => rfl⟩
  | cons p ps ih =>
    obtain ⟨hin, hout⟩ := ih (Memory.putBytes_wf (bs := pieceOf a bs p) (x := p.1) h) fun q hq => hps q (List.mem_cons_of_mem _ hq)
    obtain ⟨hstored, hkept⟩ := Memory.storedAt_putBytes (a := p.1) (bs := pieceOf a bs p) h
    have hlen := pieceOf_length (hps p List.mem_cons_self)
    rw [hlen] at hstored hkept
    refine ⟨fun hex => ?_, fun hno => ?_⟩
    · by_cases hlater : ∃ q, q ∈ ps ∧ InPiece y q
      · exact hin hlater
      · obtain ⟨q, hq, hy⟩ := hex
        have hqp : q = p := (List.mem_cons.mp hq).resolve_right fun hq => hlater ⟨q, hq, hy⟩
        subst hqp
        refine (hout fun r hr hyr => hlater ⟨r, hr, hyr⟩).trans ?_
        have hget := hstored (y - q.1) (by obtain ⟨hlo, hhi⟩ := hy; omega)
        rw [Nat.add_sub_cancel' hy.1] at hget
        exact hget.trans (nth_pieceOf (hps q List.mem_cons_self) hy)
    · refine (hout fun r hr => hno r (List.mem_cons_of_mem _ hr)).trans (hkept y ?_)
      have hp := hno p List.mem_cons_self
      unfold InPiece at hp
      omega

/-- What a write through pieces of its pages leaves (R407). -/
theorem Memory.putWhere_pieces {m : Memory} (h : Memory.wf m = true) {a : Nat} {bs : List Byte} {ok : Nat → Bool}
    (hok : ∀ x y, x / 4096 = y / 4096 → ok x = ok y) :
    PutWhere m (Memory.putPieces m a bs ((cutsOf a bs.length).filter fun p => ok p.1)) a bs fun x => ok x = true := by
  intro y
  obtain ⟨hin, hout⟩ := Memory.get_putPieces h (piecesIn_filter a bs.length fun p => ok p.1) y
  have hiff := exists_piece_iff (va := a) (n := bs.length) (y := y) hok
  refine ⟨fun hlo hhi hy => hin (hiff.mpr ⟨⟨hlo, hhi⟩, hy⟩), fun hno => hout fun p hp hy => hno ?_⟩
  obtain ⟨⟨hlo, hhi⟩, htest⟩ := hiff.mp ⟨p, hp, hy⟩
  exact ⟨hlo, hhi, htest⟩

theorem inPieces_iff (ps : List (Nat × Nat)) (y : Nat) : inPieces ps y = true ↔ ∃ p, p ∈ ps ∧ InPiece y p := by
  unfold inPieces InPiece
  rw [List.any_eq_true]
  simp only [decide_eq_true_eq]

end Sys2Proof.Machine
end

section
/-! The statement on the host's windows (R99, R123, R353, R365, R402, R407, R408, R413). -/

namespace Sys2Proof.Machine

theorem State.hostPieces_log (s : State) (target fn a n : Nat) (k : Access) : LogFrame s (s.hostPieces target fn a n k).2 :=
  LogFrame.foldl (fun t _ => t.logDenial_log _ _ _ _) _ _

theorem State.winDenials_log (s : State) (fn off n : Nat) (k : Access) : LogFrame s (s.winDenials fn off n k) :=
  LogFrame.foldl (fun t _ => t.logDenial_log _ _ _ _) _ _

/-! BAR2 in recovery (R402). -/

/-- PF0 writes the SRAM piece by piece. -/
def State.putSrams (s : State) (off : Nat) (bs : List Byte) (ps : List (Nat × Nat)) : State :=
  ps.foldl (fun t p => t.putSram p.1 (pieceOf off bs p)) s

theorem State.putSrams_spec (off : Nat) (bs : List Byte) (ps : List (Nat × Nat)) (s : State) : let t := s.putSrams off bs ps
    t = { s with sbSram := t.sbSram, poison := t.poison } ∧ t.sbSram = Memory.putPieces s.sbSram off bs ps ∧ ∀ p, p ∈ t.poison → p ∈ s.poison := by
  induction ps generalizing s with
  | nil => exact ⟨rfl, rfl, fun _ h => h⟩
  | cons q ps ih =>
    obtain ⟨hframe, hsram, hpoison⟩ := ih (s.putSram q.1 (pieceOf off bs q))
    exact ⟨hframe, hsram, fun p hp => (List.mem_filter.mp (hpoison p hp)).1⟩

/-- A write cut to the SRAM reaches what of it lies there. -/
theorem PutWhere.of_take {m n : Memory} {a top : Nat} {bs : List Byte} {ok : Nat → Prop} (h : PutWhere m n a (bs.take (top - a)) ok) :
    PutWhere m n a bs fun x => x < top ∧ ok x := by
  intro y
  obtain ⟨hin, hout⟩ := h y
  rw [List.length_take] at hin hout
  refine ⟨fun hlo hhi hy => ?_, fun hno => hout fun hy => hno ?_⟩
  · obtain ⟨htop, hok⟩ := hy
    rw [hin hlo (by omega) hok, nth_eq_getD, nth_eq_getD, List.getElem?_take, if_pos (by omega)]
  · obtain ⟨hlo, hhi, hok⟩ := hy
    exact ⟨hlo, by omega, by omega, hok⟩

theorem execHostWindowWrite_sram {s : State} {fn : Nat} (hshows : s.showsSram fn = true) (off : Nat) (bs : List Byte) : exec (.hostWindowWrite fn off bs) s = .next
    ((s.hostPieces 22 fn off (bs.take (0x400000 - off)).length .write).2.putSrams off (bs.take (0x400000 - off))
      (s.hostPieces 22 fn off (bs.take (0x400000 - off)).length .write).1) :=
  congrArg Host.Outcome.next (if_pos hshows)

theorem State.sramWritten_spec {s : State} (hwf : Memory.wf s.sbSram = true) (fn off : Nat) (bs : List Byte) :
    let u := (s.hostPieces 22 fn off (bs.take (0x400000 - off)).length .write).2
    let t := u.putSrams off (bs.take (0x400000 - off)) (s.hostPieces 22 fn off (bs.take (0x400000 - off)).length .write).1
    t = { u with sbSram := t.sbSram, poison := t.poison } ∧ (∀ p, p ∈ t.poison → p ∈ s.poison) ∧
      PutWhere s.sbSram t.sbSram off bs fun a => a < 0x400000 ∧ accessOk s 22 (128 + fn) a .write = true := by
  intro u t
  obtain ⟨hframe, hsram, hpoison⟩ := State.putSrams_spec off (bs.take (0x400000 - off))
    (s.hostPieces 22 fn off (bs.take (0x400000 - off)).length .write).1 u
  have hlog : LogFrame s u := s.hostPieces_log _ _ _ _ _
  refine ⟨hframe, fun p hp => ?_, PutWhere.of_take ?_⟩
  · have := hpoison p hp
    rwa [hlog] at this
  · rw [show t.sbSram = _ from hsram, show u.sbSram = s.sbSram by rw [hlog]]
    exact Memory.putWhere_pieces (ok := fun a => accessOk s 22 (128 + fn) a .write) hwf fun x y => accessOk_page x y

/-- A byte of an access lies in an allowed piece exactly when its page is allowed (R407). -/
theorem State.inPieces_host (s : State) (target fn a n : Nat) (k : Access) {y : Nat} (hlo : a ≤ y) (hhi : y < a + n) :
    inPieces (s.hostPieces target fn a n k).1 y = accessOk s target (128 + fn) y k := by
  rw [Bool.eq_iff_iff, inPieces_iff]
  refine (exists_piece_iff (ok := fun a => accessOk s target (128 + fn) a k) fun x y => accessOk_page x y).trans ?_
  exact and_iff_right ⟨hlo, hhi⟩

theorem execHostWindowRead_sram {s : State} {fn : Nat} (hshows : s.showsSram fn = true) (off len : Nat) :
    exec (.hostWindowRead fn off len) s = .next { (s.hostPieces 22 fn off (min len (0x400000 - off)) .read).2 with
      hostRead := (List.range len).map fun i =>
        if 0x400000 ≤ off + i then 0
        else if accessOk s 22 (128 + fn) (off + i) .read = false ∨ s.poison.contains (.sram ((off + i) / 8)) = true then 0xFF
        else Memory.get s.sbSram (off + i) } := by
  refine congrArg Host.Outcome.next ((if_pos hshows).trans ?_)
  refine congrArg (fun l => { (s.hostPieces 22 fn off (min len (0x400000 - off)) .read).2 with hostRead := l }) ?_
  refine List.map_congr_left fun i hi => ?_
  have hlt : i < len := List.mem_range.mp hi
  by_cases htop : 0x400000 ≤ off + i
  · exact (if_pos htop).trans (if_pos htop).symm
  · refine (if_neg htop).trans (Eq.trans ?_ (if_neg htop).symm)
    rw [show mgmtTarget = 22 from rfl, show sramBytes = 0x400000 from rfl, s.inPieces_host 22 fn off _ .read (by omega) (by omega)]
    unfold State.sramByte
    cases accessOk s 22 (128 + fn) (off + i) .read <;> simp

/-! BAR2 (R99, R353). -/

theorem State.putWindow_window (s : State) (off : Nat) (bs : List Byte) : (s.putWindow off bs).window = Memory.putBytes s.window off bs := by
  have hclear : (s.clearMem (.glob (.win off)) bs.length).window = s.window := by
    unfold State.clearMem
    split <;> rfl
  have hforget : ((s.clearMem (.glob (.win off)) bs.length).forgetWindow off bs.length).window = s.window :=
    (foldl_kept (p := State.window) (f := fun t i => t.forgetWord (winLoc (off / 8 * 8 + 4 * i))) (fun _ _ => rfl) _ _).trans hclear
  unfold State.putWindow
  dsimp only
  rw [hforget]

theorem State.hostWindow_window (s : State) (fn off : Nat) (bs : List Byte) : (s.hostWindow fn off bs).window =
    Memory.putPieces s.window off bs ((cutsOf off bs.length).filter fun p => s.winWritable fn p.1) := by
  have hfold (ps : List (Nat × Nat)) (u : State) : (ps.foldl (fun t p => t.putWindow p.1 (pieceOf off bs p)) u).window =
      Memory.putPieces u.window off bs ps := by
    induction ps generalizing u with
    | nil => rfl
    | cons p ps ih => exact (ih _).trans (congrArg (fun m => Memory.putPieces m off bs ps) (u.putWindow_window _ _))
  refine (hfold _ _).trans ?_
  rw [s.winDenials_log fn off bs.length .write]

/-- A slice of the window is made of whole pages (R353). -/
theorem State.ownsWindow_page (s : State) (fn x y : Nat) (h : x / 4096 = y / 4096) : s.ownsWindow fn x = s.ownsWindow fn y := by
  have hslice (lo n : Nat) : (lo * 65536 ≤ x ∧ x < (lo + n) * 65536) ↔ (lo * 65536 ≤ y ∧ y < (lo + n) * 65536) := by omega
  have hbar : x < windowBytes ↔ y < windowBytes := by
    unfold windowBytes
    omega
  unfold State.ownsWindow
  simp only [hslice, hbar]

theorem State.winWritable_page (s : State) (fn x y : Nat) (h : x / 4096 = y / 4096) : s.winWritable fn x = s.winWritable fn y := by
  unfold State.winWritable
  rw [s.ownsWindow_page fn x y h, accessOk_page x y h]

theorem State.winDenials_none {s : State} {fn off n : Nat} {k : Access}
    (h : ∀ i, i < n → s.ownsWindow fn (off + i) = true → accessOk s 9 (128 + fn) (off + i) k = true) : s.winDenials fn off n k = s := by
  unfold State.winDenials
  rw [List.filter_eq_nil_iff.mpr fun p hp hden => ?_]
  · rfl
  · obtain ⟨hlo, hpos, hhi, -⟩ := of_mem_cutsOf hp
    obtain ⟨howns, hok⟩ := (Bool.and_eq_true _ _).mp hden
    have hplace : off + (p.1 - off) = p.1 := by omega
    have hallowed := h (p.1 - off) (by omega)
    rw [hplace] at hallowed
    exact absurd hok (by rw [show hostMaster fn = 128 + fn from rfl, hallowed howns]; decide)

theorem execHostWindowRead_up {s : State} {fn : Nat} (hno : s.showsSram fn = false) (hup : s.hostUp = true) (off len : Nat) :
    exec (.hostWindowRead fn off len) s = .next { s.winDenials fn off len .read with
      hostRead := (List.range len).map fun i =>
        if s.ownsWindow fn (off + i) = false then 0
        else if accessOk s 9 (128 + fn) (off + i) .read = false ∨ s.poison.contains (.win ((off + i) / 8)) = true then 0xFF
        else Memory.get s.window (off + i) } := by
  refine congrArg Host.Outcome.next ((if_neg (not_true_of_false hno)).trans ((if_neg (by rw [hup]; decide)).trans ?_))
  refine congrArg (fun l => { s.winDenials fn off len .read with hostRead := l }) (List.map_congr_left fun i _ => ?_)
  unfold State.hostWinByte
  rw [show hostMaster fn = 128 + fn from rfl]
  dsimp only
  generalize s.ownsWindow fn (off + i) = owns, accessOk s 9 (128 + fn) (off + i) .read = ok
  cases owns <;> cases ok <;> simp

/-! The debug window (R413). -/

theorem State.clearWindow_byte (s : State) (n off : Nat) : s.clearWindow n off 1 = s := by
  unfold State.clearWindow
  split
  · rfl
  · dsimp only
    rw [List.filter_eq_self.mpr fun p _ => ?_]
    have hlen := List.length_filter_le (fun m => m == some p) ((List.range 1).map fun i => s.windowMark n (off + i))
    rw [List.length_map, List.length_range] at hlen
    rw [decide_eq_true (by omega), Bool.or_true]

theorem State.pokeWindow_byte {s : State} {n off : Nat} (hshown : s.shown = some n) (hoff : off < 4 * (6 * 2 ^ 20)) (b : Byte) :
    s.pokeWindow off [b] = s.pokePool (4 * n + off / (6 * 2 ^ 20)) (off % (6 * 2 ^ 20)) b := by
  unfold State.pokeWindow
  rw [hshown]
  dsimp only
  rw [List.length_singleton, s.clearWindow_byte]
  exact if_pos hoff

theorem cutsOf_one (a : Nat) : cutsOf a 1 = [(a, 1)] := by
  have hmin : min 1 (4096 - a % 4096) = 1 := by omega
  unfold cutsOf pageCuts
  rw [if_neg (by decide), hmin]
  rfl

/-! BAR4 (R123, R365). -/

/-- Of `t`, everything but what a host write to device memory changes is as in `s`. -/
def HostPut (s t : State) : Prop := t = { s with
  hbm := t.hbm, flushed := t.flushed, hostBytes := t.hostBytes, fixes := t.fixes, poison := t.poison, hubWords := t.hubWords }

theorem HostPut.trans {s t u : State} (h : HostPut s t) (h' : HostPut t u) : HostPut s u := by
  unfold HostPut at h'
  rw [h'] at *
  unfold HostPut at h
  rw [h]
  rfl

/-- The same, with what follows from pages that became device-owned (R360). -/
def HostWritten (s t : State) : Prop := t = { s with
  hbm := t.hbm, flushed := t.flushed, hostBytes := t.hostBytes, fixes := t.fixes, poison := t.poison, ctxs := t.ctxs, grids := t.grids
  hubWords := t.hubWords }

theorem HostWritten.trans {s t u : State} (h : HostWritten s t) (h' : HostWritten t u) : HostWritten s u := by
  unfold HostWritten at h'
  rw [h'] at *
  unfold HostWritten at h
  rw [h]
  rfl

theorem State.putPhys_host (s : State) (a : Nat) (bs : List Byte) : HostPut s (s.putPhys false a bs) ∧
    (s.putPhys false a bs).hbm = Memory.putBytes s.hbm a bs ∧ (s.putPhys false a bs).hostBytes = s.hostBytes := by
  have hfix : HostPut s (s.dropFixes (.mem a) bs.length) ∧ (s.dropFixes (.mem a) bs.length).hostBytes = s.hostBytes := by
    unfold State.dropFixes
    split <;> exact ⟨rfl, rfl⟩
  have hword (u : State) : HostPut u (u.clearWords (.mem (a / 8)) (a % 8) bs.length) ∧
      (u.clearWords (.mem (a / 8)) (a % 8) bs.length).hostBytes = u.hostBytes := by
    unfold State.clearWords
    split <;> exact ⟨rfl, rfl⟩
  obtain ⟨hframe, hbytes⟩ := hword (s.dropFixes (.mem a) bs.length)
  exact ⟨(hfix.1.trans hframe).trans rfl, rfl, hbytes.trans hfix.2⟩

/-- A byte that HFLUSH.inv would find in a piece that the host writes (R123). -/
theorem State.putHost_spec (s : State) (owned : Bool) (a : Nat) (bs : List Byte) : let t := s.putHost false owned a bs
    HostPut s t ∧ t.hbm = Memory.putBytes s.hbm a bs ∧ ∀ x b, (x, b) ∈ t.hostBytes →
      ((x, b) ∈ s.hostBytes ∧ ¬(owned = true ∧ InPiece x (a, bs.length))) ∨
        (owned = true ∧ InPiece x (a, bs.length) ∧ b = nth bs (x - a) 0) := by
  obtain ⟨hframe, hhbm, hbytes⟩ := s.putPhys_host a bs
  intro t
  have ht : t = s.putHost false owned a bs := rfl
  unfold State.putHost at ht
  generalize s.putPhys false a bs = u at hframe hhbm hbytes ht
  cases owned with
  | false =>
    rw [ht]
    exact ⟨hframe.trans rfl, hhbm, fun x b hx => .inl ⟨hbytes ▸ hx, nofun⟩⟩
  | true =>
    rw [ht]
    refine ⟨hframe.trans rfl, hhbm, fun x b hx => ?_⟩
    rcases List.mem_append.mp hx with hx | hx
    · obtain ⟨k, hk⟩ := List.mem_iff_getElem?.mp hx
      rw [mapFrom_getElem?, Option.map_eq_some_iff] at hk
      obtain ⟨c, hc, hpair⟩ := hk
      obtain ⟨rfl, rfl⟩ := Prod.mk.inj hpair
      have hlt : k < bs.length := (List.getElem?_eq_some_iff.mp hc).1
      refine .inr ⟨rfl, ⟨by omega, by dsimp only; omega⟩, ?_⟩
      rw [Nat.zero_add, Nat.add_sub_cancel_left, nth_eq_getD, hc]
      rfl
    · obtain ⟨hold, hout⟩ := List.mem_filter.mp hx
      refine .inl ⟨hbytes ▸ hold, fun h => ?_⟩
      rw [Bool.not_eq_true', decide_eq_false_iff_not] at hout
      exact hout h.2

/-- What HFLUSH.inv would find after the pieces of a host write: in a device-owned page what was written, else what was there. -/
theorem State.putHosts_spec (pages : List (Bool × Nat × Nat)) (a : Nat) (bs : List Byte)
    (hpages : ∀ x y, x / 4096 = y / 4096 → inPages pages false x = inPages pages false y) (ps : List (Nat × Nat))
    (hps : PiecesIn a bs.length ps) (hpage : ∀ p, p ∈ ps → ∀ y, InPiece y p → p.1 / 4096 = y / 4096) (s : State) :
    let t := ps.foldl (fun u p => u.putHost false (inPages pages false p.1) p.1 (pieceOf a bs p)) s
    HostPut s t ∧ t.hbm = Memory.putPieces s.hbm a bs ps ∧ ∀ x b, (x, b) ∈ t.hostBytes →
      ((x, b) ∈ s.hostBytes ∧ ¬(inPages pages false x = true ∧ ∃ p, p ∈ ps ∧ InPiece x p)) ∨
        (inPages pages false x = true ∧ b = nth bs (x - a) 0) := by
  induction ps generalizing s with
  | nil => exact ⟨rfl, rfl, fun x b hx => .inl ⟨hx, fun h => h.2.elim fun p hp => List.not_mem_nil hp.1⟩⟩
  | cons p ps ih =>
    obtain ⟨hframe, hhbm, hbytes⟩ := s.putHost_spec (inPages pages false p.1) p.1 (pieceOf a bs p)
    obtain ⟨hframe', hhbm', hbytes'⟩ := ih (fun q hq => hps q (List.mem_cons_of_mem _ hq)) (fun q hq => hpage q (List.mem_cons_of_mem _ hq))
      (s.putHost false (inPages pages false p.1) p.1 (pieceOf a bs p))
    have hp := hps p List.mem_cons_self
    rw [pieceOf_length hp] at hbytes
    have howned {x : Nat} (hx : InPiece x p) : inPages pages false p.1 = inPages pages false x := hpages _ _ (hpage p List.mem_cons_self x hx)
    refine ⟨hframe.trans hframe', hhbm'.trans (congrArg (fun m => Memory.putPieces m a bs ps) hhbm), fun x b hx => ?_⟩
    rcases hbytes' x b hx with ⟨hx1, hlater⟩ | hdone
    · rcases hbytes x b hx1 with ⟨hold, hnot⟩ | ⟨hown, hin, hb⟩
      · refine .inl ⟨hold, fun ⟨hown, q, hq, hxq⟩ => ?_⟩
        rcases List.mem_cons.mp hq with rfl | hq
        · exact hnot ⟨(howned hxq).trans hown, hxq⟩
        · exact hlater ⟨hown, q, hq, hxq⟩
      · exact .inr ⟨(howned hin) ▸ hown, hb.trans (nth_pieceOf hp hin)⟩
    · exact .inr hdone

/-- Pages of the tables stand at multiples of 4 KiB (R358). -/
theorem State.mem_pagesFrom {s : State} {n table : Nat} {p : Bool × Nat × Nat} (h : p ∈ s.pagesFrom n table) :
    p.2.1 % 4096 = 0 ∧ p.2.2 % 4096 = 0 := by
  induction n generalizing table with
  | zero => exact absurd h List.not_mem_nil
  | succ n ih =>
    unfold State.pagesFrom at h
    obtain ⟨l, hl, hp⟩ := List.mem_flatten.mp h
    obtain ⟨e, -, rfl⟩ := List.mem_map.mp hl
    dsimp only at hp
    split at hp
    · split at hp
      · obtain rfl := List.mem_singleton.mp hp
        refine ⟨by dsimp only; omega, ?_⟩
        dsimp only
        split <;> rfl
      · exact absurd hp List.not_mem_nil
    · exact ih hp

theorem inPages_page {l : List (Bool × Nat × Nat)} (hl : ∀ p, p ∈ l → p.2.1 % 4096 = 0 ∧ p.2.2 % 4096 = 0) (sys : Bool) (x y : Nat)
    (h : x / 4096 = y / 4096) : inPages l sys x = inPages l sys y := by
  unfold inPages
  rw [Bool.eq_iff_iff]
  simp only [List.any_eq_true, decide_eq_true_eq]
  refine exists_congr fun p => and_congr_right fun hp => and_congr_right fun _ => ?_
  obtain ⟨hbase, hsize⟩ := hl p hp
  omega

theorem State.ownedPages_page (s : State) (x y : Nat) (h : x / 4096 = y / 4096) :
    inPages s.ownedPages false x = inPages s.ownedPages false y := by
  refine inPages_page (fun p hp => ?_) false x y h
  obtain ⟨l, hl, hp⟩ := List.mem_flatten.mp hp
  obtain ⟨c, -, rfl⟩ := List.mem_map.mp hl
  exact State.mem_pagesFrom hp

theorem State.pagesFrom_congr {s t : State} (h : t.hbm = s.hbm) (n table : Nat) : t.pagesFrom n table = s.pagesFrom n table := by
  induction n generalizing table with
  | zero => rfl
  | succ n ih =>
    unfold State.pagesFrom State.tableEntries State.readMem
    rw [h]
    simp only [ih]

theorem State.ownedPages_congr {s t : State} (h : t.hbm = s.hbm) (hc : t.ctxs = s.ctxs) : t.ownedPages = s.ownedPages := by
  unfold State.ownedPages
  rw [hc]
  simp only [State.pagesFrom_congr h]

/-- Words written whole lose their marks (R421). -/
theorem State.clearMems_frame (ps : List (Nat × Nat)) (s : State) :
    let t := ps.foldl (fun u p => u.clearMem (.glob (.mem p.1 false)) p.2) s
    t = { s with poison := t.poison } := by
  refine List.foldlRecOn (motive := fun (t : State) => t = { s with poison := t.poison }) _ _ rfl fun t ht p _ => ?_
  obtain ⟨l, rfl⟩ : ∃ l, t = { s with poison := l } := ⟨_, ht⟩
  unfold State.clearMem
  split <;> rfl

theorem State.syncLive_frame (s : State) : s.syncLive = { s with ctxs := s.syncLive.ctxs, grids := s.syncLive.grids } := by
  unfold State.syncLive
  refine List.foldlRecOn (motive := fun (t : State) => t = { s with ctxs := t.ctxs, grids := t.grids }) _ _ rfl fun t ht c _ => ?_
  split
  · rw [ht]
    rfl
  · exact ht

theorem State.wakeDies_on {s : State} (h : s.power.dieOff = List.replicate 4 false) : s.wakeDies = s :=
  if_neg (by rw [h]; decide)

theorem State.apPieces_all {pa n : Nat} {k : Access} (h : ∀ i, i < n → accessOk s ((pa + i) / 4096 % 8) 128 (pa + i) k = true) :
    s.apPieces pa n k = (cutsOf pa n, s) := by
  have hok {p : Nat × Nat} (hp : p ∈ cutsOf pa n) : accessOk s (p.1 / 4096 % 8) (hostMaster 0) p.1 k = true := by
    obtain ⟨hlo, hpos, hhi, -⟩ := of_mem_cutsOf hp
    have := h (p.1 - pa) (by omega)
    rwa [Nat.add_sub_cancel' hlo] at this
  unfold State.apPieces
  dsimp only
  rw [List.filter_eq_self.mpr fun p hp => hok hp, List.filter_eq_nil_iff.mpr fun p hp => by rw [hok hp]; decide]
  rfl

section
variable {s : State} {off : Nat} (hup : s.hostUp = true) (hdies : s.power.dieOff = List.replicate 4 false)
include hup hdies

theorem execHostApertureWrite_next {bs : List Byte} (hne : bs ≠ []) (hbar : off + bs.length ≤ 2 ^ s.bar4Exp)
    (hmem : s.aperturePhys off + bs.length ≤ hbmBytes)
    (hok : ∀ i, i < bs.length → accessOk s ((s.aperturePhys off + i) / 4096 % 8) 128 (s.aperturePhys off + i) .write = true) :
    exec (.hostApertureWrite off bs) s = .next (((cutsOf (s.aperturePhys off) bs.length).foldl
      (fun t p => t.clearMem (.glob (.mem p.1 false)) p.2) s).putHosts false (s.aperturePhys off) bs
        (cutsOf (s.aperturePhys off) bs.length)).syncLive := by
  have htake : bs.take (2 ^ s.bar4Exp - off) = bs := List.take_of_length_le (by omega)
  refine congrArg Host.Outcome.next ((if_neg (by rw [hup]; decide)).trans ?_)
  dsimp only
  rw [htake, if_neg (by simpa using hne), if_neg (Nat.not_lt.mpr hmem), State.wakeDies_on hdies, State.apPieces_all hok]

theorem execHostApertureRead_next {len : Nat} (hne : len ≠ 0) (hbar : off + len ≤ 2 ^ s.bar4Exp) (hmem : s.aperturePhys off + len ≤ hbmBytes)
    (hok : ∀ i, i < len → accessOk s ((s.aperturePhys off + i) / 4096 % 8) 128 (s.aperturePhys off + i) .read = true) :
    exec (.hostApertureRead off len) s = .next { s with
      hostRead := (List.range len).map fun i => s.apertureByte s.ownedPages (s.aperturePhys off + i) } := by
  have hmin : min len (2 ^ s.bar4Exp - off) = len := by omega
  refine congrArg Host.Outcome.next ((if_neg (by rw [hup]; decide)).trans ?_)
  dsimp only
  rw [hmin, if_neg hne, if_neg (Nat.not_lt.mpr hmem), State.wakeDies_on hdies, State.apPieces_all hok]
  refine congrArg (fun l => { s with hostRead := l }) (List.map_congr_left fun i hi => ?_)
  have hlt : i < len := List.mem_range.mp hi
  have hin : inPieces (cutsOf (s.aperturePhys off) len) (s.aperturePhys off + i) = true :=
    (inPieces_iff _ _).mpr (exists_cutsOf (by omega) (by omega))
  rw [if_neg (Nat.not_le.mpr hlt), hin, if_pos rfl]
  unfold State.apertureByte
  cases hf : s.flushed with
  | nil => rfl
  | cons x r => rfl

end

/-- A write through the aperture (R365). -/
theorem State.apertureWritten_spec {s : State} {pa : Nat} {bs : List Byte} (hwf : Memory.wf s.hbm = true) :
    let t := (((cutsOf pa bs.length).foldl (fun t p => t.clearMem (.glob (.mem p.1 false)) p.2) s).putHosts false pa bs (cutsOf pa bs.length)).syncLive
    StoredAt s.hbm t.hbm pa bs ∧ t = { s with
      hbm := t.hbm, flushed := t.flushed, hostBytes := t.hostBytes, fixes := t.fixes, poison := t.poison, ctxs := t.ctxs, grids := t.grids
      hubWords := t.hubWords } ∧
    ∀ x b, (x, b) ∈ t.hostBytes → pa ≤ x → x < pa + bs.length →
      if inPages s.ownedPages false x then b = nth bs (x - pa) 0 else (x, b) ∈ s.hostBytes := by
  have hclear := State.clearMems_frame (cutsOf pa bs.length) s
  generalize (cutsOf pa bs.length).foldl (fun t p => t.clearMem (.glob (.mem p.1 false)) p.2) s = u at hclear
  have hpages : u.ownedPages = s.ownedPages := State.ownedPages_congr (by rw [hclear]) (by rw [hclear])
  have hps : PiecesIn pa bs.length (cutsOf pa bs.length) := fun p hp => by
    obtain ⟨hlo, -, hhi, -⟩ := of_mem_cutsOf hp
    exact ⟨hlo, hhi⟩
  obtain ⟨hframe, hhbm, hbytes⟩ := State.putHosts_spec u.ownedPages pa bs (fun x y => u.ownedPages_page x y) _ hps
    (fun p hp y hy => hy.page hp) u
  have hput : u.putHosts false pa bs (cutsOf pa bs.length) =
    (cutsOf pa bs.length).foldl (fun t p => t.putHost false (inPages u.ownedPages false p.1) p.1 (pieceOf pa bs p)) u := rfl
  rw [← hput] at hframe hhbm hbytes
  generalize u.putHosts false pa bs (cutsOf pa bs.length) = v at hframe hhbm hbytes
  intro t
  have hsync : t = { v with ctxs := t.ctxs, grids := t.grids } := v.syncLive_frame
  have huhbm : u.hbm = s.hbm := by rw [hclear]
  have hubytes : u.hostBytes = s.hostBytes := by rw [hclear]
  have hthbm : t.hbm = v.hbm := by rw [hsync]
  have htbytes : t.hostBytes = v.hostBytes := by rw [hsync]
  refine ⟨?_, ?_, fun x b hx hlo hhi => ?_⟩
  · rw [hthbm, hhbm, huhbm]
    have hget := Memory.get_putPieces hwf hps
    refine ⟨fun j hj => ?_, fun x hx => (hget x).2 fun p hp hy => ?_⟩
    · rw [(hget (pa + j)).1 (exists_cutsOf (by omega) (by omega)), Nat.add_sub_cancel_left]
    · obtain ⟨hlo, hhi⟩ := hps p hp
      obtain ⟨h1, h2⟩ := hy
      omega
  · have hu : HostWritten s u := by
      unfold HostWritten
      rw [hclear]
    have hv : HostWritten u v := by
      unfold HostWritten
      rw [hframe]
    have ht : HostWritten v t := by
      unfold HostWritten
      rw [hsync]
    exact (hu.trans hv).trans ht
  · rw [htbytes] at hx
    rw [← hpages]
    rcases hbytes x b hx with ⟨hold, hnot⟩ | ⟨hown, hb⟩
    · rw [if_neg fun hown => hnot ⟨hown, exists_cutsOf hlo hhi⟩, ← hubytes]
      exact hold
    · rw [if_pos hown]
      exact hb

theorem State.resident_pokeGroup (s : State) (core gs : Nat) {f : Group → Group} (hf : ∀ g, (f g).uid = g.uid) :
    (s.pokeGroup core gs f).resident = s.resident.map fun g => if g.core = core ∧ g.gslot = gs then f g else g := by
  have huid : (if s.me.core = core ∧ s.me.gslot = gs then f s.me else s.me).uid = s.me.uid := by
    split
    · exact hf s.me
    · rfl
  unfold State.resident State.pokeGroup
  dsimp only
  rw [huid, apply_ite (List.map _)]
  rfl

theorem getLsbD_byteMask (m : Nat) : (0xFF : Word).getLsbD m = decide (m < 8) := by
  have h := BitVec.getLsbD_allOnes (v := 8) (i := m)
  have hmask : (0xFF : Word) = (BitVec.allOnes 8).setWidth 32 := by decide
  rw [hmask, BitVec.getLsbD_setWidth, h]
  by_cases hm : m < 8
  · simp [hm]
    omega
  · simp [hm]

theorem extractLsb_pokeWord (w : Word) (b : Byte) {i j : Nat} (hi : i < 4) (hj : j < 4) :
    (pokeWord w i b).extractLsb' (8 * j) 8 = if j = i then b else w.extractLsb' (8 * j) 8 := by
  refine BitVec.eq_of_getLsbD_eq fun k hk => ?_
  have hbit : (pokeWord w i b).getLsbD (8 * j + k) = if j = i then b.getLsbD k else w.getLsbD (8 * j + k) := by
    unfold pokeWord
    rw [BitVec.getLsbD_or, BitVec.getLsbD_and, BitVec.getLsbD_not, BitVec.getLsbD_shiftLeft, BitVec.getLsbD_shiftLeft, getLsbD_byteMask,
      BitVec.getLsbD_setWidth]
    have h32 : 8 * j + k < 32 := by omega
    by_cases hji : j = i
    · subst hji
      have hsub : 8 * j + k - 8 * j = k := by omega
      have hle : ¬8 * j + k < 8 * j := by omega
      have hk32 : k < 32 := by omega
      simp [hsub, hle, h32, hk, hk32]
    · by_cases hlt : 8 * j + k < 8 * i
      · simp [hlt, h32, hji]
      · have hout : ¬8 * j + k - 8 * i < 8 := by omega
        have hb : b.getLsbD (8 * j + k - 8 * i) = false := BitVec.getLsbD_of_ge _ _ (by omega)
        simp [hlt, h32, hji, hout, hb]
  rw [BitVec.getLsbD_extractLsb', decide_eq_true hk, Bool.true_and, hbit]
  split
  · rfl
  · rw [BitVec.getLsbD_extractLsb', decide_eq_true hk, Bool.true_and]
/-- Settles O49: the windows, the aperture, the debug window and DENYPROD. -/
theorem hostWindows : Obligations.HostWindows := by
  unfold Obligations.HostWindows
  refine ⟨fun s fn off len bs => ⟨fun hshows hwf => ?sram, fun hno hup => ?window⟩, fun s off len bs hup hdies => ?aperture,
    fun s off n core gs r i b htakes hshown hoff hcore hplace => ?debug, fun w i b hi j hj => ?poke, fun s hup hok => ?denials⟩
  case sram =>
    intro may
    exact ⟨⟨_, execHostWindowWrite_sram hshows off bs, State.sramWritten_spec hwf fn off bs⟩, execHostWindowRead_sram hshows off len⟩
  case window =>
    refine ⟨congrArg Host.Outcome.next ((if_neg (not_true_of_false hno)).trans (if_pos hup)), fun hwf => ?_, execHostWindowRead_up hno hup off len,
      State.winDenials_none⟩
    rw [s.hostWindow_window]
    exact Memory.putWhere_pieces hwf fun x y => s.winWritable_page fn x y
  case aperture =>
    intro pa
    exact ⟨fun hne hbar hmem hwf hok => ⟨_, execHostApertureWrite_next hup hdies hne hbar hmem hok, State.apertureWritten_spec hwf⟩,
      fun hne hbar hmem hok => execHostApertureRead_next hup hdies hne hbar hmem hok⟩
  case debug =>
    obtain ⟨hup, hok⟩ := htakes
    have hcut : (s.hostPieces 8 0 (0x2000000 + off) 1 .write) = ([(0x2000000 + off, 1)], s) := by
      unfold State.hostPieces
      rw [cutsOf_one]
      simp [hok]
    have hexec : exec (.debugWindowWrite off [b]) s = .next (s.pokePool core (off % (6 * 2 ^ 20)) b) := by
      refine congrArg Host.Outcome.next ((if_neg (by rw [hup]; decide)).trans ?_)
      rw [List.length_singleton, hcut, List.foldl_cons, List.foldl_nil]
      dsimp only
      rw [Nat.add_sub_cancel_left, Nat.sub_self, hcore]
      exact State.pokeWindow_byte hshown hoff b
    unfold State.pokePool at hexec
    rw [hplace] at hexec
    refine ⟨_, hexec, rfl, ?_⟩
    exact State.resident_pokeGroup s core gs fun _ => rfl
  case poke => exact extractLsb_pokeWord w b hi hj
  case denials =>
    refine congrArg Host.Outcome.next ((if_neg (by rw [hup]; decide)).trans ((if_neg (by rw [show hostMaster 0 = 128 from rfl, hok]; decide)).trans ?_))
    have hread : s.regRead 0x411000 = s.sec.denyProd.setWidth 64 := by
      simp [State.regRead, State.secRead, tableBase]
    have htoNat : (s.sec.denyProd.setWidth 64).toNat = s.sec.denyProd.toNat := BitVec.toNat_setWidth_of_le (by decide)
    rw [show 0x411000 / 8 * 8 = 0x411000 from rfl, hread, htoNat, show 0x411000 % 8 = 0 from rfl, List.drop_zero,
      List.take_of_length_le (by rw [natLe_length])]
    rfl

end Sys2Proof.Machine
end

section
/-! The statement on the plain registers of BAR0 (R353, R355, R356, R366, R377, R382, R406, R409, R413). -/

namespace Sys2Proof.Machine

/-! Writes. -/

theorem State.bar0_pf (s : State) {off : Nat} (h : off < 0x4000000) : s.bar0 0 off = some off :=
  (if_pos rfl).trans (if_pos h)

section
variable {s : State} {off : Nat} (htakes : s.takesWrite 0 off) (hlow : off < 0x2000000) (hbuf : bufferAt off = none)
include htakes hlow hbuf

theorem execRegisterWrite_whole (h8 : off % 8 = 0) (v : BitVec 64) : exec (.registerWrite 0 off true v) s = .next (s.regWrite off v) := by
  change execRegisterWrite 0 off true v s = _
  unfold execRegisterWrite
  dsimp only
  refine (if_neg (show ¬off % 8 ≠ 0 from not_not_intro h8)).trans ?_
  rw [s.bar0_pf (by omega)]
  dsimp only
  rw [State.regEffect_takes htakes, if_neg (Nat.not_le.mpr hlow), hbuf]
  rfl

theorem execRegisterWrite_half (h4 : off % 4 = 0) (v : BitVec 64) :
    exec (.registerWrite 0 off false v) s = .next (s.halfWrite off (v.setWidth 32)) := by
  change execRegisterWrite 0 off false v s = _
  unfold execRegisterWrite
  dsimp only
  refine (if_neg (show ¬off % 4 ≠ 0 from not_not_intro h4)).trans ?_
  rw [s.bar0_pf (by omega)]
  dsimp only
  rw [State.regEffect_takes htakes, if_neg (Nat.not_le.mpr hlow), hbuf]
  rfl

end

theorem bufferAt_none {off : Nat} (h : off < 0x400080 ∨ 0x401A00 ≤ off ∨ off = 0x4019B0) : bufferAt off = none := by
  unfold bufferAt
  rw [if_neg (by omega), if_neg (by omega), if_neg (by omega)]

/-- The high half of a register of 64 bits, whose low half waits (R355). -/
theorem State.halfWrite_high {s : State} {off : Nat} {lo w : Word} (h8 : off % 8 = 0) (hwide : wideReg off = true)
    (hlow : s.regLow.find? (fun x => x.1 == off) = some (off, lo)) : s.halfWrite (off + 4) w =
      ({ s with regLow := s.regLow.filter fun y => y.1 != off } : State).regWrite off (w ++ lo) := by
  unfold State.halfWrite
  rw [if_neg (by omega), Nat.add_sub_cancel, if_pos hwide, hlow]

/-- A write to a word of a trap queue's registers (R377). -/
def State.queueWrite (s : State) (f o : Nat) (v : Dword) : State :=
  match o with
  | 0 => s.setQueue f fun q => { q with base := v &&& 0x80FFFFFFFFFC0001 }
  | 8 => s.setQueue f fun q => { q with headVa := v &&& 0x80FFFFFFFFFFFFFC }
  | _ => s

theorem State.regWrite_queue (s : State) {f : Nat} (hf : f < 8) (v : Dword) :
    s.regWrite (0x100000 + 64 * f) v = s.setQueue f (fun q => { q with base := v &&& 0x80FFFFFFFFFC0001 }) ∧
      s.regWrite (0x100008 + 64 * f) v = s.setQueue f fun q => { q with headVa := v &&& 0x80FFFFFFFFFFFFFC } := by
  have hplace {o : Nat} (ho : o < 16) : s.regWrite (0x100000 + 64 * f + o) v = s.queueWrite f o v := by
    unfold State.regWrite State.linkWrite
    dsimp only
    rw [if_pos (by omega), if_neg (by omega), if_neg (by omega), if_neg (by omega), if_neg (by omega), if_neg (by omega), if_neg (by omega),
      if_pos (by omega), show (0x100000 + 64 * f + o) % 64 = o by omega, show (0x100000 + 64 * f + o - 0x100000) / 64 = f by omega]
    rfl
  refine ⟨hplace (o := 0) (by decide), ?_⟩
  rw [show 0x100008 + 64 * f = 0x100000 + 64 * f + 8 by omega]
  exact hplace (o := 8) (by decide)

/-- The access table (R406). -/
theorem State.regWrite_table (s : State) {i : Nat} (hi : i < 23 * 8192) (v : Dword) : s.regWrite (0x480000 + 8 * i) v = s.setTable i v := by
  unfold State.regWrite
  rw [if_neg (by omega), if_neg (by omega), show tableBase = 0x480000 from rfl, show tableWords = 23 * 8192 from rfl, if_neg (by omega),
    if_pos (by omega), show (0x480000 + 8 * i - 0x480000) / 8 = i by omega]

theorem accessWord_setTable (s : State) (i j : Nat) (v : Dword) :
    accessWord (s.setTable i v) j = if j = i then v &&& tableMask i else accessWord s j := by
  unfold accessWord State.setTable
  dsimp only
  by_cases h : j = i
  · subst h
    rw [List.find?_cons_of_pos (by simp), if_pos rfl]
  · rw [List.find?_cons_of_neg (by simpa using Ne.symm h), find_filter_of_imp fun x hx => ?_, if_neg h]
    rw [eq_of_beq hx]
    exact bne_iff_ne.mpr h

/-- A register of a context page that a virtual function owns (R355). -/
theorem execRegisterWrite_page {s : State} {c fn : Nat} (hfn : 0 < fn) (hc : c < 64) (hvalid : (s.ctx c).valid = true) (howner : (s.ctx c).fn = fn)
    (htakes : s.takesWrite fn (0x1000000 + 65536 * c)) (v : BitVec 64) :
    exec (.registerWrite fn (65536 * c) true v) s = .next (s.setPpHead c v.toNat) := by
  have hbar : s.bar0 fn (65536 * c) = some (0x1000000 + 65536 * c) := by
    unfold State.bar0
    rw [if_neg (Nat.ne_of_gt hfn), Nat.mul_div_cancel_left c (by decide), if_pos ⟨by omega, hvalid, howner⟩]
  change execRegisterWrite fn (65536 * c) true v s = _
  unfold execRegisterWrite
  dsimp only
  refine (if_neg (show ¬65536 * c % 8 ≠ 0 by omega)).trans ?_
  rw [hbar]
  dsimp only
  rw [State.regEffect_takes htakes, if_neg (by omega), bufferAt_none (by omega)]
  refine congrArg Host.Outcome.next (Eq.trans (if_pos rfl) ?_)
  unfold State.regWrite
  rw [if_neg (by omega), if_neg (by omega), show tableBase = 0x480000 from rfl, show tableWords = 23 * 8192 from rfl, if_neg (by omega),
    if_neg (by omega), if_pos (by omega), show (0x1000000 + 65536 * c - 0x1000000) / 65536 = c by omega,
    show (0x1000000 + 65536 * c) % 65536 = 0 by omega]
  rfl

theorem State.regEffect_denied {s : State} {fn off : Nat} (hup : s.regUp off = true) (hno : accessOk s 8 (hostMaster fn) off .write = false)
    (f : State → State) : s.regEffect fn off f = s.logDenial 8 (hostMaster fn) off .write := by
  unfold State.regEffect
  rw [if_neg (by rw [hup]; decide), if_neg (by rw [hno]; decide)]

/-! Reads. -/

theorem State.hostAct_read {s : State} (hon : s.power.removed = false) (fn off : Nat) (wide : Bool) :
    s.hostAct (.readRegister fn off wide) = s.readRegister fn off wide := if_neg (by rw [hon]; decide)

theorem State.regUp_half (s : State) {off : Nat} (h8 : off % 8 = 0) : s.regUp (off + 4) = s.regUp off := by
  have hplace : (0x400000 ≤ off + 4 ∧ off + 4 < 0x403000) ↔ (0x400000 ≤ off ∧ off < 0x403000) := by omega
  unfold State.regUp
  simp only [hplace]

section
variable {s : State} {off : Nat} (hup : s.regUp off = true) (hne : off ≠ 0x411000) (hok : accessOk s 8 128 off .read = true)
include hup hne hok

theorem State.hostRegister_read (n : Nat) : s.hostRegister 0 off n =
    { s with hostRead := ((natLe (s.regRead (off / 8 * 8)).toNat 8).drop (off % 8)).take n } := by
  refine (if_neg (by rw [hup]; decide)).trans ((if_neg (by rw [show hostMaster 0 = 128 from rfl, hok]; decide)).trans ?_)
  have hread : s.wasRead off = s := if_neg hne
  rw [hread]

end

theorem State.readRegister_whole (s : State) {off : Nat} (hlow : off < 0x4000000) (h8 : off % 8 = 0) :
    s.readRegister 0 off true = s.hostRegister 0 off 8 := by
  unfold State.readRegister
  simp [h8, s.bar0_pf hlow]

theorem State.readRegister_half (s : State) {off : Nat} (hlow : off < 0x4000000) (h4 : off % 4 = 0) :
    s.readRegister 0 off false = s.hostRegister 0 off 4 := by
  unfold State.readRegister
  simp [h4, s.bar0_pf hlow]

/-- Settles O50: writes and reads of the registers of BAR0. -/
theorem registerWrites : Obligations.RegisterWrites := by
  unfold Obligations.RegisterWrites
  refine ⟨fun s v => ?writes, fun s off wide v hlow h8 hup hno => ?denied, fun s fn off hon => ⟨fun hlow h8 hup hne hok => ?reads, fun hfn howner => ?foreign, fun hfn => ?ids⟩⟩
  case writes =>
    intro writes
    have hwhole {off : Nat} {u : State} (hlow : off < 0x2000000) (hbuf : bufferAt off = none) (h8 : off % 8 = 0) (hu : s.regWrite off v = u) :
        writes off u := fun htakes => hu ▸ execRegisterWrite_whole htakes hlow hbuf h8 v
    refine ⟨hwhole (by decide) rfl rfl rfl, hwhole (by decide) rfl rfl rfl, hwhole (by decide) rfl rfl rfl, hwhole (by decide) rfl rfl rfl,
      hwhole (by decide) rfl rfl rfl, hwhole (by decide) rfl rfl rfl, fun f hf => ?_, fun i hi htakes => ?_, fun off htakes hoff => ?_,
      fun off lo hoff htakes hlow => ?_, fun c fn hfn hc hvalid howner htakes => execRegisterWrite_page hfn hc hvalid howner htakes v⟩
    · obtain ⟨hbase, hhead⟩ := s.regWrite_queue hf v
      exact ⟨hwhole (by omega) (bufferAt_none (by omega)) (by omega) hbase, hwhole (by omega) (bufferAt_none (by omega)) (by omega) hhead⟩
    · refine ⟨_, execRegisterWrite_whole htakes (by omega) (bufferAt_none (by omega)) (by omega) v, ?_⟩
      rw [s.regWrite_table hi]
      exact ⟨rfl, fun j hj => (accessWord_setTable s i j v).trans (if_neg hj), (accessWord_setTable s i i v).trans (if_pos rfl)⟩
    · simp only [List.mem_cons, List.not_mem_nil, or_false] at hoff
      rw [execRegisterWrite_half htakes (by omega) (bufferAt_none (by omega)) (by omega) v]
      rcases hoff with rfl | rfl | rfl <;> rfl
    · simp only [List.mem_cons, List.not_mem_nil, or_false] at hoff
      rw [execRegisterWrite_half htakes (by omega) (bufferAt_none (by omega)) (by omega) v]
      refine congrArg Host.Outcome.next (State.halfWrite_high (by omega) ?_ hlow)
      rcases hoff with rfl | rfl | rfl <;> rfl
  case denied =>
    change execRegisterWrite 0 off wide v s = _
    unfold execRegisterWrite
    dsimp only
    rw [s.bar0_pf hlow, if_neg (by cases wide <;> simp <;> omega)]
    exact congrArg Host.Outcome.next (State.regEffect_denied (fn := 0) hup hno _)
  case reads =>
    have hdiv : (off + 4) / 8 * 8 = off := by omega
    have hwhole : off / 8 * 8 = off := by omega
    have hlen := natLe_length (s.regRead off).toNat 8
    refine ⟨?_, ?_, fun hok4 => ?_⟩
    · rw [State.hostAct_read hon, s.readRegister_whole hlow h8, State.hostRegister_read hup hne hok, h8, hwhole, List.drop_zero,
        List.take_of_length_le (by rw [hlen])]
    · rw [State.hostAct_read hon, s.readRegister_half hlow (by omega), State.hostRegister_read hup hne hok, h8, hwhole, List.drop_zero]
    · rw [State.hostAct_read hon, s.readRegister_half (by omega) (by omega),
        State.hostRegister_read (by rw [s.regUp_half h8]; exact hup) (by omega) hok4, show (off + 4) % 8 = 4 by omega, hdiv,
        List.take_of_length_le (by rw [List.length_drop, hlen])]
  case foreign =>
    have hnone : s.bar0 fn off = none := by
      unfold State.bar0
      rw [if_neg (Nat.ne_of_gt hfn), if_neg fun h => howner h.2.2]
    rw [State.hostAct_read hon]
    unfold State.readRegister
    dsimp only
    rw [hnone, ite_self]
    rfl
  case ids =>
    exact (if_neg (by rw [hon]; simpa using hfn)).trans rfl

end Sys2Proof.Machine
end

section
/-! The statement on boot, measurement, attestation, tokens, levels and halting (R399, R400 to R405, R409 to R411). -/

namespace Sys2Proof.Machine

/-! Boot (R400 to R402). -/

theorem clampLevels_zero (d n : Nat) : clampLevels 0 d n = 0 := by
  induction n with
  | zero => rfl
  | succ n ih =>
    unfold clampLevels
    rw [Nat.zero_mod, Nat.zero_div, ih, Nat.zero_min]

/-- The security block after the fuses are read (R404). -/
theorem Sec.fresh_spec (x : Sec) (h : x.dbgLvl = 0) : let y := x.fresh
    y.lock = x.lock ∧ y.roll = x.roll ∧ y.sec = (if x.lock then 0 else 2) ∧ y.dmax = (if x.lock then 0 else 2) ∧ y.halt = x.halt ∧ y.dbgLvl = 0 := by
  have hlevels (d : Nat) : BitVec.ofNat 128 (clampLevels x.dbgLvl.toNat d 64) = 0 := by
    rw [h]
    exact congrArg (BitVec.ofNat 128) (clampLevels_zero d 64)
  unfold Sec.fresh Sec.grant
  cases x.lock <;> simp [hlevels]

/-- The state in which the ROM verifies the image (R400). -/
def State.romState (s : State) : State :=
  (({ s.powerLost with sbSram := s.flash.filter fun x => decide (x.1 < 0x400000) } : State).onSec fun x => x.fresh).newNonce

theorem execPowerOnReset_eq (s : State) : exec .powerOnReset s =
    let s2 := s.romState
    let e := if s2.flashFails then 0x01 else imgError s2.sbSram s2.sec.rollCount
    .next (if e = 0 then s2.bootImage false else s2.recover e) := rfl

/-- What the ROM keeps of the state before, and what it sets. -/
structure RomKeeps (s t : State) : Prop where
  flash : t.flash = s.flash
  fails : t.flashFails = s.flashFails
  sysMem : t.sysMem = s.sysMem
  sbSram : t.sbSram = s.flash.filter fun x => decide (x.1 < 0x400000)
  hbm : t.hbm = []
  window : t.window = []
  me : t.me = Group.empty
  groups : t.groups = []
  grids : t.grids = []
  ops : t.ops = []
  msix : t.msix = s.msix
  lock : t.sec.lock = s.sec.lock
  roll : t.sec.roll = s.sec.roll
  level : t.sec.sec = (if s.sec.lock then 0 else 2)
  dmax : t.sec.dmax = (if s.sec.lock then 0 else 2)
  halt : t.sec.halt = 0
  dbgLvl : t.sec.dbgLvl = 0

theorem State.romState_keeps (s : State) : RomKeeps s s.romState := by
  obtain ⟨hlock, hroll, hsec, hdmax, hhalt, hlvl⟩ := Sec.fresh_spec { Sec.reset with lock := s.sec.lock, roll := s.sec.roll } rfl
  exact ⟨rfl, rfl, rfl, rfl, rfl, rfl, rfl, rfl, rfl, rfl, rfl, hlock, hroll, hsec, hdmax, hhalt, hlvl⟩

/-- An extension changes the measurements alone (R403). -/
theorem Sec.extend_eq (x : Sec) (i : Nat) (d : List Byte) : x.extend i d = { x with meas := (x.extend i d).meas } := rfl

theorem Sec.note_eq (x : Sec) : x.note = { x with meas := x.note.meas } := rfl

/-- Steps 4 to 7 of R400, with the new rollback bits `r`, for the image of header `h`. -/
def Sec.booted (x : Sec) (r : Dword) (h : List Byte) (recovered : Bool) : Sec :=
  let y : Sec := { x with roll := r, version := imgVersion h, recovery := recovered }
  let z := (y.extend 0 (h.take 0xE4)).extend 0 ((h.drop 0x20).take 64)
  { z.note with stage := 3, err := 0 }

theorem Sec.booted_eq (x : Sec) (r : Dword) (h : List Byte) (recovered : Bool) : x.booted r h recovered = { x with
    stage := 3, err := 0, recovery := recovered, roll := r, version := imgVersion h, meas := (x.booted r h recovered).meas } := rfl

/-- The header of the image in the signal box's memory. -/
def State.imageHeader (s : State) : List Byte := Memory.bytes s.sbSram 0 0x200

theorem State.bootImage_eq (s : State) (b : Bool) : s.bootImage b =
    s.onSec fun x => x.booted (BitVec.ofNat 64 (2 ^ imgVersion s.imageHeader - 1)) s.imageHeader b := rfl

theorem imgVersion_eq (h : List Byte) : imgVersion h = recNum h 8 8 := rfl

section
variable (x : Sec) (r : Dword) (h : List Byte) (b : Bool)

@[simp] theorem Sec.booted_lock : (x.booted r h b).lock = x.lock := rfl
@[simp] theorem Sec.booted_level : (x.booted r h b).sec = x.sec := rfl
@[simp] theorem Sec.booted_dmax : (x.booted r h b).dmax = x.dmax := rfl
@[simp] theorem Sec.booted_halt : (x.booted r h b).halt = x.halt := rfl
@[simp] theorem Sec.booted_dbgLvl : (x.booted r h b).dbgLvl = x.dbgLvl := rfl
@[simp] theorem Sec.booted_recLen : (x.booted r h b).recLen = x.recLen := rfl
@[simp] theorem Sec.booted_stage : (x.booted r h b).stage = 3 := rfl
@[simp] theorem Sec.booted_err : (x.booted r h b).err = 0 := rfl
@[simp] theorem Sec.booted_recovery : (x.booted r h b).recovery = b := rfl
@[simp] theorem Sec.booted_roll : (x.booted r h b).roll = r := rfl

end

/-- What booting or entering recovery leaves of the state in which the ROM verified. -/
theorem RomKeeps.of_log {s t u : State} (h : RomKeeps s t) (hu : LogFrame t u) :
    u.flash = s.flash ∧ u.sysMem = s.sysMem ∧ u.sbSram = s.flash.filter (fun x => decide (x.1 < 0x400000)) ∧ u.hbm = [] ∧ u.window = [] ∧
      u.me = Group.empty ∧ u.groups = [] ∧ u.grids = [] ∧ u.ops = [] := by
  have hflash : u.flash = t.flash := by rw [hu]
  have hsys : u.sysMem = t.sysMem := by rw [hu]
  have hsram : u.sbSram = t.sbSram := by rw [hu]
  have hhbm : u.hbm = t.hbm := by rw [hu]
  have hwindow : u.window = t.window := by rw [hu]
  have hme : u.me = t.me := by rw [hu]
  have hgroups : u.groups = t.groups := by rw [hu]
  have hgrids : u.grids = t.grids := by rw [hu]
  have hops : u.ops = t.ops := by rw [hu]
  exact ⟨hflash.trans h.flash, hsys.trans h.sysMem, hsram.trans h.sbSram, hhbm.trans h.hbm, hwindow.trans h.window, hme.trans h.me,
    hgroups.trans h.groups, hgrids.trans h.grids, hops.trans h.ops⟩

/-! Measurements and levels. -/

/-- Extensions that waited change the measurements alone (R403). -/
theorem Sec.extends_eq (l : List (Nat × List Byte)) (x : Sec) : let y := l.foldl (fun y d => y.extend d.1 d.2) x
    y = { x with meas := y.meas } := by
  induction l generalizing x with
  | nil => rfl
  | cons d l ih =>
    intro y
    have hy : y = { x.extend d.1 d.2 with meas := y.meas } := ih (x.extend d.1 d.2)
    rw [x.extend_eq d.1 d.2] at hy
    exact hy

theorem clampLevels_lt (v d n : Nat) : clampLevels v d n < 4 ^ n := by
  induction n generalizing v with
  | zero => exact Nat.one_pos
  | succ n ih =>
    have h := ih (v / 4)
    have hmin : min (v % 4) d ≤ 3 := (Nat.min_le_left _ _).trans (by omega)
    unfold clampLevels
    rw [Nat.pow_succ]
    omega

theorem field_level (x c : Nat) : field x (2 * c) 2 = x / 4 ^ c % 4 := by
  unfold field
  rw [Nat.pow_mul]
  rfl

/-- The level of a context in a half of DBGLVL: none above DMAX (R409). -/
theorem field_clampLevels {c n : Nat} (hc : c < n) (v d : Nat) : field (clampLevels v d n) (2 * c) 2 = min (field v (2 * c) 2) d := by
  rw [field_level, field_level]
  induction c generalizing v n with
  | zero =>
    obtain ⟨m, rfl⟩ := Nat.exists_eq_succ_of_ne_zero (Nat.ne_of_gt hc)
    have hmin : min (v % 4) d ≤ 3 := (Nat.min_le_left _ _).trans (by omega)
    unfold clampLevels
    rw [Nat.pow_zero, Nat.div_one, Nat.div_one]
    omega
  | succ c ih =>
    obtain ⟨m, rfl⟩ := Nat.exists_eq_succ_of_ne_zero (Nat.ne_of_gt (Nat.zero_lt_of_lt hc))
    have hmin : min (v % 4) d ≤ 3 := (Nat.min_le_left _ _).trans (by omega)
    have hdiv : (min (v % 4) d + 4 * clampLevels (v / 4) d m) / 4 = clampLevels (v / 4) d m := by omega
    unfold clampLevels
    rw [Nat.pow_succ', ← Nat.div_div_eq_div_mul, hdiv, ih (Nat.lt_of_succ_lt_succ hc), Nat.div_div_eq_div_mul]

/-- A level in a word of two halves. -/
theorem field_append {hi lo : Dword} {c : Nat} (hc : c < 64) : field (hi ++ lo).toNat (2 * c) 2 =
    if c < 32 then field lo.toNat (2 * c) 2 else field hi.toNat (2 * (c - 32)) 2 := by
  rw [field_level, field_level, field_level, BitVec.toNat_append, ← Nat.shiftLeft_add_eq_or_of_lt lo.isLt, Nat.shiftLeft_eq]
  have hlo := lo.isLt
  split
  next h =>
    have hpow : 2 ^ 64 = 4 ^ c * (4 * 4 ^ (31 - c)) := by
      rw [← Nat.pow_succ', ← Nat.pow_add, show c + (31 - c + 1) = 32 by omega]
      rfl
    rw [hpow, show hi.toNat * (4 ^ c * (4 * 4 ^ (31 - c))) + lo.toNat = lo.toNat + 4 ^ c * (4 * (hi.toNat * 4 ^ (31 - c))) by ring,
      Nat.add_mul_div_left _ _ (Nat.pow_pos (by decide)), Nat.add_mul_mod_self_left]
  next h =>
    have hpow : 4 ^ c = 2 ^ 64 * 4 ^ (c - 32) := by
      rw [show 2 ^ 64 = 4 ^ 32 by rfl, ← Nat.pow_add, show 32 + (c - 32) = c by omega]
    rw [hpow, ← Nat.div_div_eq_div_mul, show (hi.toNat * 2 ^ 64 + lo.toNat) / 2 ^ 64 = hi.toNat by omega]

theorem append_halves (x : BitVec 128) : x.extractLsb' 64 64 ++ x.extractLsb' 0 64 = x := by
  refine BitVec.eq_of_getLsbD_eq fun i hi => ?_
  rw [BitVec.getLsbD_append, BitVec.getLsbD_extractLsb', BitVec.getLsbD_extractLsb']
  by_cases hlow : i < 64
  · simp [hlow]
  · simp [hlow, show i - 64 < 64 by omega, show 64 + (i - 64) = i by omega]

/-- A level in a word of which one half is replaced. -/
theorem field_replace_half (x : BitVec 128) (w : Dword) {half c : Nat} (hhalf : half < 2) (hc : c < 64) :
    field (if half = 0 then x.extractLsb' 64 64 ++ w else w ++ x.extractLsb' 0 64).toNat (2 * c) 2 =
      if c / 32 = half then field w.toNat (2 * (c % 32)) 2 else field x.toNat (2 * c) 2 := by
  have hold : field x.toNat (2 * c) 2 = if c < 32 then field (x.extractLsb' 0 64).toNat (2 * c) 2
      else field (x.extractLsb' 64 64).toNat (2 * (c - 32)) 2 := by
    rw [← field_append hc, append_halves]
  rw [hold]
  by_cases h0 : half = 0
  · rw [if_pos h0, field_append hc, h0]
    by_cases hlow : c < 32
    · rw [if_pos hlow, if_pos (by omega), Nat.mod_eq_of_lt hlow]
    · rw [if_neg hlow, if_neg (by omega), if_neg hlow]
  · rw [if_neg h0, field_append hc, show half = 1 by omega]
    by_cases hlow : c < 32
    · rw [if_pos hlow, if_neg (by omega), if_pos hlow]
    · rw [if_neg hlow, if_pos (by omega), show c % 32 = c - 32 by omega]

/-- A write of a half of DBGLVL (R409). -/
theorem State.setLevels_level (s : State) {half c : Nat} (hhalf : half < 2) (hc : c < 64) (v : Nat) :
    field (s.setLevels half v).sec.dbgLvl.toNat (2 * c) 2 =
      if c / 32 = half then min (field v (2 * (c % 32)) 2) s.sec.dmax else field s.sec.dbgLvl.toNat (2 * c) 2 := by
  have hw : (BitVec.ofNat 64 (clampLevels v s.sec.dmax 32)).toNat = clampLevels v s.sec.dmax 32 :=
    Nat.mod_eq_of_lt (clampLevels_lt v s.sec.dmax 32)
  rw [← field_clampLevels (Nat.mod_lt c (by decide : 0 < 32)), ← hw]
  exact field_replace_half s.sec.dbgLvl _ hhalf hc

/-! Halting (R411). -/

/-- Halting one station: its bit, and out of P2 where it was there. -/
def State.haltOne (s : State) (n : Nat) : State :=
  let u := s.onSec fun x => { x with halt := x.halt ||| BitVec.ofNat 32 (2 ^ n) }
  if nth u.power.cur n 0 = 2 then u.stationNow n 0 else u

/-- What halting other stations leaves of what decides whether a station may be halted. -/
structure HaltFrame (s t : State) : Prop where
  me : t.me = s.me
  groups : t.groups = s.groups
  waiting : t.waiting = s.waiting
  grids : t.grids = s.grids
  dbgLvl : t.sec.dbgLvl = s.sec.dbgLvl

theorem HaltFrame.trans {s t u : State} (h : HaltFrame s t) (h' : HaltFrame t u) : HaltFrame s u :=
  ⟨h'.me.trans h.me, h'.groups.trans h.groups, h'.waiting.trans h.waiting, h'.grids.trans h.grids, h'.dbgLvl.trans h.dbgLvl⟩

theorem HaltFrame.invasive {s t : State} (h : HaltFrame s t) (n : Nat) : t.invasive n = s.invasive n := by
  unfold State.invasive State.resident State.debugLevel State.grid
  rw [h.me, h.groups, h.waiting, h.grids, h.dbgLvl]

theorem State.haltOne_spec (s : State) (n : Nat) : HaltFrame s (s.haltOne n) ∧ (∀ m, m ≠ n → nth (s.haltOne n).power.cur m 0 = nth s.power.cur m 0) ∧
    (s.haltOne n).sec.halt = s.sec.halt ||| BitVec.ofNat 32 (2 ^ n) := by
  unfold State.haltOne
  dsimp only
  split
  · exact ⟨⟨rfl, rfl, rfl, rfl, rfl⟩, fun m hm => (nth_setNth _ _ _ _ _).trans (if_neg fun h => hm h.1), rfl⟩
  · exact ⟨⟨rfl, rfl, rfl, rfl, rfl⟩, fun _ _ => rfl, rfl⟩

theorem getLsbD_singleBit {m n : Nat} (hm : m < 32) : (BitVec.ofNat 32 (2 ^ n)).getLsbD m = decide (m = n) := by
  rw [BitVec.getLsbD_ofNat, decide_eq_true hm, Bool.true_and, Nat.testBit_two_pow]
  exact decide_eq_decide.mpr eq_comm

/-- The stations below `k` that are to be halted and may be, are. -/
theorem State.halts_spec (s : State) (v k : Nat) (hk : k ≤ 32) :
    let t := (List.range k).foldl (fun u n => if v.testBit n && u.mayHalt n then u.haltOne n else u) s
    HaltFrame s t ∧ (∀ m, k ≤ m → nth t.power.cur m 0 = nth s.power.cur m 0) ∧
      ∀ n, n < 32 → t.sec.halt.getLsbD n = (s.sec.halt.getLsbD n || decide (n < k) && (v.testBit n && s.mayHalt n)) := by
  induction k with
  | zero => exact ⟨⟨rfl, rfl, rfl, rfl, rfl⟩, fun _ _ => rfl, fun n _ => by simp⟩
  | succ k ih =>
    obtain ⟨hframe, hcur, hhalt⟩ := ih (Nat.le_of_succ_le hk)
    rw [List.range_succ, List.foldl_append, List.foldl_cons, List.foldl_nil]
    generalize (List.range k).foldl (fun u n => if v.testBit n && u.mayHalt n then u.haltOne n else u) s = t at hframe hcur hhalt
    have hmay : t.mayHalt k = s.mayHalt k := by
      unfold State.mayHalt
      rw [hframe.invasive, hcur k le_rfl]
    have hsplit (n : Nat) (hn : n ≠ k) : decide (n < k + 1) = decide (n < k) := decide_eq_decide.mpr (by omega)
    dsimp only
    split
    next hyes =>
      obtain ⟨hframe', hcur', hhalt'⟩ := t.haltOne_spec k
      refine ⟨hframe.trans hframe', fun m hm => (hcur' m (by omega)).trans (hcur m (by omega)), fun n hn => ?_⟩
      rw [hhalt', BitVec.getLsbD_or, hhalt n hn]
      by_cases hnk : n = k
      · subst hnk
        rw [hmay] at hyes
        rw [hyes, getLsbD_singleBit hn, decide_eq_true rfl, decide_eq_true (Nat.lt_succ_self n), Bool.or_true]
        exact (Bool.or_true _).symm
      · rw [getLsbD_singleBit hn, decide_eq_false hnk, hsplit n hnk, Bool.or_false]
    next hno =>
      refine ⟨hframe, fun m hm => hcur m (by omega), fun n hn => (hhalt n hn).trans ?_⟩
      by_cases hnk : n = k
      · subst hnk
        rw [hmay] at hno
        rw [Bool.eq_false_iff.mpr hno, Bool.and_false, Bool.and_false]
      · rw [hsplit n hnk]

/-! The steps. -/

theorem BindFrame.sec_me {s t : State} (h : BindFrame s t) : t.sec = s.sec ∧ t.me = s.me := by
  unfold BindFrame at h
  rw [h]
  exact ⟨rfl, rfl⟩

theorem field_mod (x k : Nat) : field x 0 k = x % 2 ^ k := by
  unfold field
  rw [Nat.pow_zero, Nat.div_one]

theorem State.onSec_log (s : State) (f : Sec → Sec) : LogFrame s (s.onSec f) := rfl

/-- Entering recovery (R402). -/
theorem State.recover_spec (s : State) (e : Nat) : LogFrame s (s.recover e) ∧ (s.recover e).sec = { s.sec with stage := 2, err := e } ∧
    (s.recover e).msix = s.msix ++ [(0, 35)] := ⟨rfl, rfl, rfl⟩

/-- Booting an image (R400). -/
theorem State.bootImage_spec (s : State) (b : Bool) : ∃ x : Sec, s.bootImage b = { s with sec := x } ∧
    x.lock = s.sec.lock ∧ x.sec = s.sec.sec ∧ x.dmax = s.sec.dmax ∧ x.halt = s.sec.halt ∧ x.dbgLvl = s.sec.dbgLvl ∧ x.recLen = s.sec.recLen ∧
    x.stage = 3 ∧ x.err = 0 ∧ x.recovery = b ∧ x.roll = BitVec.ofNat 64 (2 ^ imgVersion s.imageHeader - 1) := by
  rw [s.bootImage_eq]
  generalize BitVec.ofNat 64 (2 ^ imgVersion s.imageHeader - 1) = w
  generalize s.imageHeader = h
  exact ⟨s.sec.booted w h b, rfl, rfl, rfl, rfl, rfl, rfl, rfl, rfl, rfl, rfl, rfl⟩

/-- Power-on (R400, R402): what the ROM finds decides what it leaves. -/
theorem powerOnReset_spec (s : State) :
    let img : Memory := s.flash.filter fun x => decide (x.1 < 0x400000)
    let e := if s.flashFails then 0x01 else imgError img s.sec.rollCount
    ∃ t, exec .powerOnReset s = .next t ∧ LogFrame s.romState t ∧ t.sec.lock = s.sec.lock ∧
      t.sec.sec = (if s.sec.lock then 0 else 2) ∧ t.sec.dmax = (if s.sec.lock then 0 else 2) ∧ t.sec.halt = 0 ∧ t.sec.dbgLvl = 0 ∧
      (e ≠ 0 → t.sec.stage = 2 ∧ t.sec.err = e ∧ t.sec.roll = s.sec.roll ∧ t.msix = s.msix ++ [(0, 35)]) ∧
      (e = 0 → t.sec.stage = 3 ∧ t.sec.err = 0 ∧ t.sec.recovery = false ∧
        t.sec.roll = BitVec.ofNat 64 (2 ^ recNum (Memory.bytes img 0 0x200) 8 8 - 1)) := by
  intro img e
  have hrom := s.romState_keeps
  have hexec := execPowerOnReset_eq s
  generalize s.romState = r at hrom hexec ⊢
  have hroll : r.sec.rollCount = s.sec.rollCount := by
    unfold Sec.rollCount
    rw [hrom.roll]
  have he : (if r.flashFails then 0x01 else imgError r.sbSram r.sec.rollCount) = e := by
    rw [hrom.fails, hrom.sbSram, hroll]
  dsimp only at hexec
  rw [he] at hexec
  refine ⟨_, hexec, ?_⟩
  by_cases h0 : e = 0
  · obtain ⟨x, hboot, hlock, hlevel, hdmax, hhalt, hlvl, -, hstage, herr, hrec, hbits⟩ := r.bootImage_spec false
    rw [if_pos h0, hboot]
    rw [imgVersion_eq, State.imageHeader, hrom.sbSram] at hbits
    exact ⟨r.onSec_log fun _ => x, hlock.trans hrom.lock, hlevel.trans hrom.level, hdmax.trans hrom.dmax, hhalt.trans hrom.halt,
      hlvl.trans hrom.dbgLvl, fun h => absurd h0 h, fun _ => ⟨hstage, herr, hrec, hbits⟩⟩
  · obtain ⟨hlog, hsec, hmsix⟩ := r.recover_spec e
    rw [if_neg h0]
    generalize r.recover e = t at hlog hsec hmsix
    rw [hsec, hmsix]
    exact ⟨hlog, hrom.lock, hrom.level, hrom.dmax, hrom.halt, hrom.dbgLvl,
      fun _ => ⟨rfl, rfl, hrom.roll, congrArg (· ++ [(0, 35)]) hrom.msix⟩, fun h => absurd h h0⟩

/-- The verdict on a recovery image (R402). -/
theorem recoveryVerdict_spec {s : State} {n : Nat} (hlen : s.sec.recLen = some n) : ∃ t, exec .recoveryVerdict s = .next t ∧ LogFrame s t ∧
    t.sec.recLen = none ∧
    (s.recoveryError n ≠ 0 → t.sec.stage = 2 ∧ t.sec.err = s.recoveryError n ∧ t.msix = s.msix ++ [(0, 35)]) ∧
    (s.recoveryError n = 0 → t.sec.stage = 3 ∧ t.sec.err = 0 ∧ t.sec.recovery = true ∧ t.msix = s.msix) := by
  have hexec : exec .recoveryVerdict s = .next (let u := s.onSec fun x => { x with recLen := none }
      if s.recoveryError n = 0 then u.bootImage true else u.recover (s.recoveryError n)) := by
    change execRecoveryVerdict s = _
    unfold execRecoveryVerdict
    rw [hlen]
    rfl
  refine ⟨_, hexec, ?_⟩
  dsimp only
  by_cases h0 : s.recoveryError n = 0
  · obtain ⟨x, hboot, -, -, -, -, -, hlen', hstage, herr, hrec, -⟩ := (s.onSec fun x => { x with recLen := none }).bootImage_spec true
    rw [if_pos h0, hboot]
    exact ⟨s.onSec_log fun _ => x, hlen', fun h => absurd h0 h, fun _ => ⟨hstage, herr, hrec, rfl⟩⟩
  · rw [if_neg h0]
    obtain ⟨hlog, hsec, hmsix⟩ := (s.onSec fun x => { x with recLen := none }).recover_spec (s.recoveryError n)
    refine ⟨(s.onSec_log _).trans hlog, ?_, fun _ => ⟨?_, ?_, hmsix⟩, fun h => absurd h h0⟩ <;> rw [hsec]
    rfl

/-- The report of an attestation (R405): its signature has 132 bytes, and the extensions that waited are made then. -/
theorem attestationReportReady_spec {s : State} (hbusy : s.sec.attBusy = true) :
    ∃ t sig, exec .attestationReportReady s = .next t ∧ t.sec.attRpt = s.reportBody ++ sig ∧
      sig.length = 132 ∧ t.sec.attBusy = false ∧ t.sec.attDone = true ∧ t.sec.mextPend = [] ∧ t.msix = s.msix ++ [(0, 36)] ∧
      t = { s with sec := t.sec, msix := t.msix, draws := s.draws + 1 } ∧ (s.sec.mextPend = [] → t.sec.meas = s.sec.meas) := by
  let sig := (List.range 132).map (Config.signature s.reportBody (Config.freeValue s.draws))
  let x : Sec := { s.sec with attRpt := s.reportBody ++ sig, attBusy := false, attDone := true }
  let y := x.mextPend.foldl (fun (y : Sec) (d : Nat × List Byte) => y.extend d.1 d.2) x
  have hexec : exec .attestationReportReady s = .next { s with sec := { y with mextPend := [] }, msix := s.msix ++ [(0, 36)], draws := s.draws + 1 } :=
    congrArg Host.Outcome.next (if_neg (by rw [hbusy]; decide))
  have hy : y = { x with meas := y.meas } := Sec.extends_eq _ x
  have hrpt : y.attRpt = x.attRpt := by rw [hy]
  have hatt : y.attBusy = x.attBusy := by rw [hy]
  have hdone : y.attDone = x.attDone := by rw [hy]
  have hnone (hpend : s.sec.mextPend = []) : y.meas = s.sec.meas := by
    have hx : x.mextPend = [] := hpend
    change (x.mextPend.foldl (fun (y : Sec) (d : Nat × List Byte) => y.extend d.1 d.2) x).meas = _
    rw [hx]
    rfl
  exact ⟨_, sig, hexec, hrpt, by rw [List.length_map, List.length_range], hatt, hdone, rfl, rfl, rfl, hnone⟩

theorem State.newNonce_spec (s : State) : ∃ r, s.newNonce = { s with sec := { s.sec with dbgNonce := r, nonceDrawn := true }, draws := s.draws + 8 } ∧
    r.length = 64 := by
  refine ⟨s.drawNonce.1, rfl, ?_⟩
  unfold State.drawNonce
  have hword (i : Nat) : (List.length ∘ fun i => natLe (Config.freeValue (s.draws + i)).toNat 8) i = 8 := natLe_length _ 8
  rw [List.length_flatten, List.map_map, funext hword]
  rfl

/-- The verdict on a debug token (R410). -/
theorem debugTokenVerdict_spec {s : State} (hbusy : s.sec.dbgBusy = true) : ∃ t, exec .debugTokenVerdict s = .next t ∧ t.sec.dbgBusy = false ∧
    t.sec.dbgNonce.length = 64 ∧ t.msix = s.msix ++ [(0, 38)] ∧ t = { s with sec := t.sec, msix := t.msix, draws := s.draws + 8 } ∧
    (s.tokenOk = true → t.sec.sec = 1 ∧ t.sec.dmax = recNum s.sec.dbgCap 4 4 ∧ t.sec.dbgRes = 1) ∧
    (s.tokenOk = false → t.sec.sec = s.sec.sec ∧ t.sec.dmax = s.sec.dmax ∧ t.sec.dbgRes = 2) := by
  let x : Sec := if s.tokenOk then { (s.sec.grant 1 (recNum s.sec.dbgCap 4 4)).note with dbgRes := 1, dbgBusy := false, dbgCap := [] }
    else { s.sec with dbgRes := 2, dbgBusy := false, dbgCap := [] }
  have hexec : exec .debugTokenVerdict s = .next ((s.onSec fun _ => x).fire 0 38).newNonce :=
    congrArg Host.Outcome.next (if_neg (by rw [hbusy]; decide))
  obtain ⟨r, hnonce, hlength⟩ := ((s.onSec fun _ => x).fire 0 38).newNonce_spec
  rw [hnonce] at hexec
  have hx : x.dbgBusy = false ∧ (s.tokenOk = true → x.sec = 1 ∧ x.dmax = recNum s.sec.dbgCap 4 4 ∧ x.dbgRes = 1) ∧
      (s.tokenOk = false → x.sec = s.sec.sec ∧ x.dmax = s.sec.dmax ∧ x.dbgRes = 2) := by
    dsimp only [x]
    split
    next hok => exact ⟨rfl, fun _ => ⟨rfl, rfl, rfl⟩, fun h => absurd (hok.symm.trans h) (by decide)⟩
    next hok => exact ⟨rfl, fun h => absurd h hok, fun _ => ⟨rfl, rfl, rfl⟩⟩
  obtain ⟨hx, hok, hbad⟩ := hx
  clear_value x
  exact ⟨_, hexec, hx, hlength, rfl, rfl, hok, hbad⟩

/-- Settles O51: R399, R400 to R405 and R409 to R411. -/
theorem bootAndSecurity : Obligations.BootAndSecurity := by
  unfold Obligations.BootAndSecurity
  refine ⟨fun s => ?reset, fun s hstage => ?ready, fun s len htakes hstage hnone => ?recgo, fun s n hlen => ?verdict, fun s v => ?writes,
    fun s hbusy => attestationReportReady_spec hbusy, fun s hbusy => debugTokenVerdict_spec hbusy⟩
  case reset =>
    intro img e
    obtain ⟨t, hexec, hlog, hsec⟩ := powerOnReset_spec s
    obtain ⟨hflash, hsys, hsram, hhbm, hwindow, hme, hgroups, hgrids, hops⟩ := s.romState_keeps.of_log hlog
    exact ⟨t, hexec, hflash, hsys, hsram, hhbm, hwindow, hme, hgroups, hgrids, hops, hsec⟩
  case ready => exact congrArg Host.Outcome.next (if_pos hstage)
  case recgo =>
    refine congrArg Host.Outcome.next ((State.regEffect_takes htakes _).trans ((if_pos ⟨hstage, hnone⟩).trans ?_))
    rw [field_mod]
    rfl
  case verdict => exact recoveryVerdict_spec hlen
  case writes =>
    refine ⟨fun htakes hlow => ?_, fun htakes hhigh => ⟨fun hfree => ?_, fun hbusy => ?_⟩, fun htakes hfree => ?_, fun htakes hfree => ?_,
      fun half hhalf htakes => ?_, fun htakes => ?_, fun htakes => ?_⟩
    · exact congrArg Host.Outcome.next ((State.regEffect_takes htakes _).trans (if_pos hlow))
    · exact congrArg Host.Outcome.next ((State.regEffect_takes htakes _).trans
        ((if_neg (Nat.not_lt.mpr hhigh)).trans (if_neg (by rw [hfree]; decide))))
    · exact congrArg Host.Outcome.next ((State.regEffect_takes htakes _).trans ((if_neg (Nat.not_lt.mpr hhigh)).trans (if_pos hbusy)))
    · exact congrArg Host.Outcome.next ((State.regEffect_takes htakes _).trans (if_neg (by rw [hfree]; decide)))
    · exact congrArg Host.Outcome.next ((State.regEffect_takes htakes _).trans (if_neg (by rw [hfree]; decide)))
    · exact ⟨s.setLevels half v.toNat, congrArg Host.Outcome.next ((if_neg (Nat.not_le.mpr hhalf)).trans (State.regEffect_takes htakes _)), rfl,
        fun c hc => s.setLevels_level hhalf hc v.toNat⟩
    · obtain ⟨hframe, -, hhalt⟩ := s.halts_spec v.toNat 32 le_rfl
      refine ⟨s.halt v.toNat, congrArg Host.Outcome.next (State.regEffect_takes htakes _), hframe.me, hframe.groups, fun n hn => ?_⟩
      refine (hhalt n hn).trans ?_
      rw [decide_eq_true hn, Bool.true_and]
      rfl
    · have hbind := (s.onSec fun x => { x with halt := x.halt &&& ~~~(v.setWidth 32) }).bindWaiting_bind
      refine ⟨s.unhalt v, congrArg Host.Outcome.next (State.regEffect_takes htakes _), ?_, ?_⟩
      · exact hbind.sec_me.2
      · exact congrArg Sec.halt hbind.sec_me.1

end Sys2Proof.Machine
end

section
/-! The statement on power states (R411, R414 to R417). -/

namespace Sys2Proof.Machine

/-! A station switched off. -/

/-- A station whose groups are saved, before its caches and marks are dropped. -/
def State.stationSaved (s : State) (n : Nat) : State :=
  ((s.corner.filter fun c => decide (stationOf c.core = n)).foldl (fun t c => t.writeFrame c) s).saveWhere fun g => decide (stationOf g.core = n)

theorem State.saveWhere_memory (s : State) (mine : Group → Bool) : SameMemory s (s.saveWhere mine) := ⟨rfl, rfl, rfl, rfl, rfl⟩

theorem State.stationSaved_of_corner {s : State} (h : s.corner = []) (n : Nat) :
    s.stationSaved n = s.saveWhere fun g => decide (stationOf g.core = n) := by
  unfold State.stationSaved
  rw [h]
  rfl

/-- What gating a station off leaves of the state in which its groups are saved. -/
theorem State.gate_saved (s : State) (n : Nat) : let t := s.gate n
    let u := s.stationSaved n
    SameMemory u t ∧ t.me = u.me ∧ t.groups = u.groups ∧ t.blocks = u.blocks ∧ t.binds = u.binds ∧ t.corner = u.corner ∧
      t.sec.halt = u.sec.halt ∧ t.power.cur = setNth u.power.cur n 3 ∧
      t.icache = (u.icache.filter fun x => x.1 != n) ∧
      t.ops = u.ops.map fun o => if stationOf o.core = n ∧ o.stage = .running then { o with stage := .queued } else o := by
  intro t u
  have ht := State.gate.eq_1 s n
  dsimp only at ht
  change t = _ at ht
  have hu : u = s.stationSaved n := rfl
  unfold State.stationSaved at hu
  rw [← hu] at ht
  clear_value u t
  subst ht
  exact ⟨⟨rfl, rfl, rfl, rfl, rfl⟩, rfl, rfl, rfl, rfl, rfl, rfl, rfl, rfl, rfl⟩

/-- What gating a station keeps where its corner-turn buffer is empty. -/
structure GateFrame (s t : State) : Prop where
  memory : SameMemory s t
  blocks : t.blocks = s.blocks
  binds : t.binds = s.binds
  corner : t.corner = s.corner
  halt : t.sec.halt = s.sec.halt
  length : t.power.cur.length = s.power.cur.length

theorem GateFrame.refl (s : State) : GateFrame s s := ⟨⟨rfl, rfl, rfl, rfl, rfl⟩, rfl, rfl, rfl, rfl, rfl⟩

theorem GateFrame.trans {s t u : State} (h : GateFrame s t) (h' : GateFrame t u) : GateFrame s u :=
  ⟨h.memory.trans h'.memory, h'.blocks.trans h.blocks, h'.binds.trans h.binds, h'.corner.trans h.corner, h'.halt.trans h.halt,
    h'.length.trans h.length⟩

theorem State.gate_frame {s : State} (hcorner : s.corner = []) (n : Nat) : GateFrame s (s.gate n) ∧ (s.gate n).power.cur = setNth s.power.cur n 3 := by
  obtain ⟨hmem, -, -, hblocks, hbinds, hcorner', hhalt, hcur, -⟩ := s.gate_saved n
  rw [State.stationSaved_of_corner hcorner] at hmem hblocks hbinds hcorner' hhalt hcur
  exact ⟨⟨(s.saveWhere_memory _).trans hmem, hblocks, hbinds, hcorner', hhalt, by rw [hcur]; exact setNth_length _ _ _⟩, hcur⟩

/-- Gating a station whose corner-turn buffer is empty (R415). -/
theorem State.gate_spec {s : State} (hcorner : s.corner = []) {n : Nat} (hn : n < s.power.cur.length) : let t := s.gate n
    nth t.power.cur n 0 = 3 ∧ SameMemory s t ∧ t.onStation n = [] ∧ (∀ x, x ∈ t.icache ↔ x ∈ s.icache ∧ x.1 ≠ n) ∧
      ∀ o, o ∈ t.ops → stationOf o.core = n → o.stage ≠ .running := by
  intro t
  obtain ⟨hframe, hcur⟩ := State.gate_frame hcorner n
  obtain ⟨-, hme, hgroups, -, -, -, -, -, hicache, hops⟩ := s.gate_saved n
  rw [State.stationSaved_of_corner hcorner] at hme hgroups hicache hops
  refine ⟨?_, hframe.memory, List.filter_eq_nil_iff.mpr fun g hg hn => ?_, fun x => ?_, fun o ho hstn => ?_⟩
  · rw [hcur, nth_setNth, if_pos ⟨rfl, hn⟩]
  · have hres : t.resident = (s.saveWhere fun g => decide (stationOf g.core = n)).resident := by
      unfold State.resident
      rw [hme, hgroups]
    rw [hres] at hg
    exact Bool.eq_false_iff.mp (State.saveWhere_gone (List.mem_append_left _ hg)) hn
  · rw [hicache, List.mem_filter, bne_iff_ne]
    exact Iff.rfl
  · rw [hops] at ho
    obtain ⟨o', -, rfl⟩ := List.mem_map.mp ho
    split
    next => exact OpStage.noConfusion
    next hno =>
      rw [if_neg hno] at hstn
      exact fun hrun => hno ⟨hstn, hrun⟩

/-! Entering D3hot (R417). -/

theorem Bind.live_zero : (bindOf (List.replicate 32 0)).live = false := rfl

theorem State.preemptAll_of_binds {s : State} (h : s.binds = []) (n : Nat) : s.preemptAll n = s := by
  have hlive (i : Nat) : (s.bind n i).live = false := by
    unfold State.bind
    rw [h]
    rfl
  unfold State.preemptAll
  induction List.range 64 with
  | nil => rfl
  | cons i l ih => rwa [List.foldl_cons, if_neg (by rw [hlive]; decide)]

theorem State.holdsBlocks_of_none {s : State} (h : s.blocks = []) (n : Nat) : s.holdsBlocks n = false := by
  unfold State.holdsBlocks
  rw [h]
  rfl

/-- A station put to sleep, where no block is left. -/
theorem State.sleepStation_spec {s : State} (hblocks : s.blocks = []) (hcorner : s.corner = []) (n : Nat) :
    GateFrame s (s.sleepStation n) ∧ (∀ m, nth s.power.cur m 0 = 3 → nth (s.sleepStation n).power.cur m 0 = 3) ∧
      (n < s.power.cur.length → s.sec.halt.getLsbD n = false → nth (s.sleepStation n).power.cur n 0 = 3) := by
  unfold State.sleepStation
  split
  next hstay =>
    refine ⟨.refl s, fun m hm => hm, fun _ hhalt => ?_⟩
    rw [hhalt, Bool.false_or] at hstay
    exact of_decide_eq_true hstay
  next =>
    obtain ⟨hframe, hcur⟩ := State.gate_frame hcorner n
    rw [if_neg (by rw [State.holdsBlocks_of_none hblocks]; decide), hcur]
    refine ⟨hframe, fun m hm => ?_, fun hn _ => ?_⟩
    · rw [nth_setNth]
      split
      · rfl
      · exact hm
    · rw [nth_setNth, if_pos ⟨rfl, hn⟩]

/-- All stations put to sleep. -/
theorem State.sleepStations_spec {s : State} (hblocks : s.blocks = []) (hcorner : s.corner = []) (k : Nat) :
    let t := (List.range k).foldl (fun t n => t.sleepStation n) s
    GateFrame s t ∧ ∀ n, n < k → n < s.power.cur.length → s.sec.halt.getLsbD n = false → nth t.power.cur n 0 = 3 := by
  induction k with
  | zero => exact ⟨.refl s, fun n hn => absurd hn (Nat.not_lt_zero n)⟩
  | succ k ih =>
    obtain ⟨hframe, hsleep⟩ := ih
    rw [List.range_succ, List.foldl_append, List.foldl_cons, List.foldl_nil]
    generalize (List.range k).foldl (fun t n => t.sleepStation n) s = t at hframe hsleep
    obtain ⟨hframe', hkeep, hnew⟩ := t.sleepStation_spec (hframe.blocks.trans hblocks) (hframe.corner.trans hcorner) k
    refine ⟨hframe.trans hframe', fun n hn hlen hhalt => ?_⟩
    rcases Nat.lt_succ_iff_lt_or_eq.mp hn with hlt | rfl
    · exact hkeep n (hsleep n hlt hlen hhalt)
    · exact hnew (hframe.length ▸ hlen) (hframe.halt ▸ hhalt)

theorem State.sleepDie_spec (s : State) (d : Nat) : SameMemory s (s.sleepDie d) ∧ (s.sleepDie d).power.cur = s.power.cur := by
  unfold State.sleepDie
  split
  · exact ⟨.refl s, rfl⟩
  · exact ⟨⟨rfl, rfl, rfl, rfl, rfl⟩, rfl⟩

theorem State.sleepDies_spec (s : State) (l : List Nat) : let t := l.foldl (fun t d => t.sleepDie d) s
    SameMemory s t ∧ t.power.cur = s.power.cur :=
  List.foldlRecOn l _ (motive := fun t => SameMemory s t ∧ t.power.cur = s.power.cur) ⟨.refl s, rfl⟩ fun t ht d _ =>
    ⟨ht.1.trans (t.sleepDie_spec d).1, (t.sleepDie_spec d).2.trans ht.2⟩

theorem execD3hotEntry_spec {s : State} (hhot : s.power.d3hot = false) (hon : s.power.removed = false) (hblocks : s.blocks = [])
    (hbinds : s.binds = []) (hcorner : s.corner = []) :
    ∃ t, exec .d3hotEntry s = .next t ∧ t.power.d3hot = true ∧ SameMemory s t ∧
      ∀ n, n < 32 → n < s.power.cur.length → s.sec.halt.getLsbD n = false → nth t.power.cur n 0 = 3 := by
  have hnone : (List.range 32).foldl (fun t n => t.preemptAll n) s = s :=
    List.foldlRecOn _ _ (motive := fun t => t = s) rfl fun t ht n _ => by rw [ht, State.preemptAll_of_binds hbinds]
  have hexec : exec .d3hotEntry s = .next (
      let t := (List.range 4).foldl (fun (t : State) d => t.sleepDie d) ((List.range 32).foldl (fun t n => t.sleepStation n) s)
      { t with power := { t.power with d3hot := true } }) := by
    change execD3hotEntry s = _
    unfold execD3hotEntry
    rw [hhot, hon, if_neg (by decide), hnone]
  obtain ⟨hframe, hsleep⟩ := State.sleepStations_spec hblocks hcorner 32
  generalize (List.range 32).foldl (fun t n => t.sleepStation n) s = u at hframe hsleep hexec
  obtain ⟨hmem, hcur⟩ := u.sleepDies_spec (List.range 4)
  generalize (List.range 4).foldl (fun t d => t.sleepDie d) u = t at hmem hcur hexec
  refine ⟨_, hexec, rfl, hframe.memory.trans hmem, fun n hn hlen hhalt => ?_⟩
  exact (congrArg (fun l => nth l n 0) hcur).trans (hsleep n hn hlen hhalt)

/-! Requests and completed changes. -/

section
variable {s : State} {n : Nat} {v : BitVec 64}

theorem execStnpwrWrite_takes (hn : n < 32) (htakes : s.takesWrite 0 (0x403100 + 8 * n)) :
    exec (.stnpwrWrite n v) s = .next (s.stationRequest n (v.toNat % 8)) :=
  congrArg Host.Outcome.next ((if_neg (Nat.not_le.mpr hn)).trans (State.regEffect_takes htakes _))

theorem State.stationRequest_undefined {t : Nat} (h : ¬(t = 0 ∨ t = 2 ∨ t = 3)) : s.stationRequest n t = s := if_pos h

theorem State.stationRequest_refused {t : Nat} (h : t = 0 ∨ t = 2 ∨ t = 3) (hcan : s.stationCan n t = false) :
    s.stationRequest n t = { s with power := { s.power with refused := setNth s.power.refused n true } } :=
  (if_neg (not_not_intro h)).trans (if_pos hcan)

/-- A change that starts: away from gated, or into it. -/
theorem State.stationRequest_starts {t : Nat} (h : t = 0 ∨ t = 2 ∨ t = 3) (hcan : s.stationCan n t = true) (hcur : nth s.power.cur n 0 ≠ t) :
    s.stationRequest n t =
      let u : State := { s with power := { s.power with
        tgt := setNth s.power.tgt n t, busy := setNth s.power.busy n true, refused := setNth s.power.refused n false } }
      if t = 3 then (u.preemptAll n).bindWaiting else u :=
  (if_neg (not_not_intro h)).trans ((if_neg (by rw [hcan]; decide)).trans (if_neg hcur))

theorem State.stationCan_three : s.stationCan n 3 = !s.sec.halt.getLsbD n := by
  unfold State.stationCan
  rw [decide_eq_false (by decide), Bool.false_or, decide_eq_true rfl, Bool.true_or, Bool.and_true]

theorem execPowerTransitionComplete_station (hn : n < 32) (hbusy : nth s.power.busy n false = true) :
    exec (.powerTransitionComplete n) s = .next (s.stationStep n) :=
  congrArg Host.Outcome.next ((if_pos hn).trans (if_pos hbusy))

theorem execPowerTransitionComplete_die {d : Nat} (hd : d < 4) (hbusy : nth s.power.dieBusy d false = true) :
    exec (.powerTransitionComplete (32 + d)) s = .next (s.dieStep d) := by
  have h : 32 + d - 32 = d := Nat.add_sub_cancel_left 32 d
  refine congrArg Host.Outcome.next ((if_neg (by omega)).trans ((if_pos (by omega)).trans ?_))
  rw [h]
  exact if_pos hbusy

theorem execDiepwrWrite_takes {d : Nat} (hd : d < 4) (htakes : s.takesWrite 0 (0x403200 + 8 * d)) :
    exec (.diepwrWrite d v) s = .next (s.dieRequest d (v.getLsbD 0)) :=
  congrArg Host.Outcome.next ((if_neg (Nat.not_le.mpr hd)).trans (State.regEffect_takes htakes _))

/-- The end of a change into P2. -/
theorem State.stationStep_rest (htgt : nth s.power.tgt n 0 = 2) (hcan : s.stationCan n 2 = true) : s.stationStep n = s.stationNow n 2 := by
  unfold State.stationStep
  rw [htgt]
  exact if_pos hcan

/-- The end of a change into P0, with its die awake. -/
theorem State.stationStep_run (htgt : nth s.power.tgt n 0 = 0) : s.stationStep n =
    ((if nth s.power.dieOff (n / 8) false then (s.setDie (n / 8) false (nth s.power.dieBusy (n / 8) false) false).fire 0 39
      else s).stationNow n 0).bindWaiting := by
  unfold State.stationStep
  rw [htgt]
  rfl

/-- The end of a change into P3. -/
theorem State.stationStep_gate (htgt : nth s.power.tgt n 0 = 3) (hhalt : s.sec.halt.getLsbD n = false) (hholds : s.holdsBlocks n = false) :
    s.stationStep n = s.gate n := by
  unfold State.stationStep
  rw [htgt]
  dsimp only
  have hoff : ¬(false : Bool) = true := by decide
  rw [hhalt, hholds, if_neg hoff, if_neg hoff, hholds]
  exact if_neg hoff

end

/-- Settles O52: R411 and R414 to R417. -/
theorem powerChanges : Obligations.PowerChanges := by
  unfold Obligations.PowerChanges
  refine ⟨fun s v htakes => congrArg Host.Outcome.next (State.regEffect_takes htakes _), fun s n v hn htakes => ?station, fun s n hn => ?ends,
    fun s d v hd htakes => ?die, fun s d hd hbusy => ?dieEnds, fun s hbusy => ?clock, fun s hhot hon hblocks hbinds hcorner => ?sleep,
    fun s hhot => ?wake, fun s => ?removal⟩
  case station =>
    intro t
    have hexec : exec (.stnpwrWrite n v) s = .next (s.stationRequest n t) := execStnpwrWrite_takes hn htakes
    rw [hexec]
    refine ⟨fun ht hcan => congrArg Host.Outcome.next (State.stationRequest_refused ht hcan), fun ht hcan hcur => ?_, fun ht hhalt => ?_,
      fun ht hhalt hcur => ?_, fun ht => congrArg Host.Outcome.next (State.stationRequest_undefined (by omega))⟩
    · exact congrArg Host.Outcome.next ((State.stationRequest_starts (by omega) hcan hcur).trans (if_neg (by omega)))
    · have hcan : s.stationCan n 3 = false := by rw [State.stationCan_three, hhalt]; rfl
      rw [ht]
      exact congrArg Host.Outcome.next (State.stationRequest_refused (by decide) hcan)
    · have hcan : s.stationCan n 3 = true := by rw [State.stationCan_three, hhalt]; rfl
      rw [ht]
      exact congrArg Host.Outcome.next ((State.stationRequest_starts (by decide) hcan hcur).trans (if_pos rfl))
  case ends =>
    refine ⟨fun hcur hbusy hhalt hidle => congrArg Host.Outcome.next (if_pos ⟨hn, hcur, hbusy, hhalt, hidle⟩), fun hbusy => ?_⟩
    rw [execPowerTransitionComplete_station hn hbusy]
    refine ⟨fun htgt hcan => congrArg Host.Outcome.next (State.stationStep_rest htgt hcan),
      fun htgt => congrArg Host.Outcome.next (State.stationStep_run htgt), fun htgt hhalt hholds hcorner hlen => ?_⟩
    exact ⟨_, congrArg Host.Outcome.next (State.stationStep_gate htgt hhalt hholds), State.gate_spec hcorner hlen⟩
  case die =>
    rw [execDiepwrWrite_takes hd htakes]
    refine ⟨fun his => ?_, fun his hoff hcan => ?_, fun his hoff hcan => ?_, fun his hon => ?_⟩ <;> unfold State.dieRequest <;> dsimp only
    · rw [if_pos his.symm, his]
    · rw [his, hoff, if_neg (by decide), if_pos rfl, if_pos hcan]
    · rw [his, hoff, if_neg (by decide), if_pos rfl, if_neg (by rw [hcan]; decide)]
    · rw [his, hon, if_neg (by decide), if_neg (by decide)]
  case dieEnds =>
    rw [execPowerTransitionComplete_die hd hbusy]
    refine ⟨fun hoff hcan => ?_, fun hoff => congrArg Host.Outcome.next (if_pos hoff)⟩
    exact congrArg Host.Outcome.next ((if_neg (by rw [hoff]; decide)).trans (if_pos hcan))
  case clock => exact congrArg Host.Outcome.next ((if_neg (by decide)).trans ((if_neg (by decide)).trans (if_pos ⟨rfl, hbusy⟩)))
  case sleep => exact execD3hotEntry_spec hhot hon hblocks hbinds hcorner
  case wake =>
    let u : State := { s with power := { s.power with d3hot := false } }
    have hbind : BindFrame u u.bindWaiting := u.bindWaiting_bind
    refine ⟨u.bindWaiting, congrArg Host.Outcome.next (if_neg (by rw [hhot]; decide)), ?_, hbind.sec_me.2, hbind.stay.groups, hbind.kept.1⟩
    unfold BindFrame at hbind
    rw [hbind]
  case removal => exact ⟨_, rfl, rfl, rfl, rfl, rfl, rfl, rfl, rfl, rfl, rfl, rfl, rfl⟩

end Sys2Proof.Machine
end

section
/-! The statement on telemetry, errors, caps and quarantine (21, R22). -/

namespace Sys2Proof.Machine

/-! Quarantine (R423). -/

theorem State.bindRange_fleet (s : State) (g : Grid) (stn first k slice : Nat) : (s.bindRange g stn first k slice).fleet = s.fleet := by
  unfold State.bindRange
  split <;> rfl

theorem State.bindOver_fleet (g : Grid) (slice : Nat) (l : List Nat) (first left : Nat) (s : State) :
    (s.bindOver g slice first left l).fleet = s.fleet := by
  induction l generalizing first left s with
  | nil => rfl
  | cons n r ih =>
    unfold State.bindOver
    dsimp only
    split
    · rfl
    · exact (ih _ _ _).trans (s.bindRange_fleet _ _ _ _ _)

theorem State.bindOne_fleet (s : State) (g : Grid) : (s.bindOne g).fleet = s.fleet := by
  unfold State.bindOne
  split
  · exact State.bindOver_fleet _ _ _ _ _ _
  · rfl

theorem State.rebind_fleet (s : State) (stn slot : Nat) : (s.rebind stn slot).fleet = s.fleet := by
  unfold State.rebind State.rebindOn
  split
  · dsimp only
    split <;> rfl
  · rfl

/-- Binding changes nothing of the fleet's record where no core drains. -/
theorem State.bindWaiting_fleet {s : State} (h : s.fleet.drain = []) : s.bindWaiting.fleet = s.fleet := by
  have hend : s.endQuarantine = s := by
    unfold State.endQuarantine
    rw [h]
    rfl
  unfold State.bindWaiting
  split
  · rfl
  · rw [hend]
    refine List.foldlRecOn _ _ (motive := fun (t : State) => t.fleet = s.fleet) ?_ fun t ht x _ => (t.rebind_fleet _ _).trans ht
    refine List.foldlRecOn _ _ (motive := fun (t : State) => t.fleet = s.fleet) rfl fun t ht i _ => ?_
    exact List.foldlRecOn _ _ (motive := fun (u : State) => u.fleet = s.fleet) ht fun u hu g _ => (u.bindOne_fleet g).trans hu

theorem State.blocksOn_of_none {s : State} (h : s.blocks = []) (core : Nat) : s.blocksOn core = [] := by
  unfold State.blocksOn
  rw [h]
  rfl

theorem State.moveOff_of_binds {s : State} (h : s.binds = []) (core : Nat) : s.moveOff core = s := by
  have hlive (i : Nat) : (s.bind (stationOf core) i).live = false := by
    unfold State.bind
    rw [h]
    rfl
  unfold State.moveOff
  dsimp only
  induction List.range 64 with
  | nil => rfl
  | cons i l ih => rwa [List.foldl_cons, if_neg (by rw [hlive, Bool.false_and]; decide)]

/-- A core that drains, with no block left on it, is out. -/
theorem State.endQuarantine_one {s : State} {c : Nat} (hblocks : s.blocks = []) (hdrain : s.fleet.drain = [c]) :
    s.endQuarantine = State.logEvent { s with fleet := { s.fleet with quar := setNth s.fleet.quar c true, drain := [] } } 5 0 0 (stationOf c) c := by
  have hnone : (s.fleet.drain.filter fun x => x != c) = [] := by
    rw [hdrain]
    exact List.filter_eq_nil_iff.mpr fun x hx => by rw [List.mem_singleton.mp hx]; simp
  have hcores : (s.fleet.drain.filter fun c => (s.blocksOn c).isEmpty) = [c] := by
    rw [hdrain]
    exact List.filter_eq_self.mpr fun x _ => by rw [State.blocksOn_of_none hblocks]; rfl
  unfold State.endQuarantine
  rw [hcores, List.foldl_cons, List.foldl_nil, hnone]

/-- Quarantine where no block and no record is left. -/
theorem State.quarantine_idle {s : State} {c : Nat} (hc : c < s.fleet.quar.length) (hblocks : s.blocks = []) (hbinds : s.binds = [])
    (hdrain : s.fleet.drain = []) : nth (s.quarantine c).fleet.quar c false = true ∧ (s.quarantine c).fleet.hold = s.fleet.hold ∧
      (s.quarantine c).me = s.me := by
  unfold State.quarantine
  split
  next hout =>
    refine ⟨?_, rfl, rfl⟩
    unfold Fleet.out at hout
    rwa [hdrain, List.contains_nil, Bool.or_false] at hout
  next =>
    dsimp only
    rw [State.blocksOn_of_none hblocks, List.filterMap_nil, List.foldl_nil]
    let u : State := s.onFleet fun f => { f with drain := c :: f.drain }
    have hmove : u.moveOff c = u := State.moveOff_of_binds (s := u) hbinds c
    let q : State := { u with fleet := { u.fleet with quar := setNth u.fleet.quar c true, drain := [] } }
    have hend : u.endQuarantine = q.logEvent 5 0 0 (stationOf c) c := State.endQuarantine_one hblocks (congrArg (c :: ·) hdrain)
    rw [show (s.onFleet fun f => { f with drain := c :: f.drain }) = u from rfl, hmove, hend]
    have hfleet : (q.logEvent 5 0 0 (stationOf c) c).bindWaiting.fleet = q.fleet := State.bindWaiting_fleet rfl
    have hme : (q.logEvent 5 0 0 (stationOf c) c).bindWaiting.me = s.me := (State.bindWaiting_bind _).sec_me.2
    rw [hfleet]
    refine ⟨?_, rfl, hme⟩
    exact (nth_setNth _ _ _ _ _).trans (if_pos ⟨rfl, hc⟩)

/-! Errors (R421, R422). -/

/-- The corrected errors of the last 10 s, with one of core `c` now. -/
def State.errorTimes (s : State) (c : Nat) : List (Nat × Nat) := (c, s.now) :: s.fleet.ceTimes.filter fun x => decide (s.now ≤ x.2 + 14000000000)

/-- A corrected error counted. -/
def State.errorCounted (s : State) (c : Nat) : State :=
  { s with fleet := { s.fleet with ce := setNth s.fleet.ce c (nth s.fleet.ce c 0 + 1), ceTimes := s.errorTimes c } }

theorem State.countCore_eq (s : State) (c : Nat) : s.countCore c =
    if 64 ≤ ((s.errorTimes c).filter fun x => x.1 == c).length then (s.errorCounted c).quarantine c else s.errorCounted c := by
  have hten : tenSeconds = 14000000000 := rfl
  unfold State.countCore State.errorCounted State.errorTimes State.onFleet
  simp only [hten]

theorem State.countCore_few {s : State} {c : Nat} (h : ((s.errorTimes c).filter fun x => x.1 == c).length < 64) :
    s.countCore c = s.errorCounted c := by
  rw [s.countCore_eq, if_neg (Nat.not_le.mpr h)]

theorem State.countCore_many {s : State} {c : Nat} (h : 64 ≤ ((s.errorTimes c).filter fun x => x.1 == c).length) :
    s.countCore c = (s.errorCounted c).quarantine c := by
  rw [s.countCore_eq, if_pos h]

theorem Group.restart_uid (g : Group) : g.restart.uid = g.uid := by
  unfold Group.restart
  split <;> rfl

/-- A group that a parity error of its latches restarts (R22). -/
theorem Group.restart_spec {g : Group} (h : g.park = none) : g.restart.pc = g.runPc ∧ g.restart.k = g.k ∧
    ∀ i, g.restart.lane i = (g.lane i).map fun a => { a with lat := List.replicate 8 0, clkHi := none } := by
  unfold Group.restart
  rw [h]
  exact ⟨rfl, rfl, fun i => g.redo.lane_onAll (fun _ t => { t with lat := List.replicate 8 0, clkHi := none }) i⟩

theorem State.resident_map {s t : State} {f : Group → Group} (hf : ∀ g, (f g).uid = g.uid) (hme : t.me = f s.me) (hgroups : t.groups = s.groups.map f) :
    t.resident = s.resident.map f := by
  unfold State.resident
  rw [hme, hf, hgroups]
  split <;> rfl

/-- A word marked, where no bind table and no SRAM word of the signal box is. -/
theorem execSoftErrorUncorrectable_eq {s : State} {place : PoisonAt} (hsram : ∀ w, place ≠ .sram w) (hbind : ∀ n w, place ≠ .bindTable n w)
    (u : ErrUnit) : ∃ marks, (∀ p, p ∈ marks ↔ p ∈ s.poison ∨ p = place) ∧
      exec (.softErrorUncorrectable u place) s = .next (State.countUe { s with poison := marks } u) := by
  refine ⟨if s.poison.contains place then s.poison else place :: s.poison, fun p => ?_, ?_⟩
  · split
    next h =>
      refine ⟨Or.inl, fun hp => hp.elim id ?_⟩
      rintro rfl
      exact List.contains_iff_mem.mp h
    next => rw [List.mem_cons, or_comm]
  · cases place with
    | sram w => exact absurd rfl (hsram w)
    | bindTable n w => exact absurd rfl (hbind n w)
    | _ => rfl

theorem word_succ_lt_two (x : Word) : x + 1 < 2 ↔ ¬2 ≤ (x + 1).toNat := Nat.not_le.symm

/-- An uncorrectable error of a core: the second one quarantines it (R423). -/
theorem State.countUe_core {s : State} {c : Nat} (hc : c < s.fleet.ue.length) : s.countUe (.core c) =
    let u : State := { s with fleet := { s.fleet with ue := setNth s.fleet.ue c (nth s.fleet.ue c 0 + 1) } }
    if nth s.fleet.ue c 0 + 1 < 2 then u else u.quarantine c := by
  have hcount : nth (setNth s.fleet.ue c (nth s.fleet.ue c 0 + 1)) c 0 = nth s.fleet.ue c 0 + 1 := (nth_setNth _ _ _ _ _).trans (if_pos ⟨rfl, hc⟩)
  unfold State.countUe
  dsimp only [State.onFleet]
  rw [hcount]
  by_cases h : nth s.fleet.ue c 0 + 1 < 2
  · rw [if_neg ((word_succ_lt_two _).mp h), if_pos h]
  · rw [if_pos (not_not.mp fun h' => h ((word_succ_lt_two _).mpr h')), if_neg h]

/-! Caps (R418, R424). -/

/-- What a reading of the power leaves, as the rule says it. -/
def Fleet.powered (now : Nat) (f : Fleet) : Fleet :=
  let begins := decide (f.pcap * 1000 < f.pwr) && !f.pcapA
  { f with pwrHot := if f.pcap * 950 ≤ f.pwr then now else f.pwrHot, pcapA := f.pcapA || begins,
           pcapAt := if begins then now else f.pcapAt, capPwr := if begins then f.capPwr + 1 else f.capPwr }

theorem Fleet.powerCap_eq (f : Fleet) (now : Nat) : f.powerCap now = f.powered now := by
  have hbegins : (decide (f.pcap * 1000 < f.pwr) && !f.pcapA) = decide (f.pcap * 1000 < f.pwr ∧ f.pcapA = false) := by simp
  unfold Fleet.powerCap Fleet.powered
  dsimp only
  rw [hbegins]
  by_cases hb : f.pcap * 1000 < f.pwr ∧ f.pcapA = false
  · rw [if_pos hb, decide_eq_true hb, hb.2]
    split <;> rfl
  · rw [if_neg hb, decide_eq_false hb, Bool.or_false]
    split <;> rfl

/-- What a reading of a temperature leaves, as the rule says it. -/
def Fleet.heated (now n t : Nat) (f : Fleet) : Fleet :=
  let above (x : Nat) : Bool := decide (t < 32768 ∧ x < t)
  let begins := decide (n ≤ 4) && above f.tcap && !f.tcapA
  { f with tempHot := if n ≤ 4 ∧ above (f.tcap - 81) = true then now else f.tempHot, tstop := f.tstop || (decide (n < 13) && above 1760),
           tcapA := f.tcapA || begins, capTemp := if begins then f.capTemp + 1 else f.capTemp }

theorem Fleet.heatCap_eq (f : Fleet) (now n t : Nat) : f.heatCap now n t = f.heated now n t := by
  have hbegins : (decide (n ≤ 4) && tempAbove f.tcap t && !f.tcapA) = decide (n ≤ 4 ∧ tempAbove f.tcap t = true ∧ f.tcapA = false) := by
    rw [Bool.and_assoc, Bool.decide_and, Bool.decide_and, Bool.decide_eq_true]
    cases f.tcapA <;> rfl
  unfold Fleet.heatCap Fleet.heated
  dsimp only
  change _ = ({ f with
    tempHot := if n ≤ 4 ∧ tempAbove (f.tcap - 81) t = true then now else f.tempHot, tstop := f.tstop || (decide (n < 13) && tempAbove 1760 t)
    tcapA := f.tcapA || (decide (n ≤ 4) && tempAbove f.tcap t && !f.tcapA)
    capTemp := if (decide (n ≤ 4) && tempAbove f.tcap t && !f.tcapA) = true then f.capTemp + 1 else f.capTemp } : Fleet)
  rw [hbegins]
  by_cases hb : n ≤ 4 ∧ tempAbove f.tcap t = true ∧ f.tcapA = false
  · rw [if_pos hb, decide_eq_true hb, hb.2.2]
    rfl
  · rw [if_neg hb, decide_eq_false hb, Bool.or_false]
    rfl

theorem Fleet.powered_kept (now : Nat) (f : Fleet) : (f.powered now).duty = f.duty := rfl

theorem clampPcap_mod (v : Nat) : clampPcap (v % 65536) = if v % 65536 = 0 then 2400 else max 300 (min 2400 (v % 65536)) := rfl

theorem clampTcap_mod (v : Nat) : clampTcap (v % 65536) = if 32768 ≤ v % 65536 then 1120 else max 1120 (min 1600 (v % 65536)) := by
  unfold clampTcap
  rw [Nat.mod_mod]

theorem State.setPcap_eq (s : State) (v : Nat) : s.setPcap v = { s with fleet := Fleet.powered s.now { s.fleet with
    pcap := if v % 65536 = 0 then 2400 else max 300 (min 2400 (v % 65536)) } } := by
  unfold State.setPcap State.onFleet
  dsimp only
  rw [Fleet.powerCap_eq, clampPcap_mod]

theorem State.setTcap_eq (s : State) (v : Nat) : s.setTcap v = { s with
    fleet := (List.range 5).foldl (fun (f : Fleet) i => f.heated s.now i (nth s.fleet.temp i 0))
      { s.fleet with tcap := if 32768 ≤ v % 65536 then 1120 else max 1120 (min 1600 (v % 65536)) } } := by
  unfold State.setTcap State.onFleet
  dsimp only
  simp only [Fleet.heatCap_eq, clampTcap_mod]

theorem State.readTemp_eq (s : State) (n t : Nat) : s.readTemp n t = { s with
    fleet := Fleet.heated s.now n (t % 65536) { s.fleet with temp := setNth s.fleet.temp n (t % 65536) } } := by
  unfold State.readTemp State.setTemp State.onFleet
  dsimp only
  rw [Fleet.heatCap_eq]

/-- The duty after a tick, in a record that has the duty of another. -/
theorem Fleet.duty_eq {f g : Fleet} (h : g.duty = f.duty) (mw now : Nat) :
    (if f.pcap * 1000 < mw then (if f.pcapA = true ∧ f.pcapAt + tenMs ≤ now then { g with duty := max 4 (f.duty - 1) } else g)
      else if mw < f.pcap * 1000 then { g with duty := min 16 (f.duty + 1) } else g) =
    { g with duty := if f.pcap * 1000 < mw then (if f.pcapA = true ∧ f.pcapAt + 14000000 ≤ now then max 4 (f.duty - 1) else f.duty)
        else if mw < f.pcap * 1000 then min 16 (f.duty + 1) else f.duty } := by
  have hten : tenMs = 14000000 := rfl
  have hsame : { g with duty := f.duty } = g := h ▸ rfl
  rw [hten]
  split
  · split
    · rfl
    · exact hsame.symm
  · split
    · rfl
    · exact hsame.symm

/-- A tick of the duty (R418). -/
theorem execDutyStepTick_eq (s : State) (mw : Nat) : exec (.dutyStepTick mw) s =
    let f := s.fleet
    let g := Fleet.powered s.now { f with
      pwr := mw, energy := f.energy + BitVec.ofNat 64 ((f.energyRest + mw) / 1000), energyRest := (f.energyRest + mw) % 1000 }
    .next { s with fleet := { g with
      duty := if f.pcap * 1000 < mw then (if f.pcapA = true ∧ f.pcapAt + 14000000 ≤ s.now then max 4 (f.duty - 1) else f.duty)
        else if mw < f.pcap * 1000 then min 16 (f.duty + 1) else f.duty } } := by
  change execDutyStepTick mw s = _
  unfold execDutyStepTick State.onFleet
  dsimp only
  rw [Fleet.powerCap_eq]
  exact congrArg (fun g => Host.Outcome.next { s with fleet := g }) (Fleet.duty_eq (f := s.fleet) (Fleet.powered_kept s.now { s.fleet with
    pwr := mw, energy := s.fleet.energy + BitVec.ofNat 64 ((s.fleet.energyRest + mw) / 1000), energyRest := (s.fleet.energyRest + mw) % 1000 }) mw s.now)

/-- The machine after a power cap has ended: a reading that was not below the cap's bound is a free value below it. -/
def State.powerCapEnded (s : State) : State :=
  let most := s.fleet.pcap * 950
  let s1 := s.onFleet fun f => { f with pcapA := false }
  if s.fleet.pwr < most then s1
  else { s1 with draws := s.draws + 1, fleet := { s1.fleet with pwr := (Config.freeValue s.draws).toNat % most } }

/-- The end of a power cap (R418). -/
theorem execPowerCapEnd_spec {s : State} (hcap : s.fleet.pcapA = true) (hover : s.fleet.pwrHot + 14000000 ≤ s.now) :
    let f := s.fleet
    ∃ t, exec .powerCapEnd s = .next t ∧ t.fleet.pcapA = false ∧
      t = { s with draws := t.draws, fleet := { f with pcapA := false, pwr := t.fleet.pwr } } ∧
      (f.pwr < f.pcap * 950 → t.fleet.pwr = f.pwr) ∧ (0 < f.pcap → t.fleet.pwr < f.pcap * 950) := by
  intro f
  have hon : ¬(s.fleet.pcapA = false ∨ s.now < s.fleet.pwrHot + tenMs) :=
    fun h => h.elim (fun h => absurd (hcap.symm.trans h) (by decide)) (Nat.not_lt.mpr hover)
  have hexec : exec .powerCapEnd s = .next s.powerCapEnded := congrArg Host.Outcome.next (if_neg hon)
  refine ⟨_, hexec, ?_⟩
  unfold State.powerCapEnded
  dsimp only
  split
  next hlow => exact ⟨rfl, rfl, fun _ => rfl, fun _ => hlow⟩
  next hhigh => exact ⟨rfl, rfl, fun h => absurd h hhigh, fun hpos => Nat.mod_lt _ (Nat.mul_pos hpos (by decide))⟩

/-! Cooling down (R424). -/

/-- What cooling the sensors of a list leaves. -/
structure Cooled (l : List Nat) (bound : Nat) (s t : State) : Prop where
  frame : t = { s with draws := t.draws, fleet := { s.fleet with temp := t.fleet.temp, tempHot := t.fleet.tempHot } }
  same : ∀ i, i ∉ l ∨ tempAbove (bound - 1) (nth s.fleet.temp i 0) = false → nth t.fleet.temp i 0 = nth s.fleet.temp i 0
  below : ∀ i, i ∈ l → tempAbove (bound - 1) (nth s.fleet.temp i 0) = true → 0 < bound → nth t.fleet.temp i 0 < bound
  hot : (∃ i, i ∈ l ∧ i ≤ 4 ∧ tempAbove (bound - 1) (nth s.fleet.temp i 0) = true ∧ tempAbove (s.fleet.tcap - 81) (nth t.fleet.temp i 0) = true) →
    t.fleet.tempHot = s.now
  cool : (∀ i, i ∈ l → i ≤ 4 → tempAbove (bound - 1) (nth s.fleet.temp i 0) = true → tempAbove (s.fleet.tcap - 81) (nth t.fleet.temp i 0) = false) →
    t.fleet.tempHot = s.fleet.tempHot

/-- One sensor cooled. -/
def State.coolOne (s : State) (bound i : Nat) : State :=
  if tempAbove (bound - 1) (nth s.fleet.temp i 0) then
    let x := (Config.freeValue s.draws).toNat % bound
    { (s.setTemp i x).onFleet fun f => { f with
        tempHot := if i ≤ 4 ∧ tempAbove (f.tcap - 81) (x % 65536) = true then s.now else f.tempHot } with draws := s.draws + 1 }
  else s

theorem tempAbove_iff (bound t : Nat) : tempAbove bound t = true ↔ t < 32768 ∧ bound < t := decide_eq_true_iff

theorem State.coolOne_spec (s : State) (bound i : Nat) : Cooled [i] bound s (s.coolOne bound i) := by
  unfold State.coolOne
  split
  next habove =>
    have hlen : i < s.fleet.temp.length := by
      by_contra hlen
      have hzero : nth s.fleet.temp i 0 = 0 := by rw [nth_eq_getD, List.getElem?_eq_none (Nat.le_of_not_lt hlen)]; rfl
      exact Nat.not_lt_zero _ (hzero ▸ ((tempAbove_iff _ _).mp habove).2)
    set x := (Config.freeValue s.draws).toNat % bound % 65536 with hx
    have hnew : nth (setNth s.fleet.temp i x) i 0 = x := (nth_setNth _ _ _ _ _).trans (if_pos ⟨rfl, hlen⟩)
    refine ⟨rfl, fun j hj => ?_, fun j hj _ hpos => ?_, fun ⟨j, hj, hle, _, hhot⟩ => ?_, fun hcool => ?_⟩
    · refine (nth_setNth _ _ _ _ _).trans (if_neg fun h => ?_)
      rcases hj with hj | hj
      · exact hj (List.mem_singleton.mpr h.1)
      · rw [h.1, habove] at hj
        exact absurd hj (by decide)
    · rw [List.mem_singleton.mp hj]
      exact hnew.trans_lt ((Nat.mod_le _ _).trans_lt (Nat.mod_lt _ hpos))
    · rw [List.mem_singleton.mp hj] at hle hhot
      exact if_pos ⟨hle, (congrArg (tempAbove _) hnew).symm.trans hhot⟩
    · refine if_neg fun h => ?_
      have hno := hcool i (List.mem_singleton.mpr rfl) h.1 habove
      exact absurd ((congrArg (tempAbove _) hnew).symm.trans hno |>.symm.trans h.2) (by decide)
  next hbelow =>
    refine ⟨rfl, fun _ _ => rfl, fun j hj h => ?_, fun ⟨j, hj, _, h, _⟩ => ?_, fun _ => rfl⟩ <;> rw [List.mem_singleton.mp hj] at h <;>
      exact absurd h hbelow

theorem State.coolDown_eq (s : State) (n bound : Nat) : s.coolDown n bound = (List.range n).foldl (fun t i => t.coolOne bound i) s := rfl

/-- Cooling one sensor more. -/
theorem Cooled.snoc {l : List Nat} {bound i : Nat} {s t u : State} (h : Cooled l bound s t) (hi : i ∉ l) (h' : Cooled [i] bound t u) :
    Cooled (l ++ [i]) bound s u := by
  have hnow : t.now = s.now := by rw [h.frame]
  have htcap : t.fleet.tcap = s.fleet.tcap := by rw [h.frame]
  have hti : nth t.fleet.temp i 0 = nth s.fleet.temp i 0 := h.same i (.inl hi)
  have hu {j : Nat} (hj : j ∈ l) : nth u.fleet.temp j 0 = nth t.fleet.temp j 0 :=
    h'.same j (.inl fun hji => hi (List.mem_singleton.mp hji ▸ hj))
  have hmem {j : Nat} (hj : j ∈ l ++ [i]) : j ∈ l ∨ j = i := (List.mem_append.mp hj).imp_right List.mem_singleton.mp
  have hone {P : Nat → Prop} (hP : P i) (j : Nat) (hj : j ∈ [i]) : P j := List.mem_singleton.mp hj ▸ hP
  refine ⟨?_, fun j hj => ?_, fun j hj habove hpos => ?_, fun ⟨j, hj, hle, habove, hhot⟩ => ?_, fun hcool => ?_⟩
  · have hframe := h'.frame
    rw [h.frame] at hframe
    exact hframe
  · have htj : nth t.fleet.temp j 0 = nth s.fleet.temp j 0 := h.same j (hj.imp_left fun hj' hjl => hj' (List.mem_append_left _ hjl))
    refine (h'.same j ?_).trans htj
    rw [htj]
    exact hj.imp_left fun hj' hji => hj' (List.mem_append_right _ hji)
  · rcases hmem hj with hjl | rfl
    · exact (hu hjl).trans_lt (h.below j hjl habove hpos)
    · exact h'.below j (List.mem_singleton.mpr rfl) (hti.symm ▸ habove) hpos
  · rcases hmem hj with hjl | rfl
    · have hthot : t.fleet.tempHot = s.now := h.hot ⟨j, hjl, hle, habove, hu hjl ▸ hhot⟩
      by_cases hihot : i ≤ 4 ∧ tempAbove (bound - 1) (nth t.fleet.temp i 0) = true ∧ tempAbove (t.fleet.tcap - 81) (nth u.fleet.temp i 0) = true
      · exact (h'.hot ⟨i, List.mem_singleton.mpr rfl, hihot⟩).trans hnow
      · refine (h'.cool (hone fun hle' habove' => ?_)).trans hthot
        exact Bool.eq_false_iff.mpr fun hhot' => hihot ⟨hle', habove', hhot'⟩
    · exact (h'.hot ⟨j, List.mem_singleton.mpr rfl, hle, hti.symm ▸ habove, htcap.symm ▸ hhot⟩).trans hnow
  · have hthot : t.fleet.tempHot = s.fleet.tempHot :=
      h.cool fun j hjl hle habove => hu hjl ▸ hcool j (List.mem_append_left _ hjl) hle habove
    refine (h'.cool (hone fun hle habove => ?_)).trans hthot
    rw [htcap]
    exact hcool i (List.mem_append_right _ (List.mem_singleton.mpr rfl)) hle (hti ▸ habove)

theorem State.coolDown_spec (s : State) (bound n : Nat) : Cooled (List.range n) bound s (s.coolDown n bound) := by
  rw [s.coolDown_eq]
  induction n with
  | zero => exact ⟨rfl, fun _ _ => rfl, fun _ h => absurd h List.not_mem_nil, fun ⟨_, h, _⟩ => absurd h List.not_mem_nil, fun _ => rfl⟩
  | succ n ih =>
    rw [List.range_succ, List.foldl_append, List.foldl_cons, List.foldl_nil]
    exact ih.snoc (fun h => Nat.lt_irrefl n (List.mem_range.mp h)) (State.coolOne_spec _ _ _)

/-- The end of the thermal stop (R424). -/
theorem execThermalStopEnd_spec {s : State} (hstop : s.fleet.tstop = true) : ∃ t, exec .thermalStopEnd s = .next t ∧ t.fleet.tstop = false ∧
    t = { s with draws := t.draws, fleet := { s.fleet with tstop := false, temp := t.fleet.temp, tempHot := t.fleet.tempHot } } ∧
    (let hot (i : Nat) : Prop := i ≤ 4 ∧ 1680 ≤ nth s.fleet.temp i 0 ∧ nth s.fleet.temp i 0 < 32768 ∧
        s.fleet.tcap - 81 < nth t.fleet.temp i 0
    ((∃ i, hot i) → t.fleet.tempHot = s.now) ∧ ((∀ i, ¬hot i) → t.fleet.tempHot = s.fleet.tempHot)) ∧
    ∀ i, i < 13 → nth s.fleet.temp i 0 < 1680 ∨ 32768 ≤ nth s.fleet.temp i 0 → nth t.fleet.temp i 0 = nth s.fleet.temp i 0 := by
  have hexec : exec .thermalStopEnd s = .next ((s.coolDown 13 1680).onFleet fun f => { f with tstop := false }) :=
    congrArg Host.Outcome.next (if_neg (by rw [hstop]; decide))
  have hcooled := s.coolDown_spec 1680 13
  generalize s.coolDown 13 1680 = t at hexec hcooled
  have habove (i : Nat) : tempAbove (1680 - 1) (nth s.fleet.temp i 0) = true ↔ nth s.fleet.temp i 0 < 32768 ∧ 1680 ≤ nth s.fleet.temp i 0 :=
    tempAbove_iff _ _
  refine ⟨_, hexec, rfl, ?_, ⟨fun ⟨i, hle, hlow, hhigh, hhot⟩ => ?_, fun hnone => ?_⟩, fun i _ hout => hcooled.same i (.inr ?_)⟩
  · exact congrArg (fun u : State => u.onFleet fun f => { f with tstop := false }) hcooled.frame
  · have hi : i ∈ List.range 13 := List.mem_range.mpr (by omega)
    have hbelow : nth t.fleet.temp i 0 < 1680 := hcooled.below i hi ((habove i).mpr ⟨hhigh, hlow⟩) (by decide)
    exact hcooled.hot ⟨i, hi, hle, (habove i).mpr ⟨hhigh, hlow⟩, (tempAbove_iff _ _).mpr ⟨by omega, hhot⟩⟩
  · refine hcooled.cool fun i _ hle h => Bool.eq_false_iff.mpr fun hhot => hnone i ?_
    obtain ⟨hhigh, hlow⟩ := (habove i).mp h
    exact ⟨hle, hlow, hhigh, ((tempAbove_iff _ _).mp hhot).2⟩
  · refine Bool.eq_false_iff.mpr fun h => ?_
    obtain ⟨hhigh, hlow⟩ := (habove i).mp h
    omega

/-- The end of a temperature cap (R424). -/
theorem execTempCapEnd_spec {s : State} (hcap : s.fleet.tcapA = true) (hover : s.fleet.tempHot + 14000000 ≤ s.now) :
    ∃ t, exec .tempCapEnd s = .next t ∧ t.fleet.tcapA = false ∧
      t = { s with draws := t.draws, fleet := { s.fleet with tcapA := false, temp := t.fleet.temp, tempHot := t.fleet.tempHot } } ∧
      (80 < s.fleet.tcap → t.fleet.tempHot = s.fleet.tempHot) ∧
      ∀ i, 5 ≤ i → nth t.fleet.temp i 0 = nth s.fleet.temp i 0 := by
  have hon : ¬(s.fleet.tcapA = false ∨ s.now < s.fleet.tempHot + tenMs) :=
    fun h => h.elim (fun h => absurd (hcap.symm.trans h) (by decide)) (Nat.not_lt.mpr hover)
  have hexec : exec .tempCapEnd s = .next ((s.coolDown 5 (s.fleet.tcap - 80)).onFleet fun f => { f with tcapA := false }) :=
    congrArg Host.Outcome.next (if_neg hon)
  have hcooled := s.coolDown_spec (s.fleet.tcap - 80) 5
  generalize s.coolDown 5 (s.fleet.tcap - 80) = t at hexec hcooled
  refine ⟨_, hexec, rfl, ?_, fun htcap => ?_, fun i hi => hcooled.same i (.inl fun h => ?_)⟩
  · exact congrArg (fun u : State => u.onFleet fun f => { f with tcapA := false }) hcooled.frame
  · refine hcooled.cool fun i hi _ h => Bool.eq_false_iff.mpr fun hhot => ?_
    have hbelow := hcooled.below i hi h (by omega)
    have habove := ((tempAbove_iff _ _).mp hhot).2
    omega
  · exact absurd (List.mem_range.mp h) (by omega)

/-! The I3C port (R425). -/

section
variable {s : State} (hpower : s.power.removed = false)
include hpower

theorem execI3cPrivateRead_eq {i : Nat} (hi : i < 65536) (hstage : s.sec.stage = 4) :
    exec (.i3cPrivateRead i) s = .next { s with hostRead := natLe (s.telemetry (8 * i)).toNat 8 } := by
  change execI3cPrivateRead i s = _
  unfold execI3cPrivateRead
  dsimp only
  rw [if_neg (by rw [hpower]; decide), if_pos (.inl hstage), Nat.mod_eq_of_lt hi]

theorem execI3cPrivateWrite_eq {i : Nat} (hi : i < 65536) (v : BitVec 64) (hstage : s.sec.stage = 4) : exec (.i3cPrivateWrite i v) s = .next (
    if 8 * i = 0x98 then s.setPcap v.toNat
    else if 8 * i = 0xA0 then s.setTcap v.toNat
    else if 0x2000 ≤ 8 * i ∧ 8 * i < 0x2800 ∧ 8 * i % 16 = 8 then s.setHold ((8 * i - 0x2000) / 16) v.toNat
    else s) := by
  have hup : ¬(s.power.removed = true ∨ s.sec.stage ≠ 4) := by
    rw [hpower, hstage]
    decide
  change execI3cPrivateWrite i v s = _
  unfold execI3cPrivateWrite
  dsimp only
  rw [if_neg hup, Nat.mod_eq_of_lt hi]

theorem execI3cPrivateWrite_hold {c : Nat} (hc : c < 128) (v : BitVec 64) (hstage : s.sec.stage = 4) :
    exec (.i3cPrivateWrite (0x401 + 2 * c) v) s = .next (s.setHold c v.toNat) := by
  rw [execI3cPrivateWrite_eq hpower (by omega) v hstage, if_neg (by omega), if_neg (by omega), if_pos (by omega),
    show (8 * (0x401 + 2 * c) - 0x2000) / 16 = c by omega]

end

/-- Settles O53: R22 and R418 to R425. -/
theorem fleetEvents : Obligations.FleetEvents := by
  unfold Obligations.FleetEvents
  refine ⟨fun s c hce hue => ⟨fun hfew => ?few, fun hmany => ?many, fun stn ctx line hstn hfew => ?line, fun core gslot hcore hfew => ?parity,
      fun place hsram hbind => ?second⟩, fun g hg => Group.restart_spec hg, fun s i place hsram hbind => ⟨rfl, ?other⟩, fun s v => ?writes,
    fun s mw => ?power, fun s n temp i hi => ?heat, fun s => ⟨fun hstop => execThermalStopEnd_spec hstop, fun hoff => ?early,
      fun hcap hover => execTempCapEnd_spec hcap hover⟩, fun s hpower => ?i3c⟩
  case few => exact congrArg Host.Outcome.next (State.countCore_few hfew)
  case many => exact congrArg Host.Outcome.next (State.countCore_many hmany)
  case line =>
    subst hstn
    let u : State := { s with icache := s.icache.filter fun x => x != (stn, ctx, line) }
    refine ⟨u.errorCounted (4 * stn), congrArg Host.Outcome.next (State.countCore_few (s := u) hfew), rfl, fun x => ?_⟩
    exact (List.mem_filter (p := fun x => x != (stn, ctx, line))).trans (and_congr_right' bne_iff_ne)
  case parity =>
    subst hcore
    let one (g : Group) : Group := if g.core = core ∧ g.gslot = gslot then g.restart else g
    let u : State := { s with me := one s.me, groups := s.groups.map one }
    have huid (g : Group) : (one g).uid = g.uid := by
      dsimp only [one]
      split
      · exact g.restart_uid
      · rfl
    exact ⟨u.errorCounted core, congrArg Host.Outcome.next (State.countCore_few (s := u) hfew), rfl, State.resident_map huid rfl rfl⟩
  case second =>
    obtain ⟨marks, hmarks, hexec⟩ := execSoftErrorUncorrectable_eq hsram hbind (.core c)
    exact ⟨_, hexec.trans (congrArg Host.Outcome.next (State.countUe_core (s := { s with poison := marks }) hue)), rfl, hmarks⟩
  case other =>
    obtain ⟨marks, hmarks, hexec⟩ := execSoftErrorUncorrectable_eq hsram hbind (.other i)
    exact ⟨_, hexec, rfl, hmarks⟩
  case writes =>
    refine ⟨fun c hc hquar hblocks hbinds hdrain hbit htakes => ?_, fun d hd htakes => ?_, fun htakes => ?_, fun htakes => ?_⟩
    · let u : State := s.onFleet fun f => { f with hold := setNth f.hold c true }
      have hexec : exec (.eccHoldWrite c v) s = .next (u.quarantine c) :=
        congrArg Host.Outcome.next ((if_neg (Nat.not_le.mpr hc)).trans ((State.regEffect_takes htakes _).trans (if_pos hbit)))
      exact ⟨_, hexec, State.quarantine_idle (s := u) hquar hblocks hbinds hdrain⟩
    · exact congrArg Host.Outcome.next ((if_neg (Nat.not_le.mpr hd)).trans (State.regEffect_takes htakes _))
    · exact congrArg Host.Outcome.next ((State.regEffect_takes htakes _).trans (s.setPcap_eq v.toNat))
    · exact congrArg Host.Outcome.next ((State.regEffect_takes htakes _).trans (s.setTcap_eq v.toNat))
  case power =>
    refine ⟨?_, execDutyStepTick_eq s mw, fun hoff => congrArg Host.Outcome.next (if_pos hoff), fun hcap hover => execPowerCapEnd_spec hcap hover⟩
    exact congrArg (fun f => Host.Outcome.next { s with fleet := f }) (Fleet.powerCap_eq _ _)
  case heat =>
    rcases List.mem_cons.mp hi with rfl | hi
    · exact congrArg Host.Outcome.next (s.readTemp_eq n temp)
    · rw [List.mem_singleton.mp hi]
      exact congrArg Host.Outcome.next (s.readTemp_eq n temp)
  case early => exact congrArg Host.Outcome.next (if_pos hoff)
  case i3c =>
    refine ⟨fun i hi hstage => execI3cPrivateRead_eq hpower hi hstage, fun v hstage => ⟨?_, ?_, fun c hc => ?_⟩, fun hnone => ?_, fun a => ⟨?_, rfl⟩⟩
    · exact (execI3cPrivateWrite_eq hpower (by decide) v hstage).trans (congrArg Host.Outcome.next (if_pos rfl))
    · exact (execI3cPrivateWrite_eq hpower (by decide) v hstage).trans (congrArg Host.Outcome.next ((if_neg (by decide)).trans (if_pos rfl)))
    · exact execI3cPrivateWrite_hold hpower hc v hstage
    · unfold Fleet.i3cAddress
      rw [hnone]
      rfl
    · exact congrArg Host.Outcome.next (if_neg (by rw [hpower]; decide))

end Sys2Proof.Machine
end

section
/-! The statement that nothing is refused (R1, R211). -/

namespace Sys2Proof.Machine

/-! Instructions and events. -/

theorem ite_answers {c : Prop} [Decidable c] {q r : Result} (hq : ∃ t, q = .next t) (hr : ∃ t, r = .next t) :
    ∃ t, (if c then q else r) = .next t := by
  split
  · exact hq
  · exact hr

theorem State.collRead_answers (s : State) (w : LR) (other : Nat → Option (Nat × BitVec 8)) : ∃ t, s.collRead w other = .next t :=
  ite_answers ⟨_, rfl⟩ ⟨_, rfl⟩

theorem State.shuffle_answers (s : State) (w : LR) (f : Nat → Nat → Nat → Nat → Nat → Nat) : ∃ t, s.shuffle w f = .next t := s.collRead_answers w _

theorem execGthr_answers (w : LR) (s : State) : ∃ t, execGthr w s = .next t := s.collRead_answers w _

theorem State.rebin_answers (s : State) (w : LB) (station : Bool) : ∃ t, s.rebin w station = .next t := ite_answers ⟨_, rfl⟩ ⟨_, rfl⟩

/-- A command that enters the operation buffer. -/
theorem State.enterBuffer_answers (s : State) : ∃ t, s.enterBuffer = .next t := by
  unfold State.enterBuffer
  split <;> exact ⟨_, rfl⟩

theorem execOperationBufferAdmit_answers (core gslot : Nat) (s : State) : ∃ t, execOperationBufferAdmit core gslot s = .next t := by
  unfold execOperationBufferAdmit
  split
  next => exact ⟨_, rfl⟩
  next g _ =>
    refine ite_answers ⟨_, rfl⟩ ?_
    obtain ⟨u, hu⟩ := ((s.select g.uid).wakeStation (stationOf core)).1.enterBuffer_answers
    dsimp only
    rw [hu]
    exact ⟨_, rfl⟩

theorem execRegisterWrite_answers (fn off : Nat) (wide : Bool) (value : BitVec 64) (s : State) :
    ∃ t, execRegisterWrite fn off wide value s = .next t := by
  unfold execRegisterWrite
  refine ite_answers ⟨_, rfl⟩ ?_
  split <;> exact ⟨_, rfl⟩

/-- Every instruction and every event answers a next state: those that do not say so in their own words are those that read other lanes,
REBIN, the entry into the operation buffer and the write of a register. -/
theorem exec_answers (i : Instr) (s : State) : ∃ t, exec i s = .next t := by
  cases i
  case shfl w => exact show ∃ t, execShfl w s = .next t from s.shuffle_answers w _
  case shflx w => exact show ∃ t, execShflx w s = .next t from s.shuffle_answers w _
  case shflu w => exact show ∃ t, execShflu w s = .next t from s.shuffle_answers w _
  case shfld w => exact show ∃ t, execShfld w s = .next t from s.shuffle_answers w _
  case gthr w => exact execGthr_answers w s
  case rebinB w => exact s.rebin_answers w false
  case rebinS w => exact s.rebin_answers w true
  case operationBufferAdmit core gslot => exact execOperationBufferAdmit_answers core gslot s
  case registerWrite fn off wide value => exact execRegisterWrite_answers fn off wide value s
  all_goals exact ⟨_, rfl⟩

/-! Turns. -/

theorem issue_answers (s : State) : ∃ t, issue s = .next t := by
  unfold issue
  split
  · exact ⟨_, rfl⟩
  · exact exec_answers _ _
  · exact ite_answers ⟨_, rfl⟩ (exec_answers _ _)

theorem retest_answers (s : State) : ∃ t, retest s = .next t := by
  unfold retest
  split
  · exact ⟨_, rfl⟩
  · exact ⟨_, rfl⟩
  · split
    · exact exec_answers _ _
    · exact ⟨_, rfl⟩

theorem pipeTurn_answers (s : State) (c p : Nat) : ∃ t, pipeTurn s c p = .next t := by
  unfold pipeTurn
  split
  · exact ⟨_, rfl⟩
  · exact ite_answers (issue_answers _) ⟨_, rfl⟩

theorem testGroup_answers (s : State) (uid : Nat) : ∃ t, testGroup s uid = .next t := by
  unfold testGroup
  dsimp only
  obtain ⟨u, hu⟩ := retest_answers
    ((if s.wouldWake uid then s.wakeStation (stationOf (s.retryOf uid).me.core) else (s, 0)).1.retryOf uid)
  rw [hu]
  exact ⟨_, rfl⟩

theorem takeTurn_answers (s : State) (t : Turn) : ∃ u, takeTurn s t = .next u := by
  cases t with
  | event i =>
    unfold takeTurn
    dsimp only
    split
    · exact testGroup_answers _ _
    · exact exec_answers _ _
  | pipe c p => exact pipeTurn_answers s c p
  | retry uid => exact ite_answers (testGroup_answers _ _) ⟨_, rfl⟩
  | array core => exact ⟨_, rfl⟩
  | host a => exact ⟨_, rfl⟩

/-- A step that answers a state stops only where that state has seen memory that does not exist. -/
theorem checkHole_answers (t : State) : (∃ u, checkHole (.next t) = .next u ∧ u.hole = none) ∨ ∃ pa, checkHole (.next t) = .fault (.noMemory pa) := by
  unfold checkHole
  dsimp only
  split
  next pa _ => exact .inr ⟨pa, rfl⟩
  next h => exact .inl ⟨t, rfl, h⟩

/-- Settles O60: R1 and R211. -/
theorem nothingIsRefused : Obligations.NothingIsRefused := by
  unfold Obligations.NothingIsRefused
  refine ⟨exec_answers, fun s => ?_⟩
  unfold step
  split
  next t r _ =>
    obtain ⟨u, hu⟩ := takeTurn_answers (({ s with agenda := r } : State).forTurn t) t
    rw [hu]
    exact checkHole_answers u
  next =>
    obtain ⟨u, hu⟩ := takeTurn_answers (s.atNextTurn.forTurn s.nextTurn.2) s.nextTurn.2
    rw [hu]
    exact checkHole_answers u

end Sys2Proof.Machine
end

section
/-! O56: every step keeps every memory canonical. One lemma per function of the model, in the model's order and under its
headings: a function that answers a state keeps `State.memoriesWf` (`…_wf`), and one that answers a result answers a next state
that keeps it (`…_keeps`). Each follows from the lemmas of the functions called, and at the bottom stand the writes of bytes,
whose form the laws of `Memory` give. -/

namespace Sys2Proof.Machine

-- Elaborated side by side, this many lemmas outgrow the check's memory.
set_option Elab.async false

/-- The answer is a next state, whose memories are in their canonical form when those of `s` are. -/
def Result.Keeps (r : Result) (s : State) : Prop := ∃ t, r = .next t ∧ (s.memoriesWf → t.memoriesWf)

section Shapes
variable {s t : State}

theorem ite_wf {c : Prop} [Decidable c] (hs : s.memoriesWf) (ht : t.memoriesWf) : (if c then s else t).memoriesWf := by
  split <;> assumption

/-- What a fold's operation keeps, the fold keeps. -/
theorem foldl_inv {α β : Type} {P : α → Prop} {f : α → β → α} {l : List β} {a : α} (h : P a) (hf : ∀ a b, P a → P (f a b)) :
    P (l.foldl f a) := List.foldlRecOn l f h fun a ha b _ => hf a b ha

theorem foldl_wf {β : Type} {f : State → β → State} {l : List β} (hs : s.memoriesWf)
    (hf : ∀ u b, u.memoriesWf → (f u b).memoriesWf) : (l.foldl f s).memoriesWf := foldl_inv hs hf

/-- The memories alone count. -/
theorem same (hs : s.memoriesWf) (h₁ : t.hbm = s.hbm := by rfl) (h₂ : t.sysMem = s.sysMem := by rfl)
    (h₃ : t.window = s.window := by rfl) (h₄ : t.sbSram = s.sbSram := by rfl) (h₅ : t.flash = s.flash := by rfl) :
    t.memoriesWf := by
  rw [State.memoriesWf, h₁, h₂, h₃, h₄, h₅]
  exact hs

/-- A write into the window. -/
theorem window_wf (ht : t.memoriesWf) (hs : s.memoriesWf) {off : Nat} {bs : List Byte} :
    State.memoriesWf { t with window := Memory.putBytes s.window off bs } := by
  obtain ⟨hm, hy, -, hb, hf⟩ := ht
  exact ⟨hm, hy, Memory.putBytes_wf hs.2.2.1, hb, hf⟩

theorem next_keeps (h : s.memoriesWf → t.memoriesWf) : Result.Keeps (.next t) s := ⟨t, rfl, h⟩

theorem Result.Keeps.of {r : Result} (hr : Result.Keeps r t) (h : s.memoriesWf → t.memoriesWf) : Result.Keeps r s := by
  obtain ⟨u, hu, hw⟩ := hr
  exact ⟨u, hu, hw ∘ h⟩

theorem ite_keeps {c : Prop} [Decidable c] {q r : Result} (hq : Result.Keeps q s) (hr : Result.Keeps r s) :
    Result.Keeps (if c then q else r) s := by
  split <;> assumption

end Shapes

theorem State.fire_wf {s : State} (hs : s.memoriesWf) {f e : Nat} : (s.fire f e).memoriesWf := by
  unfold State.fire
  exact same hs

theorem State.wakeDies_wf {s : State} (hs : s.memoriesWf) : s.wakeDies.memoriesWf := by
  unfold State.wakeDies
  split
  · exact same hs
  · exact hs

theorem State.logDenial_wf {s : State} (hs : s.memoriesWf) {target master addr : Nat} {k : Access} :
    (s.logDenial target master addr k).memoriesWf := by
  unfold State.logDenial
  exact ite_wf (same hs) (same hs)

/-! The TLBs (R100): unit c below 128 is the TLB of core c, unit 128 + n that of station n's tile translation engine. -/

theorem State.fillTlb_wf {s : State} (hs : s.memoriesWf) {unit c va : Nat} : (s.fillTlb unit c va).memoriesWf := by
  unfold State.fillTlb
  split
  · exact hs
  · split
    · exact hs
    · exact same hs

theorem State.dropTlb_wf {s : State} (hs : s.memoriesWf) {c : Nat} : (s.dropTlb c).memoriesWf := by
  unfold State.dropTlb
  exact same hs

theorem State.onGrid_wf {s : State} (hs : s.memoriesWf) {h : Nat} {f : Grid → Grid} : (s.onGrid h f).memoriesWf := by
  unfold State.onGrid
  exact same hs

theorem State.onBlock_wf {s : State} (hs : s.memoriesWf) {u : Nat} {f : Block → Block} : (s.onBlock u f).memoriesWf := by
  unfold State.onBlock
  exact same hs

theorem State.onCtx_wf {s : State} (hs : s.memoriesWf) {c : Nat} {f : Ctx → Ctx} : (s.onCtx c f).memoriesWf := by
  unfold State.onCtx
  exact same hs

theorem State.fresh_wf {s : State} (hs : s.memoriesWf) : s.fresh.2.memoriesWf := by
  unfold State.fresh
  exact same hs

theorem State.onGroups_wf {s : State} (hs : s.memoriesWf) {f : Group → Group} : (s.onGroups f).memoriesWf := by
  unfold State.onGroups
  exact same hs

theorem State.addEv_wf {s : State} (hs : s.memoriesWf) {h blk station : Nat} {e : Ev} : (s.addEv h blk station e).memoriesWf := by
  unfold State.addEv
  split
  · exact hs
  · extract_lets +onlyGivenNames -underBinder s1 d row add bit fl r1
    have hs1' : s1.memoriesWf := ite_wf (State.onGrid_wf hs) (State.onBlock_wf hs)
    exact same hs1'

theorem State.dropFixes_wf {s : State} (hs : s.memoriesWf) {l : Loc} {n : Nat} : (s.dropFixes l n).memoriesWf := by
  unfold State.dropFixes
  exact ite_wf hs (same hs)

theorem State.clearWords_wf {s : State} (hs : s.memoriesWf) {l : Loc} {b n : Nat} : (s.clearWords l b n).memoriesWf := by
  unfold State.clearWords
  split
  · exact hs
  · exact same hs

theorem State.putWin_wf {s : State} (hs : s.memoriesWf) {off : Nat} {bs : List Byte} : (s.putWin off bs).memoriesWf := by
  obtain ⟨hm, hy, hw, hb, hf⟩ := hs
  have hc := State.clearWords_wf ⟨hm, hy, hw, hb, hf⟩ (l := .sys (2 ^ 60 + off / 8)) (b := off % 8) (n := bs.length)
  exact ⟨hc.1, hc.2.1, Memory.putBytes_wf hw, hc.2.2.2⟩

theorem State.putPhys_wf {s : State} (hs : s.memoriesWf) {sys : Bool} {a : Nat} {bs : List Byte} : (s.putPhys sys a bs).memoriesWf := by
  unfold State.putPhys
  extract_lets t
  have ht : t.memoriesWf := State.clearWords_wf (State.dropFixes_wf hs)
  obtain ⟨hm, hy, hw, hb, hf⟩ := ht
  split
  · exact ⟨hm, Memory.putBytes_wf hs.2.1, hw, hb, hf⟩
  · exact ⟨Memory.putBytes_wf hs.1, hy, hw, hb, hf⟩

theorem State.putAs_wf {s : State} (hs : s.memoriesWf) {master : Nat} {sys : Bool} {a : Nat} {bs : List Byte} :
    (s.putAs master sys a bs).memoriesWf := by
  unfold State.putAs
  exact ite_wf (State.putPhys_wf hs) (State.logDenial_wf hs)

theorem State.readHub_wf {s : State} (hs : s.memoriesWf) {sys : Bool} {a n : Nat} : (s.readHub sys a n).2.memoriesWf := by
  unfold State.readHub
  split
  · exact hs
  · exact State.logDenial_wf hs

theorem State.trace_wf {s : State} (hs : s.memoriesWf) {c stn gslot : Nat} : (s.trace c stn gslot).memoriesWf := by
  unfold State.trace
  split
  · extract_lets +onlyGivenNames -underBinder at_ t
    have ht' : t.memoriesWf := State.putAs_wf hs
    exact same ht'
  · exact hs

theorem State.logEvent_wf {s : State} (hs : s.memoriesWf) {code ctx fd stn arg : Nat} : (s.logEvent code ctx fd stn arg).memoriesWf := by
  unfold State.logEvent
  exact State.fire_wf (same hs)

theorem State.refreshQueue_wf {s : State} (hs : s.memoriesWf) {f n : Nat} : (s.refreshQueue f n).memoriesWf := by
  unfold State.refreshQueue
  extract_lets +onlyGivenNames -underBinder q
  split
  · extract_lets +onlyGivenNames -underBinder c x1
    have hc' : c.2.memoriesWf := State.readHub_wf hs
    have hx1' : x1.memoriesWf := hc'
    exact same hx1'
  · exact hs

theorem State.writeRecord_wf {s : State} (hs : s.memoriesWf) {f : Nat} {r : TrapRec} : (s.writeRecord f r).memoriesWf := by
  unfold State.writeRecord
  extract_lets +onlyGivenNames -underBinder q ph s1 s2
  have hs1' : s1.memoriesWf := State.putAs_wf hs
  have hs2' : s2.memoriesWf := same hs1'
  exact ite_wf (State.fire_wf hs2') hs2'

theorem State.postFatal_wf {s : State} (hs : s.memoriesWf) {f : Nat} {r : TrapRec} : (s.postFatal f r).memoriesWf := by
  unfold State.postFatal
  extract_lets +onlyGivenNames -underBinder s1
  have hs1' : s1.memoriesWf := State.refreshQueue_wf hs
  exact ite_wf (ite_wf (State.logEvent_wf hs1') (State.fire_wf (same hs1'))) (State.writeRecord_wf hs1')

theorem State.postHeld_wf {s : State} (hs : s.memoriesWf) {f h : Nat} {rs : List TrapRec} : (s.postHeld f h rs).memoriesWf := by
  unfold State.postHeld
  extract_lets +onlyGivenNames -underBinder s1
  have hs1' : s1.memoriesWf := State.refreshQueue_wf hs
  exact ite_wf (same hs1') (foldl_wf hs1' fun _ _ hx => State.writeRecord_wf hx)

/-! Waking parked groups. -/

theorem State.wake_wf {s : State} (hs : s.memoriesWf) {f : Group → Bool} : (s.wake f).memoriesWf := by
  unfold State.wake
  exact same hs

theorem State.wakeWaita_wf {s : State} (hs : s.memoriesWf) : s.wakeWaita.memoriesWf := by
  unfold State.wakeWaita
  exact State.wake_wf hs

/-! Groups that wait for a grid (R339). -/

theorem State.endWaits_wf {s : State} (hs : s.memoriesWf) {h : Nat} {f : Group → Option Word → Option (Option Edge)} :
    (s.endWaits h f).memoriesWf := by
  unfold State.endWaits
  exact State.wake_wf (State.onGroups_wf hs)

/-! Teardown of a fault domain (R396). -/

theorem State.askPage_wf {s : State} (hs : s.memoriesWf) {page : Nat} : (s.askPage page).memoriesWf := by
  unfold State.askPage
  exact ite_wf hs (same hs)

theorem State.hubWait_wf {s : State} (hs : s.memoriesWf) {w : HubWait} : (s.hubWait w).memoriesWf := by
  unfold State.hubWait
  extract_lets +onlyGivenNames -underBinder x0
  have hx0' : x0.memoriesWf := State.askPage_wf hs
  exact same hx0'

theorem State.hubWrite_wf {s : State} (hs : s.memoriesWf) {c va : Nat} {bs : List Byte} : (s.hubWrite c va bs).memoriesWf := by
  unfold State.hubWrite
  split
  · exact State.putWin_wf hs
  · exact State.putPhys_wf hs
  · exact State.putPhys_wf hs
  · exact State.logDenial_wf hs
  · exact State.hubWait_wf hs
  · exact hs

theorem State.setGridState_wf {s : State} (hs : s.memoriesWf) {h st reason : Nat} : (s.setGridState h st reason).memoriesWf := by
  unfold State.setGridState
  extract_lets +onlyGivenNames -underBinder g s1
  have hs1' : s1.memoriesWf := State.hubWrite_wf hs
  exact State.onGrid_wf hs1'

theorem State.settle_wf {s : State} (hs : s.memoriesWf) {l : Loc} {bs : List Byte} : (s.settle l bs).memoriesWf := by
  unfold State.settle
  split
  · exact State.putPhys_wf hs
  · exact State.putPhys_wf hs
  · exact hs

theorem State.exchangeWord_wf {s : State} (hs : s.memoriesWf) {c va v : Nat} : (s.exchangeWord c va v).memoriesWf := by
  unfold State.exchangeWord
  extract_lets one
  have hone {t : State} (ht : t.memoriesWf) (l : Loc) (x : Nat) : (one t l x).memoriesWf := by
    dsimp only [one]
    split
    · exact ht
    · exact same (State.settle_wf ht)
  split
  · exact State.putWin_wf hs
  · exact State.clearWords_wf (hone (hone hs _ _) _ _)
  · exact hone (hone hs _ _) _ _
  · exact State.logDenial_wf hs
  · exact State.hubWait_wf hs
  · exact hs

theorem State.completionWord_wf {s : State} (hs : s.memoriesWf) {h : Nat} {good : Bool} : (s.completionWord h good).memoriesWf := by
  unfold State.completionWord
  exact ite_wf hs (State.exchangeWord_wf hs)

theorem releaseRoom_wf {s : State} (hs : s.memoriesWf) {c : Ctx} {i n : Nat} : (releaseRoom c i n s).2.memoriesWf := by
  induction n generalizing i s with
  | zero => exact hs
  | succ n ih =>
    unfold releaseRoom
    dsimp only
    split
    · exact ih (State.readHub_wf hs)
    · exact State.readHub_wf hs

theorem State.releasePages_wf {s : State} (hs : s.memoriesWf) {h : Nat} : (s.releasePages h).memoriesWf := by
  unfold State.releasePages
  extract_lets +onlyGivenNames -underBinder g c pages room n s1 s2
  have hroom' : room.2.memoriesWf := releaseRoom_wf hs
  have hs1' : s1.memoriesWf := foldl_wf hroom' fun _ _ hx => State.putAs_wf hx
  have hs2' : s2.memoriesWf := State.onCtx_wf hs1'
  exact State.onGrid_wf hs2'

theorem State.releaseCores_wf {s : State} (hs : s.memoriesWf) : s.releaseCores.memoriesWf := by
  unfold State.releaseCores
  exact same hs

theorem State.dropAtom_wf {s : State} (hs : s.memoriesWf) {live dead deadBlocks : List Nat} {a : AtomWord} :
    (s.dropAtom live dead deadBlocks a).memoriesWf := by
  unfold State.dropAtom
  split
  · exact ite_wf hs (same hs)
  · exact ite_wf (State.settle_wf hs) (same hs)

theorem State.dropFills_wf {s : State} (hs : s.memoriesWf) : s.dropFills.memoriesWf := by
  unfold State.dropFills
  exact same hs

theorem State.leaveBytes_wf {s : State} (hs : s.memoriesWf) {p : Party} : (s.leaveBytes p).memoriesWf := by
  unfold State.leaveBytes
  exact foldl_wf hs fun _ _ hx => State.settle_wf hx

theorem State.tornViews_wf {s : State} (hs : s.memoriesWf) {h : Nat} : (s.tornViews h).memoriesWf := by
  unfold State.tornViews
  extract_lets +onlyGivenNames -underBinder g s1
  have hs1' : s1.memoriesWf := foldl_wf hs fun _ _ hx => ite_wf hx (State.settle_wf hx)
  exact foldl_wf hs1' fun _ _ hx => State.leaveBytes_wf hx

theorem State.endHandles_wf {s : State} (hs : s.memoriesWf) {l : List Nat} {good : Bool} : (s.endHandles l good).memoriesWf := hs

theorem State.teardown_wf {s : State} (hs : s.memoriesWf) {d : Nat} : (s.teardown d).memoriesWf := by
  unfold State.teardown
  extract_lets +onlyGivenNames -underBinder dead deadBlocks live keep s0 s1 s2 s3
  have hs0' : s0.memoriesWf := foldl_wf hs fun _ _ hx => State.tornViews_wf hx
  have hs1' : s1.memoriesWf := same hs0'
  have hs2' : s2.memoriesWf := State.endHandles_wf (State.dropFills_wf (foldl_wf hs1' fun _ _ hx => State.dropAtom_wf hx))
  have hs3' : s3.memoriesWf := foldl_wf hs2' fun _ _ hx => State.endWaits_wf (State.completionWord_wf (State.setGridState_wf
    (State.releasePages_wf hx)))
  exact State.releaseCores_wf hs3'

theorem State.takeFatal_wf {s : State} (hs : s.memoriesWf) {r : TrapRec} : (s.takeFatal r).memoriesWf := by
  unfold State.takeFatal
  exact State.teardown_wf (State.postFatal_wf (State.trace_wf hs))

theorem State.takeReplayable_wf {s : State} (hs : s.memoriesWf) {parts : List (Nat × Nat × Nat × BitVec 32)} {grow : List (Nat × Bool ×
    Nat)} :
    (s.takeReplayable parts grow).memoriesWf := by
  unfold State.takeReplayable
  extract_lets +onlyGivenNames -underBinder g base all tid
  split
  · exact State.takeFatal_wf hs
  · extract_lets +onlyGivenNames -underBinder tk mk recs held s1
    have hs1' : s1.memoriesWf := same hs
    exact State.postHeld_wf (State.trace_wf hs1')

theorem State.takeResumable_wf {s : State} (hs : s.memoriesWf) {cause pc code : Nat} : (s.takeResumable cause pc code).memoriesWf := by
  unfold State.takeResumable
  extract_lets +onlyGivenNames -underBinder g tk _ r held s1 s2
  have hs1' : s1.memoriesWf := same hs
  have hs2' : s2.memoriesWf := State.postHeld_wf (State.trace_wf hs1')
  exact ite_wf (State.fire_wf hs2') hs2'

theorem State.takeTrap_wf {s : State} (hs : s.memoriesWf) {cause : Nat} {lanes : BitVec 32} {va kv off : Nat} :
    (s.takeTrap cause lanes va kv off).memoriesWf := by
  unfold State.takeTrap
  split
  · exact State.takeReplayable_wf hs
  · split
    · exact State.takeResumable_wf hs
    · exact State.takeFatal_wf hs

theorem State.trapAll_wf {s : State} (hs : s.memoriesWf) {cause va : Nat} : (s.trapAll cause va).memoriesWf := by
  unfold State.trapAll
  exact State.takeTrap_wf hs

theorem State.waitPri_wf {s : State} (hs : s.memoriesWf) {page : Nat} {lanes : BitVec 32} {va : Nat} :
    (s.waitPri page lanes va).memoriesWf := by
  unfold State.waitPri
  extract_lets +onlyGivenNames -underBinder g h t
  have ht' : t.memoriesWf := State.trace_wf hs
  exact same ht'

theorem State.xlatTrap_wf {s : State} (hs : s.memoriesWf) {x : Xlat} {k : Access} {master : Nat} {lanes : BitVec 32} {va : Nat} :
    (s.xlatTrap x k master lanes va).memoriesWf := by
  unfold State.xlatTrap
  split
  · exact hs
  · exact State.takeTrap_wf hs
  · exact State.takeFatal_wf hs
  · exact State.takeTrap_wf hs
  · exact State.takeTrap_wf (State.logDenial_wf hs)
  · exact same hs
  · exact State.takeTrap_wf hs
  · exact State.waitPri_wf hs

theorem State.onMe_wf {s : State} (hs : s.memoriesWf) {f : Group → Group} : (s.onMe f).memoriesWf := by
  unfold State.onMe
  exact same hs

/-! Poison in registers (R421). -/

theorem State.clearV_wf {s : State} (hs : s.memoriesWf) {act : BitVec 32} {d n : Nat} : (s.clearV act d n).memoriesWf := by
  unfold State.clearV
  exact ite_wf hs (same hs)

theorem State.clearK_wf {s : State} (hs : s.memoriesWf) {d n : Nat} : (s.clearK d n).memoriesWf := by
  unfold State.clearK
  exact ite_wf hs (same hs)

/-! The end of an instruction. -/

theorem State.occupy_wf {s : State} (hs : s.memoriesWf) {n : Nat} : (s.occupy n).memoriesWf := by
  unfold State.occupy
  exact same hs

theorem State.advance_wf {s : State} (hs : s.memoriesWf) {words occ : Nat} : (s.advance words occ).memoriesWf := by
  unfold State.advance
  exact State.onMe_wf (State.occupy_wf hs)

theorem State.switchAt_wf {s : State} (hs : s.memoriesWf) {pc : Dword} {occ ready : Nat} : (s.switchAt pc occ ready).memoriesWf := by
  unfold State.switchAt
  exact State.onMe_wf (State.occupy_wf hs)

theorem State.switchTo_wf {s : State} (hs : s.memoriesWf) {pc : Dword} {occ lat : Nat} : (s.switchTo pc occ lat).memoriesWf := by
  unfold State.switchTo
  exact State.switchAt_wf hs

theorem State.switch_wf {s : State} (hs : s.memoriesWf) {words occ lat : Nat} : (s.switch words occ lat).memoriesWf := by
  unfold State.switch
  exact State.switchTo_wf hs

theorem State.parkMe_wf {s : State} (hs : s.memoriesWf) {why : Park} {occ : Nat} : (s.parkMe why occ).memoriesWf := by
  unfold State.parkMe
  extract_lets +onlyGivenNames -underBinder t
  have ht' : t.memoriesWf := ite_wf hs (State.occupy_wf hs)
  exact State.onMe_wf (ite_wf ht' (State.trace_wf ht'))

/-! Lane instructions as a whole. -/

theorem State.laneRun_keeps {s : State} {l : Option Lxc} {srcs : List (BitVec 8 × Nat)} {k : BitVec 32 → State}
    (hk : ∀ m, s.memoriesWf → (k m).memoriesWf) : Result.Keeps (s.laneRun l srcs k) s :=
  next_keeps fun hs => ite_wf (hk _ hs) (State.takeTrap_wf hs)

theorem State.laneWord_keeps {s : State} {l : Option Lxc} {d : BitVec 7} {n : BitVec 1} {words : Nat} {srcs : List (BitVec 8 × Nat)} {f :
    Nat → Thread → Word} :
    Result.Keeps (s.laneWord l d n words srcs f) s := by
  unfold State.laneWord
  exact State.laneRun_keeps fun _ hs => State.advance_wf (State.onMe_wf hs)

theorem State.lanePair_keeps {s : State} {l : Option Lxc} {d : BitVec 7} {n : BitVec 1} {words : Nat} {srcs : List (BitVec 8 × Nat)} {f :
    Nat → Thread → Dword} :
    Result.Keeps (s.lanePair l d n words srcs f) s := by
  unfold State.lanePair
  exact State.laneRun_keeps fun _ hs => State.advance_wf (State.onMe_wf (State.clearV_wf hs))

theorem State.lanePred_keeps {s : State} {l : Option Lxc} {p words : Nat} {srcs : List (BitVec 8 × Nat)} {f : Nat → Thread → Bool} :
    Result.Keeps (s.lanePred l p words srcs f) s := by
  unfold State.lanePred
  exact State.laneRun_keeps fun _ hs => State.advance_wf (State.onMe_wf hs)

theorem State.lane1_keeps {s : State} {w : LR} {f : Word → Word} : Result.Keeps (s.lane1 w f) s := by
  unfold State.lane1
  exact State.laneWord_keeps

theorem State.lane2_keeps {s : State} {w : LR} {f : Word → Word → Word} : Result.Keeps (s.lane2 w f) s := by
  unfold State.lane2
  exact State.laneWord_keeps

theorem State.lane3_keeps {s : State} {w : LR} {f : Word → Word → Word → Word} : Result.Keeps (s.lane3 w f) s := by
  unfold State.lane3
  exact State.laneWord_keeps

theorem State.laneImm_keeps {s : State} {w : LI} {f : Word → Word → Word} : Result.Keeps (s.laneImm w f) s := by
  unfold State.laneImm
  exact State.laneWord_keeps

theorem State.laneCmp_keeps {s : State} {w : LR} {u : Bool} : Result.Keeps (s.laneCmp w u) s := by
  unfold State.laneCmp
  exact State.lanePred_keeps

/-! Uniform operands. -/

theorem State.uniRun_keeps {s : State} {k : Option Kx} {srcs : List (Nat × Nat)} {isSwitch : Bool} {f : State}
    (hf : s.memoriesWf → f.memoriesWf) : Result.Keeps (s.uniRun k srcs isSwitch f) s :=
  next_keeps fun hs => ite_wf (ite_wf (State.switch_wf hs) (State.advance_wf hs)) (ite_wf (State.takeTrap_wf hs) (hf hs))

theorem State.uniCalc_keeps {s : State} {k : Option Kx} {srcs : List (Nat × Nat)} {f : Group → Group} :
    Result.Keeps (s.uniCalc k srcs f) s := by
  unfold State.uniCalc
  exact State.uniRun_keeps fun hs => State.advance_wf (State.onMe_wf hs)

theorem State.uni2_keeps {s : State} {w : UR} {f : Word → Word → Word} : Result.Keeps (s.uni2 w f) s := by
  unfold State.uni2
  exact State.uniCalc_keeps

theorem State.select_wf {s : State} (hs : s.memoriesWf) {uid : Nat} : (s.select uid).memoriesWf := by
  unfold State.select
  refine ite_wf hs ?_
  split
  · exact hs
  · exact same hs

theorem State.startFill_wf {s : State} (hs : s.memoriesWf) {stn line : Nat} : (s.startFill stn line).memoriesWf := by
  unfold State.startFill
  exact ite_wf hs (same hs)

theorem State.fetchMiss_wf {s : State} (hs : s.memoriesWf) {line : Nat} : (s.fetchMiss line).memoriesWf := by
  unfold State.fetchMiss
  extract_lets +onlyGivenNames -underBinder stn s1 x2
  have hs1' : s1.memoriesWf := State.startFill_wf hs
  have hx2' : x2.memoriesWf := State.onMe_wf hs1'
  exact same hx2'

theorem State.fetchFault_wf {s : State} (hs : s.memoriesWf) {x : Xlat} {va : Nat} : (s.fetchFault x va).memoriesWf := by
  unfold State.fetchFault
  extract_lets +onlyGivenNames -underBinder t
  have ht' : t.memoriesWf := State.xlatTrap_wf hs
  split
  · exact State.onMe_wf ht'
  · exact ht'

theorem State.poolPage_wf {s : State} (hs : s.memoriesWf) {h pa : Nat} {t : State} (ht : s.poolPage h = some (pa, t)) : t.memoriesWf := by
  unfold State.poolPage at ht
  dsimp only at ht
  split at ht
  · cases ht
  · cases ht
    exact State.onGrid_wf (State.onCtx_wf (State.readHub_wf hs))

theorem State.privTable_wf {s : State} (hs : s.memoriesWf) {h pa : Nat} {t : State} (ht : s.privTable h = some (pa, t)) : t.memoriesWf := by
  unfold State.privTable at ht
  split at ht
  · cases ht
    exact State.onGrid_wf hs
  · split at ht
    next hp =>
      cases ht
      exact State.onGrid_wf (State.poolPage_wf hs hp)
    next => cases ht

theorem State.privWalk_wf {s : State} (hs : s.memoriesWf) {h key fuel table : Nat} : (s.privWalk h key fuel table).2.memoriesWf := by
  induction fuel generalizing s table with
  | zero => exact hs
  | succ fuel ih =>
    unfold State.privWalk
    dsimp only
    split
    · exact hs
    split
    · split
      · exact hs
      · exact ih hs
    split
    · split
      next hp => exact State.putAs_wf (State.poolPage_wf hs hp)
      next => exact hs
    · split
      next hp => exact ih (State.putAs_wf (State.privTable_wf hs hp))
      next => exact hs

theorem State.privPlace_wf {s : State} (hs : s.memoriesWf) {h tid off : Nat} : (s.privPlace h tid off).2.memoriesWf := by
  unfold State.privPlace
  split
  · exact State.privWalk_wf hs
  · split
    next hp => exact State.privWalk_wf (State.onGrid_wf (State.privTable_wf hs hp))
    next => exact hs

/-! The core's TLB holds the translations of threads' own memory too (R100). -/

theorem State.fillPriv_wf {s : State} (hs : s.memoriesWf) {h key pa : Nat} : (s.fillPriv h key pa).memoriesWf := by
  unfold State.fillPriv
  split
  · exact hs
  · exact same hs

theorem State.privPage_wf {s : State} (hs : s.memoriesWf) {h tid off : Nat} : (s.privPage h tid off).2.memoriesWf := by
  unfold State.privPage
  dsimp only
  split
  · exact hs
  · have hp := State.privPlace_wf hs (h := h) (tid := tid) (off := off)
    split
    next hu => rw [hu] at hp; exact State.fillPriv_wf hp
    next => exact hp

theorem State.privAccess_wf {s : State} (hs : s.memoriesWf) {h : Nat} {t : Thread} {off n : Nat} {save : Bool} {k : Access} :
    (s.privAccess h t off n save k).2.memoriesWf := by
  have hp := State.privPage_wf hs (h := h) (tid := t.tid.toNat) (off := off)
  unfold State.privAccess
  extract_lets inside cap ok
  split
  · split
    next hu =>
      rw [hu] at hp
      split
      · exact hp
      · exact hs
    next hu => rw [hu] at hp; exact hp
  · split
    · exact hs
    · exact hs

theorem State.privGrow_wf {s : State} (hs : s.memoriesWf) {fatal : Bool} {parts : List (Nat × Nat × BitVec 32)} {grow : List (Nat × Bool ×
    Nat)} :
    (s.privGrow fatal parts grow).memoriesWf := by
  unfold State.privGrow
  split
  · extract_lets +onlyGivenNames -underBinder p
    exact State.takeFatal_wf hs
  · exact State.takeReplayable_wf hs

/-! The stack of hardware saves (R96). -/

theorem State.saveBytes_wf {s : State} (hs : s.memoriesWf) {h : Nat} {t : Thread} {off : Nat} {bs : List Byte} :
    (s.saveBytes h t off bs).2.memoriesWf := by
  unfold State.saveBytes
  refine foldl_inv (P := fun p : _ × State => p.2.memoriesWf) hs fun a c ha => ?_
  split
  · have hp := State.privAccess_wf ha (h := h) (t := t) (off := c.1) (n := c.2) (save := true) (k := .write)
    split
    next hu => rw [hu] at hp; exact State.putPhys_wf hp
    next => exact hp
  · exact ha

theorem State.savedBytes_wf {s : State} (hs : s.memoriesWf) {h : Nat} {t : Thread} {off n : Nat} :
    (s.savedBytes h t off n).2.2.memoriesWf := by
  unfold State.savedBytes
  refine foldl_inv (P := fun p : _ × _ × State => p.2.2.memoriesWf) hs fun a c ha => ?_
  split
  · have hp := State.privAccess_wf ha (h := h) (t := t) (off := c.1) (n := c.2) (save := true) (k := .read)
    split
    next hu => rw [hu] at hp; exact hp
    next hu => rw [hu] at hp; exact hp
  · exact ha

theorem State.saveTrap_wf {s : State} (hs : s.memoriesWf) {x : Xlat} {off : Nat} : (s.saveTrap x off).memoriesWf := by
  unfold State.saveTrap
  split
  · exact State.privGrow_wf hs
  · exact State.privGrow_wf hs
  · exact State.xlatTrap_wf hs

theorem State.ifStays_wf {t : State} (hs : t.memoriesWf) {uid : Nat} {f : State → State} (hf : t.memoriesWf → (f t).memoriesWf) :
    (t.ifStays uid f).memoriesWf := ite_wf (hf hs) hs

/-! DEFINITION. Control flow and the divergence stack (R24, R25, R297 to R300), with the spill of its oldest entries. -/

theorem State.unspill_wf {s : State} (hs : s.memoriesWf) : s.unspill.memoriesWf := by
  unfold State.unspill
  dsimp only
  split
  next e r _ =>
    split
    · have hp := State.savedBytes_wf hs (h := s.me.grid) (t := s.me.thread 0) (off := e.spill) (n := 64)
      split
      next hu => rw [hu] at hp; exact State.onMe_wf hp
      next hu => rw [hu] at hp; exact State.saveTrap_wf hp
    · exact hs
  next => exact hs

theorem execBra_keeps {s : State} {w : UB} : Result.Keeps (execBra w s) s := by
  unfold execBra
  exact next_keeps fun hs => State.switchTo_wf hs

theorem execCall_keeps {s : State} {w : UB} : Result.Keeps (execCall w s) s := by
  unfold execCall
  exact next_keeps fun hs => ite_wf (State.switchTo_wf (State.onMe_wf (State.clearK_wf hs))) (State.switchTo_wf hs)

theorem execBrd_keeps {s : State} {w : UB} : Result.Keeps (execBrd w s) s := by
  unfold execBrd
  exact next_keeps fun hs => ite_wf (State.switchTo_wf hs) (ite_wf (State.switchTo_wf hs) (State.switchTo_wf (State.onMe_wf hs)))

theorem State.pushEntry_wf {s : State} (hs : s.memoriesWf) {e : DivEntry} : (s.pushEntry e).2.memoriesWf := by
  unfold State.pushEntry
  extract_lets g t0 off i oldest
  split
  · exact State.onMe_wf hs
  · have hp := State.saveBytes_wf hs (h := g.grid) (t := t0) (off := off) (bs := oldest.image)
    split
    next hu => rw [hu] at hp; exact State.onMe_wf hp
    next hu => rw [hu] at hp; exact hp

theorem execSyn_keeps {s : State} {w : UB} : Result.Keeps (execSyn w s) s := by
  refine next_keeps fun hs => ite_wf (State.switchTo_wf hs) ?_
  have hp := State.pushEntry_wf hs (e := ⟨s.target w, s.me.cur, [], none, 0⟩)
  dsimp only
  split
  next hu => rw [hu] at hp; exact State.switchTo_wf hp
  next => exact State.privGrow_wf (State.occupy_wf hs)
  next => exact State.privGrow_wf hs
  next => exact State.xlatTrap_wf hs

theorem execJoin_keeps {s : State} {w : UC} : Result.Keeps (execJoin w s) s := by
  unfold execJoin
  exact State.uniRun_keeps fun hs => State.ifStays_wf (State.unspill_wf (State.onMe_wf hs)) fun hx => State.switchTo_wf hx

theorem State.jumpTo_wf {s : State} (hs : s.memoriesWf) {target : Dword} {f : State → State} (hf : s.memoriesWf → (f s).memoriesWf) :
    (s.jumpTo target f).memoriesWf :=
  ite_wf (State.trapAll_wf hs) (ite_wf (State.trapAll_wf hs) (State.switchTo_wf (hf hs)))

theorem execJmpr_keeps {s : State} {w : UC} : Result.Keeps (execJmpr w s) s := by
  unfold execJmpr
  exact State.uniRun_keeps fun hs => State.jumpTo_wf hs fun hx => hx

theorem execRet_keeps {s : State} {w : UC} : Result.Keeps (execRet w s) s := by
  unfold execRet
  exact State.uniRun_keeps fun hs => State.jumpTo_wf hs fun hx => hx

theorem execCallr_keeps {s : State} {w : UC} : Result.Keeps (execCallr w s) s := by
  unfold execCallr
  exact State.uniRun_keeps fun hs => State.jumpTo_wf hs fun hx => State.onMe_wf (State.clearK_wf hx)

/-! Edges. -/

theorem State.settleWhere_wf {s : State} (hs : s.memoriesWf) {e : Edge} {chosen : Loc → Bool} : (s.settleWhere e chosen).memoriesWf := by
  unfold State.settleWhere
  exact same hs

theorem State.settleEdge_wf {s : State} (hs : s.memoriesWf) {e : Edge} : (s.settleEdge e).memoriesWf := by
  unfold State.settleEdge
  exact State.settleWhere_wf hs

theorem State.settleFor_wf {s : State} (hs : s.memoriesWf) {e : Edge} {ps : List Party} : (s.settleFor e ps).memoriesWf := by
  unfold State.settleFor
  exact State.settleWhere_wf hs

theorem State.foldSent_wf {s : State} (hs : s.memoriesWf) {ss : List Sender} : (s.foldSent ss).memoriesWf := by
  unfold State.foldSent
  exact same hs

theorem State.sendLanes_wf {s : State} (hs : s.memoriesWf) {m : BitVec 32} : (s.sendLanes m).2.memoriesWf := by
  unfold State.sendLanes
  exact State.onMe_wf (State.settleEdge_wf hs)

theorem State.publishLanes_wf {s : State} (hs : s.memoriesWf) {m : BitVec 32} : (s.publishLanes m).2.memoriesWf := by
  unfold State.publishLanes
  exact State.onMe_wf hs

theorem State.receiveLanes_wf {s : State} (hs : s.memoriesWf) {m : BitVec 32} {e : Edge} : (s.receiveLanes m e).memoriesWf := by
  unfold State.receiveLanes
  exact State.onMe_wf (State.settleFor_wf hs)

theorem State.receiveShared_wf {s : State} (hs : s.memoriesWf) {m : BitVec 32} {e : Edge} : (s.receiveShared m e).2.memoriesWf := by
  unfold State.receiveShared
  exact State.onMe_wf (State.settleWhere_wf hs)

/-! Copy completions that are observed (R114). -/

theorem State.observe_wf {s : State} (hs : s.memoriesWf) {l : Loc} {v : Word} {m : BitVec 32} : (s.observe l v m).memoriesWf := by
  unfold State.observe
  exact foldl_wf hs fun _ _ hx => State.foldSent_wf (State.receiveLanes_wf hx)

theorem State.observeAll_wf {s : State} (hs : s.memoriesWf) {ws : List (Loc × Word)} {m : BitVec 32} : (s.observeAll ws m).memoriesWf := by
  unfold State.observeAll
  exact foldl_wf hs fun _ _ hx => State.observe_wf hx

theorem State.forgetWord_wf {s : State} (hs : s.memoriesWf) {l : Loc} : (s.forgetWord l).memoriesWf := by
  unfold State.forgetWord
  exact same hs

theorem State.forgetWindow_wf {s : State} (hs : s.memoriesWf) {off n : Nat} : (s.forgetWindow off n).memoriesWf := by
  unfold State.forgetWindow
  exact foldl_wf hs fun _ _ hx => State.forgetWord_wf hx

/-! Atomic state. -/

theorem State.setAtom_wf {s : State} (hs : s.memoriesWf) {h : Nat} {l : Loc} {d : Holder} {v : Word} : (s.setAtom h l d v).memoriesWf := by
  unfold State.setAtom
  exact same hs

theorem State.atomWrite_wf {s : State} (hs : s.memoriesWf) {h : Nat} {l : Loc} {size : Nat} {d : Holder} {v : Dword} :
    (s.atomWrite h l size d v).memoriesWf := by
  unfold State.atomWrite
  split
  · exact State.setAtom_wf (State.setAtom_wf hs)
  · exact State.setAtom_wf hs

theorem State.clearMem_wf {s : State} (hs : s.memoriesWf) {t : Target} {n : Nat} : (s.clearMem t n).memoriesWf := by
  unfold State.clearMem
  exact ite_wf hs (same hs)

theorem State.checkPriv_wf {s : State} (hs : s.memoriesWf) {t : Thread} {off n : Nat} {k : Access} :
    (s.checkPriv t off n k).2.memoriesWf := by
  unfold State.checkPriv
  split
  · exact hs
  · split
    · exact hs
    · extract_lets +onlyGivenNames -underBinder r inside
      have hr' : r.2.memoriesWf := State.privAccess_wf hs
      exact hr'

theorem State.dropHubWords_wf {s : State} (hs : s.memoriesWf) {h : Nat} {l : Loc} {n : Nat} : (s.dropHubWords h l n).memoriesWf := by
  unfold State.dropHubWords
  exact ite_wf hs (same hs)

theorem State.storeBytes_wf {s : State} (hs : s.memoriesWf) {h : Nat} {p : Party} {t : Target} {bs : List Byte} :
    (s.storeBytes h p t bs).2.memoriesWf := by
  unfold State.storeBytes
  extract_lets s1
  have h1 : s1.memoriesWf := State.clearMem_wf hs
  split
  · next off =>
    obtain ⟨hm, hy, _, hb, hf⟩ := State.forgetWindow_wf h1 (off := off) (n := bs.length)
    exact ⟨hm, hy, Memory.putBytes_wf h1.2.2.1, hb, hf⟩
  · exact State.putPhys_wf h1
  · exact h1
  · split
    · exact State.dropHubWords_wf (State.dropFixes_wf h1)
    · exact h1

theorem State.recordSpad_wf {s : State} (hs : s.memoriesWf) {c : Nat} {wr : Bool} {off : Nat} {blk : Word} :
    (s.recordSpad c wr off blk).memoriesWf := by
  unfold State.recordSpad
  exact State.onCtx_wf hs

theorem State.putOp_wf {s : State} (hs : s.memoriesWf) {o : Op} : (s.putOp o).memoriesWf := by
  unfold State.putOp
  exact same hs

/-! The version log (R391). -/

theorem State.linkLog_wf {s : State} (hs : s.memoriesWf) {h va need fuel : Nat} : (s.linkLog h va need fuel).2.memoriesWf := by
  induction fuel generalizing s with
  | zero => exact hs
  | succ fuel ih =>
    unfold State.linkLog
    dsimp only
    split
    · exact hs
    split
    · exact hs
    split
    next hp => exact ih (State.onGrid_wf (State.poolPage_wf hs hp))
    next => exact hs

theorem State.growLog_wf {s : State} (hs : s.memoriesWf) {h va pending : Nat} : (s.growLog h va pending).2.memoriesWf := by
  unfold State.growLog
  exact State.linkLog_wf hs

theorem State.vlogRoom_wf {s : State} (hs : s.memoriesWf) {h va : Nat} : (s.vlogRoom h va).2.memoriesWf := by
  unfold State.vlogRoom
  exact State.growLog_wf hs

theorem State.logRoom_wf {s : State} (hs : s.memoriesWf) {h va : Nat} {writes : Bool} : (s.logRoom h va writes).2.memoriesWf := by
  unfold State.logRoom
  split
  · exact State.vlogRoom_wf hs
  · exact hs

/-! How the lanes of an instruction finish (R282). -/

theorem State.logStops_wf {s : State} (hs : s.memoriesWf) {k : Access} {outs : List (Nat × Check)} : (s.logStops k outs).memoriesWf := by
  unfold State.logStops
  refine foldl_wf hs fun _ _ hx => ?_
  split
  · exact State.logDenial_wf hx
  · exact hx

theorem State.finishParts_wf {s : State} (hs : s.memoriesWf) {k : Access} {outs : List (Nat × Check)}
    {parts : List (Nat × Nat × Nat × BitVec 32)} {done : State} (hd : done.memoriesWf) : (s.finishParts k outs parts done).memoriesWf := by
  unfold State.finishParts
  extract_lets +onlyGivenNames holes stops pris waits u
  have hu : u.memoriesWf := State.occupy_wf hs
  clear_value holes stops pris waits
  split
  · exact hs
  split
  · exact State.takeFatal_wf (State.logStops_wf hu)
  split
  · exact State.waitPri_wf hu
  split
  · exact State.takeReplayable_wf hu
  · exact hd

theorem State.finishLanes_wf {s : State} (hs : s.memoriesWf) {k : Access} {outs : List (Nat × Check)} {key : Nat → Nat → Nat}
    {done : State} (hd : done.memoriesWf) : (s.finishLanes k outs key done).memoriesWf := State.finishParts_wf hs hd

theorem State.fillLanes_wf {s : State} (hs : s.memoriesWf) {va : Nat → Nat} {outs : List (Nat × Check)} :
    (s.fillLanes va outs).memoriesWf := by
  unfold State.fillLanes
  refine foldl_wf hs fun _ _ hx => ?_
  split
  · exact State.fillTlb_wf hx
  · exact hx

theorem State.setParty_wf {s : State} (hs : s.memoriesWf) {i : Nat} {p : Party} : (s.setParty i p).memoriesWf := by
  unfold State.setParty
  exact State.onMe_wf hs

/-! Where threads are. -/

theorem State.onThreads_wf {s : State} (hs : s.memoriesWf) {h : Nat} {f : Thread → Thread} : (s.onThreads h f).memoriesWf := by
  unfold State.onThreads
  exact State.onGroups_wf hs

/-! Placement. -/

theorem State.claimCore_wf {s : State} (hs : s.memoriesWf) {core : Nat} {w : Word} : (s.claimCore core w).memoriesWf := by
  unfold State.claimCore
  exact ite_wf hs (same hs)

theorem State.install_wf {s : State} (hs : s.memoriesWf) {g : Group} {core pipe ready : Nat} :
    (s.install g core pipe ready).memoriesWf := by
  unfold State.install
  extract_lets +onlyGivenNames -underBinder gs g1 x2
  have hx2' : x2.memoriesWf := State.claimCore_wf hs
  exact same hx2'

/-! The turntable (R51). -/

theorem State.cross_wf {s : State} (hs : s.memoriesWf) {core : Nat} {out : Bool} {start words : Nat} :
    (s.cross core out start words).2.memoriesWf := by
  unfold State.cross
  split
  · exact hs
  · exact same hs

theorem State.letIn_wf {s : State} (hs : s.memoriesWf) {i : Nat} : (s.letIn i).memoriesWf := by
  unfold State.letIn
  split
  · exact hs
  · split
    · exact hs
    · split
      · extract_lets +onlyGivenNames -underBinder x
        have hx' : x.2.memoriesWf := State.cross_wf hs
        exact State.install_wf (same hx')
      · exact hs

theorem State.evOf_wf {t : State} (hs : t.memoriesWf) {s : State} {i : Nat} {e : Ev} : (t.evOf s i e).memoriesWf := by
  unfold State.evOf
  exact State.addEv_wf hs

theorem State.laneEv_keeps {s : State} {w : LR} {long : Bool} {srcs : List (BitVec 8 × Nat)} {gen : State → State}
    (hgen : s.memoriesWf → (gen s).memoriesWf) {f : Nat → Thread → Word × Ev} : Result.Keeps (s.laneEv w long srcs gen f) s :=
  State.laneRun_keeps fun _ hs => State.advance_wf (State.onMe_wf (foldl_wf (hgen hs) fun _ _ hx => State.evOf_wf hx))

theorem State.laneFp_keeps {s : State} {w : LR} {long : Bool} {srcs : List (BitVec 8 × Nat)} {f : Nat → Thread → Word × Ev} :
    Result.Keeps (s.laneFp w long srcs f) s := by
  unfold State.laneFp
  exact State.laneEv_keeps fun hs => hs

theorem State.fp1_keeps {s : State} {w : LR} {long : Bool} {f : Rnd → Nat → Nat × Ev} : Result.Keeps (s.fp1 w long f) s := by
  unfold State.fp1
  exact State.laneFp_keeps

theorem State.fp2_keeps {s : State} {w : LR} {long : Bool} {f : Rnd → Nat → Nat → Nat × Ev} : Result.Keeps (s.fp2 w long f) s := by
  unfold State.fp2
  exact State.laneFp_keeps

theorem State.fp3_keeps {s : State} {w : LR} {f : Rnd → Nat → Nat → Nat → Nat × Ev} : Result.Keeps (s.fp3 w f) s := by
  unfold State.fp3
  exact State.laneFp_keeps

theorem execFadd_keeps {s : State} {w : LR} : Result.Keeps (execFadd w s) s := by
  unfold execFadd
  exact State.fp2_keeps

theorem execFsub_keeps {s : State} {w : LR} : Result.Keeps (execFsub w s) s := by
  unfold execFsub
  exact State.fp2_keeps

theorem execFmul_keeps {s : State} {w : LR} : Result.Keeps (execFmul w s) s := by
  unfold execFmul
  exact State.fp2_keeps

theorem execFfma_keeps {s : State} {w : LR} : Result.Keeps (execFfma w s) s := by
  unfold execFfma
  exact State.fp3_keeps

theorem execFdiv_keeps {s : State} {w : LR} : Result.Keeps (execFdiv w s) s := by
  unfold execFdiv
  exact State.fp2_keeps

theorem execFmin_keeps {s : State} {w : LR} : Result.Keeps (execFmin w s) s := by
  unfold execFmin
  exact State.fp2_keeps

theorem execFmax_keeps {s : State} {w : LR} : Result.Keeps (execFmax w s) s := by
  unfold execFmax
  exact State.fp2_keeps

theorem State.fpCmpOp_keeps {s : State} {w : LR} {quiet : Bool} : Result.Keeps (s.fpCmpOp w quiet) s := by
  unfold State.fpCmpOp
  exact State.laneRun_keeps fun _ hs => State.advance_wf (State.onMe_wf (foldl_wf hs fun _ _ hx => State.evOf_wf hx))

theorem execFcmp_keeps {s : State} {w : LR} : Result.Keeps (execFcmp w s) s := by
  unfold execFcmp
  exact State.fpCmpOp_keeps

theorem execFcmpn_keeps {s : State} {w : LR} : Result.Keeps (execFcmpn w s) s := by
  unfold execFcmpn
  exact State.fpCmpOp_keeps

theorem execFrcp_keeps {s : State} {w : LR} : Result.Keeps (execFrcp w s) s := by
  unfold execFrcp
  exact State.fp1_keeps

theorem execFsqrt_keeps {s : State} {w : LR} : Result.Keeps (execFsqrt w s) s := by
  unfold execFsqrt
  exact State.fp1_keeps

theorem execFrsq_keeps {s : State} {w : LR} : Result.Keeps (execFrsq w s) s := by
  unfold execFrsq
  exact State.fp1_keeps

theorem execFexp2_keeps {s : State} {w : LR} : Result.Keeps (execFexp2 w s) s := by
  unfold execFexp2
  exact State.fp1_keeps

theorem execFlog2_keeps {s : State} {w : LR} : Result.Keeps (execFlog2 w s) s := by
  unfold execFlog2
  exact State.fp1_keeps

theorem execFfrc_keeps {s : State} {w : LR} : Result.Keeps (execFfrc w s) s := by
  unfold execFfrc
  exact State.fp1_keeps

theorem execFrnd_keeps {s : State} {w : LR} : Result.Keeps (execFrnd w s) s := by
  unfold execFrnd
  exact State.fp1_keeps

theorem execFsmx_keeps {s : State} {w : LR} : Result.Keeps (execFsmx w s) s := by
  unfold execFsmx
  exact State.fp2_keeps

theorem State.halves_keeps {s : State} {w : LR} {c : Bool} {f : FloatFmt → Rnd → Nat → Nat → Nat → Nat × Ev} :
    Result.Keeps (s.halves w c f) s := by
  unfold State.halves
  exact State.laneFp_keeps

theorem execHadd2_keeps {s : State} {w : LR} : Result.Keeps (execHadd2 w s) s := by
  unfold execHadd2
  exact State.halves_keeps

theorem execHmul2_keeps {s : State} {w : LR} : Result.Keeps (execHmul2 w s) s := by
  unfold execHmul2
  exact State.halves_keeps

theorem execHfma2_keeps {s : State} {w : LR} : Result.Keeps (execHfma2 w s) s := by
  unfold execHfma2
  exact State.halves_keeps

theorem execHmax2_keeps {s : State} {w : LR} : Result.Keeps (execHmax2 w s) s := by
  unfold execHmax2
  exact State.halves_keeps

theorem execHmin2_keeps {s : State} {w : LR} : Result.Keeps (execHmin2 w s) s := by
  unfold execHmin2
  exact State.halves_keeps

/-! Conversions. -/

theorem State.setGen_wf {s : State} (hs : s.memoriesWf) {c p : Nat} {w : Word} : (s.setGen c p w).memoriesWf := by
  unfold State.setGen
  exact same hs

theorem State.laneConv_keeps {s : State} {w : LR} {m : Nat} {srcs : List (BitVec 8 × Nat)} {f : (Nat → Rnd) → Thread → Word × Ev} :
    Result.Keeps (s.laneConv w m srcs f) s := by
  unfold State.laneConv
  exact State.laneEv_keeps fun hs => ite_wf (State.setGen_wf hs) hs

theorem execCvt_keeps {s : State} {w : LR} : Result.Keeps (execCvt w s) s := by
  unfold execCvt
  exact State.laneConv_keeps

theorem execCvtp_keeps {s : State} {w : LR} : Result.Keeps (execCvtp w s) s := by
  unfold execCvtp
  exact State.laneConv_keeps

theorem execCvtu_keeps {s : State} {w : LR} : Result.Keeps (execCvtu w s) s := by
  unfold execCvtu
  exact State.laneConv_keeps

/-! Dot products. -/

theorem execDot4_keeps {s : State} {w : LR} : Result.Keeps (execDot4 w s) s := by
  unfold execDot4
  exact State.lane3_keeps

theorem execDot8_keeps {s : State} {w : LR} : Result.Keeps (execDot8 w s) s := by
  unfold execDot8
  exact State.lane3_keeps

theorem State.dotF_keeps {s : State} {w : LR} {n : Nat} {fa fb : FloatFmt} : Result.Keeps (s.dotF w n fa fb) s := by
  unfold State.dotF
  exact State.laneFp_keeps

theorem execDotf4_keeps {s : State} {w : LR} : Result.Keeps (execDotf4 w s) s := by
  unfold execDotf4
  exact State.dotF_keeps

theorem execDotf8_keeps {s : State} {w : LR} : Result.Keeps (execDotf8 w s) s := by
  unfold execDotf8
  exact State.dotF_keeps

/-! DEFINITION. Lane loads, stores and atomics (R280 to R285). -/

theorem State.checkLane_wf {s : State} (hs : s.memoriesWf) {sp : Space} {w : LM} {k : Access} {i : Nat} :
    (s.checkLane sp w k i).2.memoriesWf := by
  unfold State.checkLane
  split
  · exact hs
  · exact hs
  · exact State.checkPriv_wf hs

theorem State.checkLanes_wf {s : State} (hs : s.memoriesWf) {sp : Space} {w : LM} {k : Access} {m : BitVec 32} :
    (s.checkLanes sp w k m).2.memoriesWf := by
  unfold State.checkLanes
  exact foldl_inv (P := fun p : _ × State => p.2.memoriesWf) hs fun _ _ hx => State.checkLane_wf hx

theorem State.loadLane_wf {s : State} (hs : s.memoriesWf) {w : LM} {i : Nat} {t : Target} : (s.loadLane w i t).memoriesWf := by
  unfold State.loadLane
  exact ite_wf hs (State.onMe_wf (State.clearV_wf hs))

theorem State.storeLane_wf {s : State} (hs : s.memoriesWf) {w : LM} {i : Nat} {t : Target} : (s.storeLane w i t).memoriesWf := by
  unfold State.storeLane
  extract_lets +onlyGivenNames -underBinder th r
  have hr' : r.2.memoriesWf := State.storeBytes_wf hs
  exact State.setParty_wf hr'

theorem State.recordBeyond_wf {s : State} (hs : s.memoriesWf) {wr : Bool} {outs : List (Nat × Check)} :
    (s.recordBeyond wr outs).memoriesWf := by
  unfold State.recordBeyond
  split
  · exact State.recordSpad_wf hs
  · exact hs

theorem State.laneAccess_keeps {s : State} {w : LM} {sp : Space} {store : Bool} : Result.Keeps (s.laneAccess w sp store) s := by
  unfold State.laneAccess
  refine State.laneRun_keeps fun _ hs => State.finishLanes_wf (State.fillLanes_wf (State.recordBeyond_wf (foldl_wf (State.logRoom_wf
    (State.checkLanes_wf hs)) fun _ _ hx => ?_))) (ite_wf (State.switchAt_wf (State.fillLanes_wf (State.recordBeyond_wf (foldl_wf
    (State.logRoom_wf (State.checkLanes_wf hs)) fun _ _ hx => ?_)))) (State.switch_wf (State.fillLanes_wf (State.recordBeyond_wf (foldl_wf
    (State.logRoom_wf (State.checkLanes_wf hs)) fun _ _ hx => ?_)))))
  · split
    · exact ite_wf (State.storeLane_wf hx) (State.loadLane_wf hx)
    · exact hx
  · split
    · exact ite_wf (State.storeLane_wf hx) (State.loadLane_wf hx)
    · exact hx
  · split
    · exact ite_wf (State.storeLane_wf hx) (State.loadLane_wf hx)
    · exact hx

theorem execLdg_keeps {s : State} {w : LM} : Result.Keeps (execLdg w s) s := by
  unfold execLdg
  exact State.laneAccess_keeps

theorem execStg_keeps {s : State} {w : LM} : Result.Keeps (execStg w s) s := by
  unfold execStg
  exact State.laneAccess_keeps

theorem execLds_keeps {s : State} {w : LM} : Result.Keeps (execLds w s) s := by
  unfold execLds
  exact State.laneAccess_keeps

theorem execSts_keeps {s : State} {w : LM} : Result.Keeps (execSts w s) s := by
  unfold execSts
  exact State.laneAccess_keeps

theorem execLdp_keeps {s : State} {w : LM} : Result.Keeps (execLdp w s) s := by
  unfold execLdp
  exact State.laneAccess_keeps

theorem execStp_keeps {s : State} {w : LM} : Result.Keeps (execStp w s) s := by
  unfold execStp
  exact State.laneAccess_keeps

/-! Atomics. -/

theorem AtomOut.of_ite {c : Prop} [Decidable c] {o : AtomOut} {v : Dword} {e : Ev} {u : State}
    (h : (if c then .conflict else o) = .old v e u) : o = .old v e u := by
  split at h
  · cases h
  · exact h

/-- What an atomic leaves once its new value stands. -/
theorem State.found_wf {s : State} (hs : s.memoriesWf) {c d : Prop} [Decidable c] [Decidable d] {l : Loc}
    {ws : List (Loc × Word)} {m : BitVec 32} :
    (if c then (if d then s.observeAll ws m else s) else (if d then s.observeAll ws m else s).forgetWord l).memoriesWf := by
  have h := ite_wf (c := d) (State.observeAll_wf hs (ws := ws) (m := m)) hs
  exact ite_wf h (State.forgetWord_wf h)

theorem State.atomicAt_wf {s u : State} (hs : s.memoriesWf) {i aop size dom : Nat} {tg : Target} {b c v : Dword} {returns : Bool} {e : Ev}
    (hu : s.atomicAt i aop size dom tg b c returns = .old v e u) : u.memoriesWf := by
  unfold State.atomicAt at hu
  extract_lets t at hu
  split at hu
  · cases hu
    exact hs
  · split at hu
    · cases hu
    · obtain ⟨-, -, rfl⟩ := AtomOut.old.inj hu
      exact State.found_wf (window_wf (State.clearMem_wf hs) hs)
  · split at hu
    · cases hu
      exact hs
    · obtain ⟨-, -, rfl⟩ := AtomOut.old.inj (AtomOut.of_ite hu)
      exact State.found_wf (State.setParty_wf (State.clearMem_wf (State.atomWrite_wf hs)))

theorem State.atomLane_wf {s : State} (hs : s.memoriesWf) {w : LR} {glob : Bool} {i : Nat} : (s.atomLane w glob i).2.memoriesWf := by
  unfold State.atomLane
  dsimp only
  split
  · split
    · exact hs
    · split
      · exact hs
      next hu =>
        have ha := State.atomicAt_wf hs hu
        exact ite_wf (State.addEv_wf ha) (ite_wf (State.onMe_wf (State.clearV_wf (State.addEv_wf ha))) (State.onMe_wf (State.addEv_wf ha)))
  · exact hs

theorem State.laneAtomic_keeps {s : State} {w : LR} {glob : Bool} : Result.Keeps (s.laneAtomic w glob) s := by
  unfold State.laneAtomic
  refine State.laneRun_keeps fun act hs => ?_
  extract_lets r s1
  have hr : r.2.memoriesWf := foldl_inv (P := fun p : List (Nat × Check) × State => p.2.memoriesWf) hs fun _ _ hx => State.atomLane_wf hx
  have h1 : s1.memoriesWf := State.fillLanes_wf (State.recordBeyond_wf hr)
  exact State.wakeWaita_wf (State.finishLanes_wf h1 (State.switch_wf h1))

theorem execAtomg_keeps {s : State} {w : LR} : Result.Keeps (execAtomg w s) s := by
  unfold execAtomg
  exact State.laneAtomic_keeps

theorem execAtoms_keeps {s : State} {w : LR} : Result.Keeps (execAtoms w s) s := by
  unfold execAtoms
  exact State.laneAtomic_keeps

/-! DEFINITION. Uniform loads, stores and atomics (R301, R302), made for the lowest active lane's thread (R112). -/

theorem State.finishUni_wf {s : State} (hs : s.memoriesWf) {k : Access} {c : Check} {done : State} (hd : done.memoriesWf) :
    (s.finishUni k c done).memoriesWf := by
  unfold State.finishUni
  extract_lets +onlyGivenNames -underBinder u
  have hu : u.memoriesWf := State.occupy_wf hs
  split
  · exact hd
  · refine State.takeFatal_wf ?_
    split
    · exact State.logDenial_wf hu
    · exact hu
  · exact State.takeReplayable_wf hu
  · exact State.waitPri_wf hu
  · exact hs

theorem State.recordUni_wf {s : State} (hs : s.memoriesWf) {wr : Bool} {t : Target} : (s.recordUni wr t).memoriesWf := by
  unfold State.recordUni
  split
  · exact State.recordSpad_wf hs
  · exact hs

theorem State.fillUni_wf {s : State} (hs : s.memoriesWf) {t : Target} {va : Nat} : (s.fillUni t va).memoriesWf := by
  unfold State.fillUni
  split
  · exact State.fillTlb_wf hs
  · exact hs

theorem State.uniAccess_keeps {s : State} {w : UM} {glob store : Bool} : Result.Keeps (s.uniAccess w glob store) s := by
  refine State.uniRun_keeps fun hs => ?_
  have hroom {a : Nat} {logged : Bool} : (s.logRoom s.me.grid a logged).2.memoriesWf := State.logRoom_wf hs
  dsimp only
  split
  · refine ite_wf (State.finishUni_wf hroom hroom) ?_
    have h1 {t : Target} {a : Nat} {store logged : Bool} :
        (((s.logRoom s.me.grid a logged).2.recordUni store t).fillUni t a).memoriesWf := State.fillUni_wf (State.recordUni_wf hroom)
    exact ite_wf (State.switchAt_wf (State.setParty_wf (State.storeBytes_wf h1))) (State.switch_wf (State.onMe_wf (State.clearK_wf h1)))
  · exact State.finishUni_wf hs hs

theorem execKld_keeps {s : State} {w : UM} : Result.Keeps (execKld w s) s := by
  unfold execKld
  exact State.uniAccess_keeps

theorem execKst_keeps {s : State} {w : UM} : Result.Keeps (execKst w s) s := by
  unfold execKst
  exact State.uniAccess_keeps

theorem execKlds_keeps {s : State} {w : UM} : Result.Keeps (execKlds w s) s := by
  unfold execKlds
  exact State.uniAccess_keeps

theorem execKsts_keeps {s : State} {w : UM} : Result.Keeps (execKsts w s) s := by
  unfold execKsts
  exact State.uniAccess_keeps

theorem execKatom_keeps {s : State} {w : UC} : Result.Keeps (execKatom w s) s := by
  refine State.uniRun_keeps fun hs => ?_
  dsimp only
  split
  · split
    · exact State.trapAll_wf hs
    · split
      · exact State.trapAll_wf hs
      next hu =>
        have ha {t : Target} {a : Nat} := State.fillUni_wf (t := t) (va := a)
            (State.recordUni_wf (wr := true) (t := t) (State.atomicAt_wf hs hu))
        exact State.wakeWaita_wf (State.switch_wf
          (ite_wf (State.onMe_wf (State.clearK_wf (State.addEv_wf ha))) (State.onMe_wf (State.addEv_wf ha))))
  · exact State.finishUni_wf hs hs

/-! DEFINITION. Hardware barriers (R64 to R68): arrivals, phases and their edges. -/

theorem State.putBarrier_wf {s : State} (hs : s.memoriesWf) {b : Barrier} : (s.putBarrier b).memoriesWf := by
  unfold State.putBarrier
  exact same hs

theorem State.checkBarrier_wf {s : State} (hs : s.memoriesWf) {b : Barrier} : (s.checkBarrier b).memoriesWf := by
  unfold State.checkBarrier
  split
  · exact hs
  · split
    · exact State.wake_wf (State.putBarrier_wf hs)
    · exact hs

theorem State.checkBarriers_wf {s : State} (hs : s.memoriesWf) {grid : Nat} : (s.checkBarriers grid).memoriesWf := by
  unfold State.checkBarriers
  exact foldl_wf hs fun _ _ hx => State.checkBarrier_wf hx

theorem State.pruneBarriers_wf {s : State} (hs : s.memoriesWf) {grid : Nat} : (s.pruneBarriers grid).memoriesWf := by
  unfold State.pruneBarriers
  exact same hs

theorem State.arriveOne_wf {s : State} (hs : s.memoriesWf) {level num lane : Nat} : (s.arriveOne level num lane).memoriesWf := by
  unfold State.arriveOne
  extract_lets +onlyGivenNames -underBinder g t own b
  exact State.onMe_wf (State.putBarrier_wf hs)

theorem State.arriveAll_wf {s : State} (hs : s.memoriesWf) {level num : Nat} : (s.arriveAll level num).memoriesWf := by
  unfold State.arriveAll
  exact State.checkBarriers_wf (foldl_wf hs fun _ _ hx => State.arriveOne_wf hx)

theorem State.receiveBarrier_wf {s : State} (hs : s.memoriesWf) {level num lane : Nat} : (s.receiveBarrier level num lane).memoriesWf := by
  unfold State.receiveBarrier
  extract_lets +onlyGivenNames -underBinder m as
  refine foldl_wf (State.onMe_wf hs) fun _ _ hx => ?_
  extract_lets
  split
  · exact State.putBarrier_wf (State.receiveShared_wf hx)
  · exact hx

theorem State.waitBarrier_wf {s : State} (hs : s.memoriesWf) {level num words : Nat} : (s.waitBarrier level num words).memoriesWf := by
  unfold State.waitBarrier
  split
  · exact State.parkMe_wf hs
  · extract_lets +onlyGivenNames -underBinder t
    have ht' : t.memoriesWf := foldl_wf hs fun _ _ hx => State.receiveBarrier_wf hx
    exact State.switch_wf (State.pruneBarriers_wf ht')

theorem execBara_keeps {s : State} {w : UC} : Result.Keeps (execBara w s) s := by
  unfold execBara
  exact State.uniRun_keeps fun hs => ite_wf (State.trapAll_wf hs) (State.switch_wf (State.arriveAll_wf hs))

theorem execBarw_keeps {s : State} {w : UC} : Result.Keeps (execBarw w s) s := by
  unfold execBarw
  exact State.uniRun_keeps fun hs => ite_wf (State.trapAll_wf hs) (State.waitBarrier_wf hs)

theorem execBars_keeps {s : State} {w : UC} : Result.Keeps (execBars w s) s := by
  unfold execBars
  exact State.uniRun_keeps fun hs => ite_wf (State.waitBarrier_wf hs) (ite_wf (State.trapAll_wf hs) (State.waitBarrier_wf
    (State.arriveAll_wf hs)))

/-! DEFINITION. Slot rings (R69 to R72) and timed waits on scratchpad words (R77, R78). -/

theorem State.putRing_wf {s : State} (hs : s.memoriesWf) {blk r : Nat} {x : Ring} : (s.putRing blk r x).memoriesWf := by
  unfold State.putRing
  exact State.onBlock_wf hs

theorem State.wakeRing_wf {s : State} (hs : s.memoriesWf) {blk r : Nat} : (s.wakeRing blk r).memoriesWf := by
  unfold State.wakeRing
  exact State.wake_wf hs

theorem State.slotDone_wf {s : State} (hs : s.memoriesWf) {w : US} {ok : Bool} : (s.slotDone w ok).memoriesWf := by
  unfold State.slotDone
  exact State.switch_wf (State.onMe_wf hs)

theorem State.slotWait_wf {s : State} (hs : s.memoriesWf) {w : US} : (s.slotWait w).memoriesWf := by
  unfold State.slotWait
  exact ite_wf (State.slotDone_wf hs) (State.parkMe_wf hs)

theorem State.receivePub_wf {s : State} (hs : s.memoriesWf) {pubs : List (Word × Edge)} {i : Word} : (s.receivePub pubs i).memoriesWf := by
  unfold State.receivePub
  split
  · exact State.receiveLanes_wf hs
  · exact hs

theorem execSlotaFree_keeps {s : State} {w : US} : Result.Keeps (execSlotaFree w s) s := by
  unfold execSlotaFree
  exact State.uniRun_keeps fun hs => ite_wf (State.trapAll_wf hs) (ite_wf (State.slotWait_wf hs) (State.wakeRing_wf (State.slotDone_wf
    (State.onMe_wf (State.putRing_wf (State.receivePub_wf hs))))))

theorem execSlotaFull_keeps {s : State} {w : US} : Result.Keeps (execSlotaFull w s) s := by
  unfold execSlotaFull
  exact State.uniRun_keeps fun hs => ite_wf (State.trapAll_wf hs) (ite_wf (State.slotWait_wf hs) (State.wakeRing_wf (State.slotDone_wf
    (State.onMe_wf (State.putRing_wf (State.receivePub_wf hs))))))

theorem execSlotrFull_keeps {s : State} {w : US} : Result.Keeps (execSlotrFull w s) s := by
  unfold execSlotrFull
  refine State.uniRun_keeps fun hs => ?_
  extract_lets
  split
  · exact State.trapAll_wf hs
  · exact State.slotWait_wf hs
  · exact State.wakeRing_wf (State.slotDone_wf (State.putRing_wf (State.publishLanes_wf hs)))

theorem execSlotrFree_keeps {s : State} {w : US} : Result.Keeps (execSlotrFree w s) s := by
  unfold execSlotrFree
  refine State.uniRun_keeps fun hs => ?_
  extract_lets
  split
  · exact State.trapAll_wf hs
  · exact State.slotWait_wf hs
  · exact State.wakeRing_wf (State.slotDone_wf (State.putRing_wf (State.publishLanes_wf hs)))

theorem execSlotrInit_keeps {s : State} {w : US} : Result.Keeps (execSlotrInit w s) s := by
  unfold execSlotrInit
  exact State.uniRun_keeps fun hs => ite_wf (State.trapAll_wf hs) (State.wakeRing_wf (State.switch_wf (State.putRing_wf hs)))

/-! WAITA. -/

theorem State.waitaDone_wf {s : State} (hs : s.memoriesWf) {w : UC} {b : Bool} : (s.waitaDone w b).memoriesWf := by
  unfold State.waitaDone
  exact State.switch_wf (State.onMe_wf hs)

theorem execWaita_keeps {s : State} {w : UC} : Result.Keeps (execWaita w s) s := by
  unfold execWaita
  refine State.uniRun_keeps fun hs => ?_
  extract_lets
  split
  · refine ite_wf (State.waitaDone_wf ?_) ?_
    · split
      · refine State.observe_wf ?_
        split
        · exact hs
        · exact State.recordUni_wf hs
      · split
        · exact hs
        · exact State.recordUni_wf hs
    · split
      · refine ite_wf (State.waitaDone_wf ?_) (State.parkMe_wf ?_)
        · split
          · exact hs
          · exact State.recordUni_wf hs
        · split
          · exact hs
          · exact State.recordUni_wf hs
      · refine State.parkMe_wf ?_
        split
        · exact hs
        · exact State.recordUni_wf hs
  · exact State.finishUni_wf hs hs

/-! Forming groups. -/

theorem State.emitGroup_wf {s : State} (hs : s.memoriesWf) {e : Episode} {ready : Nat} {early : Bool} {rs : List YardRec} :
    (s.emitGroup e ready early rs).memoriesWf := by
  unfold State.emitGroup
  extract_lets +onlyGivenNames -underBinder f x1
  have hf' : f.2.memoriesWf := State.fresh_wf hs
  have hx1' : x1.memoriesWf := hf'
  exact same hx1'

theorem State.yardFatal_wf {s : State} (hs : s.memoriesWf) {e : Episode} {r : YardRec} : (s.yardFatal e r).memoriesWf := by
  unfold State.yardFatal
  exact State.takeFatal_wf hs

theorem State.freshRec_wf {s : State} (hs : s.memoriesWf) {grid tid : Nat} : (s.freshRec grid tid).memoriesWf := by
  unfold State.freshRec
  exact ite_wf hs (same hs)

/-! Release. -/

theorem State.release_wf {s : State} (hs : s.memoriesWf) {e : Episode} : (s.release e).memoriesWf := by
  unfold State.release
  split
  · exact State.yardFatal_wf hs
  · extract_lets +onlyGivenNames -underBinder edge s1 s2 s3 more s4 recs ready
    have hs1' : s1.memoriesWf := State.settleEdge_wf hs
    have hs2' : s2.memoriesWf := same hs1'
    have hs3' : s3.memoriesWf := State.onGroups_wf hs2'
    have hs4' : s4.memoriesWf := ite_wf (State.onGrid_wf hs3') hs3'
    exact State.wake_wf (foldl_wf hs4' fun _ _ hx => State.emitGroup_wf hx)

theorem State.checkEpisodes_wf {s : State} (hs : s.memoriesWf) {grid : Nat} : (s.checkEpisodes grid).memoriesWf := by
  unfold State.checkEpisodes
  exact foldl_wf hs fun _ _ hx => ite_wf (State.release_wf hx) hx

/-! Arrival. -/

theorem State.openEpisode_wf {s : State} (hs : s.memoriesWf) {w : LB} {station : Bool} {t : Thread} :
    (s.openEpisode w station t).memoriesWf := by
  unfold State.openEpisode
  split
  · exact hs
  · extract_lets +onlyGivenNames -underBinder g stn f blocks e _ s1
    have hf' : f.2.memoriesWf := State.fresh_wf hs
    have hs1' : s1.memoriesWf := same hf'
    exact ite_wf (State.onGrid_wf hs1') hs1'

theorem State.enterRec_wf {s : State} (hs : s.memoriesWf) {g : Group} {id land : Nat} {r : YardRec} {snd : Sender} :
    (s.enterRec g id land r snd).memoriesWf := by
  unfold State.enterRec
  split
  · exact hs
  · extract_lets +onlyGivenNames -underBinder imgs e1 bin full e2 _ s1
    have hs1' : s1.memoriesWf := same (State.freshRec_wf hs)
    refine ite_wf ?_ hs1'
    split
    · exact State.yardFatal_wf hs1'
    · exact State.emitGroup_wf hs1'

theorem State.enterOne_wf {s : State} (hs : s.memoriesWf) {w : LB} {station : Bool} {land lane : Nat} :
    (s.enterOne w station land lane).memoriesWf := by
  unfold State.enterOne
  extract_lets +onlyGivenNames -underBinder g t s1 key rank
  have hs1' : s1.memoriesWf := State.openEpisode_wf hs
  split
  · exact State.enterRec_wf hs1'
  · exact hs1'

theorem State.dropMe_wf {s : State} (hs : s.memoriesWf) : s.dropMe.memoriesWf := by
  unfold State.dropMe
  exact same hs

theorem State.rebin_keeps {s : State} {w : LB} {station : Bool} : Result.Keeps (s.rebin w station) s := by
  unfold State.rebin
  exact ite_keeps (next_keeps fun hs => State.parkMe_wf hs) (State.laneRun_keeps fun _ hs => ite_wf (State.trapAll_wf hs)
    (State.releaseCores_wf (State.pruneBarriers_wf (State.checkEpisodes_wf (State.dropMe_wf (foldl_wf (State.cross_wf (State.occupy_wf hs))
    fun _ _ hx => State.ifStays_wf hx fun hx => State.enterOne_wf hx))))))

theorem execRebinB_keeps {s : State} {w : LB} : Result.Keeps (execRebinB w s) s := by
  unfold execRebinB
  exact State.rebin_keeps

theorem execRebinS_keeps {s : State} {w : LB} : Result.Keeps (execRebinS w s) s := by
  unfold execRebinS
  exact State.rebin_keeps

/-! Frames. -/

theorem State.onFrame_wf {s : State} (hs : s.memoriesWf) {pid : Nat} {f : Frame → Frame} : (s.onFrame pid f).memoriesWf := by
  unfold State.onFrame
  exact same hs

theorem State.joinOne_wf {s : State} (hs : s.memoriesWf) {lane : Nat} : (s.joinOne lane).memoriesWf := by
  unfold State.joinOne
  split
  · exact hs
  · extract_lets +onlyGivenNames -underBinder s1
    have hs1' : s1.memoriesWf := same hs
    exact State.onMe_wf (State.foldSent_wf (State.receiveLanes_wf hs1'))

theorem State.joinAll_wf {s : State} (hs : s.memoriesWf) {m : BitVec 32} : (s.joinAll m).memoriesWf := by
  unfold State.joinAll
  exact foldl_wf hs fun _ _ hx => State.joinOne_wf hx

/-! The return of an inline child (R60). -/

theorem State.inlineReturn_wf {s : State} (hs : s.memoriesWf) {lane : Nat} : (s.inlineReturn lane).memoriesWf := by
  unfold State.inlineReturn
  extract_lets g t
  split
  · exact hs
  next c rest _ =>
    have hp := State.savedBytes_wf (State.settleFor_wf hs (e := s.offer ⟨[t.sender (Rank.thread t.rank)], [], none⟩
        [c.party]) (ps := [c.party]))
      (h := g.grid) (t := t) (off := c.save) (n := saveLen t.v.length)
    dsimp only
    split
    next hu =>
      rw [hu] at hp
      exact State.onMe_wf (State.clearV_wf hp)
    next hu =>
      rw [hu] at hp
      exact State.saveTrap_wf hp

theorem State.restoreUni_wf {s : State} (hs : s.memoriesWf) {off : Nat} : (s.restoreUni off).memoriesWf := by
  have hp := State.savedBytes_wf hs (h := s.me.grid) (t := s.me.thread 0) (off := off) (n := 4 * s.me.k.length + 4)
  unfold State.restoreUni
  dsimp only
  split
  next hu =>
    rw [hu] at hp
    exact State.onMe_wf (State.clearK_wf hp)
  next hu =>
    rw [hu] at hp
    exact State.saveTrap_wf hp

/-! The end of threads. -/

theorem State.endThread_wf {s : State} (hs : s.memoriesWf) {lane : Nat} : (s.endThread lane).memoriesWf := by
  unfold State.endThread
  extract_lets +onlyGivenNames -underBinder g t snd s1
  have hs1' : s1.memoriesWf := State.onGrid_wf (State.onMe_wf hs)
  split
  · extract_lets +onlyGivenNames -underBinder s2
    have hs2' : s2.memoriesWf := State.onFrame_wf hs1'
    exact ite_wf (State.wake_wf hs2') hs2'
  · exact hs1'

theorem State.exitOne_wf {s : State} (hs : s.memoriesWf) {lane : Nat} : (s.exitOne lane).memoriesWf := by
  unfold State.exitOne
  exact ite_wf (State.endThread_wf hs) (State.inlineReturn_wf hs)

theorem State.exitWhole_wf {s : State} (hs : s.memoriesWf) {lane fuel : Nat} : (s.exitWhole lane fuel).memoriesWf := by
  induction fuel generalizing s with
  | zero => exact State.endThread_wf hs
  | succ fuel ih => exact ite_wf (State.endThread_wf hs) (ih (State.inlineReturn_wf hs))

theorem State.retireMe_wf {s : State} (hs : s.memoriesWf) : s.retireMe.memoriesWf := by
  unfold State.retireMe
  exact State.releaseCores_wf (State.pruneBarriers_wf (State.dropMe_wf hs))

theorem State.afterExits_wf {s : State} (hs : s.memoriesWf) {grid : Nat} : (s.afterExits grid).memoriesWf := by
  unfold State.afterExits
  exact State.pruneBarriers_wf (State.checkEpisodes_wf (State.checkBarriers_wf hs))

theorem State.settlePath_wf {s : State} (hs : s.memoriesWf) {fuel : Nat} : (s.settlePath fuel).memoriesWf := by
  induction fuel generalizing s with
  | zero => exact State.retireMe_wf hs
  | succ fuel ih =>
    unfold State.settlePath
    extract_lets +onlyGivenNames g go
    have hgo {t : State} (ht : t.memoriesWf) (f : Group → Group) : (go t f).memoriesWf := ih (State.onMe_wf ht)
    clear_value go g
    refine ite_wf hs ?_
    split
    · split
      · exact hgo hs _
      split
      · refine hgo ?_ _
        exact State.ifStays_wf (State.restoreUni_wf hs) fun hx => State.unspill_wf (State.onMe_wf hx)
      · exact ite_wf (hgo (State.unspill_wf (State.onMe_wf hs)) _) (hgo hs _)
    · split
      · exact hgo hs _
      · exact ite_wf (State.retireMe_wf hs) (hgo hs _)

theorem State.exitDone_wf {s : State} (hs : s.memoriesWf) {words occ : Nat} : (s.exitDone words occ).memoriesWf := by
  unfold State.exitDone
  extract_lets +onlyGivenNames -underBinder s1
  have hs1' : s1.memoriesWf := State.afterExits_wf hs
  split
  · exact State.switch_wf hs1'
  · extract_lets +onlyGivenNames -underBinder s2
    have hs2' : s2.memoriesWf := State.settlePath_wf (State.occupy_wf hs1')
    exact ite_wf (State.switchTo_wf hs2') hs2'

theorem execExit_keeps {s : State} {w : LR} : Result.Keeps (execExit w s) s := by
  unfold execExit
  exact State.laneRun_keeps fun _ hs => ite_wf (State.switch_wf hs) (ite_wf (State.parkMe_wf hs) (State.ifStays_wf (foldl_wf
    (State.joinAll_wf hs) fun _ _ hx => State.exitOne_wf hx) fun hx => State.exitDone_wf hx))

theorem State.exitGroup_wf {s : State} (hs : s.memoriesWf) : s.exitGroup.memoriesWf := by
  unfold State.exitGroup
  exact foldl_wf (State.joinAll_wf hs) fun _ _ hx => State.exitWhole_wf hx

theorem execExitg_keeps {s : State} {w : UF} : Result.Keeps (execExitg w s) s := by
  unfold execExitg
  exact State.uniRun_keeps fun hs => ite_wf (State.parkMe_wf hs) (State.ifStays_wf (State.exitGroup_wf hs) fun hx => State.retireMe_wf
    (State.occupy_wf (State.afterExits_wf hx)))

theorem State.tailEnd_wf {s : State} (hs : s.memoriesWf) : s.tailEnd.memoriesWf := by
  unfold State.tailEnd
  exact ite_wf (State.retireMe_wf hs) (ite_wf (State.retireMe_wf (same hs)) (State.parkMe_wf hs))

theorem execTail_keeps {s : State} {w : UF} : Result.Keeps (execTail w s) s := by
  unfold execTail
  exact State.uniRun_keeps fun hs => ite_wf (State.tailEnd_wf hs) (ite_wf (State.parkMe_wf hs) (State.ifStays_wf (State.exitGroup_wf hs)
    fun hx => State.tailEnd_wf (State.occupy_wf (State.afterExits_wf hx))))

/-! AWAIT. -/

theorem State.moveTo_wf {s : State} (hs : s.memoriesWf) {core pipe : Nat} : (s.moveTo core pipe).memoriesWf := by
  unfold State.moveTo
  extract_lets +onlyGivenNames -underBinder g gs
  exact State.releaseCores_wf (same (State.claimCore_wf hs))

theorem State.steal_wf {s : State} (hs : s.memoriesWf) : s.steal.2.memoriesWf := by
  unfold State.steal
  split
  · exact hs
  · split
    · extract_lets +onlyGivenNames -underBinder n x y
      have hx' : x.2.memoriesWf := State.cross_wf hs
      have hy' : y.2.memoriesWf := State.cross_wf hx'
      exact State.moveTo_wf hy'
    · exact hs

theorem execAwait_keeps {s : State} {w : LR} : Result.Keeps (execAwait w s) s := by
  unfold execAwait
  exact State.laneRun_keeps fun _ hs => ite_wf (State.parkMe_wf hs) (State.onMe_wf (State.switch_wf (State.steal_wf (State.joinAll_wf hs))))

/-! DEFINITION. SPAWN, task bins and the inline fall-back (R10, R54 to R58, R60). -/

theorem State.emitBin_wf {s : State} (hs : s.memoriesWf) {b : TaskBin} : (s.emitBin b).memoriesWf := by
  unfold State.emitBin
  extract_lets +onlyGivenNames -underBinder f x1
  have hf' : f.2.memoriesWf := State.fresh_wf hs
  have hx1' : x1.memoriesWf := hf'
  exact same hx1'

theorem State.enterBin_wf {s : State} (hs : s.memoriesWf) {stn grid : Nat} {entry : Dword} {cls : Nat} {c : Child} :
    (s.enterBin stn grid entry cls c).memoriesWf := by
  unfold State.enterBin
  extract_lets +onlyGivenNames -underBinder b b1 s1
  have hs1' : s1.memoriesWf := same hs
  exact ite_wf (State.emitBin_wf hs1') hs1'

theorem State.spawnEdge_wf {s : State} (hs : s.memoriesWf) {lane : Nat} : (s.spawnEdge lane).2.memoriesWf := by
  unfold State.spawnEdge
  exact State.onMe_wf (State.settleEdge_wf hs)

theorem State.spawnOne_wf {s : State} (hs : s.memoriesWf) {w : LC} {lane : Nat} : (s.spawnOne w lane).memoriesWf := by
  unfold State.spawnOne
  extract_lets +onlyGivenNames -underBinder g stn t ed f tid _ child frames _ s1 s2 n x
  have hed' : ed.2.memoriesWf := State.spawnEdge_wf hs
  have hf' : f.2.memoriesWf := State.fresh_wf hed'
  have hs1' : s1.memoriesWf := State.onGrid_wf (State.onFrame_wf (same hf'))
  have hs2' : s2.memoriesWf := State.onMe_wf hs1'
  have hx' : x.2.memoriesWf := State.cross_wf hs2'
  exact State.enterBin_wf hx'

/-! The inline fall-back. -/

theorem State.pushSave_wf {s : State} (hs : s.memoriesWf) {lane : Nat} {bs : List Byte} : (s.pushSave lane bs).2.2.memoriesWf := by
  have hp := State.saveBytes_wf hs (h := s.me.grid) (t := s.me.thread lane) (off := (s.me.thread lane).pushAt bs.length) (bs := bs)
  unfold State.pushSave
  dsimp only
  split
  next hu =>
    rw [hu] at hp
    exact State.onMe_wf hp
  next hu =>
    rw [hu] at hp
    exact hp

theorem State.inlineOne_wf {s : State} (hs : s.memoriesWf) {w : LC} {acc : List SaveFail} {lane : Nat} :
    (s.inlineOne w acc lane).2.memoriesWf := by
  have hp := State.pushSave_wf hs (lane := lane) (bs := (s.me.thread lane).saveImage)
  unfold State.inlineOne
  dsimp only
  split
  next hu =>
    rw [hu] at hp
    exact State.onMe_wf (State.fresh_wf (State.spawnEdge_wf hp))
  next hu =>
    rw [hu] at hp
    exact hp

theorem State.inlineCall_wf {s : State} (hs : s.memoriesWf) {w : LC} {m : BitVec 32} : (s.inlineCall w m).2.memoriesWf := by
  unfold State.inlineCall
  dsimp only
  have hp := State.pushEntry_wf hs (e := ⟨s.me.pc + BitVec.ofNat 64 (4 * lcLen w), s.me.cur, (inlinePaths s.me w.a m).drop 1, none, 0⟩)
  split
  next u hu =>
    rw [hu] at hp
    have hq := State.pushSave_wf hp (lane := 0) (bs := s.me.saveImage)
    split
    next hu' =>
      rw [hu'] at hq
      have hr {off : Nat} {u : State} (hu : u.memoriesWf) : ((lanesOf m).foldl (fun a i => a.2.inlineOne w a.1 i)
          (([] : List SaveFail), u.onMe fun x => x.markInline m off)).2.memoriesWf :=
        foldl_inv (P := fun p : List SaveFail × State => p.2.memoriesWf) (State.onMe_wf hu) fun _ _ hx => State.inlineOne_wf hx
      split
      · exact State.onMe_wf (hr hq)
      · exact hr hq
    next hu' =>
      rw [hu'] at hq
      exact hq
  next hu =>
    rw [hu] at hp
    exact hp

theorem State.logSaves_wf {s : State} (hs : s.memoriesWf) {fs : List SaveFail} : (s.logSaves fs).memoriesWf := by
  unfold State.logSaves
  refine foldl_wf hs fun _ _ hx => ?_
  split
  · exact State.logDenial_wf hx
  · exact hx

theorem State.inlineFail_wf {s : State} (hs : s.memoriesWf) {m : BitVec 32} {fs : List SaveFail} : (s.inlineFail m fs).memoriesWf := by
  unfold State.inlineFail
  split
  · extract_lets +onlyGivenNames -underBinder u
    have hu' : u.memoriesWf := State.logSaves_wf hs
    split
    · exact State.privGrow_wf hu'
    · exact State.takeTrap_wf hu'
    · exact State.xlatTrap_wf hu'
  · extract_lets +onlyGivenNames -underBinder t
    have ht' : t.memoriesWf := State.takeReplayable_wf hs
    exact State.onMe_wf ht'

/-! SPAWN. -/

theorem execSpawn_keeps {s : State} {w : LC} : Result.Keeps (execSpawn w s) s := by
  unfold execSpawn
  refine State.laneRun_keeps fun _ hs => ite_wf (State.takeTrap_wf hs) (ite_wf (State.takeTrap_wf hs) (ite_wf (State.takeTrap_wf hs) (ite_wf
    (State.switch_wf (foldl_inv (P := fun p : _ × State => p.2.memoriesWf) hs fun _ _ hx => ?_)) (ite_wf (State.takeTrap_wf (foldl_inv (P :=
    fun p : _ × State => p.2.memoriesWf) hs fun _ _ hx => ?_)) (ite_wf (State.switchTo_wf (State.inlineCall_wf (foldl_inv (P := fun p : _ ×
    State => p.2.memoriesWf) hs fun _ _ hx => ?_))) (State.inlineFail_wf (State.occupy_wf (foldl_inv (P := fun p : _ × State
    => p.2.memoriesWf) hs fun _ _ hx => ?_))))))))
  · split
    · exact State.spawnOne_wf hx
    · exact hx
  · split
    · exact State.spawnOne_wf hx
    · exact hx
  · split
    · exact State.spawnOne_wf hx
    · exact hx
  · split
    · exact State.spawnOne_wf hx
    · exact hx

/-! DEFINITION. Futures: FREAD and FFILL (R73 to R76). -/

theorem State.futureEnter_wf {s : State} (hs : s.memoriesWf) {lane : Nat} {t : Target} {v : Dword} :
    (s.futureEnter lane t v).memoriesWf := by
  unfold State.futureEnter
  split
  · extract_lets +onlyGivenNames -underBinder s1
    have hs1' : s1.memoriesWf := State.atomWrite_wf hs
    exact State.onMe_wf hs1'
  · exact hs

theorem State.futureResult_wf {s : State} (hs : s.memoriesWf) {w : LR} {lane : Nat} {v : Dword} : (s.futureResult w lane v).memoriesWf := by
  unfold State.futureResult
  exact State.onMe_wf hs

theorem State.freadOne_wf {s : State} (hs : s.memoriesWf) {w : LR} {lane : Nat} {t : Target} : (s.freadOne w lane t).2.memoriesWf := by
  unfold State.freadOne
  extract_lets +onlyGivenNames v s1
  have h1 : s1.memoriesWf := State.futureEnter_wf hs
  split
  · refine State.futureResult_wf ?_
    split
    · extract_lets r
      have hr : r.2.memoriesWf := State.receiveShared_wf h1
      exact hr
    · exact h1
  · exact h1

theorem State.dropWaits_wf {s : State} (hs : s.memoriesWf) {uid : Nat} : (s.dropWaits uid).memoriesWf := by
  unfold State.dropWaits
  exact same hs

theorem State.freadPark_wf {s : State} (hs : s.memoriesWf) {left : BitVec 32} {outs : List (Nat × Nat × Target)} {occ : Nat} :
    (s.freadPark left outs occ).memoriesWf := by
  unfold State.freadPark
  extract_lets +onlyGivenNames -underBinder mine window keys s1
  have hs1' : s1.memoriesWf := State.dropWaits_wf hs
  exact ite_wf (State.parkMe_wf hs1') (State.parkMe_wf (same hs1'))

theorem State.addMask_wf {s : State} (hs : s.memoriesWf) {uid : Nat} {m : BitVec 32} : (s.addMask uid m).memoriesWf := by
  unfold State.addMask
  exact State.onMe_wf hs

theorem execFread_keeps {s : State} {w : LR} : Result.Keeps (execFread w s) s := by
  unfold execFread
  refine State.laneRun_keeps fun act hs => ?_
  extract_lets +onlyGivenNames act0 outs good r u
  have hr : r.2.memoriesWf := foldl_inv (P := fun p : BitVec 32 × State => p.2.memoriesWf) hs fun _ _ hx => State.freadOne_wf hx
  have hu : u.memoriesWf := State.fillLanes_wf hr
  exact ite_wf (State.addMask_wf (State.finishLanes_wf hu hu)) (ite_wf (State.switch_wf (State.dropWaits_wf (State.clearV_wf hu)))
    (State.freadPark_wf hu))

theorem State.ffillOne_wf {s t : State} (hs : s.memoriesWf) {lane a : Nat} {tg : Target} {payload : Dword}
    (ht : s.ffillOne lane a tg payload = some t) : t.memoriesWf := by
  unfold State.ffillOne at ht
  extract_lets +onlyGivenNames v at ht
  split at ht
  · cases ht
  · extract_lets +onlyGivenNames new m r e s1 s2 s3 woken parked waits s4 at ht
    have h1 : s1.memoriesWf := State.publishLanes_wf hs
    have h2 : s2.memoriesWf := by
      dsimp only [s2]
      split
      · exact window_wf h1 h1
      · exact State.futureEnter_wf h1
    have h3 : s3.memoriesWf := by
      dsimp only [s3]
      split
      next l _ _ => exact State.forgetWord_wf h2 (l := l)
      next => exact h2
    have h4 : s4.memoriesWf := State.wake_wf h3
    cases ht
    exact h4

theorem execFfill_keeps {s : State} {w : LR} : Result.Keeps (execFfill w s) s := by
  unfold execFfill
  refine State.laneRun_keeps fun act hs => ?_
  extract_lets +onlyGivenNames outs r u
  have hr : r.2.memoriesWf := by
    refine foldl_inv (P := fun p : List (Nat × Check) × State => p.2.memoriesWf) hs fun a x hx => ?_
    dsimp only
    split
    · split
      next hu => exact State.ffillOne_wf hx hu
      next => exact hx
    · exact hx
  have hu : u.memoriesWf := State.fillLanes_wf hr
  exact ite_wf (State.switch_wf hu) (State.finishLanes_wf hu hu)

/-! KVX. -/

theorem State.tlbFill_wf {s : State} (hs : s.memoriesWf) {core ctx : Nat} {t : KvTuple} {fg : Nat} :
    (s.tlbFill core ctx t fg).memoriesWf := by
  unfold State.tlbFill
  split
  · exact hs
  · exact same hs

theorem State.kvxWrite_wf {s : State} (hs : s.memoriesWf) {w : LR} {nf : Bool} {t : KvTuple} {i : Nat} {k : KvLane} :
    (s.kvxWrite w nf t i k).memoriesWf := by
  unfold State.kvxWrite
  extract_lets +onlyGivenNames -underBinder m
  split
  · extract_lets +onlyGivenNames -underBinder s1
    have hs1' : s1.memoriesWf := State.fillTlb_wf (State.tlbFill_wf hs)
    exact State.onMe_wf (State.clearV_wf hs1')
  · exact ite_wf (State.onMe_wf hs) hs

theorem State.kvxRun_keeps {s : State} {w : LR} {nf : Bool} : Result.Keeps (s.kvxRun w nf) s := by
  unfold State.kvxRun
  refine State.laneRun_keeps fun _ hs => ?_
  split
  · exact ite_wf (State.switch_wf hs) (State.takeTrap_wf hs)
  · exact State.finishParts_wf (foldl_wf hs fun _ _ hx => State.kvxWrite_wf hx) (State.switch_wf (foldl_wf hs fun _ _ hx
      => State.kvxWrite_wf hx))

theorem execKvx_keeps {s : State} {w : LR} : Result.Keeps (execKvx w s) s := by
  unfold execKvx
  exact State.kvxRun_keeps

theorem execKvxNf_keeps {s : State} {w : LR} : Result.Keeps (execKvxNf w s) s := by
  unfold execKvxNf
  exact State.kvxRun_keeps

theorem execKvinv_keeps {s : State} {w : UC} : Result.Keeps (execKvinv w s) s := by
  unfold execKvinv
  exact State.uniRun_keeps fun hs => State.switch_wf (same hs)

/-! Tiles of a block. -/

theorem State.onTile_wf {s : State} (hs : s.memoriesWf) {blk t : Nat} {f : Tile → Tile} : (s.onTile blk t f).memoriesWf := by
  unfold State.onTile
  exact State.onBlock_wf hs

/-! Reservation slots. -/

theorem State.setSlot_wf {s : State} (hs : s.memoriesWf) {slot : Nat} {r : Option Resv} : (s.setSlot slot r).memoriesWf := by
  unfold State.setSlot
  exact State.onMe_wf hs

theorem execMres_keeps {s : State} {w : UC} : Result.Keeps (execMres w s) s := by
  unfold execMres
  exact State.uniRun_keeps fun hs => ite_wf (State.trapAll_wf hs) (ite_wf (State.parkMe_wf hs) (State.switch_wf (State.setSlot_wf hs)))

theorem execMrel_keeps {s : State} {w : UC} : Result.Keeps (execMrel w s) s := by
  unfold execMrel
  exact State.uniRun_keeps fun hs => ite_wf (State.parkMe_wf hs) (State.switch_wf (State.setSlot_wf hs))

/-! Queues. -/

theorem State.drainQueue_wf {s : State} (hs : s.memoriesWf) {uid fuel : Nat} : (s.drainQueue uid fuel).memoriesWf := by
  induction fuel generalizing s with
  | zero => exact hs
  | succ fuel ih =>
    unfold State.drainQueue
    dsimp only
    split
    · exact hs
    split
    · exact ih (State.onTile_wf (same hs))
    split
    · exact ih (same hs)
    · exact hs

theorem State.wakeMatrix_wf {s : State} (hs : s.memoriesWf) : s.wakeMatrix.memoriesWf := by
  unfold State.wakeMatrix
  exact State.wake_wf hs

theorem State.settleQueue_wf {s : State} (hs : s.memoriesWf) {uid : Nat} : (s.settleQueue uid).memoriesWf := by
  unfold State.settleQueue
  exact State.drainQueue_wf hs

theorem State.pushMma_wf {s : State} (hs : s.memoriesWf) {c : List Word} {follows : Option Nat} {party : Party} {id : Nat} :
    (s.pushMma c follows party id).memoriesWf := by
  unfold State.pushMma
  extract_lets +onlyGivenNames -underBinder g blk ra rb m s1 s2
  have hs1' : s1.memoriesWf := same hs
  have hs2' : s2.memoriesWf := ite_wf hs1' (State.onTile_wf hs1')
  exact State.settleQueue_wf hs2'

theorem execMma_keeps {s : State} {w : UC} : Result.Keeps (execMma w s) s := by
  unfold execMma
  exact State.uniRun_keeps fun hs => ite_wf (State.trapAll_wf hs) (ite_wf (State.parkMe_wf hs) (State.switch_wf (State.pushMma_wf
    (State.fresh_wf (State.sendLanes_wf hs)))))

theorem execMfen_keeps {s : State} {w : UC} : Result.Keeps (execMfen w s) s := by
  unfold execMfen
  exact State.uniRun_keeps fun hs => State.switch_wf (State.onMe_wf hs)

theorem execMwait_keeps {s : State} {w : UC} : Result.Keeps (execMwait w s) s := by
  unfold execMwait
  exact State.uniRun_keeps fun hs => ite_wf (State.trapAll_wf hs) (ite_wf (State.parkMe_wf hs) (State.switch_wf (State.foldSent_wf
    (State.receiveLanes_wf hs))))

/-! Tile counters and watermarks. -/

theorem execTwm_keeps {s : State} {w : UF} : Result.Keeps (execTwm w s) s := by
  unfold execTwm
  exact State.uniRun_keeps fun hs => ite_wf (State.trapAll_wf hs) (State.switch_wf (State.onMe_wf hs))

theorem execTstat_keeps {s : State} {w : UF} : Result.Keeps (execTstat w s) s := by
  unfold execTstat
  exact State.uniRun_keeps fun hs => ite_wf (State.trapAll_wf hs) (ite_wf (State.parkMe_wf hs) (State.switch_wf (State.onMe_wf
    (State.clearK_wf hs))))

theorem execTclr_keeps {s : State} {w : UF} : Result.Keeps (execTclr w s) s := by
  unfold execTclr
  exact State.uniRun_keeps fun hs => ite_wf (State.trapAll_wf hs) (State.switch_wf (State.settleQueue_wf (same (State.fresh_wf hs))))

/-! The array. -/

theorem State.addAgg_wf {s : State} (hs : s.memoriesWf) {h i n : Nat} : (s.addAgg h i n).memoriesWf := by
  unfold State.addAgg
  extract_lets +onlyGivenNames -underBinder d row
  exact same hs

theorem State.putMma_wf {s : State} (hs : s.memoriesWf) {m : Mma} : (s.putMma m).memoriesWf := by
  unfold State.putMma
  exact same hs

theorem State.mmaAdvance_wf {s : State} (hs : s.memoriesWf) {m : Mma} {stop fuel : Nat} : (s.mmaAdvance m stop fuel).2.memoriesWf := by
  induction fuel generalizing s m with
  | zero => exact hs
  | succ fuel ih =>
    unfold State.mmaAdvance
    split
    · exact hs
    split
    · exact ih (State.addAgg_wf (State.addAgg_wf (State.addAgg_wf (State.onTile_wf hs))))
    · exact hs

theorem State.foldRunning_wf {s : State} (hs : s.memoriesWf) {ss : List Sender} : (s.foldRunning ss).memoriesWf := by
  unfold State.foldRunning
  exact same hs

theorem State.mmaAbort_wf {s : State} (hs : s.memoriesWf) {m : Mma} {va : Nat} : (s.mmaAbort m va).memoriesWf := by
  unfold State.mmaAbort
  exact State.takeFatal_wf hs

theorem execMmaStart_keeps {s : State} {core : Nat} : Result.Keeps (execMmaStart core s) s := by
  refine next_keeps fun hs => ?_
  split
  · exact hs
  split
  · exact State.mmaAbort_wf hs
  · extract_lets ss e m1
    have h : ((((s.settleEdge e).foldSent ss).foldRunning ss).putMma m1).memoriesWf :=
      State.putMma_wf (State.foldRunning_wf (State.foldSent_wf (State.settleEdge_wf hs)))
    exact h

theorem State.clearRows_wf {s : State} (hs : s.memoriesWf) {blk t lo hi n : Nat} : (s.clearRows blk t lo hi n).memoriesWf := by
  unfold State.clearRows
  exact ite_wf hs (same hs)

theorem State.writeRows_wf {s : State} (hs : s.memoriesWf) {m : Mma} : (s.writeRows m).memoriesWf := by
  unfold State.writeRows
  extract_lets +onlyGivenNames -underBinder tile rows cs m1 last s1 s2
  have hs1' : s1.memoriesWf := State.putMma_wf (State.clearRows_wf (State.onTile_wf hs))
  have hs2' : s2.memoriesWf := ite_wf (State.settleQueue_wf (same hs1')) hs1'
  exact State.wakeMatrix_wf hs2'

theorem State.arrayStep_wf {s : State} (hs : s.memoriesWf) {core : Nat} : (s.arrayStep core).memoriesWf := by
  unfold State.arrayStep
  split
  · exact hs
  · split
    · exact State.mmaAbort_wf hs
    · extract_lets +onlyGivenNames -underBinder r
      have hr' : r.2.memoriesWf := State.mmaAdvance_wf hs
      exact State.putMma_wf hr'

theorem execMmaWriteback_keeps {s : State} {core : Nat} : Result.Keeps (execMmaWriteback core s) s := by
  unfold execMmaWriteback
  refine next_keeps fun hs => ?_
  split
  · exact State.writeRows_wf hs
  · split
    · exact State.mmaAbort_wf hs
    · exact State.writeRows_wf (State.mmaAdvance_wf hs)
  · exact hs

/-! Cells by lane (R287, R288). -/

theorem State.receiveRow_wf {s : State} (hs : s.memoriesWf) {lane blk t i : Nat} : (s.receiveRow lane blk t i).memoriesWf := by
  unfold State.receiveRow
  exact ite_wf hs (State.foldRunning_wf (State.foldSent_wf (State.onMe_wf (State.receiveLanes_wf hs))))

theorem State.acldLane_wf {s : State} (hs : s.memoriesWf) {w : LR} {i : Nat} : (s.acldLane w i).memoriesWf := by
  unfold State.acldLane
  extract_lets +onlyGivenNames -underBinder t c kind m s1 v s2
  have hs1' : s1.memoriesWf := State.receiveRow_wf hs
  have hs2' : s2.memoriesWf := State.addEv_wf hs1'
  exact ite_wf (State.onMe_wf (State.clearV_wf hs2')) (State.onMe_wf hs2')

theorem State.acstLane_wf {s : State} (hs : s.memoriesWf) {w : LR} {i : Nat} : (s.acstLane w i).memoriesWf := by
  unfold State.acstLane
  extract_lets +onlyGivenNames -underBinder t c kind v q s1
  have hs1' : s1.memoriesWf := State.onTile_wf hs
  exact State.addEv_wf (State.onMe_wf hs1')

theorem State.cellRun_keeps {s : State} {w : LR} {srcs : List (BitVec 8 × Nat)} {store : Bool} {f : State → Nat → State}
    (hf : ∀ t i, t.memoriesWf → (f t i).memoriesWf) : Result.Keeps (s.cellRun w srcs store f) s := by
  unfold State.cellRun
  refine State.laneRun_keeps fun act hs => ?_
  dsimp only
  exact ite_wf (State.parkMe_wf hs) (ite_wf (State.switch_wf (foldl_wf hs hf)) (State.takeTrap_wf (foldl_wf hs hf)))

theorem execAcld_keeps {s : State} {w : LR} : Result.Keeps (execAcld w s) s := by
  unfold execAcld
  exact State.cellRun_keeps fun _ _ hx => State.acldLane_wf hx

theorem execAcst_keeps {s : State} {w : LR} : Result.Keeps (execAcst w s) s := by
  unfold execAcst
  exact State.cellRun_keeps fun _ _ hx => State.acstLane_wf hx

/-! A run of an operation. -/

theorem Run.andThen_wf {r : Run} (hs : r.s.memoriesWf) {f : Run → Run} (hf : r.s.memoriesWf → (f r).s.memoriesWf) :
    (r.andThen f).s.memoriesWf := by
  unfold Run.andThen
  split
  · exact hs
  · exact hf hs

theorem Run.halt_wf {r : Run} (hs : r.s.memoriesWf) {x : OpStop} : (r.halt x).s.memoriesWf := by
  unfold Run.halt
  exact hs

theorem Run.fill_wf {r : Run} (hs : r.s.memoriesWf) {va : Nat} : (r.fill va).s.memoriesWf := by
  unfold Run.fill
  exact State.fillTlb_wf hs

theorem Run.globRead_wf {r : Run} (hs : r.s.memoriesWf) {va n : Nat} : (r.globRead va n).1.s.memoriesWf := by
  unfold Run.globRead
  refine foldl_inv (P := fun p : Run × _ => p.1.s.memoriesWf) hs fun _ _ hx => ?_
  split
  · exact hx
  · split
    · exact Run.fill_wf hx
    · exact Run.halt_wf hx

theorem Run.framePiece_wf {r : Run} (hs : r.s.memoriesWf) {va n : Nat} {used : List Nat} : (r.framePiece va n used).1.s.memoriesWf := by
  unfold Run.framePiece
  split
  · exact hs
  · split
    · exact Run.halt_wf hs
    · split
      · exact Run.halt_wf hs
      · exact Run.fill_wf hs

theorem Run.frameRead_wf {r : Run} (hs : r.s.memoriesWf) {va n : Nat} {need : Nat → Bool} : (r.frameRead va n need).1.s.memoriesWf := by
  unfold Run.frameRead
  refine foldl_inv (P := fun p : Run × _ => p.1.s.memoriesWf) hs fun _ _ hx => ?_
  split
  · exact hx
  · exact Run.framePiece_wf hx

theorem Run.store_wf {r : Run} (hs : r.s.memoriesWf) {va : Nat} {p : Place} {bs : List Byte} : (r.store va p bs).s.memoriesWf := by
  have hlog : (if (Check.ok (.glob p)).logged then r.s.growLog r.o.grid va ((r.s.putOp r.o).pendingBytes r.o.grid)
      else (.ok (.beyond 0 0), r.s)).2.memoriesWf := by
    split
    · exact State.growLog_wf hs
    · exact hs
  unfold Run.store
  split
  next hu => rw [hu] at hlog; exact hlog
  next => exact Run.halt_wf hs
  next hu => rw [hu] at hlog; exact Run.fill_wf (State.storeBytes_wf hlog)

theorem Run.globWrite_wf {r : Run} (hs : r.s.memoriesWf) {va : Nat} {bs : List Byte} : (r.globWrite va bs).s.memoriesWf := by
  unfold Run.globWrite
  refine foldl_inv (P := fun p : Run => p.s.memoriesWf) hs fun _ _ hx => Run.andThen_wf hx fun hx => ?_
  split
  · exact Run.store_wf hx
  · exact Run.halt_wf hx

theorem Run.noteOob_wf {r : Run} (hs : r.s.memoriesWf) {wr : Bool} {off : Nat} : (r.noteOob wr off).s.memoriesWf := by
  unfold Run.noteOob
  split
  · exact hs
  · exact State.recordSpad_wf hs

theorem Run.spadRead_wf {r : Run} (hs : r.s.memoriesWf) {offs : List Nat} : (r.spadRead offs).1.s.memoriesWf := by
  unfold Run.spadRead
  extract_lets +onlyGivenNames sb bad sick r1 r2
  clear_value bad sick
  have h1 : r1.s.memoriesWf := by
    dsimp only [r1]
    split
    · exact hs
    · exact Run.noteOob_wf hs
  change r2.s.memoriesWf
  dsimp only [r2]
  split
  · exact Run.halt_wf h1
  · exact h1

theorem Run.spadWriteIn_wf {r : Run} (hs : r.s.memoriesWf) {ts : List Nat} {bs : List (Nat × Byte)} :
    (r.spadWriteIn ts bs).s.memoriesWf := by
  unfold Run.spadWriteIn
  extract_lets +onlyGivenNames sb bad r1
  clear_value bad
  change r1.s.memoriesWf
  dsimp only [r1]
  split
  · exact hs
  · exact Run.noteOob_wf hs

theorem Run.spadWrite_wf {r : Run} (hs : r.s.memoriesWf) {bs : List (Nat × Byte)} : (r.spadWrite bs).s.memoriesWf := by
  unfold Run.spadWrite
  exact Run.spadWriteIn_wf hs

theorem Run.clearSpad_wf {r : Run} (hs : r.s.memoriesWf) {off n : Nat} : (r.clearSpad off n).s.memoriesWf := by
  unfold Run.clearSpad
  exact foldl_wf hs fun _ _ hx => State.clearMem_wf hx

theorem Run.events_wf {r : Run} (hs : r.s.memoriesWf) {e : Ev} : (r.events e).s.memoriesWf := by
  unfold Run.events
  exact hs

theorem State.cpEvent_wf {s : State} (hs : s.memoriesWf) {c ev pos val : Nat} : (s.cpEvent c ev pos val).memoriesWf := by
  unfold State.cpEvent
  exact State.onCtx_wf hs

theorem Run.cpEvent_wf {r : Run} (hs : r.s.memoriesWf) {ev pos val : Nat} : (r.cpEvent ev pos val).s.memoriesWf := by
  unfold Run.cpEvent
  exact State.cpEvent_wf hs

/-! Elements of a row. -/

theorem Run.rowRead_wf {r : Run} (hs : r.s.memoriesWf) {va n : Nat} : (r.rowRead va n).1.s.memoriesWf := by
  unfold Run.rowRead
  extract_lets +onlyGivenNames -underBinder t w all
  split
  · exact Run.halt_wf hs
  · extract_lets +onlyGivenNames -underBinder x
    have hx' : x.1.s.memoriesWf := Run.globRead_wf hs
    exact hx'

theorem Run.rowWrite_wf {r : Run} (hs : r.s.memoriesWf) {va n row : Nat} : (r.rowWrite va n row).s.memoriesWf := by
  unfold Run.rowWrite
  extract_lets +onlyGivenNames -underBinder t w
  split
  · exact Run.halt_wf hs
  · extract_lets +onlyGivenNames -underBinder whole rest r1
    have hr1' : r1.s.memoriesWf := Run.globWrite_wf hs
    split
    · exact hr1'
    · extract_lets +onlyGivenNames -underBinder x
      have hx' : x.1.s.memoriesWf := Run.globRead_wf hr1'
      exact Run.andThen_wf hx' fun hx => Run.globWrite_wf hx

theorem Run.tileWrite_wf {r : Run} (hs : r.s.memoriesWf) {i row : Nat} : (r.tileWrite i row).s.memoriesWf := by
  unfold Run.tileWrite
  exact Run.clearSpad_wf (Run.spadWrite_wf hs)

/-! Plane loads (R158). -/

theorem Run.planeWrite_wf {r : Run} (hs : r.s.memoriesWf) {v : Resv} {kb i k bits : Nat} : (r.planeWrite v kb i k bits).s.memoriesWf := by
  unfold Run.planeWrite
  exact foldl_inv (P := fun p : Run => p.s.memoriesWf) hs fun _ _ hx => Run.spadWriteIn_wf hx

theorem Run.planeRow_wf {r : Run} (hs : r.s.memoriesWf) {v : Resv} {i row : Nat} : (r.planeRow v i row).s.memoriesWf := by
  unfold Run.planeRow
  extract_lets +onlyGivenNames -underBinder t w
  exact foldl_inv (P := fun p : Run => p.s.memoriesWf) hs fun _ _ hx => Run.events_wf (Run.planeWrite_wf hx)

theorem Run.planeScales_wf {r : Run} (hs : r.s.memoriesWf) {v : Resv} : (r.planeScales v).s.memoriesWf := by
  unfold Run.planeScales
  split
  · exact hs
  · extract_lets +onlyGivenNames -underBinder n x
    have hx' : x.1.s.memoriesWf := Run.globRead_wf hs
    exact Run.andThen_wf hx' fun hx => Run.clearSpad_wf (Run.spadWrite_wf hx)

/-! Copies (R318, R319). -/

theorem Run.fetchEntries_wf {r : Run} (hs : r.s.memoriesWf) {i : Nat} : (r.fetchEntries i).s.memoriesWf := by
  unfold Run.fetchEntries
  extract_lets +onlyGivenNames -underBinder t j p
  split
  · exact hs
  · exact foldl_inv (P := fun p : Run => p.s.memoriesWf) hs fun _ _ hx => Run.andThen_wf hx fun hx => Run.globRead_wf hx

theorem Run.index_wf {r : Run} (hs : r.s.memoriesWf) {i : Nat} : (r.index i).1.s.memoriesWf := by
  unfold Run.index
  extract_lets +onlyGivenNames -underBinder t p x
  have hx' : x.s.memoriesWf := Run.fetchEntries_wf hs
  split
  · split
    · exact hx'
    · split
      · exact hx'
      · exact Run.cpEvent_wf hx'
  · exact hx'

theorem Run.deliverRow_wf {r : Run} (hs : r.s.memoriesWf) {i row : Nat} : (r.deliverRow i row).s.memoriesWf := by
  unfold Run.deliverRow
  split
  · exact Run.planeRow_wf hs
  · exact Run.tileWrite_wf hs

theorem Run.tileRead_wf {r : Run} (hs : r.s.memoriesWf) {i : Nat} : (r.tileRead i).1.s.memoriesWf := by
  unfold Run.tileRead
  extract_lets +onlyGivenNames -underBinder x
  have hx' : x.1.s.memoriesWf := Run.spadRead_wf hs
  exact hx'

theorem State.flushByte_wf {s : State} (hs : s.memoriesWf) {pa : Nat} {b : Byte} : (s.flushByte pa b).memoriesWf := by
  unfold State.flushByte
  exact same hs

theorem Run.flushRow_wf {r : Run} (hs : r.s.memoriesWf) {va n : Nat} : (r.flushRow va n).s.memoriesWf := by
  unfold Run.flushRow
  refine foldl_inv (P := fun p : Run => p.s.memoriesWf) hs fun _ _ hx => ?_
  split
  · exact Run.halt_wf hx
  · exact foldl_wf hx fun _ _ hx => State.flushByte_wf hx
  · exact hx

theorem Run.inBounds_wf {r : Run} (hs : r.s.memoriesWf) {va n : Nat} {f : Run → Run} (hf : r.s.memoriesWf → (f r).s.memoriesWf) :
    (r.inBounds va n f).s.memoriesWf := by
  unfold Run.inBounds
  split
  · exact Run.halt_wf hs
  · exact hf hs

theorem Run.peerRow_wf {r : Run} (hs : r.s.memoriesWf) {va n : Nat} : (r.peerRow va n).s.memoriesWf := by
  unfold Run.peerRow
  extract_lets port en
  clear_value port en
  split
  · exact Run.halt_wf hs
  · exact hs

theorem Run.copyRow_wf {r : Run} (hs : r.s.memoriesWf) {kind i : Nat} : (r.copyRow kind i).s.memoriesWf := by
  unfold Run.copyRow
  extract_lets +onlyGivenNames -underBinder c t place fill
  split
  · extract_lets +onlyGivenNames -underBinder x
    have hx' : x.1.s.memoriesWf := Run.tileRead_wf hs
    exact Run.andThen_wf hx' fun hx => Run.rowWrite_wf hx
  · extract_lets +onlyGivenNames -underBinder x
    have hx' : x.1.s.memoriesWf := Run.index_wf hs
    refine Run.andThen_wf hx' fun hx => ?_
    split
    · exact Run.andThen_wf (Run.rowRead_wf hx) fun hx => Run.deliverRow_wf hx
    · exact Run.deliverRow_wf hx
  · extract_lets +onlyGivenNames -underBinder x
    have hx' : x.1.s.memoriesWf := Run.index_wf hs
    refine Run.andThen_wf hx' fun hx => ?_
    split
    · exact Run.andThen_wf (Run.tileRead_wf hx) fun hx => Run.rowWrite_wf hx
    · exact Run.tileRead_wf hx
  · split
    · exact Run.rowWrite_wf hs
    · exact Run.tileWrite_wf hs
  · exact Run.inBounds_wf hs fun hx => Run.andThen_wf (Run.peerRow_wf hx) fun hx => Run.tileRead_wf hx
  · exact Run.inBounds_wf hs fun hx => Run.flushRow_wf hx
  · extract_lets +onlyGivenNames -underBinder x
    have hx' : x.1.s.memoriesWf := Run.rowRead_wf hs
    exact Run.andThen_wf hx' fun hx => Run.deliverRow_wf hx

theorem Run.rows_wf {r : Run} (hs : r.s.memoriesWf) {n : Nat} {f : Run → Nat → Run}
    (hf : ∀ a i, a.s.memoriesWf → (f a i).s.memoriesWf) : (r.rows n f).s.memoriesWf := by
  unfold Run.rows
  exact foldl_inv (P := fun p : Run => p.s.memoriesWf) hs fun _ _ hx => Run.andThen_wf hx fun hx => hf _ _ hx

theorem Run.copy_wf {r : Run} (hs : r.s.memoriesWf) {kind : Nat} : (r.copy kind).s.memoriesWf := by
  unfold Run.copy
  refine Run.andThen_wf (Run.rows_wf hs fun _ _ hx => Run.copyRow_wf hx) fun hx => ?_
  split
  · exact Run.planeScales_wf (Run.clearSpad_wf hx)
  · exact hx

/-! KV operations. -/

theorem Run.kvElem_wf {r : Run} (hs : r.s.memoriesWf) {root : List Byte} {kind n d bits scale : Nat} :
    (r.kvElem root kind n d bits scale).s.memoriesWf := by
  unfold Run.kvElem
  extract_lets +onlyGivenNames -underBinder dim es count
  split
  · exact Run.events_wf (Run.planeWrite_wf hs)
  · exact Run.spadWrite_wf hs

theorem Run.kvScale_wf {r : Run} (hs : r.s.memoriesWf) {root : List Byte} {n : Nat} {b : Byte} : (r.kvScale root n b).s.memoriesWf := by
  unfold Run.kvScale
  split
  · exact Run.spadWrite_wf hs
  · exact hs

theorem Run.kvToken_wf {r : Run} (hs : r.s.memoriesWf) {root : List Byte} {kind n t : Nat} {frame : Option (List Byte)} :
    (r.kvToken root kind n t frame).s.memoriesWf := by
  unfold Run.kvToken
  extract_lets +onlyGivenNames -underBinder dim es
  split
  · extract_lets +onlyGivenNames -underBinder r1
    have hr1' : r1.s.memoriesWf := by
      dsimp only [r1]
      split
      · exact hs
      · exact foldl_inv (P := fun p : Run => p.s.memoriesWf) hs fun _ _ hx => Run.kvElem_wf hx
    exact Run.kvScale_wf hr1'
  · exact Run.kvScale_wf (foldl_inv (P := fun p : Run => p.s.memoriesWf) hs fun _ _ hx => Run.kvElem_wf hx)

theorem Run.kvBlock_wf {r : Run} (hs : r.s.memoriesWf) {root : List Byte} {i : Nat} : (r.kvBlock root i).s.memoriesWf := by
  unfold Run.kvBlock
  extract_lets +onlyGivenNames -underBinder c pos b tup first last
  split
  · exact Run.halt_wf hs
  · extract_lets +onlyGivenNames -underBinder x
    have hx' : x.1.s.memoriesWf := by
      dsimp only [x]
      split
      · exact hs
      · exact Run.frameRead_wf hs
    exact Run.andThen_wf hx' fun hx => foldl_inv (P := fun p : Run => p.s.memoriesWf) hx fun _ _ hx => Run.kvToken_wf hx

theorem Run.kvZero_wf {r : Run} (hs : r.s.memoriesWf) {root : List Byte} : (r.kvZero root).s.memoriesWf := by
  unfold Run.kvZero
  split
  · split
    · exact hs
    · exact Run.clearSpad_wf (Run.spadWrite_wf hs)
  · exact hs

theorem Run.kvClear_wf {r : Run} (hs : r.s.memoriesWf) {root : List Byte} : (r.kvClear root).s.memoriesWf := by
  unfold Run.kvClear
  split
  · exact hs
  · exact Run.clearSpad_wf hs

theorem Run.kvld_wf {r : Run} (hs : r.s.memoriesWf) : r.kvld.s.memoriesWf := by
  unfold Run.kvld
  dsimp only
  split
  · exact hs
  · split
    · exact hs
    · exact Run.kvClear_wf (Run.rows_wf (Run.kvZero_wf hs) fun _ _ hx => Run.kvBlock_wf hx)

theorem Run.andThen_all {r : Run} (hs : r.s.memoriesWf) {f : Run → Run} (hf : ∀ a : Run, a.s.memoriesWf → (f a).s.memoriesWf) :
    (r.andThen f).s.memoriesWf := Run.andThen_wf hs (hf r)

/-- The elements of a KVST, written into its frame. -/
def Run.kvstBody (y : Run) (t : KvTuple) (frame dim es : Nat) (opens : Bool) (body : List Byte) : Run :=
  let tok := t.pos % 64
  if t.kind = 0 then y.globWrite (frame + tok * dim * es) body
  else if opens then
    let old := if tok = 0 then (y, List.replicate (64 * dim * es) 0) else y.globRead frame (64 * dim * es)
    old.1.andThen fun z => z.globWrite frame (frameRows dim es tok body old.2)
  else (List.range dim).foldl (fun (a : Run) d => a.andThen fun a =>
    a.globWrite (frame + (d * 64 + tok) * es) ((body.drop (d * es)).take es)) y

theorem Run.kvstBody_wf {y : Run} (hy : y.s.memoriesWf) {t : KvTuple} {frame dim es : Nat} {opens : Bool} {body : List Byte} :
    (y.kvstBody t frame dim es opens body).s.memoriesWf := by
  unfold Run.kvstBody
  extract_lets +onlyGivenNames tok
  split
  · exact Run.globWrite_wf hy
  split
  · extract_lets old
    have hold : old.1.s.memoriesWf := by
      dsimp only [old]
      split
      · exact hy
      · exact Run.globRead_wf hy
    exact Run.andThen_wf hold fun hz => Run.globWrite_wf hz
  · exact foldl_inv (P := fun p : Run => p.s.memoriesWf) hy fun _ _ hx => Run.andThen_wf hx fun hx => Run.globWrite_wf hx

/-- The run of a KVST of the tuple `t` in a root. -/
def Run.kvstIn (r : Run) (t : KvTuple) (frame dim es : Nat) : Run :=
  let x := r.spadRead ((List.range (dim * es + (if es = 1 then 1 else 0))).map fun i => cpyWord r.o.cmd 2 % 2 ^ 24 + i)
  x.1.andThen fun y => (y.kvstBody t frame dim es (r.s.openFrame r.o frame).isNone (x.2.take (dim * es))).andThen fun z =>
    if es = 1 then z.globWrite (frame + 64 * dim + t.pos % 64) (x.2.drop dim) else z

theorem Run.kvstIn_wf {r : Run} (hs : r.s.memoriesWf) {t : KvTuple} {frame dim es : Nat} :
    (r.kvstIn t frame dim es).s.memoriesWf := by
  refine Run.andThen_all (Run.spadRead_wf hs) fun y hy => Run.andThen_all (Run.kvstBody_wf hy) fun z hz => ?_
  split
  · exact Run.globWrite_wf hz
  · exact hz

theorem Run.kvst_eq (r : Run) : r.kvst = match r.grid.kvRoot with
    | none => r
    | some root =>
      match r.kvstFrame root (kvstTuple r.o.cmd) with
      | .error e => r.halt (e.opStop (kvstTuple r.o.cmd) r.walker.master)
      | .ok frame => r.kvstIn (kvstTuple r.o.cmd) frame (kvDim root) (kvEs root) := rfl

theorem Run.kvst_wf {r : Run} (hs : r.s.memoriesWf) : r.kvst.s.memoriesWf := by
  rw [r.kvst_eq]
  split
  · exact hs
  split
  · exact Run.halt_wf hs
  · exact Run.kvstIn_wf hs

/-! MRG (R335, R336). -/

theorem Run.word_wf {r : Run} (hs : r.s.memoriesWf) {va i : Nat} : (r.word va i).1.s.memoriesWf := by
  unfold Run.word
  extract_lets +onlyGivenNames -underBinder x
  have hx' : x.1.s.memoriesWf := Run.globRead_wf hs
  exact hx'

theorem Run.emit_wf {r : Run} (hs : r.s.memoriesWf) {o n c v : Nat} : (r.emit o n c v).s.memoriesWf := by
  unfold Run.emit
  exact Run.andThen_wf (Run.globWrite_wf hs) fun hx => Run.globWrite_wf hx

theorem Run.sorted_wf {r : Run} (hs : r.s.memoriesWf) {i : Nat} {prev : Option Nat} {c : Nat} : (r.sorted i prev c).s.memoriesWf := by
  unfold Run.sorted
  split
  · split
    · exact Run.cpEvent_wf hs
    · exact hs
  · exact hs

theorem Run.mergeRow_wf {r : Run} (hs : r.s.memoriesWf) {i o a1 b1 : Nat} {m : MrgRow} {fuel : Nat} :
    (r.mergeRow i o a1 b1 m fuel).1.s.memoriesWf := by
  induction fuel generalizing r m with
  | zero => exact hs
  | succ fuel ih =>
    unfold Run.mergeRow
    split
    · exact hs
    · extract_lets +onlyGivenNames t
      split
      next sub kz _ =>
        extract_lets +onlyGivenNames xa xb va vb r1 r2
        have hxa : xa.1.s.memoriesWf := by
          dsimp only [xa]
          split
          · exact Run.word_wf hs
          · exact hs
        have hxb : xb.1.s.memoriesWf := by
          dsimp only [xb]
          split
          · exact Run.word_wf hxa
          · exact hxa
        have hva : va.1.s.memoriesWf := by
          dsimp only [va]
          split
          · exact Run.word_wf hxb
          · exact hxb
        have hvb : vb.1.s.memoriesWf := by
          dsimp only [vb]
          split
          · exact Run.word_wf hva
          · exact hva
        have h1 : r1.s.memoriesWf := by
          dsimp only [r1]
          split
          · exact Run.sorted_wf hvb
          · exact hvb
        have h2 : r2.s.memoriesWf := by
          dsimp only [r2]
          split
          · exact Run.sorted_wf h1
          · exact h1
        clear_value r2 vb
        split
        · exact hvb
        split
        · exact ih (Run.emit_wf h2)
        split
        · exact ih (Run.emit_wf h2)
        · extract_lets +onlyGivenNames rm v m1 r3
          have h3 : r3.s.memoriesWf := Run.events_wf h2
          split
          · exact ih h3
          · exact ih (Run.emit_wf h3)

theorem Run.mrgRow_wf {r : Run} (hs : r.s.memoriesWf) {i : Nat} : (r.mrgRow i).s.memoriesWf := by
  unfold Run.mrgRow
  extract_lets +onlyGivenNames -underBinder t a0 a1 b0 b1
  have ha0' : a0.1.s.memoriesWf := Run.word_wf hs
  have ha1' : a1.1.s.memoriesWf := Run.word_wf ha0'
  have hb0' : b0.1.s.memoriesWf := Run.word_wf ha1'
  have hb1' : b1.1.s.memoriesWf := Run.word_wf hb0'
  refine Run.andThen_wf hb1' fun hx => Run.andThen_wf (Run.mergeRow_wf ?_) fun hx => Run.globWrite_wf hx
  split
  · exact Run.cpEvent_wf hx
  · split
    · exact Run.cpEvent_wf hx
    · exact hx

theorem Run.mrg_wf {r : Run} (hs : r.s.memoriesWf) : r.mrg.s.memoriesWf := by
  unfold Run.mrg
  exact Run.rows_wf hs fun _ _ hx => Run.mrgRow_wf hx

theorem State.opRun_wf {s : State} (hs : s.memoriesWf) {o : Op} : (s.opRun o).s.memoriesWf := by
  unfold State.opRun
  extract_lets +onlyGivenNames -underBinder r
  have hr' : r.s.memoriesWf := hs
  split
  · exact Run.copy_wf hr'
  · exact Run.kvld_wf hr'
  · exact Run.kvst_wf hr'
  · exact Run.mrg_wf hr'
  · exact hr'

/-! Records read at issue (R102, R335, R338). -/

theorem State.readTsr_wf {s t : State} (hs : s.memoriesWf) {va : Nat} {bs : List Byte} {miss : Bool}
    (ht : s.readTsr va = .ok (bs, miss, t)) :
    t.memoriesWf := by
  unfold State.readTsr at ht
  dsimp only at ht
  split at ht
  · cases ht
    exact hs
  · cases hr : s.readRecord (s.me.thread (lowLane s.me.cur)).party va 192 with
    | error c => rw [hr] at ht; cases ht
    | ok r => rw [hr] at ht; cases ht; exact hs

/-! Issue (R313). -/

theorem State.issueOp_wf {s : State} (hs : s.memoriesWf) {kind : OpKind} {queue : Nat} {cmd : List Word} {record : List Byte} {slot : Option
    Resv} :
    (s.issueOp kind queue cmd record slot).2.memoriesWf := by
  unfold State.issueOp
  extract_lets +onlyGivenNames -underBinder marker e f g low blk qb after walker frame o _ s1
  have he' : e.2.memoriesWf := by
    dsimp only [e]
    split
    · exact hs
    · exact State.sendLanes_wf hs
  have hf' : f.2.memoriesWf := State.fresh_wf he'
  have hs1' : s1.memoriesWf := same hf'
  exact ite_wf hs1' (State.onGrid_wf hs1')

theorem State.follow_wf {s : State} (hs : s.memoriesWf) {op : Nat} {c : List Word} : (s.follow op c).memoriesWf := by
  unfold State.follow
  extract_lets +onlyGivenNames -underBinder f
  have hf' : f.2.memoriesWf := State.fresh_wf hs
  exact State.pushMma_wf hf'

theorem State.issueWith_wf {s : State} (hs : s.memoriesWf) {kx : Option Kx} {lat : Nat} {kind : OpKind} {queue : Nat} {cmd : List Word}
    {record : List Byte} {slot : Option Resv} {mma : Option (List Word)} :
        (s.issueWith kx lat kind queue cmd record slot mma).memoriesWf := by
  unfold State.issueWith
  refine ite_wf (State.parkMe_wf hs) ?_
  extract_lets r
  have hr : r.2.memoriesWf := State.issueOp_wf hs
  refine State.switch_wf ?_
  split
  · exact State.follow_wf hr
  · exact hr

/-! CPY and CPYM. -/

theorem State.issueCopy_keeps {s : State} {w : UC} {mma : Bool} : Result.Keeps (s.issueCopy w mma) s := by
  unfold State.issueCopy
  refine State.uniRun_keeps fun hs => ?_
  extract_lets +onlyGivenNames c kind mc
  clear_value c kind mc
  refine ite_wf (State.trapAll_wf hs) ?_
  generalize recordAddr (cpyTsr c) 64 = bad
  split
  · exact State.trapAll_wf hs
  split
  next => exact State.finishUni_wf hs hs
  next t miss s1 hr =>
    have h1 := State.readTsr_wf hs hr
    generalize cpyTrap s.me (s.block s.anchorBlk) kind mc mma c t = trap
    split
    · exact State.trapAll_wf h1
    · exact State.issueWith_wf h1

theorem execCpy_keeps {s : State} {w : UC} : Result.Keeps (execCpy w s) s := by
  unfold execCpy
  exact State.issueCopy_keeps

theorem execCpym_keeps {s : State} {w : UC} : Result.Keeps (execCpym w s) s := by
  unfold execCpym
  exact State.issueCopy_keeps

theorem execQfen_keeps {s : State} {w : UC} : Result.Keeps (execQfen w s) s := by
  unfold execQfen
  exact State.uniRun_keeps fun hs => State.issueWith_wf hs

/-! KV commands. -/

theorem execKvld_keeps {s : State} {w : UC} : Result.Keeps (execKvld w s) s := by
  unfold execKvld
  refine State.uniRun_keeps fun hs => ?_
  extract_lets
  split
  · exact State.trapAll_wf hs
  · exact State.issueWith_wf hs

theorem execKvst_keeps {s : State} {w : UC} : Result.Keeps (execKvst w s) s := by
  unfold execKvst
  refine State.uniRun_keeps fun hs => ?_
  extract_lets
  split
  · exact State.trapAll_wf hs
  · exact State.issueWith_wf hs

/-! MRG and RFEN. -/

theorem execMrg_keeps {s : State} {w : UC} : Result.Keeps (execMrg w s) s := by
  unfold execMrg
  refine State.uniRun_keeps fun hs => ?_
  extract_lets c
  clear_value c
  refine ite_wf (State.trapAll_wf hs) ?_
  generalize recordAddr (cpyTsr c) 32 = bad
  cases bad with
  | some cause => exact State.trapAll_wf hs
  | none =>
    generalize s.readRecord (s.me.thread (lowLane s.me.cur)).party (cpyTsr c) 96 = r
    cases r with
    | error k => exact State.finishUni_wf hs hs
    | ok t => exact ite_wf (State.trapAll_wf hs) (ite_wf (State.trapAll_wf hs) (State.issueWith_wf hs))

theorem execRfen_keeps {s : State} {w : UC} : Result.Keeps (execRfen w s) s := by
  unfold execRfen
  exact State.uniRun_keeps fun hs => State.switch_wf (same hs)

/-! Faults and aborts. -/

theorem State.creditAborts_wf {s : State} (hs : s.memoriesWf) {o : Op} : (s.creditAborts o).memoriesWf := by
  unfold State.creditAborts
  exact State.onGrid_wf hs

theorem State.abortOp_wf {s : State} (hs : s.memoriesWf) {o : Op} {cause va : Nat} {log : Option (Nat × Nat × Nat × Access)} :
    (s.abortOp o cause va log).memoriesWf := by
  unfold State.abortOp
  extract_lets +onlyGivenNames -underBinder s1
  have hs1' : s1.memoriesWf := by
    dsimp only [s1]
    split
    · exact State.logDenial_wf hs
    · exact hs
  exact State.takeFatal_wf (State.leaveBytes_wf (State.creditAborts_wf (State.cpEvent_wf hs1')))

theorem State.faultOp_wf {s : State} (hs : s.memoriesWf) {o : Op} {cause va kv : Nat} : (s.faultOp o cause va kv).memoriesWf := by
  unfold State.faultOp
  extract_lets +onlyGivenNames -underBinder rc
  split
  · exact State.abortOp_wf hs
  · exact State.postHeld_wf (State.trace_wf (State.putOp_wf hs))

theorem Run.stopped_wf {r : Run} (hs : r.s.memoriesWf) {x : OpStop} : (r.stopped x).memoriesWf := by
  unfold Run.stopped
  split
  · exact State.faultOp_wf (State.putOp_wf hs)
  · exact State.abortOp_wf (State.putOp_wf hs)
  · extract_lets +onlyGivenNames -underBinder _ x1
    have hx1' : x1.memoriesWf := State.putOp_wf hs
    exact same hx1'
  · extract_lets +onlyGivenNames -underBinder x0
    have hx0' : x0.memoriesWf := hs
    exact same hx0'

theorem execOperationStart_keeps {s : State} {id : Nat} : Result.Keeps (execOperationStart id s) s := by
  unfold execOperationStart
  refine next_keeps fun hs => ?_
  split
  · exact hs
  · refine ite_wf hs ?_
    split
    · exact same hs
    · split
      · exact hs
      · exact ite_wf (State.abortOp_wf hs) (ite_wf (State.putOp_wf hs) (State.putOp_wf (State.foldSent_wf (State.settleEdge_wf hs))))

theorem execOperationFault_keeps {s : State} {id : Nat} : Result.Keeps (execOperationFault id s) s := by
  unfold execOperationFault
  refine next_keeps fun hs => ?_
  split
  · exact hs
  · refine ite_wf hs ?_
    extract_lets
    split
    · exact Run.stopped_wf (State.opRun_wf hs)
    · exact Run.stopped_wf (State.opRun_wf hs)
    · exact hs

theorem execOperationAbort_keeps {s : State} {id cause : Nat} : Result.Keeps (execOperationAbort id cause s) s := by
  unfold execOperationAbort
  refine next_keeps fun hs => ?_
  split
  · exact hs
  · refine ite_wf hs ?_
    extract_lets
    split
    · exact ite_wf (Run.stopped_wf (State.opRun_wf hs)) hs
    · exact same hs
    · exact hs
    · exact ite_wf (State.abortOp_wf hs) hs

/-! Completion. -/

theorem State.publishOp_wf {s : State} (hs : s.memoriesWf) {o : Op} : (s.publishOp o).2.2.memoriesWf := by
  unfold State.publishOp
  refine foldl_inv (P := fun p : _ × _ × State => p.2.2.memoriesWf) hs fun _ _ hx => ?_
  split
  · exact hx
  · extract_lets
    split
    · exact hx
    · exact hx
    · exact State.wakeRing_wf (State.putRing_wf hx)

theorem State.completeWord_wf {s : State} (hs : s.memoriesWf) {o : Op} {b : Nat} : (s.completeWord o b).2.2.memoriesWf := by
  unfold State.completeWord
  extract_lets +onlyGivenNames -underBinder off r
  have hr' : r.s.memoriesWf := hs
  split
  · extract_lets +onlyGivenNames -underBinder r1
    have hr1' : r1.s.memoriesWf := Run.noteOob_wf hr'
    exact hr1'
  · exact State.setAtom_wf (State.forgetWord_wf hs)

theorem State.startFollow_wf {s : State} (hs : s.memoriesWf) {o : Op} : (s.startFollow o).2.memoriesWf := by
  unfold State.startFollow
  split
  · exact hs
  · extract_lets +onlyGivenNames -underBinder e s1 o1
    have hs1' : s1.memoriesWf := State.putMma_wf (State.settleEdge_wf hs)
    exact State.settleQueue_wf (State.putOp_wf hs1')

theorem State.wakeAll_wf {s : State} (hs : s.memoriesWf) : s.wakeAll.memoriesWf := by
  unfold State.wakeAll
  exact State.wakeMatrix_wf (State.wakeWaita_wf hs)

theorem State.retireOp_wf {s : State} (hs : s.memoriesWf) {o : Op} {words : List (Option Loc)} : (s.retireOp o words).memoriesWf := by
  unfold State.retireOp
  extract_lets +onlyGivenNames -underBinder ds s1 s2
  have hs1' : s1.memoriesWf := same hs
  have hs2' : s2.memoriesWf := State.onGrid_wf hs1'
  exact State.wakeAll_wf (State.addEv_wf hs2')

theorem State.finishOp_wf {s : State} (hs : s.memoriesWf) {o : Op} : (s.finishOp o).memoriesWf := by
  unfold State.finishOp
  extract_lets +onlyGivenNames -underBinder d
  split
  · extract_lets +onlyGivenNames -underBinder r
    have hr' : r.2.2.memoriesWf := State.publishOp_wf hs
    split
    · exact State.takeFatal_wf hr'
    · split
      · exact State.retireOp_wf hr'
      · exact State.putOp_wf hr'
  · split
    · exact State.retireOp_wf hs
    · extract_lets +onlyGivenNames -underBinder r
      have hr' : r.2.2.memoriesWf := foldl_inv (P := fun p : _ × _ × State => p.2.2.memoriesWf) hs fun _ _ hx => State.completeWord_wf hx
      exact State.retireOp_wf hr'

/-! The corner-turn buffer (R182). -/

theorem State.writeFrame_wf {s : State} (hs : s.memoriesWf) {c : Corner} : (s.writeFrame c).memoriesWf := by
  unfold State.writeFrame
  extract_lets +onlyGivenNames -underBinder s1
  have hs1' : s1.memoriesWf := same hs
  refine foldl_wf hs1' fun _ _ hx => ?_
  split
  · exact State.finishOp_wf hx
  · exact hx

theorem State.overZeros_wf {s : State} (hs : s.memoriesWf) {o : Op} {frame tok : Nat} : (s.overZeros o frame tok).memoriesWf := by
  unfold State.overZeros
  split
  · exact hs
  · exact same hs

theorem State.stageColumn_wf {s : State} (hs : s.memoriesWf) {o : Op} {frame tok dim es : Nat} {close : Bool} :
    (s.stageColumn o frame tok dim es close).memoriesWf := by
  unfold State.stageColumn
  extract_lets +onlyGivenNames -underBinder s1 c c1 rest mine s2 s3
  have hs1' : s1.memoriesWf := State.putOp_wf (State.overZeros_wf hs)
  have hs2' : s2.memoriesWf := by
    dsimp only [s2]
    split
    · exact State.writeFrame_wf (same hs1')
    · exact same hs1'
  have hs3' : s3.memoriesWf := same hs2'
  exact ite_wf (State.writeFrame_wf hs3') hs3'

theorem execCornerTurnTimeout_keeps {s : State} {core index : Nat} : Result.Keeps (execCornerTurnTimeout core index s) s := by
  unfold execCornerTurnTimeout
  refine next_keeps fun hs => ?_
  split
  · exact State.writeFrame_wf hs
  · exact hs

theorem State.landOp_wf {s : State} (hs : s.memoriesWf) {o : Op} : (s.landOp o).memoriesWf := by
  unfold State.landOp
  extract_lets +onlyGivenNames -underBinder f
  have hf' : f.2.memoriesWf := State.startFollow_wf hs
  exact State.finishOp_wf hf'

theorem Run.landed_wf {r : Run} (hs : r.s.memoriesWf) : r.landed.memoriesWf := by
  unfold Run.landed
  split
  · refine ite_wf (State.landOp_wf hs) ?_
    split
    · exact State.stageColumn_wf hs
    · exact State.landOp_wf hs
  · exact State.landOp_wf hs

theorem execOperationCompletion_keeps {s : State} {id : Nat} : Result.Keeps (execOperationCompletion id s) s := by
  unfold execOperationCompletion
  refine next_keeps fun hs => ?_
  split
  · exact hs
  · split
    · exact ite_wf hs (Run.landed_wf (State.opRun_wf hs))
    · exact State.finishOp_wf hs
    · exact hs

theorem State.enterBuffer_keeps {s : State} : Result.Keeps s.enterBuffer s := by
  unfold State.enterBuffer
  split
  · exact execCpy_keeps
  · exact execCpym_keeps
  · exact execQfen_keeps
  · exact execKvld_keeps
  · exact execKvst_keeps
  · exact execMrg_keeps
  · exact execMma_keeps
  · exact next_keeps id

/-! Coalescers. -/

theorem State.putCoal_wf {s : State} (hs : s.memoriesWf) {c : Coal} : (s.putCoal c).memoriesWf := by
  unfold State.putCoal
  exact same hs

theorem State.coalEvent_wf {s : State} (hs : s.memoriesWf) {f v : Nat} : (s.coalEvent f v).memoriesWf := by
  unfold State.coalEvent
  exact State.putCoal_wf hs

/-! NOP, YIELD, PREF, CLK. -/

theorem execNop_keeps {s : State} {w : UF} : Result.Keeps (execNop w s) s := by
  unfold execNop
  exact State.uniRun_keeps fun hs => State.advance_wf hs

theorem execYield_keeps {s : State} {w : UF} : Result.Keeps (execYield w s) s := by
  unfold execYield
  exact State.uniRun_keeps fun hs => State.switch_wf hs

theorem State.prefetch_wf {s : State} (hs : s.memoriesWf) {va : Nat} : (s.prefetch va).memoriesWf := by
  unfold State.prefetch
  refine ite_wf hs ?_
  split
  · exact State.startFill_wf hs
  · exact hs

theorem execPref_keeps {s : State} {w : UF} : Result.Keeps (execPref w s) s := by
  unfold execPref
  exact State.uniRun_keeps fun hs => State.advance_wf (ite_wf hs (State.prefetch_wf hs))

theorem execClk_keeps {s : State} {w : UF} : Result.Keeps (execClk w s) s := by
  unfold execClk
  exact State.uniRun_keeps fun hs => State.advance_wf (State.onMe_wf (State.clearK_wf hs))

/-! TRAP and BRKP. -/

theorem execTrap_keeps {s : State} {w : UF} : Result.Keeps (execTrap w s) s := by
  unfold execTrap
  exact State.uniRun_keeps fun hs => State.takeResumable_wf (State.switch_wf hs)

theorem execBrkp_keeps {s : State} {w : UF} : Result.Keeps (execBrkp w s) s := by
  unfold execBrkp
  exact State.uniRun_keeps fun hs => ite_wf (State.takeResumable_wf (State.switch_wf hs)) (State.switch_wf hs)

/-! CSRs (R310). -/

theorem State.setFstat_wf {s : State} (hs : s.memoriesWf) {x : Word} : (s.setFstat x).memoriesWf := by
  unfold State.setFstat
  exact ite_wf (State.onGrid_wf hs) (State.onBlock_wf hs)

theorem State.setCsr_wf {s : State} (hs : s.memoriesWf) {n : Nat} {x : Word} : (s.setCsr n x).memoriesWf := by
  unfold State.setCsr
  split
  · exact State.onMe_wf hs
  · exact State.setGen_wf (State.onMe_wf hs)
  · exact State.onMe_wf hs
  · exact State.setFstat_wf hs
  · exact State.onCtx_wf hs
  · exact State.onCtx_wf hs
  · exact State.onCtx_wf hs
  · exact hs

theorem execCsrr_keeps {s : State} {w : UF} : Result.Keeps (execCsrr w s) s := by
  unfold execCsrr
  exact State.uniCalc_keeps

theorem execCsrw_keeps {s : State} {w : UF} : Result.Keeps (execCsrw w s) s := by
  unfold execCsrw
  exact State.uniRun_keeps fun hs => State.switch_wf (State.setCsr_wf hs)

/-! HSIG and HFLUSH. -/

theorem execHsig_keeps {s : State} {w : UF} : Result.Keeps (execHsig w s) s := by
  unfold execHsig
  exact State.uniRun_keeps fun hs => State.switch_wf (State.coalEvent_wf hs)

theorem State.flushRange_wf {s : State} (hs : s.memoriesWf) {pieces : List (Nat × Nat)} : (s.flushRange pieces).memoriesWf := by
  unfold State.flushRange
  split
  · exact hs
  · extract_lets +onlyGivenNames -underBinder e r v g
    have hr' : r.memoriesWf := State.onMe_wf (State.settleWhere_wf hs)
    exact foldl_wf hr' fun _ _ hx => foldl_wf hx fun _ _ hx => State.flushByte_wf hx

theorem State.invalidate_wf {s : State} (hs : s.memoriesWf) {pieces : List (Nat × Nat)} : (s.invalidate pieces).memoriesWf := by
  unfold State.invalidate
  exact State.onMe_wf hs

theorem execHflush_keeps {s : State} {w : UF} : Result.Keeps (execHflush w s) s := by
  unfold execHflush
  refine State.uniRun_keeps fun hs => ite_wf (State.switch_wf hs) (ite_wf (State.trapAll_wf hs) ?_)
  split
  · exact State.trapAll_wf hs
  · exact State.switch_wf (ite_wf (State.invalidate_wf hs) (State.flushRange_wf hs))

/-! Context entries. -/

theorem State.readCtx_wf {s : State} (hs : s.memoriesWf) {c : Nat} : (s.readCtx c).memoriesWf := by
  unfold State.readCtx
  extract_lets +onlyGivenNames -underBinder r w
  have hr' : r.2.memoriesWf := by
    dsimp only [r]
    split
    · exact State.readHub_wf hs
    · exact hs
  exact State.onCtx_wf hr'

/-! Pages of a context (R360). -/

theorem State.syncPages_wf {s : State} (hs : s.memoriesWf) {c : Nat} : (s.syncPages c).memoriesWf := by
  unfold State.syncPages
  extract_lets +onlyGivenNames -underBinder pages new x2
  have hx2' : x2.memoriesWf := State.onCtx_wf hs
  exact same hx2'

/-! What the hub reads. -/

theorem State.hubRead_wf {s : State} (hs : s.memoriesWf) {c va n : Nat} : (s.hubRead c va n).2.memoriesWf := by
  unfold State.hubRead
  refine foldl_inv (P := fun p : _ × State => p.2.memoriesWf) hs fun _ _ hx => ?_
  split
  · exact hx
  · split
    · exact hx
    · exact hx
    · exact hx
    · exact State.logDenial_wf hx
    · exact hx

theorem State.hubQuad_wf {s : State} (hs : s.memoriesWf) {c va : Nat} : (s.hubQuad c va).2.memoriesWf := by
  unfold State.hubQuad
  extract_lets +onlyGivenNames -underBinder r
  have hr' : r.2.memoriesWf := State.hubRead_wf hs
  exact hr'

/-! The region tree (R371). -/

theorem regionAt_wf {c n va : Nat} {s : State} (hs : s.memoriesWf) : (regionAt c n va s).2.memoriesWf := by
  induction n generalizing va s with
  | zero => exact hs
  | succ n ih =>
    have hr := State.hubRead_wf hs (c := c) (va := va) (n := 256)
    unfold regionAt
    split
    next ht => rw [ht] at hr; exact hr
    next ht =>
      rw [ht] at hr
      split
      · exact hr
      · exact ih hr

theorem State.region_wf {s : State} (hs : s.memoriesWf) {c : Nat} {r : List Byte} : (s.region c r).2.memoriesWf := by
  unfold State.region
  split
  · exact hs
  · extract_lets +onlyGivenNames -underBinder x
    have hx' : x.2.memoriesWf := regionAt_wf hs
    exact hx'

/-! Links (R372, R375). -/

theorem siblings_wf {c n va : Nat} {s : State} (hs : s.memoriesWf) : (siblings c n va s).2.memoriesWf := by
  induction n generalizing va s with
  | zero => exact hs
  | succ n ih =>
    unfold siblings
    split
    · exact hs
    · exact ih (State.hubQuad_wf hs)

theorem State.children_wf {s : State} (hs : s.memoriesWf) {c va : Nat} : (s.children c va).2.memoriesWf := by
  unfold State.children
  extract_lets +onlyGivenNames -underBinder q
  have hq' : q.2.memoriesWf := State.hubQuad_wf hs
  exact siblings_wf hq'

theorem State.setLink_wf {s : State} (hs : s.memoriesWf) {c va x : Nat} : (s.setLink c va x).memoriesWf := by
  unfold State.setLink
  exact State.hubWrite_wf hs

theorem State.appendChild_wf {s : State} (hs : s.memoriesWf) {c parent va : Nat} : (s.appendChild c parent va).memoriesWf := by
  unfold State.appendChild
  extract_lets +onlyGivenNames -underBinder x
  have hx' : x.2.memoriesWf := State.children_wf hs
  split
  · exact State.setLink_wf hx'
  · exact State.setLink_wf hx'

theorem State.linkHost_wf {s : State} (hs : s.memoriesWf) {c va : Nat} {r : List Byte} : (s.linkHost c va r).memoriesWf := by
  unfold State.linkHost
  split
  · exact hs
  · extract_lets +onlyGivenNames -underBinder x
    have hx' : x.2.memoriesWf := State.children_wf hs
    exact ite_wf hx' (State.appendChild_wf hx')

theorem State.unlink_wf {s : State} (hs : s.memoriesWf) {c parent va : Nat} {list : List Nat} : (s.unlink c parent va list).memoriesWf := by
  unfold State.unlink
  extract_lets +onlyGivenNames -underBinder q
  have hq' : q.2.memoriesWf := State.hubQuad_wf hs
  split
  · exact State.setLink_wf hq'
  · exact State.setLink_wf hq'

/-! The pages for which the hub's reads of links and records would wait (R354). -/

theorem State.linkGlnch_wf {s : State} (hs : s.memoriesWf) {c me va : Nat} : (s.linkGlnch c me va).memoriesWf := by
  unfold State.linkGlnch
  extract_lets +onlyGivenNames -underBinder q p mine
  have hq' : q.2.memoriesWf := State.hubQuad_wf (State.hubWrite_wf hs)
  have hmine' : mine.2.memoriesWf := State.children_wf hq'
  split
  · exact hmine'
  · extract_lets +onlyGivenNames -underBinder theirs s2
    have htheirs' : theirs.2.memoriesWf := by
      dsimp only [theirs]
      split
      · exact hmine'
      · exact State.children_wf hmine'
    have hs2' : s2.memoriesWf := ite_wf (State.unlink_wf htheirs') htheirs'
    exact State.appendChild_wf (State.setLink_wf (State.setLink_wf hs2'))

/-! Bind records (R379). -/

theorem State.putBind_wf {s : State} (hs : s.memoriesWf) {stn slot : Nat} {b : Bind} : (s.putBind stn slot b).memoriesWf := by
  unfold State.putBind
  exact same hs

theorem State.stampBind_wf {s : State} (hs : s.memoriesWf) {stn slot : Nat} : (s.stampBind stn slot).memoriesWf := by
  unfold State.stampBind
  exact same hs

/-! Waking a station (R414). -/

theorem State.wakeStation_wf {s : State} (hs : s.memoriesWf) {stn : Nat} : (s.wakeStation stn).1.memoriesWf := by
  unfold State.wakeStation
  extract_lets +onlyGivenNames -underBinder cur off
  split
  · exact hs
  · extract_lets +onlyGivenNames -underBinder _ s1 s2
    have hs1' : s1.memoriesWf := same hs
    have hs2' : s2.memoriesWf := ite_wf (State.fire_wf hs1') hs1'
    exact ite_wf hs2' (State.fire_wf hs2')

/-! The signal box binds a grid (R381). -/

theorem State.bindRange_wf {s : State} (hs : s.memoriesWf) {g : Grid} {stn first count slice : Nat} :
    (s.bindRange g stn first count slice).memoriesWf := by
  unfold State.bindRange
  split
  · exact hs
  · exact State.stampBind_wf (State.putBind_wf hs)

theorem State.bindOver_wf {s : State} (hs : s.memoriesWf) {g : Grid} {slice first left : Nat} {l : List Nat} :
    (s.bindOver g slice first left l).memoriesWf := by
  induction l generalizing s first left with
  | nil => exact hs
  | cons stn l ih => exact ite_wf hs (ih (State.bindRange_wf hs))

theorem State.bindGrid_wf {s : State} (hs : s.memoriesWf) {h : Nat} : (s.bindGrid h).memoriesWf := by
  unfold State.bindGrid
  exact State.bindOver_wf hs

theorem State.rejectLate_wf {s : State} (hs : s.memoriesWf) {h : Nat} : (s.rejectLate h).memoriesWf := by
  unfold State.rejectLate
  extract_lets +onlyGivenNames s1 s2
  have h1 : s1.memoriesWf := State.hubWrite_wf hs
  have h2 : s2.memoriesWf :=
    State.endWaits_wf (State.endHandles_wf (State.completionWord_wf (State.releasePages_wf (State.onGrid_wf h1))))
  clear_value s2
  exact h2

theorem State.rebindOn_wf {s : State} (hs : s.memoriesWf) {stn slot to_ : Nat} : (s.rebindOn stn slot to_).memoriesWf := by
  unfold State.rebindOn
  dsimp only
  split
  · exact State.stampBind_wf (State.putBind_wf (State.putBind_wf hs))
  · exact hs

theorem State.bindOne_wf {s : State} (hs : s.memoriesWf) {g : Grid} : (s.bindOne g).memoriesWf := by
  unfold State.bindOne
  exact ite_wf (State.bindGrid_wf hs) hs

theorem State.rebind_wf {s : State} (hs : s.memoriesWf) {stn slot : Nat} : (s.rebind stn slot).memoriesWf := by
  unfold State.rebind
  split
  · exact State.rebindOn_wf hs
  · exact hs

theorem State.endQuarantine_wf {s : State} (hs : s.memoriesWf) : s.endQuarantine.memoriesWf := by
  unfold State.endQuarantine
  exact foldl_wf hs fun _ _ hx => State.logEvent_wf (same hx)

theorem State.bindWaiting_wf {s : State} (hs : s.memoriesWf) : s.bindWaiting.memoriesWf := by
  unfold State.bindWaiting
  split
  · exact hs
  · extract_lets +onlyGivenNames -underBinder s1
    have hs1' : s1.memoriesWf := foldl_wf (State.endQuarantine_wf hs) fun _ _ hx => foldl_wf hx fun _ _ hx => State.bindOne_wf hx
    exact foldl_wf hs1' fun _ _ hx => State.rebind_wf hx

/-! Placement. -/

theorem State.installOn_wf {s : State} (hs : s.memoriesWf) {cores : List Nat} {g : Group} {ready : Nat} :
    (s.installOn cores g ready).memoriesWf := by
  unfold State.installOn
  split
  · exact State.install_wf hs
  · exact same hs

theorem State.newBlock_wf {s : State} (hs : s.memoriesWf) {g : Grid} {stn slot idx home : Nat} {cores : List Nat} {ready : Nat} :
    (s.newBlock g stn slot idx home cores ready).memoriesWf := by
  unfold State.newBlock
  extract_lets +onlyGivenNames -underBinder f b base e _ s1
  have hf' : f.2.memoriesWf := State.fresh_wf hs
  have hs1' : s1.memoriesWf := State.claimCore_wf (State.onGrid_wf (same hf'))
  exact foldl_wf hs1' fun _ _ hx => State.installOn_wf hx

theorem State.restoreFatal_wf {s : State} (hs : s.memoriesWf) {h stn : Nat} {p : PoisonAt} : (s.restoreFatal h stn p).memoriesWf := by
  unfold State.restoreFatal
  exact State.takeFatal_wf hs

theorem State.moveEpisode_wf {s : State} (hs : s.memoriesWf) {e : Episode} {stn : Nat} : (s.moveEpisode e stn).memoriesWf := by
  unfold State.moveEpisode
  extract_lets +onlyGivenNames -underBinder s1
  have hs1' : s1.memoriesWf := same hs
  exact ite_wf (State.onGrid_wf hs1') hs1'

theorem State.restoreEpisodes_wf {s : State} (hs : s.memoriesWf) {uid h stn : Nat} : (s.restoreEpisodes uid h stn).memoriesWf := by
  unfold State.restoreEpisodes
  extract_lets +onlyGivenNames -underBinder s1
  have hs1' : s1.memoriesWf := foldl_wf hs fun _ _ hx => State.moveEpisode_wf hx
  split
  · exact hs1'
  · extract_lets +onlyGivenNames -underBinder n f x2
    have hx2' : x2.memoriesWf := State.onGroups_wf hs1'
    exact same hx2'

theorem State.restoreBlock_wf {s : State} (hs : s.memoriesWf) {b : Block} {stn slot home : Nat} {cores : List Nat} {ready : Nat} :
    (s.restoreBlock b stn slot home cores ready).memoriesWf := by
  unfold State.restoreBlock
  extract_lets +onlyGivenNames -underBinder s0 s1 mine
  have hs0' : s0.memoriesWf := same hs
  have hs1' : s1.memoriesWf := State.claimCore_wf (State.onBlock_wf hs0')
  split
  · exact State.restoreFatal_wf hs
  · extract_lets +onlyGivenNames -underBinder uids s2 s3
    have hs2' : s2.memoriesWf := same hs1'
    have hs3' : s3.memoriesWf := foldl_wf hs2' fun _ _ hx => State.installOn_wf hx
    exact State.pruneBarriers_wf (State.checkBarriers_wf (State.checkEpisodes_wf (State.restoreEpisodes_wf hs3')))

theorem State.markRunning_wf {s : State} (hs : s.memoriesWf) {h : Nat} : (s.markRunning h).memoriesWf := by
  unfold State.markRunning
  exact ite_wf (State.setGridState_wf hs) hs

theorem State.placeBlock_wf {s : State} (hs : s.memoriesWf) {stn slot idx home : Nat} {cores : List Nat} :
    (s.placeBlock stn slot idx home cores).memoriesWf := by
  unfold State.placeBlock
  extract_lets +onlyGivenNames -underBinder b g w ready s1 _ s2 s3
  have hw' : w.1.memoriesWf := State.wakeStation_wf hs
  have hs1' : s1.memoriesWf := ite_wf (State.stampBind_wf (State.putBind_wf hw')) hw'
  have hs2' : s2.memoriesWf := same hs1'
  have hs3' : s3.memoriesWf := State.trace_wf (State.markRunning_wf hs2')
  split
  · exact State.restoreBlock_wf hs3'
  · exact State.newBlock_wf hs3'

theorem execBlockPlacement_keeps {s : State} {stn slot : Nat} : Result.Keeps (execBlockPlacement stn slot s) s := by
  unfold execBlockPlacement
  refine next_keeps fun hs => ?_
  split
  · exact ite_wf (State.rejectLate_wf hs) (State.bindWaiting_wf hs)
  · exact ite_wf (State.rejectLate_wf hs) (State.bindWaiting_wf (State.placeBlock_wf hs))

/-! Retirement (R29). -/

theorem State.dropAsked_wf {s : State} (hs : s.memoriesWf) : s.dropAsked.memoriesWf := by
  unfold State.dropAsked
  exact same hs

theorem execBlockRetirement_keeps {s : State} {uid : Nat} : Result.Keeps (execBlockRetirement uid s) s := by
  refine next_keeps fun hs => ?_
  split
  · exact hs
  next b _ =>
    refine ite_wf hs ?_
    extract_lets _ s1 g s2
    have h1 : s1.memoriesWf :=
      State.onGrid_wf (State.trace_wf hs) (h := b.grid) (f := fun g => { g with doneBlocks := b.index :: g.doneBlocks })
    have h2 : s2.memoriesWf := State.hubWrite_wf h1
    have h3 : State.memoriesWf { s2 with binds := s2.binds.map (retireBind g) } := h2
    exact State.bindWaiting_wf (State.releaseCores_wf (State.dropAsked_wf h3))

/-! Pre-emption (R394, R395). -/

theorem State.takePages_wf {s : State} (hs : s.memoriesWf) {h n : Nat} : (s.takePages h n).memoriesWf := by
  induction n generalizing s with
  | zero => exact hs
  | succ n ih =>
    unfold State.takePages
    split
    next hp => exact ih (State.poolPage_wf hs hp)
    next => exact hs

theorem State.saveMma_wf {s : State} (hs : s.memoriesWf) {m : Mma} : (s.saveMma m).memoriesWf := by
  unfold State.saveMma
  split
  · exact hs
  · split
    · exact State.mmaAbort_wf hs
    · extract_lets +onlyGivenNames -underBinder r cells t
      have hr' : r.2.memoriesWf := State.mmaAdvance_wf hs
      have ht' : t.memoriesWf := ite_wf hr' (State.onTile_wf hr')
      exact State.putMma_wf ht'

theorem State.finishRows_wf {s : State} (hs : s.memoriesWf) {id n : Nat} : (s.finishRows id n).memoriesWf := by
  induction n generalizing s with
  | zero => exact hs
  | succ n ih =>
    unfold State.finishRows
    split
    · exact ite_wf (ih (State.writeRows_wf hs)) hs
    · exact hs

theorem State.saveMmas_wf {s : State} (hs : s.memoriesWf) {uids : List Nat} : (s.saveMmas uids).memoriesWf := by
  unfold State.saveMmas
  exact foldl_wf hs fun _ _ hx => State.saveMma_wf (State.finishRows_wf hx)

theorem State.saveWhere_wf {s : State} (hs : s.memoriesWf) {mine : Group → Bool} : (s.saveWhere mine).memoriesWf := by
  unfold State.saveWhere
  exact same hs

theorem State.saveGroups_wf {s : State} (hs : s.memoriesWf) {uids : List Nat} : (s.saveGroups uids).memoriesWf := by
  unfold State.saveGroups
  exact State.saveWhere_wf hs

theorem State.saveOps_wf {s : State} (hs : s.memoriesWf) {uids : List Nat} : (s.saveOps uids).memoriesWf := by
  unfold State.saveOps
  exact same hs

theorem State.quiesce_wf {s : State} (hs : s.memoriesWf) {stn : Nat} {g : Grid} {uids : List Nat} : (s.quiesce stn g uids).memoriesWf := by
  unfold State.quiesce
  extract_lets +onlyGivenNames -underBinder s1 s2
  have hs1' : s1.memoriesWf := State.onGroups_wf hs
  have hs2' : s2.memoriesWf := State.saveOps_wf (State.saveMmas_wf hs1')
  exact foldl_wf hs2' fun _ _ hx => State.writeFrame_wf hx

theorem State.stallSave_wf {s : State} (hs : s.memoriesWf) {stn slot : Nat} {g : Grid} {n left : Nat} :
    (s.stallSave stn slot g n left).memoriesWf := by
  unfold State.stallSave
  split
  · exact hs
  · extract_lets +onlyGivenNames -underBinder t
    have ht' : t.memoriesWf := State.takePages_wf hs
    exact State.logEvent_wf (same ht')

theorem State.preempt_wf {s : State} (hs : s.memoriesWf) {stn slot : Nat} : (s.preempt stn slot).memoriesWf := by
  unfold State.preempt
  extract_lets +onlyGivenNames -underBinder b g bs uids pages s1 left
  have hs1' : s1.memoriesWf := State.quiesce_wf hs
  split
  · exact hs1'
  · split
    · exact State.stallSave_wf hs1'
    · extract_lets +onlyGivenNames -underBinder s2 s3
      have hs2' : s2.memoriesWf := State.saveGroups_wf (State.takePages_wf hs1')
      have hs3' : s3.memoriesWf := same hs2'
      exact State.releaseCores_wf (State.putBind_wf (State.trace_wf hs3'))

theorem execSliceExpiry_keeps {s : State} {stn slot : Nat} : Result.Keeps (execSliceExpiry stn slot s) s := by
  unfold execSliceExpiry
  exact next_keeps fun hs => ite_wf hs (State.rebind_wf (State.preempt_wf hs))

theorem State.makeRoom_wf {s : State} (hs : s.memoriesWf) {stn slot n : Nat} : (s.makeRoom stn slot n).memoriesWf := by
  induction n generalizing s with
  | zero => exact hs
  | succ n ih =>
    unfold State.makeRoom
    refine ite_wf hs ?_
    split
    · exact ih (State.rebind_wf (State.preempt_wf hs))
    · exact hs

theorem execPriorityWaitExpiry_keeps {s : State} {stn slot : Nat} : Result.Keeps (execPriorityWaitExpiry stn slot s) s := by
  unfold execPriorityWaitExpiry
  exact next_keeps fun hs => ite_wf hs (State.makeRoom_wf hs)

theorem execGangMessage_keeps {s : State} {gang start : Nat} {records : List (Nat × Nat)} :
    Result.Keeps (execGangMessage gang start records s) s := by
  unfold execGangMessage
  exact next_keeps fun hs => ite_wf hs (foldl_wf hs fun _ _ hx => ite_wf (State.putBind_wf hx) hx)

theorem execGangLate_keeps {s : State} {gang : Nat} : Result.Keeps (execGangLate gang s) s := by
  unfold execGangLate
  refine next_keeps fun hs => ?_
  split
  · exact hs
  · exact State.logEvent_wf (foldl_wf (foldl_wf hs fun _ _ hx => ite_wf (State.rebind_wf (State.preempt_wf hx)) hx) fun _ _ hx
      => State.putBind_wf hx)

theorem State.resumeSaves_wf {s : State} (hs : s.memoriesWf) {c : Nat} : (s.resumeSaves c).memoriesWf := by
  unfold State.resumeSaves
  exact foldl_wf hs fun _ _ hx => State.rebind_wf (State.preempt_wf hx)

/-! Stations that stop making progress (R392, R393). -/

theorem State.stopDomains_wf {s : State} (hs : s.memoriesWf) {gs : List Group} {stn cause : Nat} :
    (s.stopDomains gs stn cause).memoriesWf := by
  unfold State.stopDomains
  refine foldl_wf hs fun _ _ hx => ?_
  split
  · exact State.takeFatal_wf hx
  · exact hx

theorem execWatchdog_keeps {s : State} {stn : Nat} : Result.Keeps (execWatchdog stn s) s := by
  unfold execWatchdog
  exact next_keeps fun hs => ite_wf (State.stopDomains_wf hs) hs

/-! Eviction (R392). -/

theorem State.renamed_wf {s : State} (hs : s.memoriesWf) {stn slot : Nat} : (s.renamed stn slot).2.memoriesWf := by
  unfold State.renamed
  dsimp only
  split
  · exact State.rebindOn_wf hs
  · exact hs

theorem State.evict_wf {s : State} (hs : s.memoriesWf) {g : Group} : (s.evict g).memoriesWf := by
  unfold State.evict
  exact State.releaseCores_wf (State.saveWhere_wf hs)

theorem State.evictSome_wf {s : State} (hs : s.memoriesWf) {stn : Nat} {ws : List Work} {from_ : List Nat} {n : Nat} :
    (s.evictSome stn ws from_ n).2.memoriesWf := by
  induction n generalizing s from_ with
  | zero => exact hs
  | succ n ih =>
    unfold State.evictSome
    split
    · exact hs
    split
    · exact ih (State.evict_wf hs)
    · exact hs

theorem execAllParkedDetect_keeps {s : State} {stn : Nat} : Result.Keeps (execAllParkedDetect stn s) s := by
  unfold execAllParkedDetect
  exact next_keeps fun hs => ite_wf hs (ite_wf (foldl_wf (State.evictSome_wf (same hs)) fun _ _ hx => State.logEvent_wf hx) (ite_wf (same
    hs) (State.stopDomains_wf (same hs))))

/-! Rebuilt, evicted and task groups (R49, R57, R392). -/

theorem State.readmit_wf {s : State} (hs : s.memoriesWf) {i : Nat} : (s.readmit i).memoriesWf := by
  unfold State.readmit
  split
  · exact hs
  · refine ite_wf hs ?_
    split
    · exact State.restoreFatal_wf hs
    · split
      · exact State.install_wf (same hs)
      · exact hs

theorem execRebuiltGroupAdmission_keeps {s : State} {index : Nat} : Result.Keeps (execRebuiltGroupAdmission index s) s := by
  unfold execRebuiltGroupAdmission
  refine next_keeps fun hs => ?_
  extract_lets
  split
  · exact hs
  · exact ite_wf hs (ite_wf (State.letIn_wf (State.wakeStation_wf hs)) (State.readmit_wf (State.wakeStation_wf hs)))

theorem execTaskGroupPlacement_keeps {s : State} {index : Nat} : Result.Keeps (execTaskGroupPlacement index s) s := by
  unfold execTaskGroupPlacement
  refine next_keeps fun hs => ?_
  split
  · exact ite_wf (State.letIn_wf (State.wakeStation_wf hs)) hs
  · exact hs

theorem execTaskBinTimeout_keeps {s : State} {index : Nat} : Result.Keeps (execTaskBinTimeout index s) s := by
  unfold execTaskBinTimeout
  refine next_keeps fun hs => ?_
  split
  · split
    · exact ite_wf (State.emitBin_wf hs) hs
    · exact hs
  · exact hs

theorem execRetirementTrackerDrain_keeps {s : State} {core entry : Nat} : Result.Keeps (execRetirementTrackerDrain core entry s) s := by
  unfold execRetirementTrackerDrain
  refine next_keeps fun hs => ?_
  split
  · exact ite_wf hs (State.wake_wf (same hs))
  · exact hs

/-! Acceptance. -/

theorem State.takeRoot_wf {s : State} (hs : s.memoriesWf) {h : Nat} : (s.takeRoot h).memoriesWf := by
  unfold State.takeRoot
  split
  next hp => exact State.onGrid_wf (State.privTable_wf hs hp)
  next => exact hs

theorem State.reject_wf {s : State} (hs : s.memoriesWf) {h reason : Nat} : (s.reject h reason).memoriesWf := by
  unfold State.reject
  extract_lets +onlyGivenNames -underBinder g s1 s2
  have hs1' : s1.memoriesWf := State.onGrid_wf (State.hubWrite_wf hs)
  have hs2' : s2.memoriesWf := State.endHandles_wf (State.completionWord_wf hs1')
  exact same hs2'

theorem State.accept_wf {s : State} (hs : s.memoriesWf) {g : Grid} {kvBad : Bool} {r : List Byte} : (s.accept g kvBad r).memoriesWf := by
  unfold State.accept
  extract_lets +onlyGivenNames -underBinder s1 s2 reason
  have hs1' : s1.memoriesWf := same hs
  have hs2' : s2.memoriesWf := State.hubWrite_wf (State.hubWrite_wf (State.setGridState_wf hs1'))
  exact ite_wf (State.bindWaiting_wf (State.takeRoot_wf hs2')) (State.reject_wf hs2')

/-! The window as the host sees it. -/

theorem State.winDenials_wf {s : State} (hs : s.memoriesWf) {fn off n : Nat} {k : Access} : (s.winDenials fn off n k).memoriesWf := by
  unfold State.winDenials
  exact foldl_wf hs fun _ _ hx => State.logDenial_wf hx

theorem State.putWindow_wf {s : State} (hs : s.memoriesWf) {off : Nat} {bs : List Byte} : (s.putWindow off bs).memoriesWf := by
  have ht := State.forgetWindow_wf (State.clearMem_wf hs (t := .glob (.win off)) (n := bs.length)) (off := off) (n := bs.length)
  exact window_wf ht ht

theorem State.hostWindow_wf {s : State} (hs : s.memoriesWf) {fn off : Nat} {bs : List Byte} : (s.hostWindow fn off bs).memoriesWf := by
  unfold State.hostWindow
  exact foldl_wf (State.winDenials_wf hs) fun _ _ hx => State.putWindow_wf hx

/-! The arm ring (R372). -/

theorem State.readSlot_wf {s : State} (hs : s.memoriesWf) {off : Nat} : (s.readSlot off).2.memoriesWf := by
  unfold State.readSlot
  split
  · exact hs
  · exact State.logDenial_wf hs

theorem State.putSlot_wf {s : State} (hs : s.memoriesWf) {off v : Nat} : (s.putSlot off v).memoriesWf := by
  unfold State.putSlot
  exact ite_wf (State.putWin_wf hs) (State.logDenial_wf hs)

theorem State.arm_wf {s0 : State} (hs : s0.memoriesWf) {c v : Nat} : (s0.arm c v).2.memoriesWf := by
  unfold State.arm
  extract_lets +onlyGivenNames s va
  have h0 : s.memoriesWf := State.syncPages_wf (State.readCtx_wf hs)
  clear_value s
  split
  · exact h0
  · have hr := State.hubRead_wf h0 (c := c) (va := va) (n := 256)
    split
    next hu =>
      rw [hu] at hr
      exact hr
    next r t hu =>
      rw [hu] at hr
      extract_lets +onlyGivenNames key
      split
      · exact hr
      split
      · exact hr
      · extract_lets +onlyGivenNames kva rd kv rg
        have hrd : rd.2.memoriesWf := by
          dsimp only [rd]
          split
          · exact hr
          · exact State.hubRead_wf hr
        have hrg : rg.2.memoriesWf := State.region_wf (State.linkHost_wf hrd)
        exact State.accept_wf hrg

theorem State.armDone_wf {s : State} (hs : s.memoriesWf) {c off v : Nat} : (s.armDone c off v).memoriesWf := by
  unfold State.armDone
  exact State.onCtx_wf (State.putSlot_wf hs)

theorem State.drainArms_wf {s : State} (hs : s.memoriesWf) {c n : Nat} : (s.drainArms c n).memoriesWf := by
  induction n generalizing s with
  | zero => exact hs
  | succ n ih =>
    unfold State.drainArms
    extract_lets +onlyGivenNames x off v
    have hv : v.2.memoriesWf := State.readSlot_wf hs
    refine ite_wf hv ?_
    split
    · exact State.askPage_wf hv
    · exact ih (State.armDone_wf (State.arm_wf (State.wakeDies_wf hv)))

theorem State.armResponse_wf {s : State} (hs : s.memoriesWf) {ok : Bool} {c : Nat} : (s.armResponse ok c).memoriesWf := by
  unfold State.armResponse
  exact State.drainArms_wf (ite_wf hs (State.armDone_wf hs))

theorem execArmSlotWrite_keeps {s : State} {ctx slot : Nat} {value : BitVec 64} : Result.Keeps (execArmSlotWrite ctx slot value s) s := by
  unfold execArmSlotWrite
  exact next_keeps fun hs => ite_wf hs (State.drainArms_wf (State.hostWindow_wf hs))

/-! GLNCH (R338). -/

theorem State.glnchDone_wf {s : State} (hs : s.memoriesWf) {w : UF} {h : Nat} : (s.glnchDone w h).memoriesWf := by
  unfold State.glnchDone
  exact State.switch_wf (State.onMe_wf hs)

theorem execGlnch_keeps {s : State} {w : UF} : Result.Keeps (execGlnch w s) s := by
  unfold execGlnch
  refine State.uniRun_keeps fun hs => ?_
  extract_lets +onlyGivenNames va
  clear_value va
  split
  · exact State.trapAll_wf hs
  · extract_lets +onlyGivenNames c g own _ p
    clear_value c g p
    generalize s.readRecord p va 256 = r
    cases r with
    | error k => exact State.finishUni_wf hs hs
    | ok r =>
      dsimp -zeta only
      extract_lets +onlyGivenNames key
      clear_value key
      refine ite_wf (State.glnchDone_wf hs) ?_
      generalize s.freeHandle = h
      cases h with
      | none => exact State.glnchDone_wf hs
      | some h =>
        dsimp -zeta only
        extract_lets +onlyGivenNames kva rd
        clear_value kva rd
        generalize s.glnchWaits c g.rcbVa va va rd = k
        cases k with
        | some k => exact State.finishUni_wf hs hs
        | none =>
          exact State.glnchDone_wf (State.accept_wf (State.linkGlnch_wf (State.onMe_wf (State.settleEdge_wf (State.readCtx_wf hs)))))

/-! Phases. -/

theorem State.endPhase_wf {s : State} (hs : s.memoriesWf) {h : Nat} : (s.endPhase h).memoriesWf := by
  unfold State.endPhase
  extract_lets +onlyGivenNames -underBinder g ss e s1 s2
  have hs1' : s1.memoriesWf := State.onGrid_wf hs
  have hs2' : s2.memoriesWf := State.hubWrite_wf (State.foldSent_wf hs1')
  exact State.wake_wf hs2'

theorem State.sweepGrid_wf {s : State} (hs : s.memoriesWf) {h : Nat} : (s.sweepGrid h).memoriesWf := by
  unfold State.sweepGrid
  exact ite_wf (State.endPhase_wf hs) (State.onGrid_wf hs)

theorem execChimneySweep_keeps {s : State} : Result.Keeps (execChimneySweep s) s := by
  unfold execChimneySweep
  exact next_keeps fun hs => foldl_wf hs fun _ _ hx => State.sweepGrid_wf hx

theorem State.arrivePhase_wf {s : State} (hs : s.memoriesWf) {lane : Nat} : (s.arrivePhase lane).memoriesWf := by
  unfold State.arrivePhase
  extract_lets +onlyGivenNames -underBinder g t
  exact State.onMe_wf (State.onGrid_wf hs)

theorem State.receivePhase_wf {s : State} (hs : s.memoriesWf) {h n : Nat} : (s.receivePhase h n).memoriesWf := by
  unfold State.receivePhase
  split
  · extract_lets +onlyGivenNames -underBinder r
    have hr' : r.2.memoriesWf := State.receiveShared_wf hs
    exact State.onGrid_wf hr'
  · exact hs

theorem execPhend_keeps {s : State} {w : UF} : Result.Keeps (execPhend w s) s := by
  unfold execPhend
  refine State.uniRun_keeps fun hs => ?_
  split
  · exact ite_wf (State.switch_wf (State.receivePhase_wf hs)) (State.parkMe_wf hs)
  · exact ite_wf (State.trapAll_wf hs) (State.parkMe_wf (foldl_wf hs fun _ _ hx => State.arrivePhase_wf hx))

/-! GWAIT. -/

theorem State.gwaitDone_wf {s : State} (hs : s.memoriesWf) {w : UF} {ok : Bool} : (s.gwaitDone w ok).memoriesWf := by
  unfold State.gwaitDone
  exact State.switch_wf (State.onMe_wf hs)

theorem State.receiveEnd_wf {s : State} (hs : s.memoriesWf) {h : Nat} : (s.receiveEnd h).memoriesWf := by
  unfold State.receiveEnd
  split
  · extract_lets +onlyGivenNames -underBinder r
    have hr' : r.2.memoriesWf := State.receiveShared_wf hs
    exact State.onGrid_wf hr'
  · exact hs

theorem State.gwaitFor_wf {s : State} (hs : s.memoriesWf) {w : UF} {ph : Bool} {h : Nat} {n : Word} : (s.gwaitFor w ph h n).memoriesWf := by
  unfold State.gwaitFor
  split
  · exact State.gwaitDone_wf hs
  · exact ite_wf (ite_wf (State.gwaitDone_wf (State.receivePhase_wf hs)) (ite_wf (State.parkMe_wf hs) (State.gwaitDone_wf hs))) (ite_wf
      (State.parkMe_wf hs) (ite_wf (State.gwaitDone_wf (State.receiveEnd_wf hs)) (State.gwaitDone_wf hs)))

theorem execGwait_keeps {s : State} {w : UF} : Result.Keeps (execGwait w s) s := by
  unfold execGwait
  refine State.uniRun_keeps fun hs => ?_
  split
  · exact State.gwaitDone_wf hs
  · exact State.gwaitDone_wf (State.receiveShared_wf hs)
  · exact State.gwaitFor_wf hs

/-! Completion (R29, R374). -/

theorem State.commit_wf {s : State} (hs : s.memoriesWf) {e : Edge} : (s.commit e).memoriesWf := by
  unfold State.commit
  exact foldl_wf hs fun _ _ hx => ite_wf hx (State.settle_wf hx)

theorem State.dropGrid_wf {s : State} (hs : s.memoriesWf) {h : Nat} : (s.dropGrid h).memoriesWf := by
  unfold State.dropGrid
  extract_lets +onlyGivenNames -underBinder x0
  have hx0' : x0.memoriesWf := State.endHandles_wf hs
  exact same hx0'

theorem State.closeGrid_wf {s : State} (hs : s.memoriesWf) {h : Nat} : (s.closeGrid h).memoriesWf := by
  unfold State.closeGrid
  extract_lets +onlyGivenNames -underBinder s1
  have hs1' : s1.memoriesWf := State.releasePages_wf hs
  exact ite_wf (State.completionWord_wf hs1') hs1'

theorem State.endGrid_wf {s : State} (hs : s.memoriesWf) {h : Nat} {e : Edge} : (s.endGrid h e).memoriesWf := by
  unfold State.endGrid
  extract_lets +onlyGivenNames -underBinder ps x s1
  have hs1' : s1.memoriesWf := ite_wf hs (State.onGrid_wf (State.settleWhere_wf hs))
  exact State.endWaits_wf hs1'

theorem State.completeGrid_wf {s : State} (hs : s.memoriesWf) {g : Grid} : (s.completeGrid g).memoriesWf := by
  unfold State.completeGrid
  extract_lets +onlyGivenNames -underBinder ws f e s1 s2 s3 s4
  have hf' : f.2.memoriesWf := State.fresh_wf hs
  have hs1' : s1.memoriesWf := hf'
  have hs2' : s2.memoriesWf := State.dropFills_wf (same hs1')
  have hs3' : s3.memoriesWf := State.onGrid_wf (State.commit_wf hs2')
  have hs4' : s4.memoriesWf := State.setGridState_wf (State.hubWrite_wf hs3')
  exact State.bindWaiting_wf (State.releaseCores_wf (State.closeGrid_wf (State.dropGrid_wf (State.endGrid_wf hs4'))))

theorem execGridCompletion_keeps {s : State} {handle : Nat} : Result.Keeps (execGridCompletion handle s) s := by
  unfold execGridCompletion
  refine next_keeps fun hs => ?_
  split
  · exact hs
  · exact ite_wf (State.completeGrid_wf hs) (ite_wf (State.closeGrid_wf hs) hs)

/-! Events of waiting groups. -/

theorem execMemoryAccessReturn_keeps {s : State} {core gslot : Nat} : Result.Keeps (execMemoryAccessReturn core gslot s) s := by
  unfold execMemoryAccessReturn
  exact next_keeps fun hs => State.onGroups_wf hs

theorem execIcacheLineFill_keeps {s : State} {stn ctx line : Nat} : Result.Keeps (execIcacheLineFill stn ctx line s) s := by
  unfold execIcacheLineFill
  exact next_keeps fun hs => ite_wf (same hs) (same hs)

theorem execFuturePoll_keeps {s : State} {core gslot : Nat} : Result.Keeps (execFuturePoll core gslot s) s := by
  unfold execFuturePoll
  refine next_keeps fun hs => ?_
  split
  · split
    · exact ite_wf (same hs) hs
    · exact hs
  · exact hs

theorem execOperationBufferAdmit_keeps {s : State} {core gslot : Nat} : Result.Keeps (execOperationBufferAdmit core gslot s) s := by
  unfold execOperationBufferAdmit
  split
  · exact next_keeps id
  next g _ =>
    refine ite_keeps (next_keeps id) ?_
    extract_lets +onlyGivenNames w
    have hw (hs : s.memoriesWf) : w.1.memoriesWf := State.wakeStation_wf (State.select_wf hs)
    clear_value w
    obtain ⟨t, ht, hwf⟩ := State.enterBuffer_keeps (s := w.1)
    rw [ht]
    exact next_keeps fun hs => State.ifStays_wf (hwf (hw hs)) fun hx => State.onMe_wf hx

theorem execWaitaDeadline_keeps {s : State} {core gslot : Nat} : Result.Keeps (execWaitaDeadline core gslot s) s := by
  unfold execWaitaDeadline
  refine next_keeps fun hs => ?_
  split
  · split
    · exact ite_wf (same hs) hs
    · exact hs
  · exact hs

theorem execIllegalOpcode_keeps {s : State} {malformed : Bool} {off : Nat} : Result.Keeps (execIllegalOpcode malformed off s) s := by
  unfold execIllegalOpcode
  exact next_keeps fun hs => ite_wf hs (State.takeTrap_wf hs)

/-! Registers the host reaches. -/

theorem State.regEffect_wf {s : State} (hs : s.memoriesWf) {fn off : Nat} {f : State → State} (hf : s.memoriesWf → (f s).memoriesWf) :
    (s.regEffect fn off f).memoriesWf := ite_wf hs (ite_wf (hf hs) (State.logDenial_wf hs))

theorem State.hostPieces_wf {s : State} (hs : s.memoriesWf) {target fn a n : Nat} {k : Access} :
    (s.hostPieces target fn a n k).2.memoriesWf := by
  unfold State.hostPieces
  exact foldl_wf hs fun _ _ hx => State.logDenial_wf hx

/-! PTSYNC (R362). -/

theorem State.startSync_wf {s : State} (hs : s.memoriesWf) {v : Nat} : (s.startSync v).memoriesWf := by
  unfold State.startSync
  exact same hs

theorem execPtsyncWrite_keeps {s : State} {value : BitVec 64} : Result.Keeps (execPtsyncWrite value s) s := by
  unfold execPtsyncWrite
  exact next_keeps fun hs => State.regEffect_wf hs fun hx => State.startSync_wf hx

theorem execPtsyncCompletion_keeps {s : State} : Result.Keeps (execPtsyncCompletion s) s := by
  unfold execPtsyncCompletion
  exact next_keeps fun hs => ite_wf hs (same (s := List.foldl (fun u c => ((u.dropTlb c).readCtx c).syncPages c) s s.ptCtxs) (foldl_wf hs
    fun _ _ hx => State.syncPages_wf (State.readCtx_wf (State.dropTlb_wf hx))))

/-! The pool ring (R359). -/

theorem State.setPpHead_wf {s : State} (hs : s.memoriesWf) {c v : Nat} : (s.setPpHead c v).memoriesWf := by
  unfold State.setPpHead
  exact State.resumeSaves_wf (State.onCtx_wf hs)

theorem execPpheadWrite_keeps {s : State} {ctx : Nat} {value : BitVec 64} : Result.Keeps (execPpheadWrite ctx value s) s := by
  unfold execPpheadWrite
  exact next_keeps fun hs => ite_wf hs (State.regEffect_wf hs fun hx => State.setPpHead_wf hx)

/-! Coalescers (R368). -/

theorem State.setCoal_wf {s : State} (hs : s.memoriesWf) {f v x : Nat} : (s.setCoal f v x).memoriesWf := by
  unfold State.setCoal
  exact State.putCoal_wf hs

theorem execCoalWrite_keeps {s : State} {fn vector : Nat} {value : BitVec 64} : Result.Keeps (execCoalWrite fn vector value s) s := by
  unfold execCoalWrite
  exact next_keeps fun hs => ite_wf hs (State.regEffect_wf hs fun hx => State.setCoal_wf hx)

theorem State.tickCoal_wf {s : State} (hs : s.memoriesWf) {c : Coal} : (s.tickCoal c).memoriesWf := by
  unfold State.tickCoal
  exact ite_wf (State.fire_wf (State.putCoal_wf hs)) hs

theorem execCoalescerTick_keeps {s : State} : Result.Keeps (execCoalescerTick s) s := by
  unfold execCoalescerTick
  exact next_keeps fun hs => foldl_wf hs fun _ _ hx => State.tickCoal_wf hx

/-! Commands of the control ring (R389). -/

theorem State.dropUnrecorded_wf {s : State} (hs : s.memoriesWf) {tk : Nat} : (s.dropUnrecorded tk).memoriesWf := by
  unfold State.dropUnrecorded
  exact same hs

theorem State.onGroup_wf {s : State} (hs : s.memoriesWf) {uid : Nat} {f : Group → Group} : (s.onGroup uid f).memoriesWf := by
  unfold State.onGroup
  exact State.onGroups_wf hs

theorem State.doReplay_wf {s : State} (hs : s.memoriesWf) {c tk : Nat} : (s.doReplay c tk).2.memoriesWf := by
  unfold State.doReplay
  split
  · split
    · exact hs
    · exact State.dropUnrecorded_wf (State.onGroup_wf hs)
  · split
    · exact State.dropUnrecorded_wf (State.putOp_wf hs)
    · exact hs

theorem State.doResume_wf {s : State} (hs : s.memoriesWf) {c tk : Nat} : (s.doResume c tk).2.memoriesWf := by
  unfold State.doResume
  split
  · split
    · exact State.dropUnrecorded_wf (State.onGroup_wf hs)
    · exact hs
  · exact hs

theorem State.command_wf {s : State} (hs : s.memoriesWf) {c w : Nat} : (s.command c w).2.memoriesWf := by
  unfold State.command
  extract_lets op tk fd
  clear_value op tk fd
  split
  · exact hs
  split
  · split
    · exact hs
    · exact State.doReplay_wf hs
  · split
    · exact hs
    · exact State.doResume_wf hs
  · split
    · exact hs
    · exact State.teardown_wf hs
  · exact hs

theorem State.drainCmds_wf {s : State} (hs : s.memoriesWf) {c n : Nat} : (s.drainCmds c n).memoriesWf := by
  induction n generalizing s with
  | zero => exact hs
  | succ n ih =>
    unfold State.drainCmds
    extract_lets +onlyGivenNames i off
    refine ite_wf hs ?_
    extract_lets +onlyGivenNames v
    have hv : v.2.memoriesWf := State.readSlot_wf hs
    exact ite_wf hv (ih (State.onCtx_wf (State.putSlot_wf (State.command_wf hv))))

theorem State.markCmds_wf {s : State} (hs : s.memoriesWf) {c off n : Nat} : (s.markCmds c off n).memoriesWf := by
  unfold State.markCmds
  exact State.onCtx_wf hs

theorem State.commands_wf {s : State} (hs : s.memoriesWf) {c off n : Nat} : (s.commands c off n).memoriesWf := by
  unfold State.commands
  exact ite_wf (State.drainCmds_wf (State.markCmds_wf hs)) hs

theorem State.commandSlot_wf {s : State} (hs : s.memoriesWf) {c slot : Nat} {w : BitVec 64} : (s.commandSlot c slot w).memoriesWf := by
  unfold State.commandSlot
  split
  · exact hs
  · exact State.commands_wf (State.hostWindow_wf hs)

theorem execReplay_keeps {s : State} {ctx slot : Nat} {word : BitVec 64} : Result.Keeps (execReplay ctx slot word s) s := by
  unfold execReplay
  exact next_keeps fun hs => State.commandSlot_wf hs

theorem execResume_keeps {s : State} {ctx slot : Nat} {word : BitVec 64} : Result.Keeps (execResume ctx slot word s) s := by
  unfold execResume
  exact next_keeps fun hs => State.commandSlot_wf hs

theorem execTeardown_keeps {s : State} {ctx slot : Nat} {word : BitVec 64} : Result.Keeps (execTeardown ctx slot word s) s := by
  unfold execTeardown
  exact next_keeps fun hs => State.commandSlot_wf hs

/-! The trap queue (R388). -/

theorem State.writeStored_wf {s : State} (hs : s.memoriesWf) {f : Nat} {bs : List Byte} : (s.writeStored f bs).memoriesWf := by
  unfold State.writeStored
  extract_lets +onlyGivenNames -underBinder q ph s1 s2
  have hs1' : s1.memoriesWf := State.putAs_wf hs
  have hs2' : s2.memoriesWf := same hs1'
  exact ite_wf (State.fire_wf hs2') hs2'

theorem State.retryRecords_wf {s : State} (hs : s.memoriesWf) {f : Nat} {l : List Unrecorded} : (s.retryRecords f l).memoriesWf := by
  induction l generalizing s with
  | nil => exact hs
  | cons u l ih =>
    unfold State.retryRecords
    refine ite_wf (ih hs) ?_
    extract_lets +onlyGivenNames t
    have ht : t.memoriesWf := State.refreshQueue_wf hs
    clear_value t
    refine ite_wf ht (ih (foldl_wf ?_ fun _ _ hx => State.writeStored_wf hx))
    exact ht

theorem execTrapQueueRetry_keeps {s : State} {fn : Nat} {consumed : BitVec 32} : Result.Keeps (execTrapQueueRetry fn consumed s) s := by
  unfold execTrapQueueRetry
  exact next_keeps fun hs => ite_wf hs (ite_wf hs (ite_wf (State.retryRecords_wf (State.putPhys_wf hs)) (State.logDenial_wf hs)))

theorem execFatalvClear_keeps {s : State} {value : BitVec 64} : Result.Keeps (execFatalvClear value s) s := by
  unfold execFatalvClear
  exact next_keeps fun hs => State.regEffect_wf hs fun hx => ite_wf (same hx) hx

/-! Peer traffic (R321, R366, R367). -/

theorem State.peerLand_wf {s : State} (hs : s.memoriesWf) {c : Nat} {l : Loc} {bs : List Byte} : (s.peerLand c l bs).memoriesWf := by
  unfold State.peerLand
  exact foldl_wf (State.settle_wf hs) fun _ _ hx => State.onGrid_wf (State.fresh_wf hx)

theorem State.peerPieces_wf {s : State} (hs : s.memoriesWf) {c : Nat} {x : Inbound} {l : List (Nat × Nat)} :
    (s.peerPieces c x l).memoriesWf := by
  induction l generalizing s with
  | nil => exact hs
  | cons p l ih =>
    unfold State.peerPieces
    extract_lets +onlyGivenNames at_ bs others hold away
    have haway : away.memoriesWf := hs
    clear_value away
    refine ite_wf (State.logDenial_wf haway) ?_
    split
    · exact ih (State.peerLand_wf hs)
    · exact ih (State.peerLand_wf hs)
    · exact ih (State.putWindow_wf hs)
    · exact State.logDenial_wf haway
    · exact haway
    · exact hs
    · exact hs
    · exact State.takeFatal_wf haway
    · exact State.takeFatal_wf haway
    · refine ite_wf haway ?_
      extract_lets +onlyGivenNames gen tk t
      have ht : t.memoriesWf := hs
      exact State.postHeld_wf ht

theorem State.peerTry_wf {s : State} (hs : s.memoriesWf) {x : Inbound} : (s.peerTry x).memoriesWf := by
  unfold State.peerTry
  split
  · exact State.peerPieces_wf hs
  · exact State.logDenial_wf (same hs)

theorem execPeerInboundWrite_keeps {s : State} {port va : Nat} {bytes : List (BitVec 8)} :
    Result.Keeps (execPeerInboundWrite port va bytes s) s := by
  unfold execPeerInboundWrite
  exact next_keeps fun hs => ite_wf hs (ite_wf (State.logDenial_wf hs) (State.peerTry_wf (State.wakeDies_wf hs)))

theorem State.releasePeer_wf {s : State} (hs : s.memoriesWf) {port : Nat} : (s.releasePeer port).memoriesWf := by
  unfold State.releasePeer
  split
  · exact ite_wf hs (State.peerTry_wf (State.wakeDies_wf hs))
  · exact hs

theorem execPeerresWrite_keeps {s : State} {port : Nat} : Result.Keeps (execPeerresWrite port s) s := by
  unfold execPeerresWrite
  exact next_keeps fun hs => ite_wf hs (State.regEffect_wf hs fun hx => State.releasePeer_wf hx)

theorem execPeerLinkTraining_keeps {s : State} {port : Nat} {hash : BitVec 16} : Result.Keeps (execPeerLinkTraining port hash s) s := by
  unfold execPeerLinkTraining
  exact next_keeps fun hs => same hs

/-! PRI (R354). -/

theorem State.priFatal_wf {s : State} (hs : s.memoriesWf) {g : Group} : (s.priFatal g).memoriesWf := by
  unfold State.priFatal
  extract_lets +onlyGivenNames -underBinder va
  exact State.takeFatal_wf hs

theorem State.priOp_wf {s : State} (hs : s.memoriesWf) {page : Nat} {ok : Bool} {o : Op} : (s.priOp page ok o).memoriesWf := by
  unfold State.priOp
  split
  · exact State.putOp_wf hs
  · extract_lets +onlyGivenNames -underBinder r
    have hr' : r.s.memoriesWf := State.opRun_wf hs
    split
    · exact ite_wf (Run.stopped_wf hr') hs
    · exact hs

theorem State.priInbound_wf {s : State} (hs : s.memoriesWf) {request : Nat} {ok : Bool} {x : Inbound} :
    (s.priInbound request ok x).memoriesWf := by
  unfold State.priInbound
  split
  · exact hs
  · split
    · exact State.peerTry_wf hs
    · extract_lets +onlyGivenNames -underBinder t
      have ht' : t.memoriesWf := same hs
      split
      · exact State.takeFatal_wf ht'
      · exact ht'

theorem State.priHub_wf {s : State} (hs : s.memoriesWf) {ok : Bool} {w : HubWait} : (s.priHub ok w).memoriesWf := by
  unfold State.priHub
  exact ite_wf (ite_wf (State.exchangeWord_wf hs) (State.hubWrite_wf hs)) (State.takeFatal_wf hs)

theorem State.priHubs_wf {s : State} (hs : s.memoriesWf) {page : Nat} {arms : List Nat} {ok : Bool} :
    (s.priHubs page arms ok).memoriesWf := by
  unfold State.priHubs
  extract_lets +onlyGivenNames -underBinder t
  have ht' : t.memoriesWf := foldl_wf (same hs) fun _ _ hx => State.priHub_wf hx
  exact foldl_wf ht' fun _ _ hx => State.armResponse_wf hx

theorem execPriResponse_keeps {s : State} {request : Nat} {ok : Bool} : Result.Keeps (execPriResponse request ok s) s := by
  unfold execPriResponse
  refine next_keeps fun hs => ?_
  split
  · exact hs
  · exact State.priHubs_wf (foldl_wf (foldl_wf (ite_wf (State.onGroups_wf (same hs)) (foldl_wf (same hs) fun _ _ hx => State.priFatal_wf
      hx)) fun _ _ hx => State.priOp_wf hx) fun _ _ hx => State.priInbound_wf hx)

/-! Stations. -/

theorem State.stationNow_wf {s : State} (hs : s.memoriesWf) {n cur : Nat} : (s.stationNow n cur).memoriesWf := by
  unfold State.stationNow
  exact State.fire_wf (same hs)

theorem State.stationStays_wf {s : State} (hs : s.memoriesWf) {n : Nat} {refused : Bool} : (s.stationStays n refused).memoriesWf := by
  unfold State.stationStays
  exact same hs

theorem State.preemptAll_wf {s : State} (hs : s.memoriesWf) {n : Nat} : (s.preemptAll n).memoriesWf := by
  unfold State.preemptAll
  exact foldl_wf hs fun _ _ hx => ite_wf (State.preempt_wf hx) hx

theorem State.gate_wf {s : State} (hs : s.memoriesWf) {n : Nat} : (s.gate n).memoriesWf := by
  unfold State.gate
  extract_lets +onlyGivenNames -underBinder s1 s2 _ s3
  have hs1' : s1.memoriesWf := foldl_wf hs fun _ _ hx => State.writeFrame_wf hx
  have hs2' : s2.memoriesWf := State.saveWhere_wf hs1'
  have hs3' : s3.memoriesWf := same hs2'
  exact State.stationNow_wf (State.releaseCores_wf hs3')

theorem State.stationRequest_wf {s : State} (hs : s.memoriesWf) {n t : Nat} : (s.stationRequest n t).memoriesWf := by
  unfold State.stationRequest
  split
  · exact hs
  · split
    · exact same hs
    · split
      · exact State.bindWaiting_wf (State.stationStays_wf hs)
      · extract_lets +onlyGivenNames -underBinder _ s1
        have hs1' : s1.memoriesWf := same hs
        exact ite_wf (State.bindWaiting_wf (State.preemptAll_wf hs1')) hs1'

theorem execStnpwrWrite_keeps {s : State} {stn : Nat} {value : BitVec 64} : Result.Keeps (execStnpwrWrite stn value s) s := by
  unfold execStnpwrWrite
  exact next_keeps fun hs => ite_wf hs (State.regEffect_wf hs fun hx => State.stationRequest_wf hx)

theorem execStationIdleP2_keeps {s : State} {stn : Nat} : Result.Keeps (execStationIdleP2 stn s) s := by
  unfold execStationIdleP2
  exact next_keeps fun hs => ite_wf (State.stationNow_wf hs) hs

/-! Dies. -/

theorem State.setDie_wf {s : State} (hs : s.memoriesWf) {d : Nat} {off busy refused : Bool} : (s.setDie d off busy refused).memoriesWf := by
  unfold State.setDie
  exact same hs

theorem State.dieRequest_wf {s : State} (hs : s.memoriesWf) {d : Nat} {off : Bool} : (s.dieRequest d off).memoriesWf := by
  unfold State.dieRequest
  exact ite_wf (State.setDie_wf hs) (ite_wf (ite_wf (State.setDie_wf hs) (State.setDie_wf hs)) (State.setDie_wf hs))

theorem execDiepwrWrite_keeps {s : State} {die : Nat} {value : BitVec 64} : Result.Keeps (execDiepwrWrite die value s) s := by
  unfold execDiepwrWrite
  exact next_keeps fun hs => ite_wf hs (State.regEffect_wf hs fun hx => State.dieRequest_wf hx)

/-! The clock. -/

theorem State.setClock_wf {s : State} (hs : s.memoriesWf) {p1 : Bool} : (s.setClock p1).memoriesWf := by
  unfold State.setClock
  split
  · exact hs
  · exact same hs

theorem execClkselWrite_keeps {s : State} {value : BitVec 64} : Result.Keeps (execClkselWrite value s) s := by
  unfold execClkselWrite
  exact next_keeps fun hs => State.regEffect_wf hs fun hx => State.setClock_wf hx

/-! Completed changes. -/

theorem State.stationStep_wf {s : State} (hs : s.memoriesWf) {n : Nat} : (s.stationStep n).memoriesWf := by
  unfold State.stationStep
  split
  · split
    · exact State.stationStays_wf hs
    · extract_lets +onlyGivenNames -underBinder t
      have ht' : t.memoriesWf := ite_wf (State.preemptAll_wf hs) hs
      exact ite_wf ht' (State.gate_wf ht')
  · exact ite_wf (State.stationNow_wf hs) (State.stationStays_wf hs)
  · exact State.bindWaiting_wf (State.stationNow_wf (ite_wf (State.fire_wf (State.setDie_wf hs)) hs))

theorem State.dieStep_wf {s : State} (hs : s.memoriesWf) {d : Nat} : (s.dieStep d).memoriesWf := by
  unfold State.dieStep
  exact ite_wf (State.bindWaiting_wf (State.fire_wf (State.setDie_wf hs))) (ite_wf (State.fire_wf (State.setDie_wf hs)) (State.setDie_wf
    hs))

theorem execPowerTransitionComplete_keeps {s : State} {index : Nat} : Result.Keeps (execPowerTransitionComplete index s) s := by
  unfold execPowerTransitionComplete
  exact next_keeps fun hs => ite_wf (ite_wf (State.stationStep_wf hs) hs) (ite_wf (ite_wf (State.dieStep_wf hs) hs) (ite_wf (State.fire_wf
    (same hs)) hs))

/-! The host link. -/

theorem State.sleepStation_wf {s : State} (hs : s.memoriesWf) {n : Nat} : (s.sleepStation n).memoriesWf := by
  unfold State.sleepStation
  split
  · exact hs
  · split
    · exact same hs
    · exact State.gate_wf hs

theorem State.sleepDie_wf {s : State} (hs : s.memoriesWf) {d : Nat} : (s.sleepDie d).memoriesWf := by
  unfold State.sleepDie
  exact ite_wf hs (State.fire_wf (State.setDie_wf hs))

/-- The machine in D3hot. -/
def State.asleep (s : State) : State := { s with power := { s.power with d3hot := true } }

theorem State.asleep_wf {s : State} (hs : s.memoriesWf) : s.asleep.memoriesWf := hs

theorem execD3hotEntry_eq (s : State) : execD3hotEntry s = .next (if s.power.d3hot || s.power.removed then s
    else ((List.range 4).foldl (fun (t : State) d => t.sleepDie d) ((List.range 32).foldl (fun (t : State) n => t.sleepStation n)
      ((List.range 32).foldl (fun (t : State) n => t.preemptAll n) s))).asleep) := rfl

theorem execD3hotEntry_keeps {s : State} : Result.Keeps (execD3hotEntry s) s := by
  rw [execD3hotEntry_eq]
  exact next_keeps fun hs => ite_wf hs (State.asleep_wf (foldl_wf (foldl_wf (foldl_wf hs fun _ _ hx => State.preemptAll_wf hx)
    fun _ _ hx => State.sleepStation_wf hx) fun _ _ hx => State.sleepDie_wf hx))

theorem execD0Return_keeps {s : State} : Result.Keeps (execD0Return s) s := by
  unfold execD0Return
  exact next_keeps fun hs => ite_wf hs (State.bindWaiting_wf (same hs))

theorem State.powerLost_wf {s : State} (hs : s.memoriesWf) : s.powerLost.memoriesWf := ⟨rfl, hs.2.1, rfl, rfl, hs.2.2.2.2⟩

theorem execPowerRemoval_keeps {s : State} : Result.Keeps (execPowerRemoval s) s := by
  unfold execPowerRemoval
  exact next_keeps fun hs => same (State.powerLost_wf hs)

/-! Measurements (R403, R404). -/

theorem State.onSec_wf {s : State} (hs : s.memoriesWf) {f : Sec → Sec} : (s.onSec f).memoriesWf := by
  unfold State.onSec
  exact same hs

theorem State.drawNonce_wf {s : State} (hs : s.memoriesWf) : s.drawNonce.2.memoriesWf := by
  unfold State.drawNonce
  exact same hs

theorem State.newNonce_wf {s : State} (hs : s.memoriesWf) : s.newNonce.memoriesWf := by
  unfold State.newNonce
  extract_lets +onlyGivenNames -underBinder r
  have hr' : r.2.memoriesWf := State.drawNonce_wf hs
  exact State.onSec_wf hr'

/-! Boot. -/

theorem State.bootImage_wf {s : State} (hs : s.memoriesWf) {recovered : Bool} : (s.bootImage recovered).memoriesWf := by
  unfold State.bootImage
  extract_lets +onlyGivenNames -underBinder h
  exact State.onSec_wf hs

theorem State.recover_wf {s : State} (hs : s.memoriesWf) {e : Nat} : (s.recover e).memoriesWf := by
  unfold State.recover
  exact State.fire_wf (State.onSec_wf hs)

theorem State.romState_wf {s : State} (hs : s.memoriesWf) : s.romState.memoriesWf := by
  obtain ⟨hm, hy, hw, -, hf⟩ := State.powerLost_wf hs
  have h1 : State.memoriesWf { s.powerLost with sbSram := s.flash.filter fun x => decide (x.1 < 0x400000) } :=
    ⟨hm, hy, hw, Memory.filter_wf hs.2.2.2.2, hf⟩
  exact State.newNonce_wf (State.onSec_wf h1)

theorem execPowerOnReset_keeps {s : State} : Result.Keeps (execPowerOnReset s) s := by
  refine next_keeps fun hs => ?_
  have h2 := State.romState_wf hs
  exact ite_wf (State.bootImage_wf h2) (State.recover_wf h2)

theorem execFirmwareReady_keeps {s : State} : Result.Keeps (execFirmwareReady s) s := by
  unfold execFirmwareReady
  exact next_keeps fun hs => ite_wf (State.onSec_wf hs) hs

theorem State.recgo_wf {t : State} (hs : t.memoriesWf) {length : Nat} : (t.recgo length).memoriesWf := by
  unfold State.recgo
  exact ite_wf (State.onSec_wf hs) hs

theorem execRecgoWrite_keeps {s : State} {length : BitVec 64} : Result.Keeps (execRecgoWrite length s) s := by
  unfold execRecgoWrite
  exact next_keeps fun hs => State.regEffect_wf hs fun hx => State.recgo_wf hx

theorem execRecoveryVerdict_keeps {s : State} : Result.Keeps (execRecoveryVerdict s) s := by
  unfold execRecoveryVerdict
  refine next_keeps fun hs => ?_
  split
  · exact hs
  · exact ite_wf (State.bootImage_wf (State.onSec_wf hs)) (State.recover_wf (State.onSec_wf hs))

/-! Attestation (R405). -/

theorem State.mext_wf {t : State} (hs : t.memoriesWf) {v : Nat} : (t.mext v).memoriesWf := by
  unfold State.mext
  exact ite_wf hs (ite_wf (State.onSec_wf hs) (State.onSec_wf hs))

theorem execMextWrite_keeps {s : State} {value : BitVec 64} : Result.Keeps (execMextWrite value s) s := by
  unfold execMextWrite
  exact next_keeps fun hs => State.regEffect_wf hs fun hx => State.mext_wf hx

theorem State.attctl_wf {t : State} (hs : t.memoriesWf) : t.attctl.memoriesWf := by
  unfold State.attctl
  exact ite_wf hs (State.onSec_wf hs)

theorem execAttctlWrite_keeps {s : State} : Result.Keeps (execAttctlWrite s) s := by
  unfold execAttctlWrite
  exact next_keeps fun hs => State.regEffect_wf hs fun hx => State.attctl_wf hx

theorem execAttestationReportReady_keeps {s : State} : Result.Keeps (execAttestationReportReady s) s := by
  unfold execAttestationReportReady
  exact next_keeps fun hs => ite_wf hs (State.fire_wf (State.onSec_wf (same hs)))

/-! Debug tokens (R410). -/

theorem State.dbgctl_wf {t : State} (hs : t.memoriesWf) : t.dbgctl.memoriesWf := by
  unfold State.dbgctl
  exact ite_wf hs (State.onSec_wf hs)

theorem execDbgctlWrite_keeps {s : State} : Result.Keeps (execDbgctlWrite s) s := by
  unfold execDbgctlWrite
  exact next_keeps fun hs => State.regEffect_wf hs fun hx => State.dbgctl_wf hx

theorem execDebugTokenVerdict_keeps {s : State} : Result.Keeps (execDebugTokenVerdict s) s := by
  unfold execDebugTokenVerdict
  exact next_keeps fun hs => ite_wf hs (State.newNonce_wf (State.fire_wf (State.onSec_wf hs)))

/-! Debug levels and halting (R409, R411). -/

theorem State.setLevels_wf {s : State} (hs : s.memoriesWf) {half v : Nat} : (s.setLevels half v).memoriesWf := by
  unfold State.setLevels
  exact State.onSec_wf hs

theorem execDbglvlWrite_keeps {s : State} {half : Nat} {value : BitVec 64} : Result.Keeps (execDbglvlWrite half value s) s := by
  unfold execDbglvlWrite
  exact next_keeps fun hs => ite_wf hs (State.regEffect_wf hs fun hx => State.setLevels_wf hx)

theorem State.halt_wf {s : State} (hs : s.memoriesWf) {v : Nat} : (s.halt v).memoriesWf := by
  unfold State.halt
  exact foldl_wf hs fun _ _ hx => ite_wf (ite_wf (State.stationNow_wf (State.onSec_wf hx)) (State.onSec_wf hx)) hx

theorem execHaltWrite_keeps {s : State} {value : BitVec 64} : Result.Keeps (execHaltWrite value s) s := by
  unfold execHaltWrite
  exact next_keeps fun hs => State.regEffect_wf hs fun hx => State.halt_wf hx

theorem State.unhalt_wf {t : State} (hs : t.memoriesWf) {v : Dword} : (t.unhalt v).memoriesWf := by
  unfold State.unhalt
  exact State.bindWaiting_wf (State.onSec_wf hs)

theorem execReleaseWrite_keeps {s : State} {value : BitVec 64} : Result.Keeps (execReleaseWrite value s) s := by
  unfold execReleaseWrite
  exact next_keeps fun hs => State.regEffect_wf hs fun hx => State.unhalt_wf hx

/-! The debug window (R413). -/

theorem State.pokeGroup_wf {s : State} (hs : s.memoriesWf) {core gslot : Nat} {f : Group → Group} :
    (s.pokeGroup core gslot f).memoriesWf := by
  unfold State.pokeGroup
  exact same hs

theorem State.onYard_wf {s : State} (hs : s.memoriesWf) {h : Nat} {f : Thread → Thread} : (s.onYard h f).memoriesWf := by
  unfold State.onYard
  extract_lets +onlyGivenNames -underBinder t
  have ht' : t.memoriesWf := State.onThreads_wf hs
  exact same ht'

theorem State.pokePool_wf {s : State} (hs : s.memoriesWf) {core off : Nat} {b : Byte} : (s.pokePool core off b).memoriesWf := by
  unfold State.pokePool
  split
  · exact State.pokeGroup_wf hs
  · exact State.pokeGroup_wf hs
  · extract_lets +onlyGivenNames -underBinder l s1
    have hs1' : s1.memoriesWf := State.onYard_wf hs
    exact same hs1'
  · exact hs
  · exact hs
  · exact hs

theorem State.clearWindow_wf {s : State} (hs : s.memoriesWf) {n off len : Nat} : (s.clearWindow n off len).memoriesWf := by
  unfold State.clearWindow
  split
  · exact hs
  · exact same hs

theorem State.pokeWindow_wf {t : State} (hs : t.memoriesWf) {off : Nat} {bytes : List Byte} : (t.pokeWindow off bytes).memoriesWf := by
  unfold State.pokeWindow
  split
  · exact hs
  · exact foldl_wf (State.clearWindow_wf hs) fun _ _ hx => ite_wf (State.pokePool_wf hx) hx

theorem execDebugWindowWrite_keeps {s : State} {off : Nat} {bytes : List (BitVec 8)} :
    Result.Keeps (execDebugWindowWrite off bytes s) s := by
  unfold execDebugWindowWrite
  exact next_keeps fun hs => ite_wf hs (foldl_wf (State.hostPieces_wf hs) fun _ _ hx => State.pokeWindow_wf hx)

/-! DEFINITION. Telemetry, numeric counters, soft errors, quarantine, caps and the I3C port (R418 to R425). -/

theorem State.onFleet_wf {s : State} (hs : s.memoriesWf) {f : Fleet → Fleet} : (s.onFleet f).memoriesWf := by
  unfold State.onFleet
  exact same hs

/-! Quarantine (R423). -/

theorem State.moveOff_wf {s : State} (hs : s.memoriesWf) {core : Nat} : (s.moveOff core).memoriesWf := by
  unfold State.moveOff
  exact foldl_wf hs fun _ _ hx => ite_wf (State.rebind_wf (State.preempt_wf hx)) hx

theorem State.quarantine_wf {s : State} (hs : s.memoriesWf) {core : Nat} : (s.quarantine core).memoriesWf := by
  unfold State.quarantine
  split
  · exact hs
  · extract_lets +onlyGivenNames -underBinder stn bad s1 s2
    have hs1' : s1.memoriesWf := foldl_wf hs fun _ _ hx => ite_wf (State.restoreFatal_wf hx) hx
    have hs2' : s2.memoriesWf := State.onFleet_wf hs1'
    exact State.bindWaiting_wf (State.endQuarantine_wf (State.moveOff_wf hs2'))

theorem State.countCore_wf {s : State} (hs : s.memoriesWf) {c : Nat} : (s.countCore c).memoriesWf := by
  unfold State.countCore
  extract_lets +onlyGivenNames -underBinder s1
  have hs1' : s1.memoriesWf := State.onFleet_wf hs
  exact ite_wf (State.quarantine_wf hs1') hs1'

theorem State.countCe_wf {s : State} (hs : s.memoriesWf) {u : ErrUnit} : (s.countCe u).memoriesWf := by
  unfold State.countCe
  split
  · exact State.countCore_wf hs
  · exact State.onFleet_wf hs
  · exact State.countCore_wf hs

theorem State.countUe_wf {s : State} (hs : s.memoriesWf) {u : ErrUnit} : (s.countUe u).memoriesWf := by
  unfold State.countUe
  split
  · extract_lets +onlyGivenNames -underBinder s1
    have hs1' : s1.memoriesWf := State.onFleet_wf hs
    exact ite_wf (State.quarantine_wf hs1') hs1'
  · exact State.onFleet_wf hs
  · exact hs

theorem State.dropLine_wf {s : State} (hs : s.memoriesWf) {u : ErrUnit} : (s.dropLine u).memoriesWf := by
  unfold State.dropLine
  split
  · exact same hs
  · exact hs

theorem execSoftErrorCorrected_keeps {s : State} {u : ErrUnit} : Result.Keeps (execSoftErrorCorrected u s) s := by
  unfold execSoftErrorCorrected
  exact next_keeps fun hs => State.countCe_wf (State.dropLine_wf hs)

theorem State.stopBound_wf {s : State} (hs : s.memoriesWf) {stns : List Nat} {p : PoisonAt} : (s.stopBound stns p).memoriesWf := by
  unfold State.stopBound
  exact foldl_wf hs fun _ _ hx => ite_wf (State.restoreFatal_wf hx) hx

theorem execSoftErrorUncorrectable_keeps {s : State} {u : ErrUnit} {place : PoisonAt} :
    Result.Keeps (execSoftErrorUncorrectable u place s) s := by
  unfold execSoftErrorUncorrectable
  refine next_keeps fun hs => State.countUe_wf ?_
  split
  · exact State.stopBound_wf (same hs)
  · exact State.stopBound_wf (same hs)
  · exact same hs

theorem execLatchParityError_keeps {s : State} {core gslot : Nat} : Result.Keeps (execLatchParityError core gslot s) s := by
  unfold execLatchParityError
  exact next_keeps fun hs => State.countCe_wf (same hs)

theorem State.setHold_wf {s : State} (hs : s.memoriesWf) {core v : Nat} : (s.setHold core v).memoriesWf := by
  unfold State.setHold
  exact ite_wf (State.quarantine_wf (State.onFleet_wf hs)) hs

theorem execEccHoldWrite_keeps {s : State} {core : Nat} {value : BitVec 64} : Result.Keeps (execEccHoldWrite core value s) s := by
  unfold execEccHoldWrite
  exact next_keeps fun hs => ite_wf hs (State.regEffect_wf hs fun hx => State.setHold_wf hx)

/-! Numeric counters. -/

theorem State.clearNumagg_wf {s : State} (hs : s.memoriesWf) {d : Nat} : (s.clearNumagg d).memoriesWf := by
  unfold State.clearNumagg
  exact State.onFleet_wf hs

theorem execNumaggClrWrite_keeps {s : State} {domain : Nat} : Result.Keeps (execNumaggClrWrite domain s) s := by
  unfold execNumaggClrWrite
  exact next_keeps fun hs => ite_wf hs (State.regEffect_wf hs fun hx => State.clearNumagg_wf hx)

/-! Caps (R418, R424). -/

theorem State.setPcap_wf {s : State} (hs : s.memoriesWf) {v : Nat} : (s.setPcap v).memoriesWf := by
  unfold State.setPcap
  exact State.onFleet_wf hs

theorem State.setTcap_wf {s : State} (hs : s.memoriesWf) {v : Nat} : (s.setTcap v).memoriesWf := by
  unfold State.setTcap
  exact State.onFleet_wf hs

theorem execPcapWrite_keeps {s : State} {value : BitVec 64} : Result.Keeps (execPcapWrite value s) s := by
  unfold execPcapWrite
  exact next_keeps fun hs => State.regEffect_wf hs fun hx => State.setPcap_wf hx

theorem execTcapWrite_keeps {s : State} {value : BitVec 64} : Result.Keeps (execTcapWrite value s) s := by
  unfold execTcapWrite
  exact next_keeps fun hs => State.regEffect_wf hs fun hx => State.setTcap_wf hx

theorem execPowerOverCap_keeps {s : State} {mw : Nat} : Result.Keeps (execPowerOverCap mw s) s := by
  unfold execPowerOverCap
  exact next_keeps fun hs => State.onFleet_wf hs

theorem execDutyStepTick_keeps {s : State} {mw : Nat} : Result.Keeps (execDutyStepTick mw s) s := by
  unfold execDutyStepTick
  exact next_keeps fun hs => State.onFleet_wf hs

theorem execPowerCapEnd_keeps {s : State} : Result.Keeps (execPowerCapEnd s) s :=
  next_keeps fun hs => ite_wf hs (ite_wf (State.onFleet_wf hs) hs)

theorem State.setTemp_wf {s : State} (hs : s.memoriesWf) {i t : Nat} : (s.setTemp i t).memoriesWf := by
  unfold State.setTemp
  exact State.onFleet_wf hs

theorem State.readTemp_wf {s : State} (hs : s.memoriesWf) {sensor temp : Nat} : (s.readTemp sensor temp).memoriesWf := by
  unfold State.readTemp
  exact State.onFleet_wf (State.setTemp_wf hs)

theorem execTempOverCap_keeps {s : State} {sensor temp : Nat} : Result.Keeps (execTempOverCap sensor temp s) s := by
  unfold execTempOverCap
  exact next_keeps fun hs => State.readTemp_wf hs

theorem execThermalStop_keeps {s : State} {sensor temp : Nat} : Result.Keeps (execThermalStop sensor temp s) s := by
  unfold execThermalStop
  exact next_keeps fun hs => State.readTemp_wf hs

theorem State.coolDown_wf {s : State} (hs : s.memoriesWf) {n bound : Nat} : (s.coolDown n bound).memoriesWf :=
  foldl_wf hs fun _ _ hx => ite_wf hx hx

theorem execThermalStopEnd_keeps {s : State} : Result.Keeps (execThermalStopEnd s) s := by
  unfold execThermalStopEnd
  exact next_keeps fun hs => ite_wf hs (State.onFleet_wf (State.coolDown_wf hs))

theorem execTempCapEnd_keeps {s : State} : Result.Keeps (execTempCapEnd s) s := by
  unfold execTempCapEnd
  exact next_keeps fun hs => ite_wf hs (State.onFleet_wf (State.coolDown_wf hs))

/-! I3C (R425). -/

theorem execI3cPrivateRead_keeps {s : State} {index : Nat} : Result.Keeps (execI3cPrivateRead index s) s := by
  unfold execI3cPrivateRead
  exact next_keeps fun hs => ite_wf hs (same hs)

theorem execI3cPrivateWrite_keeps {s : State} {index : Nat} {value : BitVec 64} : Result.Keeps (execI3cPrivateWrite index value s) s := by
  unfold execI3cPrivateWrite
  exact next_keeps fun hs => ite_wf hs (ite_wf (State.setPcap_wf hs) (ite_wf (State.setTcap_wf hs) (ite_wf (State.setHold_wf hs) hs)))

theorem execDynamicAddressAssignment_keeps {s : State} {address : BitVec 7} : Result.Keeps (execDynamicAddressAssignment address s) s := by
  unfold execDynamicAddressAssignment
  exact next_keeps fun hs => ite_wf hs (State.onFleet_wf hs)

/-! BAR2. -/

theorem State.drainRings_wf {s : State} (hs : s.memoriesWf) {off n : Nat} : (s.drainRings off n).memoriesWf := by
  unfold State.drainRings
  exact foldl_wf hs fun _ _ hx => State.commands_wf (ite_wf (State.drainArms_wf hx) hx)

theorem State.syncLive_wf {s : State} (hs : s.memoriesWf) : s.syncLive.memoriesWf := by
  unfold State.syncLive
  exact foldl_wf hs fun _ _ hx => ite_wf (State.syncPages_wf hx) hx

theorem State.putSram_wf {s : State} (hs : s.memoriesWf) {a : Nat} {bs : List Byte} : (s.putSram a bs).memoriesWf := by
  obtain ⟨hm, hy, hw, hb, hf⟩ := hs
  exact ⟨hm, hy, hw, Memory.putBytes_wf hb, hf⟩

theorem execHostWindowWrite_keeps {s : State} {fn off : Nat} {bytes : List (BitVec 8)} :
    Result.Keeps (execHostWindowWrite fn off bytes s) s := by
  unfold execHostWindowWrite
  exact next_keeps fun hs => ite_wf (foldl_wf (State.hostPieces_wf hs) fun _ _ hx => State.putSram_wf hx) (ite_wf (State.syncLive_wf
    (State.drainRings_wf (State.hostWindow_wf hs))) hs)

theorem execHostWindowRead_keeps {s : State} {fn off len : Nat} : Result.Keeps (execHostWindowRead fn off len s) s := by
  unfold execHostWindowRead
  exact next_keeps fun hs => ite_wf (same (State.hostPieces_wf hs)) (ite_wf (same hs) (same (State.winDenials_wf hs)))

/-! BAR4. -/

theorem State.dropHubWordsAt_wf {s : State} (hs : s.memoriesWf) {l : Loc} {n : Nat} : (s.dropHubWordsAt l n).memoriesWf := by
  unfold State.dropHubWordsAt
  exact same hs

theorem State.putHost_wf {s : State} (hs : s.memoriesWf) {sys owned : Bool} {a : Nat} {bs : List Byte} :
    (s.putHost sys owned a bs).memoriesWf := by
  unfold State.putHost
  extract_lets +onlyGivenNames -underBinder t
  have ht' : t.memoriesWf := State.dropHubWordsAt_wf (State.putPhys_wf hs)
  exact ite_wf ht' (same ht')

theorem State.putHosts_wf {s : State} (hs : s.memoriesWf) {sys : Bool} {a : Nat} {bs : List Byte} {ps : List (Nat × Nat)} :
    (s.putHosts sys a bs ps).memoriesWf := by
  unfold State.putHosts
  exact foldl_wf hs fun _ _ hx => State.putHost_wf hx

theorem State.apPieces_wf {s : State} (hs : s.memoriesWf) {pa n : Nat} {k : Access} : (s.apPieces pa n k).2.memoriesWf := by
  unfold State.apPieces
  exact foldl_wf hs fun _ _ hx => State.logDenial_wf hx

theorem execHostApertureWrite_keeps {s : State} {off : Nat} {bytes : List (BitVec 8)} :
    Result.Keeps (execHostApertureWrite off bytes s) s := by
  unfold execHostApertureWrite
  exact next_keeps fun hs => ite_wf hs (ite_wf hs (ite_wf (same hs) (State.syncLive_wf (State.putHosts_wf (foldl_wf (State.apPieces_wf
    (State.wakeDies_wf hs)) fun _ _ hx => State.clearMem_wf hx)))))

theorem execHostApertureRead_keeps {s : State} {off len : Nat} : Result.Keeps (execHostApertureRead off len s) s := by
  unfold execHostApertureRead
  exact next_keeps fun hs => ite_wf (same hs) (ite_wf (same hs) (ite_wf (same hs) (same (State.apPieces_wf (State.wakeDies_wf hs)))))

/-! BAR0: writes. -/

theorem State.setTable_wf {s : State} (hs : s.memoriesWf) {i : Nat} {v : Dword} : (s.setTable i v).memoriesWf := by
  unfold State.setTable
  exact same hs

theorem State.putBuffer_wf {s : State} (hs : s.memoriesWf) {which off : Nat} {bs : List Byte} : (s.putBuffer which off bs).memoriesWf := by
  unfold State.putBuffer
  exact State.onSec_wf hs

theorem State.setQueue_wf {s : State} (hs : s.memoriesWf) {f : Nat} {g : TrapQueue → TrapQueue} : (s.setQueue f g).memoriesWf := by
  unfold State.setQueue
  exact same hs

theorem State.setPeer_wf {s : State} (hs : s.memoriesWf) {port : Nat} {g : Peer → Peer} : (s.setPeer port g).memoriesWf := by
  unfold State.setPeer
  exact same hs

theorem State.pageWrite_wf {s : State} (hs : s.memoriesWf) {c off : Nat} {v : Dword} : (s.pageWrite c off v).memoriesWf := by
  unfold State.pageWrite
  exact ite_wf (State.setPpHead_wf hs) (ite_wf (State.setCoal_wf hs) hs)

theorem State.linkWrite_wf {s : State} (hs : s.memoriesWf) {off : Nat} {v : Dword} : (s.linkWrite off v).memoriesWf := by
  unfold State.linkWrite
  extract_lets +onlyGivenNames n
  refine ite_wf hs (ite_wf (State.startSync_wf hs) (ite_wf hs (ite_wf (State.setPpHead_wf hs) (ite_wf (State.setCoal_wf hs) (ite_wf ?_
    (ite_wf ?_ (ite_wf (ite_wf hs hs) (ite_wf hs (ite_wf hs hs)))))))))
  · extract_lets +onlyGivenNames p
    generalize off % 32 = k
    split
    · exact State.setPeer_wf hs
    · exact State.setPeer_wf hs
    · exact State.releasePeer_wf hs
    · exact hs
  · generalize off % 64 = k
    split
    · exact State.setQueue_wf hs
    · exact State.setQueue_wf hs
    · exact hs

theorem State.fleetWrite_wf {s : State} (hs : s.memoriesWf) {off n : Nat} : (s.fleetWrite off n).memoriesWf := by
  unfold State.fleetWrite
  exact ite_wf (State.setPcap_wf hs) (ite_wf (State.setTcap_wf hs) (ite_wf (State.clearNumagg_wf hs) (ite_wf (State.setHold_wf hs) hs)))

theorem State.secWrite_wf {s : State} (hs : s.memoriesWf) {off : Nat} {v : Dword} : (s.secWrite off v).memoriesWf := by
  unfold State.secWrite
  exact ite_wf (State.recgo_wf hs) (ite_wf (State.mext_wf hs) (ite_wf (State.attctl_wf hs) (ite_wf (State.dbgctl_wf hs) (ite_wf
    (State.setLevels_wf hs) (ite_wf (State.setLevels_wf hs) (ite_wf (State.halt_wf hs) (ite_wf (State.unhalt_wf hs) (ite_wf (State.onSec_wf
    hs) (ite_wf (State.onSec_wf hs) (ite_wf (State.setClock_wf hs) (ite_wf (State.stationRequest_wf hs) (ite_wf (State.dieRequest_wf hs)
    hs))))))))))))

theorem State.regWrite_wf {s : State} (hs : s.memoriesWf) {off : Nat} {v : Dword} : (s.regWrite off v).memoriesWf := by
  unfold State.regWrite
  exact ite_wf (State.linkWrite_wf hs) (ite_wf (State.fleetWrite_wf hs) (ite_wf (State.secWrite_wf hs) (ite_wf (State.setTable_wf hs)
    (ite_wf (State.pageWrite_wf hs) hs))))

theorem State.halfWrite_wf {s : State} (hs : s.memoriesWf) {off : Nat} {v : Word} : (s.halfWrite off v).memoriesWf := by
  unfold State.halfWrite
  refine ite_wf (ite_wf (same hs) (State.regWrite_wf hs)) (ite_wf ?_ hs)
  split
  · exact State.regWrite_wf (same hs)
  · exact hs

theorem execRegisterWrite_keeps {s : State} {fn off : Nat} {wide : Bool} {value : BitVec 64} :
    Result.Keeps (execRegisterWrite fn off wide value s) s := by
  unfold execRegisterWrite
  refine ite_keeps (next_keeps id) ?_
  split
  · exact next_keeps id
  · refine next_keeps fun hs => State.regEffect_wf hs fun hx => ite_wf (State.pokeWindow_wf hx) ?_
    split
    · exact State.putBuffer_wf hx
    · exact ite_wf (State.regWrite_wf hx) (State.halfWrite_wf hx)

/-! BAR0: reads. -/

theorem State.wasRead_wf {s : State} (hs : s.memoriesWf) {off : Nat} : (s.wasRead off).memoriesWf := by
  unfold State.wasRead
  split
  · exact same hs
  · exact hs

theorem State.hostRegister_wf {s : State} (hs : s.memoriesWf) {fn a n : Nat} : (s.hostRegister fn a n).memoriesWf := by
  unfold State.hostRegister
  split
  · exact same hs
  · split
    · extract_lets +onlyGivenNames -underBinder x0
      have hx0' : x0.memoriesWf := State.logDenial_wf hs
      exact same hx0'
    · extract_lets +onlyGivenNames -underBinder x0
      have hx0' : x0.memoriesWf := State.wasRead_wf hs
      exact same hx0'

theorem execDenyprodRead_keeps {s : State} : Result.Keeps (execDenyprodRead s) s := by
  unfold execDenyprodRead
  exact next_keeps fun hs => State.hostRegister_wf hs

/-! What the host and the board do besides the events of the opcode table. -/

theorem State.readRegister_wf {s : State} (hs : s.memoriesWf) {fn off : Nat} {wide : Bool} : (s.readRegister fn off wide).memoriesWf := by
  unfold State.readRegister
  extract_lets n
  split
  · exact hs
  · exact State.hostRegister_wf hs

theorem State.hostAct_wf {s : State} (hs : s.memoriesWf) {a : HostAct} : (s.hostAct a).memoriesWf := by
  cases a with
  | readRegister fn off wide => exact ite_wf hs (State.readRegister_wf hs)
  | readIds fn => exact ite_wf hs hs
  | resizeAperture e => exact ite_wf hs hs
  | dropTranslation page => exact ite_wf hs hs
  | writeMemory addr bytes => exact State.syncLive_wf (State.putHosts_wf hs)
  | writeFlash off bytes =>
    obtain ⟨hm, hy, hw, hb, hf⟩ := hs
    exact ⟨hm, hy, hw, hb, Memory.putBytes_wf hf⟩
  | flashState fails => exact hs

/-! Parked groups. -/

theorem State.fromImage_wf {s : State} (hs : s.memoriesWf) {g : Group} : (s.fromImage g).memoriesWf := by
  unfold State.fromImage
  exact same hs

theorem State.retryOf_wf {s : State} (hs : s.memoriesWf) {uid : Nat} : (s.retryOf uid).memoriesWf := by
  unfold State.retryOf
  extract_lets +onlyGivenNames -underBinder t
  have ht' : t.memoriesWf := by
    dsimp only [t]
    split
    · exact State.fromImage_wf hs
    · exact State.select_wf hs
  exact State.onMe_wf ht'

/-! The hub. -/

theorem State.atNextTurn_wf {s : State} (hs : s.memoriesWf) : s.atNextTurn.memoriesWf := by
  unfold State.atNextTurn
  exact same hs

/-! DEFINITION. Lane collectives (R268 to R279, R188 to R190). -/

theorem State.collWord_keeps {s : State} {w : LR} {srcs : List (BitVec 8 × Nat)} {f : BitVec 32 → Nat → Word} :
    Result.Keeps (s.collWord w srcs f) s := by
  unfold State.collWord
  exact State.laneRun_keeps fun _ hs => State.advance_wf (State.onMe_wf hs)

theorem State.collRead_keeps {s : State} {w : LR} {other : Nat → Option (Nat × BitVec 8)} : Result.Keeps (s.collRead w other) s := by
  unfold State.collRead
  exact ite_keeps State.collWord_keeps (next_keeps fun hs => State.takeTrap_wf hs)

theorem State.shuffle_keeps {s : State} {w : LR} {pickLane : Nat → Nat → Nat → Nat → Nat → Nat} :
    Result.Keeps (s.shuffle w pickLane) s := by
  unfold State.shuffle
  exact State.collRead_keeps

theorem execShfl_keeps {s : State} {w : LR} : Result.Keeps (execShfl w s) s := by
  unfold execShfl
  exact State.shuffle_keeps

theorem execShflx_keeps {s : State} {w : LR} : Result.Keeps (execShflx w s) s := by
  unfold execShflx
  exact State.shuffle_keeps

theorem execShflu_keeps {s : State} {w : LR} : Result.Keeps (execShflu w s) s := by
  unfold execShflu
  exact State.shuffle_keeps

theorem execShfld_keeps {s : State} {w : LR} : Result.Keeps (execShfld w s) s := by
  unfold execShfld
  exact State.shuffle_keeps

theorem execGthr_keeps {s : State} {w : LR} : Result.Keeps (execGthr w s) s := by
  unfold execGthr
  exact State.collRead_keeps

theorem execSctr_keeps {s : State} {w : LR} : Result.Keeps (execSctr w s) s := by
  unfold execSctr
  exact State.laneRun_keeps fun _ hs => State.advance_wf (State.onMe_wf hs)

theorem execPoll_keeps {s : State} {w : LR} : Result.Keeps (execPoll w s) s := by
  unfold execPoll
  exact State.collWord_keeps

theorem execMatchEq_keeps {s : State} {w : LR} : Result.Keeps (execMatchEq w s) s := by
  unfold execMatchEq
  exact State.collWord_keeps

/-! Reductions and scans. -/

theorem State.reduce_keeps {s : State} {w : LR} {keep : Nat → Nat → Bool} : Result.Keeps (s.reduce w keep) s := by
  unfold State.reduce
  exact State.laneFp_keeps

theorem execRedx_keeps {s : State} {w : LR} : Result.Keeps (execRedx w s) s := by
  unfold execRedx
  exact State.reduce_keeps

theorem execScanx_keeps {s : State} {w : LR} : Result.Keeps (execScanx w s) s := by
  unfold execScanx
  exact State.reduce_keeps

/-! Top-k. -/

theorem State.topK_keeps {s : State} {w : LR} {merge : Bool} : Result.Keeps (s.topK w merge) s := by
  unfold State.topK
  exact State.laneRun_keeps fun _ hs => ite_wf (State.takeTrap_wf hs) (State.advance_wf (State.onMe_wf (State.clearV_wf hs)))

theorem execTopk_keeps {s : State} {w : LR} : Result.Keeps (execTopk w s) s := by
  unfold execTopk
  exact State.topK_keeps

theorem execTopkm_keeps {s : State} {w : LR} : Result.Keeps (execTopkm w s) s := by
  unfold execTopkm
  exact State.topK_keeps

/-! DEFINITION. Lane integer, logic, predicate and immediate instructions (R233 to R250). -/

theorem execIadd_keeps {s : State} {w : LR} : Result.Keeps (execIadd w s) s := by
  unfold execIadd
  exact State.lane2_keeps

theorem execIsub_keeps {s : State} {w : LR} : Result.Keeps (execIsub w s) s := by
  unfold execIsub
  exact State.lane2_keeps

theorem execIadds_keeps {s : State} {w : LR} : Result.Keeps (execIadds w s) s := by
  unfold execIadds
  exact State.lane2_keeps

theorem execIsubs_keeps {s : State} {w : LR} : Result.Keeps (execIsubs w s) s := by
  unfold execIsubs
  exact State.lane2_keeps

theorem execImul_keeps {s : State} {w : LR} : Result.Keeps (execImul w s) s := by
  unfold execImul
  exact State.lane2_keeps

theorem execImulh_keeps {s : State} {w : LR} : Result.Keeps (execImulh w s) s := by
  unfold execImulh
  exact State.lane2_keeps

theorem execImulhn_keeps {s : State} {w : LR} : Result.Keeps (execImulhn w s) s := by
  unfold execImulhn
  exact State.lane2_keeps

theorem execImulw_keeps {s : State} {w : LR} : Result.Keeps (execImulw w s) s := by
  unfold execImulw
  exact State.lanePair_keeps

theorem execImad_keeps {s : State} {w : LR} : Result.Keeps (execImad w s) s := by
  unfold execImad
  exact State.lane3_keeps

theorem execImin_keeps {s : State} {w : LR} : Result.Keeps (execImin w s) s := by
  unfold execImin
  exact State.lane2_keeps

theorem execImax_keeps {s : State} {w : LR} : Result.Keeps (execImax w s) s := by
  unfold execImax
  exact State.lane2_keeps

theorem execNmin_keeps {s : State} {w : LR} : Result.Keeps (execNmin w s) s := by
  unfold execNmin
  exact State.lane2_keeps

theorem execNmax_keeps {s : State} {w : LR} : Result.Keeps (execNmax w s) s := by
  unfold execNmax
  exact State.lane2_keeps

theorem execLand_keeps {s : State} {w : LR} : Result.Keeps (execLand w s) s := by
  unfold execLand
  exact State.lane2_keeps

theorem execLor_keeps {s : State} {w : LR} : Result.Keeps (execLor w s) s := by
  unfold execLor
  exact State.lane2_keeps

theorem execLxor_keeps {s : State} {w : LR} : Result.Keeps (execLxor w s) s := by
  unfold execLxor
  exact State.lane2_keeps

theorem execLandn_keeps {s : State} {w : LR} : Result.Keeps (execLandn w s) s := by
  unfold execLandn
  exact State.lane2_keeps

theorem execShl_keeps {s : State} {w : LR} : Result.Keeps (execShl w s) s := by
  unfold execShl
  exact State.lane2_keeps

theorem execShr_keeps {s : State} {w : LR} : Result.Keeps (execShr w s) s := by
  unfold execShr
  exact State.lane2_keeps

theorem execSar_keeps {s : State} {w : LR} : Result.Keeps (execSar w s) s := by
  unfold execSar
  exact State.lane2_keeps

theorem execRol_keeps {s : State} {w : LR} : Result.Keeps (execRol w s) s := by
  unfold execRol
  exact State.lane2_keeps

theorem execBfe_keeps {s : State} {w : LR} : Result.Keeps (execBfe w s) s := by
  unfold execBfe
  exact State.lane2_keeps

theorem execBfi_keeps {s : State} {w : LR} : Result.Keeps (execBfi w s) s := by
  unfold execBfi
  exact State.lane3_keeps

theorem execPopc_keeps {s : State} {w : LR} : Result.Keeps (execPopc w s) s := by
  unfold execPopc
  exact State.lane1_keeps

theorem execClz_keeps {s : State} {w : LR} : Result.Keeps (execClz w s) s := by
  unfold execClz
  exact State.lane1_keeps

theorem execBrev_keeps {s : State} {w : LR} : Result.Keeps (execBrev w s) s := by
  unfold execBrev
  exact State.lane1_keeps

theorem execIabs_keeps {s : State} {w : LR} : Result.Keeps (execIabs w s) s := by
  unfold execIabs
  exact State.lane1_keeps

theorem execIcmp_keeps {s : State} {w : LR} : Result.Keeps (execIcmp w s) s := by
  unfold execIcmp
  exact State.laneCmp_keeps

theorem execNcmp_keeps {s : State} {w : LR} : Result.Keeps (execNcmp w s) s := by
  unfold execNcmp
  exact State.laneCmp_keeps

theorem execSel_keeps {s : State} {w : LR} : Result.Keeps (execSel w s) s := by
  unfold execSel
  exact State.laneWord_keeps

theorem execMov_keeps {s : State} {w : LR} : Result.Keeps (execMov w s) s := by
  unfold execMov
  exact State.lane1_keeps

theorem execIadd64_keeps {s : State} {w : LR} : Result.Keeps (execIadd64 w s) s := by
  unfold execIadd64
  exact State.lanePair_keeps

theorem execIsub64_keeps {s : State} {w : LR} : Result.Keeps (execIsub64 w s) s := by
  unfold execIsub64
  exact State.lanePair_keeps

theorem execLea_keeps {s : State} {w : LR} : Result.Keeps (execLea w s) s := by
  unfold execLea
  exact State.lanePair_keeps

theorem execPlog_keeps {s : State} {w : LR} : Result.Keeps (execPlog w s) s := by
  unfold execPlog
  exact State.lanePred_keeps

theorem execPtov_keeps {s : State} {w : LR} : Result.Keeps (execPtov w s) s := by
  unfold execPtov
  exact State.laneWord_keeps

theorem execSrd_keeps {s : State} {w : LR} : Result.Keeps (execSrd w s) s := by
  unfold execSrd
  exact State.laneRun_keeps fun _ hs => State.advance_wf (State.onMe_wf hs)

theorem execIaddi_keeps {s : State} {w : LI} : Result.Keeps (execIaddi w s) s := by
  unfold execIaddi
  exact State.laneImm_keeps

theorem execAndi_keeps {s : State} {w : LI} : Result.Keeps (execAndi w s) s := by
  unfold execAndi
  exact State.laneImm_keeps

theorem execOri_keeps {s : State} {w : LI} : Result.Keeps (execOri w s) s := by
  unfold execOri
  exact State.laneImm_keeps

theorem execXori_keeps {s : State} {w : LI} : Result.Keeps (execXori w s) s := by
  unfold execXori
  exact State.laneImm_keeps

theorem execShi_keeps {s : State} {w : LJ} : Result.Keeps (execShi w s) s := by
  unfold execShi
  exact State.laneWord_keeps

theorem execIcmpi_keeps {s : State} {w : LI} : Result.Keeps (execIcmpi w s) s := by
  unfold execIcmpi
  exact State.lanePred_keeps

theorem execMovi_keeps {s : State} {w : LI} : Result.Keeps (execMovi w s) s := by
  unfold execMovi
  exact State.laneWord_keeps

/-! DEFINITION. Uniform arithmetic and the group-mask queries (R291 to R296, R303). -/

theorem execKadd_keeps {s : State} {w : UR} : Result.Keeps (execKadd w s) s := by
  unfold execKadd
  exact State.uni2_keeps

theorem execKsub_keeps {s : State} {w : UR} : Result.Keeps (execKsub w s) s := by
  unfold execKsub
  exact State.uni2_keeps

theorem execKmul_keeps {s : State} {w : UR} : Result.Keeps (execKmul w s) s := by
  unfold execKmul
  exact State.uni2_keeps

theorem execKand_keeps {s : State} {w : UR} : Result.Keeps (execKand w s) s := by
  unfold execKand
  exact State.uni2_keeps

theorem execKor_keeps {s : State} {w : UR} : Result.Keeps (execKor w s) s := by
  unfold execKor
  exact State.uni2_keeps

theorem execKxor_keeps {s : State} {w : UR} : Result.Keeps (execKxor w s) s := by
  unfold execKxor
  exact State.uni2_keeps

theorem execKmulh_keeps {s : State} {w : UR} : Result.Keeps (execKmulh w s) s := by
  unfold execKmulh
  exact State.uni2_keeps

theorem execKmin_keeps {s : State} {w : UR} : Result.Keeps (execKmin w s) s := by
  unfold execKmin
  exact State.uni2_keeps

theorem execKmax_keeps {s : State} {w : UR} : Result.Keeps (execKmax w s) s := by
  unfold execKmax
  exact State.uni2_keeps

theorem execKshl_keeps {s : State} {w : UR} : Result.Keeps (execKshl w s) s := by
  unfold execKshl
  exact State.uni2_keeps

theorem execKshr_keeps {s : State} {w : UR} : Result.Keeps (execKshr w s) s := by
  unfold execKshr
  exact State.uni2_keeps

theorem execKsar_keeps {s : State} {w : UR} : Result.Keeps (execKsar w s) s := by
  unfold execKsar
  exact State.uni2_keeps

theorem execKcmp_keeps {s : State} {w : UR} : Result.Keeps (execKcmp w s) s := by
  unfold execKcmp
  exact State.uniCalc_keeps

theorem execKsel_keeps {s : State} {w : UR} : Result.Keeps (execKsel w s) s := by
  unfold execKsel
  exact next_keeps fun hs => ite_wf (State.takeTrap_wf hs) (State.advance_wf (State.onMe_wf hs))

theorem execKmov_keeps {s : State} {w : UR} : Result.Keeps (execKmov w s) s := by
  unfold execKmov
  exact State.uniCalc_keeps

theorem State.uniPair_keeps {s : State} {k : Option Kx} {d : Nat} {srcs : List (Nat × Nat)} {f : Group → Dword} :
    Result.Keeps (s.uniPair k d srcs f) s := by
  unfold State.uniPair
  exact State.uniRun_keeps fun hs => State.advance_wf (State.onMe_wf (State.clearK_wf hs))

theorem execKadd64_keeps {s : State} {w : UR} : Result.Keeps (execKadd64 w s) s := by
  unfold execKadd64
  exact State.uniPair_keeps

theorem execKlea_keeps {s : State} {w : UR} : Result.Keeps (execKlea w s) s := by
  unfold execKlea
  exact State.uniPair_keeps

theorem State.uniImm_keeps {s : State} {w : UI} {sign : Bool} {f : Word → Word → Word} : Result.Keeps (s.uniImm w sign f) s := by
  unfold State.uniImm
  exact State.uniCalc_keeps

theorem execKaddi_keeps {s : State} {w : UI} : Result.Keeps (execKaddi w s) s := by
  unfold execKaddi
  exact State.uniImm_keeps

theorem execKandi_keeps {s : State} {w : UI} : Result.Keeps (execKandi w s) s := by
  unfold execKandi
  exact State.uniImm_keeps

theorem execKori_keeps {s : State} {w : UI} : Result.Keeps (execKori w s) s := by
  unfold execKori
  exact State.uniImm_keeps

theorem execKmovi_keeps {s : State} {w : UI} : Result.Keeps (execKmovi w s) s := by
  unfold execKmovi
  exact State.uniCalc_keeps

theorem execKlui_keeps {s : State} {w : UI} : Result.Keeps (execKlui w s) s := by
  unfold execKlui
  exact State.uniCalc_keeps

theorem execKbal_keeps {s : State} {w : UF} : Result.Keeps (execKbal w s) s := by
  unfold execKbal
  exact State.uniCalc_keeps

theorem execKfirst_keeps {s : State} {w : UF} : Result.Keeps (execKfirst w s) s := by
  unfold execKfirst
  exact State.uniCalc_keeps

theorem execKact_keeps {s : State} {w : UF} : Result.Keeps (execKact w s) s := by
  unfold execKact
  exact State.uniCalc_keeps

/-! DEFINITION. One arm per instruction: the direct call of its meaning. -/

theorem exec_keeps {s : State} {i : Instr} : Result.Keeps (exec i s) s := by
  unfold exec
  split
  exacts [execIadd_keeps, execIsub_keeps, execIadds_keeps, execIsubs_keeps, execImul_keeps, execImulh_keeps,
      execImulhn_keeps, execImulw_keeps, execImad_keeps, execImin_keeps, execImax_keeps, execNmin_keeps,
      execNmax_keeps, execLand_keeps, execLor_keeps, execLxor_keeps, execLandn_keeps, execShl_keeps, execShr_keeps,
      execSar_keeps, execRol_keeps, execBfe_keeps, execBfi_keeps, execPopc_keeps, execClz_keeps, execBrev_keeps,
      execIabs_keeps, execIcmp_keeps, execNcmp_keeps, execSel_keeps, execMov_keeps, execIadd64_keeps, execIsub64_keeps,
      execLea_keeps, execFadd_keeps, execFsub_keeps, execFmul_keeps, execFfma_keeps, execFmin_keeps, execFmax_keeps,
      execFcmp_keeps, execFcmpn_keeps, execFrcp_keeps, execFsqrt_keeps, execFrsq_keeps, execFexp2_keeps,
      execFlog2_keeps, execFdiv_keeps, execFfrc_keeps, execFrnd_keeps, execHadd2_keeps, execHmul2_keeps,
      execHfma2_keeps, execHmax2_keeps, execHmin2_keeps, execCvt_keeps, execCvtp_keeps, execCvtu_keeps, execFsmx_keeps,
      execDot4_keeps, execDot8_keeps, execDotf4_keeps, execDotf8_keeps, execShfl_keeps, execShflx_keeps,
      execShflu_keeps, execShfld_keeps, execGthr_keeps, execSctr_keeps, execPoll_keeps, execMatchEq_keeps,
      execRedx_keeps, execScanx_keeps, execTopk_keeps, execTopkm_keeps, execPlog_keeps, execPtov_keeps, execSrd_keeps,
      execIaddi_keeps, execAndi_keeps, execOri_keeps, execXori_keeps, execShi_keeps, execIcmpi_keeps, execMovi_keeps,
      execLdg_keeps, execStg_keeps, execLds_keeps, execSts_keeps, execLdp_keeps, execStp_keeps, execAtomg_keeps,
      execAtoms_keeps, execKvx_keeps, execKvxNf_keeps, execRebinB_keeps, execRebinS_keeps, execSpawn_keeps,
      execAwait_keeps, execExit_keeps, execFread_keeps, execFfill_keeps, execAcld_keeps, execAcst_keeps,
      execKadd_keeps, execKsub_keeps, execKmul_keeps, execKmulh_keeps, execKand_keeps, execKor_keeps, execKxor_keeps,
      execKshl_keeps, execKshr_keeps, execKsar_keeps, execKmin_keeps, execKmax_keeps, execKcmp_keeps, execKsel_keeps,
      execKmov_keeps, execKadd64_keeps, execKlea_keeps, execKaddi_keeps, execKmovi_keeps, execKlui_keeps,
      execKandi_keeps, execKori_keeps, execBra_keeps, execCall_keeps, execBrd_keeps, execSyn_keeps, execJoin_keeps,
      execRet_keeps, execJmpr_keeps, execCallr_keeps, execKld_keeps, execKst_keeps, execKlds_keeps, execKsts_keeps,
      execKatom_keeps, execCpy_keeps, execCpym_keeps, execQfen_keeps, execMres_keeps, execMrel_keeps, execMma_keeps,
      execMfen_keeps, execMwait_keeps, execTwm_keeps, execTstat_keeps, execTclr_keeps, execKvld_keeps, execKvst_keeps,
      execKvinv_keeps, execMrg_keeps, execRfen_keeps, execBara_keeps, execBarw_keeps, execBars_keeps,
      execSlotaFree_keeps, execSlotaFull_keeps, execSlotrFull_keeps, execSlotrFree_keeps, execSlotrInit_keeps,
      execWaita_keeps, execGlnch_keeps, execGwait_keeps, execPhend_keeps, execNop_keeps, execYield_keeps,
      execPref_keeps, execTail_keeps, execExitg_keeps, execClk_keeps, execTrap_keeps, execBrkp_keeps, execCsrr_keeps,
      execCsrw_keeps, execHsig_keeps, execHflush_keeps, execKbal_keeps, execKfirst_keeps, execKact_keeps,
      execIllegalOpcode_keeps, execMemoryAccessReturn_keeps, execIcacheLineFill_keeps, execBlockPlacement_keeps,
      execBlockRetirement_keeps, execGridCompletion_keeps, execArmSlotWrite_keeps, execRetirementTrackerDrain_keeps,
      execAllParkedDetect_keeps, execRebuiltGroupAdmission_keeps, execTaskBinTimeout_keeps,
      execTaskGroupPlacement_keeps, execChimneySweep_keeps, execFuturePoll_keeps, execWaitaDeadline_keeps,
      execOperationBufferAdmit_keeps, execOperationStart_keeps, execOperationCompletion_keeps,
      execOperationFault_keeps, execOperationAbort_keeps, execMmaStart_keeps, execMmaWriteback_keeps,
      execCornerTurnTimeout_keeps, execPtsyncWrite_keeps, execPtsyncCompletion_keeps, execPpheadWrite_keeps,
      execCoalWrite_keeps, execCoalescerTick_keeps, execPeerresWrite_keeps, execPeerInboundWrite_keeps,
      execGangMessage_keeps, execPriResponse_keeps, execReplay_keeps, execResume_keeps, execTeardown_keeps,
      execTrapQueueRetry_keeps, execFatalvClear_keeps, execSliceExpiry_keeps, execPriorityWaitExpiry_keeps,
      execGangLate_keeps, execWatchdog_keeps, execPowerOnReset_keeps, execFirmwareReady_keeps,
      execAttestationReportReady_keeps, execDebugTokenVerdict_keeps, execPowerTransitionComplete_keeps,
      execStationIdleP2_keeps, execSoftErrorCorrected_keeps, execSoftErrorUncorrectable_keeps,
      execLatchParityError_keeps, execPowerOverCap_keeps, execDutyStepTick_keeps, execTempOverCap_keeps,
      execThermalStop_keeps, execRecoveryVerdict_keeps, execThermalStopEnd_keeps, execTempCapEnd_keeps,
      execPowerCapEnd_keeps, execHostWindowWrite_keeps, execHostWindowRead_keeps, execHostApertureWrite_keeps,
      execHostApertureRead_keeps, execRecgoWrite_keeps, execMextWrite_keeps, execAttctlWrite_keeps,
      execDbgctlWrite_keeps, execDbglvlWrite_keeps, execHaltWrite_keeps, execReleaseWrite_keeps,
      execDebugWindowWrite_keeps, execClkselWrite_keeps, execStnpwrWrite_keeps, execDiepwrWrite_keeps,
      execD3hotEntry_keeps, execD0Return_keeps, execPowerRemoval_keeps, execDenyprodRead_keeps,
      execNumaggClrWrite_keeps, execEccHoldWrite_keeps, execPcapWrite_keeps, execTcapWrite_keeps,
      execI3cPrivateRead_keeps, execI3cPrivateWrite_keeps, execRegisterWrite_keeps, execPeerLinkTraining_keeps,
      execDynamicAddressAssignment_keeps]

/-! DEFINITION. Taking a turn: an event, a pipe's next issue, a parked group's test; and the stop at an address that does not exist. -/

theorem State.rejoin_wf {s : State} (hs : s.memoriesWf) : s.rejoin.memoriesWf := by
  unfold State.rejoin
  split
  · exact ite_wf hs (ite_wf (State.onMe_wf hs) (State.onMe_wf (State.trace_wf hs)))
  · exact hs

theorem State.issuing_wf {s : State} (hs : s.memoriesWf) {i : Instr} : (s.issuing i).memoriesWf := by
  unfold State.issuing
  exact State.onMe_wf hs

theorem State.fetchWord_wf {s t : State} (hs : s.memoriesWf) {va : Nat} (ht : s.fetchWord va = .stop t) : t.memoriesWf := by
  unfold State.fetchWord at ht
  split at ht
  · cases ht
    exact State.fetchMiss_wf hs
  split at ht
  · cases ht
    exact State.fetchFault_wf hs
  split at ht
  · cases ht
  · cases ht
  · cases ht
  · cases ht
    exact State.fetchFault_wf hs

theorem State.fetchInstr_wf {s t : State} (hs : s.memoriesWf) {fuel : Nat} {ws : List Word}
    (ht : s.fetchInstr fuel ws = .stop t) : t.memoriesWf := by
  induction fuel generalizing ws with
  | zero => cases ht
  | succ fuel ih =>
    unfold State.fetchInstr at ht
    split at ht
    next hw =>
      cases ht
      exact State.fetchWord_wf hs hw
    next =>
      split at ht
      · split at ht
        · cases ht
        · cases ht
      · exact ih ht
      · cases ht
      · cases ht

theorem issue_keeps {s : State} : Result.Keeps (issue s) s := by
  unfold issue
  split
  next ht => exact next_keeps fun hs => State.fetchInstr_wf hs ht
  next => exact exec_keeps
  next => exact ite_keeps (next_keeps fun hs => State.parkMe_wf hs) (exec_keeps.of fun hs => State.issuing_wf (State.rejoin_wf hs))

theorem retest_keeps {s : State} : Result.Keeps (retest s) s := by
  unfold retest
  split
  · exact next_keeps id
  · exact next_keeps fun hs => ite_wf hs (State.onMe_wf hs)
  · split
    · exact exec_keeps
    · exact next_keeps id

theorem State.tested_wf {s u : State} (hu : u.memoriesWf) {uid ready : Nat} : (s.tested u uid ready).memoriesWf := by
  unfold State.tested
  extract_lets t
  have ht : t.memoriesWf := ite_wf hu hu
  exact ite_wf ht ht

theorem testGroup_keeps {s : State} {uid : Nat} : Result.Keeps (testGroup s uid) s := by
  unfold testGroup
  extract_lets +onlyGivenNames w
  obtain ⟨u, hu, hwf⟩ := retest_keeps (s := w.1.retryOf uid)
  have hw (hs : s.memoriesWf) : w.1.memoriesWf := by
    dsimp only [w]
    split
    · exact State.wakeStation_wf hs
    · exact hs
  rw [hu]
  exact next_keeps fun hs => State.tested_wf (hwf (State.retryOf_wf (hw hs)))

theorem pipeTurn_keeps {s : State} {c p : Nat} : Result.Keeps (pipeTurn s c p) s := by
  unfold pipeTurn
  split
  · exact next_keeps id
  · exact ite_keeps (issue_keeps.of fun hs => same (State.select_wf hs)) (next_keeps fun hs => State.onGroup_wf (State.wakeStation_wf hs))

theorem takeTurn_keeps {s : State} {t : Turn} : Result.Keeps (takeTurn s t) s := by
  unfold takeTurn
  split
  · split
    · exact testGroup_keeps
    · exact exec_keeps
  · exact pipeTurn_keeps
  · exact ite_keeps testGroup_keeps (next_keeps id)
  · exact next_keeps fun hs => State.arrayStep_wf hs
  · exact next_keeps fun hs => State.hostAct_wf hs

theorem State.forTurn_wf {s : State} (hs : s.memoriesWf) {t : Turn} : (s.forTurn t).memoriesWf := by
  unfold State.forTurn
  exact ite_wf (State.wakeDies_wf hs) hs

/-! DEFINITION. One step of the machine: the next turn of the agenda, or the turn the machine takes when none is set. -/

/-- What is checked for memory that does not exist is the state itself. -/
theorem checkHole_eq_next {r : Result} {t : State} (h : checkHole r = .next t) : r = .next t := by
  unfold checkHole at h
  split at h
  · split at h
    · cases h
    · exact h
  · exact h

theorem Result.Keeps.wf {r : Result} {s t : State} (hr : Result.Keeps r s) (h : r = .next t) (hs : s.memoriesWf) : t.memoriesWf := by
  obtain ⟨u, hu, hwf⟩ := hr
  cases hu.symm.trans h
  exact hwf hs

/-- Settles O56: every function of the model keeps the canonical form, and a step is one of them. -/
theorem memoryStaysCanonical : Obligations.MemoryStaysCanonical := by
  unfold Obligations.MemoryStaysCanonical
  intro s t hs hstep
  unfold step at hstep
  split at hstep
  next turn r _ =>
    have hr : State.memoriesWf { s with agenda := r } := hs
    exact takeTurn_keeps.wf (checkHole_eq_next hstep) (State.forTurn_wf hr)
  next => exact takeTurn_keeps.wf (checkHole_eq_next hstep) (State.forTurn_wf (State.atNextTurn_wf hs))

end Sys2Proof.Machine
end
